-- ==== Sys2Proof/Word.lean ====
section
/-! DEFINITION. The word types of the GSN-8640 model: bytes, 32-bit and 64-bit words (00_scope.md, R8). -/
namespace Sys2Proof

/-- A byte of memory. -/
abbrev Byte := BitVec 8

/-- A 32-bit word: a vector lane, an accumulator element, a 32-bit register. -/
abbrev Word := BitVec 32

/-- A 64-bit word: a scalar register, a 64-bit register of BAR0, an instruction word. -/
abbrev DWord := BitVec 64

end Sys2Proof
end

