-- ==== Sys2Proof/Syntax.lean ====
section
/-! DEFINITION. The commands of the block: one constructor per row of spec/opcode_table.json, with the row's operands.
A tensor-core instruction command names the core that executes the instruction word at its program counter; a ferry op
command names the ferry whose current op it is; a host command names the function it comes from. -/
namespace Sys2Proof

/-- A tensor core, 0 to 63 (R14). -/
abbrev CoreId := Fin 64
/-- An island, 0 to 7 (R14). -/
abbrev IslandId := Fin 8
/-- A ferry, 0 to 159 (R14). -/
abbrev FerryId := Fin 160
/-- A queue (R347). -/
abbrev QueueId := Fin 16384
/-- A sync object (R360). -/
abbrev SyncId := Fin 16384
/-- A context (R364). -/
abbrev CtxId := Fin 256
/-- A partition (R362). -/
abbrev PartId := Fin 8

/-- The function an access comes from: the physical function, a virtual function, or another device's proxy
(R476, R469). -/
inductive Fn where
  | pf
  | vf (k : PartId)
  | proxy
  deriving DecidableEq, Repr

/-- A unit with a handshake watchdog (R42): a core, a core's ferry, a harbour, a bulk ferry. -/
inductive WatchUnit where
  | core (c : CoreId)
  | ferry (f : FerryId)
  | harbour (n : IslandId)
  deriving DecidableEq, Repr

/-- An agent whose tag-checked access waits (R204, R234). -/
inductive TagAgent where
  | core (c : CoreId)
  | ferry (f : FerryId)
  deriving DecidableEq, Repr

/-- A checker that failed error injection (R518, R519): the unit kind and number and the class of Table 18.4 (of a shared
checker the unit number alone), and whether it reported without an injected fault. -/
structure CheckerFail where
  kind : Nat
  unit : Nat
  cls : Nat
  spurious : Bool
  deriving DecidableEq, Repr

/-- Who writes a window or a register of the shore (Table 13.7, R446, R576): the host, through a function, the scheduler
firmware, an island control core, the Lighthouse. -/
inductive Who where
  | host (fn : Fn)
  | sch
  | icc
  | lhs
  deriving DecidableEq, Repr

/-- A CAN frame (R422): identifier in 29 bits, an 11-bit one in bits [28:18], format bits, DLC, payload. -/
structure CanFrame where
  id : Nat
  ide : Bool
  fdf : Bool
  brs : Bool
  esi : Bool
  dlc : Nat
  data : List Byte
  deriving DecidableEq, Repr

/-- A lost arbitration or a bus error (R437): arbitration lost, the code of LEC, in the data phase or not, whether the
standard excepts it from the plain count of its kind, how many further counts of 8 it adds, and the loop delay where it was
measured before the error (R427). -/
structure CanErr where
  lost : Bool
  code : Fin 8
  dataPhase : Bool
  exempt : Bool
  more : Nat
  delay : Option Nat
  deriving DecidableEq, Repr

/-- A causeway packet (Table 15.5), its type apart; `mine` says whether its frame is addressed to the port. -/
structure CwPkt where
  mine : Bool
  prio : Nat
  system : Nat
  src : Nat
  dst : Nat
  sport : Nat
  psn : Nat
  sch : Nat
  dch : Nat
  slot : Nat
  offset : Nat
  arg : Nat
  arg2 : Nat
  data : List Byte
  deriving DecidableEq, Repr

/-- A command of the block. -/
inductive Instr where

  /-- REGISTER_WRITE (R10): A write to a register field that has no row of its own sets, clears or ignores the field by its access code. -/
  | registerWrite (w : Who) (off width : Nat) (val : DWord)
  /-- RC_READ (R12): A read of a read-to-clear field returns its value and clears it, keeping any event set in the same cycle. -/
  | rcRead (w : Who) (off width : Nat)
  /-- DOORBELL (R349): A 32-bit write to a queue's BAR2 doorbell sets TAIL unless the ring would overflow. -/
  | doorbell (fn : Fn) (off width : Nat) (val : Word)
  /-- BAR4_ACCESS (R479): A BAR4 read or write reaches the untranslated device physical address, filtered for VFs, with encryption and ECC rules applied. -/
  | bar4Access (fn : Fn) (wr : Bool) (addr len : Nat) (data : List Byte)
  /-- HANDSHAKE_WATCHDOG_EXPIRY (R42): A stage group's handshake waits 100 µs outside an architectural wait; the command ends with CHECKER_FAULT and the unit is quarantined. -/
  | handshakeWatchdogExpiry (u : WatchUnit) (group : Nat)
  /-- FLOOR_SAMPLE (R45): Every 10 µs each island's replica rate and VDD_ISL are sampled against FLOOR_RATE and FLOOR_MV, updating BELOW_NOW. -/
  | floorSample (n : IslandId) (rate mv : Nat)
  /-- BEAT_WINDOW_END (R46): At the end of each monitor window PWR_BEAT_ISLn is updated with the window's lowest voltage, lowest replica rate and beat count. -/
  | beatWindowEnd (n : IslandId) (beats : Word)
  /-- POWER_LIMIT_CONTROL (R47): The PMC moves VDD_ISL in 5 mV steps to keep package power within the limit. -/
  | powerLimitControl (deciwatts : Nat)
  /-- THROTTLE_TICK (R48): Each 1 ms of throttling moves the core budget by 4, rotates the withheld cores and ends throttling when the budget is restored. -/
  | throttleTick (deciwatts : Nat)
  /-- NOP (R121): The NOP instruction does nothing for one beat. -/
  | nop (c : CoreId)
  /-- MOVI (R126): MOVI writes the immediate or second word to a scalar register. -/
  | movi (c : CoreId)
  /-- MOV (R125): MOV copies between the register kinds of Table 5.4, including clearing ASTAT bits. -/
  | mov (c : CoreId)
  /-- TDSET (R127): TDSET writes both words of a tile descriptor from two scalars unchecked. -/
  | tdset (c : CoreId)
  /-- ADD (R123): ADD writes the sum of two scalars modulo 2^64. -/
  | add (c : CoreId)
  /-- SUB (R123): SUB writes the difference of two scalars modulo 2^64. -/
  | sub (c : CoreId)
  /-- MUL (R123): MUL writes the product of two scalars modulo 2^64. -/
  | mul (c : CoreId)
  /-- DIV (R123): DIV writes the signed truncated quotient, with defined results for zero and overflow. -/
  | div (c : CoreId)
  /-- REM (R123): REM writes the signed remainder, with defined results for zero and overflow. -/
  | rem (c : CoreId)
  /-- AND (R123): AND writes the bitwise and of two scalars. -/
  | andS (c : CoreId)
  /-- OR (R123): OR writes the bitwise or of two scalars. -/
  | orS (c : CoreId)
  /-- XOR (R123): XOR writes the bitwise exclusive or of two scalars. -/
  | xorS (c : CoreId)
  /-- SHL (R123): SHL shifts a scalar left with zero fill. -/
  | shl (c : CoreId)
  /-- SHR (R123): SHR shifts a scalar right with zero fill. -/
  | shr (c : CoreId)
  /-- SRA (R123): SRA shifts a scalar right with sign fill. -/
  | sra (c : CoreId)
  /-- MIN (R123): MIN writes the lesser of two scalars, signed or unsigned. -/
  | min (c : CoreId)
  /-- MAX (R123): MAX writes the greater of two scalars, signed or unsigned. -/
  | max (c : CoreId)
  /-- CMP (R124): CMP sets a predicate from a relation between two scalars. -/
  | cmp (c : CoreId)
  /-- CMPI (R124): CMPI sets a predicate from a relation between a scalar and an immediate. -/
  | cmpi (c : CoreId)
  /-- PLOG (R124): PLOG writes a logical combination of predicates. -/
  | plog (c : CoreId)
  /-- TDGET (R127): TDGET copies one descriptor word to a scalar. -/
  | tdget (c : CoreId)
  /-- TDADD (R128): TDADD copies a descriptor with BASE advanced by an offset. -/
  | tdadd (c : CoreId)
  /-- TDFLD (R129): TDFLD replaces one field of a descriptor from a scalar. -/
  | tdfld (c : CoreId)
  /-- LD (R130): LD reads 1 to 8 bytes from the harbour or the lagoon into a scalar, tag-checked unless .U. -/
  | ld (c : CoreId)
  /-- ST (R130): ST writes 1 to 8 bytes of a scalar to the harbour or the lagoon, tag-checked unless .U. -/
  | st (c : CoreId)
  /-- BR (R132): BR branches PC-relative, conditionally through its predicate. -/
  | br (c : CoreId)
  /-- JAL (R132): JAL writes the return address and branches. -/
  | jal (c : CoreId)
  /-- JR (R132): JR jumps to the address in a scalar. -/
  | jr (c : CoreId)
  /-- DBNZ (R132): DBNZ decrements a scalar and branches while it is not zero. -/
  | dbnz (c : CoreId)
  /-- END (R133): END waits for earlier instructions and the slice's ferry streams, then ends the slice and releases its banks. -/
  | endSlice (c : CoreId)
  /-- MMA (R136): MMA accumulates a tile matrix product into accumulator rows of one or more banks. -/
  | mma (c : CoreId)
  /-- MMAZ (R136): MMAZ zeroes the target rows with their row sums and counts, then accumulates a matrix product. -/
  | mmaz (c : CoreId)
  /-- MMAT (R138): MMAT accumulates a matrix product whose stationary operand holds K along its rows. -/
  | mmat (c : CoreId)
  /-- ZPC (R141): ZPC applies the zero-point correction to accumulator rows in place. -/
  | zpc (c : CoreId)
  /-- EPI (R141): EPI corrects, scales, biases, activates and adds residual to accumulator rows and stores them narrowed to a tile. -/
  | epi (c : CoreId)
  /-- VLD (R147): VLD loads one lagoon row or column access into a vector register, converting to FP32. -/
  | vld (c : CoreId)
  /-- VST (R147): VST narrows a vector register and stores it as one lagoon row or column access. -/
  | vst (c : CoreId)
  /-- VLDA (R150): VLDA reads accumulator rows or a column into a vector register. -/
  | vlda (c : CoreId)
  /-- VSTA (R150): VSTA writes a vector register into accumulator rows or a column and makes the bank live. -/
  | vsta (c : CoreId)
  /-- VSPLAT (R151): VSPLAT writes a scalar to every lane. -/
  | vsplat (c : CoreId)
  /-- VEXT (R151): VEXT copies one lane to a scalar. -/
  | vext (c : CoreId)
  /-- VINS (R151): VINS writes a scalar into one lane. -/
  | vins (c : CoreId)
  /-- VIOTA (R151): VIOTA writes each lane's index as INT32 or FP32. -/
  | viota (c : CoreId)
  /-- VADD (R152): VADD adds lanes with correct rounding. -/
  | vadd (c : CoreId)
  /-- VSUB (R152): VSUB subtracts lanes with correct rounding. -/
  | vsub (c : CoreId)
  /-- VMUL (R152): VMUL multiplies lanes with correct rounding. -/
  | vmul (c : CoreId)
  /-- VFMA (R152): VFMA performs a fused multiply-add into the destination lanes. -/
  | vfma (c : CoreId)
  /-- VMIN (R152): VMIN writes lane-wise minima. -/
  | vmin (c : CoreId)
  /-- VMAX (R152): VMAX writes lane-wise maxima. -/
  | vmax (c : CoreId)
  /-- VDIV (R152): VDIV divides lanes with correct rounding. -/
  | vdiv (c : CoreId)
  /-- VSQRT (R152): VSQRT writes lane-wise square roots. -/
  | vsqrt (c : CoreId)
  /-- VCMP (R153): VCMP writes an all-ones or zero mask per lane from an IEEE comparison. -/
  | vcmp (c : CoreId)
  /-- VSEL (R154): VSEL selects lanes from two sources under the destination's old mask. -/
  | vsel (c : CoreId)
  /-- VLOGIC (R154): VLOGIC combines lane bit patterns bitwise. -/
  | vlogic (c : CoreId)
  /-- VSGN (R154): VSGN clears, inverts or copies lane signs. -/
  | vsgn (c : CoreId)
  /-- VCVTI (R155): VCVTI converts lanes to INT32 with saturation. -/
  | vcvti (c : CoreId)
  /-- VCVTF (R155): VCVTF converts INT32 lanes to FP32. -/
  | vcvtf (c : CoreId)
  /-- VFN (R156): VFN applies one special function of Table 3.7 to every lane. -/
  | vfn (c : CoreId)
  /-- VSHUF (R157): VSHUF gathers lanes from two tables by index lanes. -/
  | vshuf (c : CoreId)
  /-- VPERM (R158): VPERM rearranges lanes by a fixed pattern. -/
  | vperm (c : CoreId)
  /-- VRED (R159): VRED reduces 128 lanes to a scalar by a fixed tree or by max, min or arg. -/
  | vred (c : CoreId)
  /-- TAG_WAIT_RESUME (R205): A waiting tag-checked access is granted in the first beat in which all its berths satisfy it. -/
  | tagWaitResume (a : TagAgent)
  /-- RINGDEF (R167): RINGDEF defines a ring handle, sets its berths EMPTY and resets its pointers. -/
  | ringdef (c : CoreId)
  /-- RINGFREE (R167): RINGFREE undefines a ring handle, leaving tags unchanged. -/
  | ringfree (c : CoreId)
  /-- RACQ (R168): RACQ acquires the next FULL slot of a ring, waiting if none. -/
  | racq (c : CoreId)
  /-- RELEASE (R169): RELEASE sets the oldest acquired slot EMPTY and advances the tail. -/
  | releaseSlot (c : CoreId)
  /-- RRSV (R168): RRSV reserves the next EMPTY slot of a ring, waiting if none. -/
  | rrsv (c : CoreId)
  /-- RCOMMIT (R169): RCOMMIT sets the oldest reserved slot FULL and advances the head. -/
  | rcommit (c : CoreId)
  /-- RING_SLOT_READY (R168): A waiting RACQ or RRSV completes when its slot reaches the state it needs. -/
  | ringSlotReady (c : CoreId)
  /-- TAGSET (R170): TAGSET sets a range of berth tags FULL or EMPTY. -/
  | tagset (c : CoreId)
  /-- FBIND (R171): FBIND binds a ferry handle to the core's or island's ferry, waiting for a bulk ferry held elsewhere. -/
  | fbind (c : CoreId)
  /-- FRUN (R172): FRUN starts a stream program on a bound ferry, waiting until its previous stream ends. -/
  | frun (c : CoreId)
  /-- FWAIT (R173): FWAIT waits for the ferry's latest stream to reach END and returns its byte count. -/
  | fwait (c : CoreId)
  /-- FFREE (R171): FFREE waits for the ferry's open stream to end and unbinds the handle. -/
  | ffree (c : CoreId)
  /-- HAADD (R174): HAADD adds a value atomically to a harbour word, as integer or FP32. -/
  | haadd (c : CoreId)
  /-- SIGNAL (R176): SIGNAL adds to or raises a sync object's counter after earlier instructions complete. -/
  | signal (c : CoreId)
  /-- WAIT (R177): WAIT holds the slice until a sync object's counter reaches a threshold. -/
  | wait (c : CoreId)
  /-- SYNC_WAIT_RELEASE (R177): A slice held by WAIT continues once the counter reaches the threshold. -/
  | syncWaitRelease (c : CoreId)
  /-- BARRIER (R179): BARRIER holds a gang slice until every slice has executed as many barriers with that ID. -/
  | barrier (c : CoreId)
  /-- BARRIER_RELEASE (R179): The last slice to reach a barrier releases every slice waiting at it. -/
  | barrierRelease (q : QueueId) (id : Fin 16)
  /-- REDUCE (R181): REDUCE sums the group's partial accumulator rows into the holder's banks in ascending or arrival order. -/
  | reduce (c : CoreId)
  /-- REDUCE_PARTIAL_ARRIVAL (R182): A contributor's partial reaching the holder is added into the sum, completing the contributor's REDUCE. -/
  | reducePartialArrival (c : CoreId) (k : Fin 64)
  /-- ATB (R297): ATB performs one online-softmax attention block step for query rows against a 64-token KV block. -/
  | atb (c : CoreId)
  /-- KVAPPEND (R187): KVAPPEND posts a request to append 1 to 64 tokens to a sequence and waits for the ICC's answer. -/
  | kvappend (c : CoreId)
  /-- KV_APPEND_SERVICE (R310): The island control core plans and commits an append all or nothing, ending with KV_FULL if pages fall short. -/
  | kvAppendService (n : IslandId)
  /-- KVGATHER (R189): KVGATHER starts a built-in stream that fetches KV pages into ring slots with masked rows. -/
  | kvgather (c : CoreId)
  /-- KVEVICT (R190): KVEVICT posts a request to fold importance and evict positions by score. -/
  | kvevict (c : CoreId)
  /-- KV_EVICT_SERVICE (R314): The island control core evicts the lowest-scored candidate positions and returns empty pages. -/
  | kvEvictService (n : IslandId)
  /-- STEP (R191): STEP selects the slice's random stream and resets its block counter. -/
  | step (c : CoreId)
  /-- RNG (R192): RNG fills lanes from the counter generator or the entropy source. -/
  | rng (c : CoreId)
  /-- DIGEST_INIT (R193): DIGEST with OP INIT empties a SHAKE256 digest context. -/
  | digestInit (c : CoreId)
  /-- DIGEST_ABS (R193): DIGEST with OP ABS absorbs lagoon cells into a digest context. -/
  | digestAbs (c : CoreId)
  /-- DIGEST_FIN (R193): DIGEST with OP FIN writes 32 output bytes to the lagoon and empties the context. -/
  | digestFin (c : CoreId)
  /-- WAITPWR (R194): WAITPWR ends the slice and puts the core to sleep if its island is selected for gating. -/
  | waitpwr (c : CoreId)
  /-- LAUNCH_AT (R195): LAUNCH_AT holds the slice until a timebase time. -/
  | launchAt (c : CoreId)
  /-- LAUNCH_RELEASE (R195): A slice held by LAUNCH_AT is released at the first tick at or after its time, or late with a LAUNCH_LATE record. -/
  | launchRelease (c : CoreId)
  /-- STREAM_START (R227): A ferry loads a stream program from the harbour and checks it statically before executing any op. -/
  | streamStart (f : FerryId)
  /-- STREAM_END (R237): The END op ends the stream once all its writes have landed, releasing FWAIT and END waiters. -/
  | streamEnd (f : FerryId)
  /-- STREAM_LOOP (R229): The LOOP op opens a loop level with its count and pending strides. -/
  | streamLoop (f : FerryId)
  /-- STREAM_ENDL (R229): The ENDL op applies strides and repeats, or undoes them and exits the loop. -/
  | streamEndl (f : FerryId)
  /-- STREAM_STRIDE (R229): The STRIDE op attaches a stride to an x register for the next LOOP. -/
  | streamStride (f : FerryId)
  /-- STREAM_ADD (R228): The ADD op adds a scaled immediate to an x register. -/
  | streamAdd (f : FerryId)
  /-- STREAM_WRAP (R230): The WRAP op gives an x register wrap mode. -/
  | streamWrap (f : FerryId)
  /-- STREAM_CLAMP (R230): The CLAMP op gives an x register clamp or fence mode. -/
  | streamClamp (f : FerryId)
  /-- STREAM_PAD (R233): The PAD op sets the fill pattern. -/
  | streamPad (f : FerryId)
  /-- STREAM_GATHER (R235): The GATHER op reads an index and sets an x register from it. -/
  | streamGather (f : FerryId)
  /-- EMIT (R232): The EMIT op moves one run between the memory side and the ring side, filling for addresses outside a fence. -/
  | emit (f : FerryId)
  /-- STREAM_COMMIT (R241): The COMMIT op completes the ferry's oldest reserved slot once its writes have landed. -/
  | streamCommit (f : FerryId)
  /-- STREAM_RELEASE (R241): The RELEASE op releases the ferry's oldest acquired slot once its reads have returned. -/
  | streamRelease (f : FerryId)
  /-- WAITTAG (R236): The WAITTAG op waits until a range of berths all have the required tag. -/
  | waittag (f : FerryId)
  /-- FERRY_CANCEL_ACK (R251): A ferry of a cancelled command stops, resets its producer slots and acknowledges; the last acknowledgement lets the CANCELLED completion be written. -/
  | ferryCancelAck (f : FerryId)
  /-- DRAIN_COMPLETE (R252): The last discarded read of a cancelled stream arrives and DRAIN clears. -/
  | drainComplete (f : FerryId)
  /-- FAULT_RESUME (R339): MEM_FAULT_RESP with RESUME makes the held agent translate again from where it is held. -/
  | faultResume (fn : Fn) (fid : Word)
  /-- FAULT_ABORT (R339): MEM_FAULT_RESP with ABORT ends the held agent as Table 11.6 states. -/
  | faultAbort (fn : Fn) (fid : Word)
  /-- FAULT_TIMEOUT (R339): A held fault still open after TMO_MS milliseconds is aborted. -/
  | faultTimeout (fid : Word)
  /-- FAULT_RECORD_DELAYED (R340): A waiting fault record is written with DELAYED once the ring can take it. -/
  | faultRecordDelayed
  /-- INVALIDATE_ALL (R335): MEM_INV with scope all queues removal of every cached translation. -/
  | invalidateAll (fn : Fn)
  /-- INVALIDATE_ASID (R335): MEM_INV with scope ASID queues removal of one address space's cached translations. -/
  | invalidateAsid (fn : Fn) (asid : Byte)
  /-- INVALIDATE_RANGE (R335): MEM_INV with scope ASID and range queues removal of cached entries intersecting a page range. -/
  | invalidateRange (fn : Fn) (asid : Byte) (page : Word) (pagesM1 : BitVec 16)
  /-- INVALIDATION_COMPLETE (R335): A queued invalidation completes once entries are gone and dependent accesses have landed, advancing DONE. -/
  | invalidationComplete
  /-- MEM_AS_WRITE (R330): A write to MEM_ASn sets an address space, refused for a conflicting ASID. -/
  | memAsWrite (fn : Fn) (n : CtxId) (val : DWord)
  /-- XTS_ENABLE (R329): Setting a MEM_XTS.EN bit makes SEC generate a new key with BUSY set; clearing it destroys the key. -/
  | xtsEnable (fn : Fn) (en : Byte)
  /-- XTS_KEY_READY (R329): Key generation ends, BUSY clears and waiting accesses proceed. -/
  | xtsKeyReady (k : PartId)
  /-- PATROL_SCRUB (R327): Patrol scrub reads and corrects every visible sector once per period, recording uncorrectable sectors. -/
  | patrolScrub
  /-- LPDDR_INIT_COMPLETE (R584): Initialisation of every visible sector with valid check bits ends and MEM_CFG.INIT reads 1. -/
  | lpddrInitComplete
  /-- FRAME_START (R272): A CSI-2 frame-start packet stamps the frame, takes a committed shadow descriptor and may drop the frame. -/
  | frameStart (m : Fin 32)
  /-- LINE_PACKET (R272): A CSI-2 long packet delivers a line through the pixel pipeline into ring slots, with CRC and length marking. -/
  | linePacket (m : Fin 32) (dt : Byte) (crcBad hdrBad : Bool) (data : List Byte)
  /-- FRAME_END (R272): A CSI-2 frame-end packet stamps the frame and commits its remaining slots. -/
  | frameEnd (m : Fin 32)
  /-- SLOT_DEBT_PAY (R271): A debt slot is reserved and committed unwritten once it is EMPTY and the ring resolves. -/
  | slotDebtPay (m : Fin 32)
  /-- JOB_SUBMIT (R292): A write to ITK_JQn_PTR.TAIL submits memory jobs, ignored and logged beyond the depth. -/
  | jobSubmit (fn : Fn) (n : Fin 4) (val : Word)
  /-- JOB_START (R261): The intake reads the next job's descriptor and begins processing it on a free pipeline. -/
  | jobStart (n : Fin 4)
  /-- DECODE_OVERRUN (R277): A real-time job exceeding K times the average decode time stops decoding and fills its remaining MCUs. -/
  | decodeOverrun (n : Fin 4)
  /-- JOB_COMPLETE (R273): A memory job commits its slots, writes its frame record, updates AVG and advances HEAD. -/
  | jobComplete (n : Fin 4)
  /-- AVG_RESET (R277): Writing AVG_RESET returns the decode average to 0x006B. -/
  | avgReset (fn : Fn) (val : Word)
  /-- CMD_NOP (R352): A NOP command waits on its objects and then signals them. -/
  | cmdNop (q : QueueId)
  /-- CMD_SLICES (R371): A SLICES command is fetched, checked and cut into independent slices. -/
  | cmdSlices (q : QueueId)
  /-- CMD_GANG (R372): A GANG command is fetched, checked and dispatched with all slices at once on distinct cores. -/
  | cmdGang (q : QueueId)
  /-- CMD_CHAIN (R246): A CHAIN command reads its stage table and runs its stages as one gang linked by rings. -/
  | cmdChain (q : QueueId)
  /-- CMD_CONV (R281): A CONV command checks its convolution descriptor and runs stripes fed by built-in window streams. -/
  | cmdConv (q : QueueId)
  /-- CMD_RAGGED (R316): A RAGGED command checks its descriptor and expands it into one slice per query tile. -/
  | cmdRagged (q : QueueId)
  /-- COMMAND_WAITS_SATISFIED (R354): A fetched command whose wait entries are all satisfied becomes ready for dispatch. -/
  | commandWaitsSatisfied (q : QueueId)
  /-- SLICE_DISPATCH (R368): When an engine queue has room, SCH picks a slice by strict priority and deficit round robin. -/
  | sliceDispatch (c : CoreId)
  /-- GANG_DISPATCH (R372): A gang command is dispatched once enough usable cores can take it at once. -/
  | gangDispatch (q : QueueId)
  /-- LB_STEAL (R371): With load balancing, an idle core takes an unstarted slice from another core's engine queue. -/
  | lbSteal (c : CoreId)
  /-- SLICE_START (R86): A core starts the next slice of its engine queue with cleared registers, restoring or beginning residence. -/
  | sliceStart (c : CoreId)
  /-- CONTEXT_SAVE (R109): At a preemption point the outgoing context's registers, live banks, lagoon, tags and ferry state are saved. -/
  | contextSave (c : CoreId)
  /-- CONTEXT_RESTORE (R213): A saved context is restored exactly onto the chosen core, or its commands end if the save area is uncorrectable. -/
  | contextRestore (c : CoreId)
  /-- COMMAND_COMPLETE (R359): After the last slice ends, writes land, the step rises, signals apply, the completion record is written and MSI-X sent. -/
  | commandComplete (q : QueueId)
  /-- CANCEL_OLDEST (R376): SCH_CANCEL without ALL cancels the oldest uncompleted command of a queue. -/
  | cancelOldest (fn : Fn) (q : QueueId)
  /-- CANCEL_ALL (R376): SCH_CANCEL with ALL cancels the oldest command and every command submitted behind it. -/
  | cancelAll (fn : Fn) (q : QueueId)
  /-- QUEUE_CONFIG_WRITE (R350): A write to SCH_QCFGq changes the queue, refusing an enable outside the context's partition. -/
  | queueConfigWrite (fn : Fn) (q : QueueId) (val : DWord)
  /-- SYNC_COUNT_WRITE (R361): A host write to SYN_CNTi sets the counter before same-cycle signals apply. -/
  | syncCountWrite (fn : Fn) (i : SyncId) (val : DWord)
  /-- SYNC_ERR_CLEAR (R360): Writing ERR_CLR clears a sync object's ERR and ERR_TAG. -/
  | syncErrClear (fn : Fn) (i : SyncId) (grant : Byte)
  /-- PARTITION_WRITE (R363): A write to a partition descriptor enables it after checks, disables it, or is ignored while enabled. -/
  | partitionWrite (fn : Fn) (k : PartId) (w : Fin 2) (val : DWord)
  /-- CONTEXT_CONFIG_WRITE (R365): A write to SCH_CTXn_CFG enables or disables a context after checks, ending residences on disable. -/
  | contextConfigWrite (fn : Fn) (n : CtxId) (val : DWord)
  /-- CONTEXT_STEP_WRITE (R364): A write to a context's SEED or STEP register takes effect only while no command is fetched. -/
  | contextStepWrite (fn : Fn) (n : CtxId) (w : Fin 3) (val : DWord)
  /-- READMIT_CORE (R382): SCH_READMIT with KIND core starts readmission of a marked core. -/
  | readmitCore (fn : Fn) (c : CoreId)
  /-- READMIT_ISLAND (R382): SCH_READMIT with KIND island starts readmission of a marked island. -/
  | readmitIsland (fn : Fn) (n : IslandId)
  /-- READMIT_COMPLETE (R382): Readmission injection ends, clearing the mark and raising generations or setting FAIL, with a READMIT event. -/
  | readmitComplete (failed : Byte)
  /-- TIDELINE_ENABLE (R385): Setting TDL_CTRL.EN anchors TDL_FRAME to the timebase so frames begin at the next 10 µs multiple. -/
  | tidelineEnable (w : Who)
  /-- TIDELINE_FRAME_START (R385): Each 10 µs frame starts, ALIGN is formed and the guard slot slewed. -/
  | tidelineFrameStart
  /-- CHANNEL_SAMPLE (R388): At its slot a channel applies commits and due records, captures its input, runs its control law and drives its output. -/
  | channelSample (ch : Fin 64)
  /-- SPI_READ (R390): LEAD slots before a channel's slot, its SPI master reads the input device. -/
  | spiRead (ch : Fin 64) (data : Word)
  /-- DROP_COPY (R396): Tideline acquires a FULL drop-ring slot and copies its set-point records across the crossing. -/
  | dropCopy (b : Fin 4)
  /-- SETPOINT_RECORD (R398): A landed set-point record is discarded or enters its channel's pending queue. -/
  | setpointRecord
  /-- CHANNEL_COMMIT (R387): A CH_COMMIT write checks the window's dirty registers and claims, and accepts or refuses them as one update. -/
  | channelCommit (w : Who)
  /-- CHANNEL_SELECT (R408): A TDL_CHSEL write that changes CH discards a dirty shadow and sets DISCARD. -/
  | channelSelect (w : Who) (val : Word)
  /-- CAPTURE_ARM (R406): Setting TDL_CAP.ARM starts a capture of one channel's samples at its trigger. -/
  | captureArm (w : Who) (val : DWord)
  /-- RC_ENTRY_WRITE (R402): A host write to a learning table entry takes effect unless the entry lies in an enabled learning window. -/
  | rcEntryWrite (w : Who) (i : Fin 16384) (val : Word)
  /-- PWM_CARRIER_START (R416): A PWM carrier count reaches 0, loading a pending CMP or PERIOD. -/
  | pwmCarrierStart (p : Fin 12)
  /-- ENCODER_EDGE (R417): A filtered quadrature edge or index pulse updates an encoder count. -/
  | encoderEdge (e : Fin 16) (edge : Fin 3)
  /-- CAN_INIT_SET (R439): Setting INIT stops the controller at the end of the frame on the bus. -/
  | canInitSet (w : Who) (val : Word) (busy : Bool)
  /-- CAN_INIT_CLEAR (R426): Clearing INIT checks the bit timing, zeroes the counters and joins the bus, or is refused with TIMING. -/
  | canInitClear (w : Who) (val : Word)
  /-- CAN_BUS_JOIN (R439): After 11 consecutive recessive bits a controller leaving INIT takes part on the bus. -/
  | canBusJoin (k : Fin 8)
  /-- CAN_RECOVER (R438): Writing RECOVER starts bus-off recovery. -/
  | canRecover (w : Who) (val : Word)
  /-- CAN_RECOVERY_COMPLETE (R438): After 128 occurrences of 11 recessive bits the controller leaves bus-off with zeroed counters. -/
  | canRecoveryComplete (k : Fin 8)
  /-- CAN_FRAME_RECEIVED (R428): A valid received frame is stamped and placed in the first matching buffer, or counted in NOMATCH. -/
  | canFrameReceived (k : Fin 8) (rtr : Bool) (f : CanFrame) (ago : Nat)
  /-- RXB_HDR_LATCH (R432): A read of RXB_HDR latches the buffer's frame for the window and clears NEW. -/
  | rxbHdrLatch (w : Who) (v : Fin 4) (i : Fin 128)
  /-- CAN_TX_REQUEST (R434): A CAN_TXREQ request queues a template unless it is already queued. -/
  | canTxRequest (w : Who) (t : Fin 128)
  /-- CAN_TX_CANCEL (R436): A CAN_TXREQ with CANCEL removes a queued template entry or is refused. -/
  | canTxCancel (w : Who) (t : Fin 128)
  /-- CAN_TX_START (R433): The head of the queue starts a transmission attempt, copying its template at SOF. -/
  | canTxStart (k : Fin 8)
  /-- CAN_TX_COMPLETE (R430): A successful transmission stamps its template and removes the entry. -/
  | canTxComplete (k : Fin 8) (delay : Option Nat)
  /-- CAN_BUS_ERROR (R437): A lost arbitration or bus error updates the error counters and state, and the head is offered again. -/
  | canBusError (k : Fin 8) (e : CanErr)
  /-- TIMEBASE_INCR_WRITE (R442): An owner write to TIM_INCR sets the rate at the next tick or is ignored with BADINC. -/
  | timebaseIncrWrite (w : Who) (val : DWord)
  /-- TIMEBASE_STEP (R443): An owner write to TIM_STEP adds a signed offset at the next tick and logs TIME_STEP. -/
  | timebaseStep (w : Who) (val : DWord)
  /-- TIMEBASE_SET_ARM (R443): A write to TIM_SET_S arms an absolute set with its seconds. -/
  | timebaseSetArm (w : Who) (val : DWord)
  /-- TIMEBASE_SET (R443): A write to TIM_SET_NS applies an armed absolute set at the next tick, or is refused with BADSET. -/
  | timebaseSet (w : Who) (val : Word)
  /-- TIMESYNC_WRITE (R446): A write to TIM_SYNC changes OWNER from the PF and LOCKED and OFFSET from the owner. -/
  | timesyncWrite (w : Who) (val : DWord)
  /-- TIM_NOW_LATCH (R445): A read of TIM_NOW_S latches NS and FRAC of the same tick for the reader. -/
  | timNowLatch (fn : Fn)
  /-- TRIGGER_FIRE (R447): A timebase trigger reaches its time, signals and pulses its pad, and advances or disables. -/
  | triggerFire (k : Fin 4)
  /-- TRIGGER_PULSE_END (R447): After WIDTH ticks the trigger pad returns low. -/
  | triggerPulseEnd (k : Fin 4)
  /-- CAPTURE_EDGE (R448): A selected edge on a capture pad latches the timebase and may signal a sync object. -/
  | captureEdge (k : Fin 2) (rising : Bool)
  /-- CAPTURE_LATCH (R448): A read of TIM_CAPk_S latches the capture's ns field for the reader. -/
  | captureLatch (fn : Fn) (k : Fin 2)
  /-- ETH_FRAME_RECEIVED (R454): An accepted sensor Ethernet frame is stamped and placed with its header in its binding's ring slot, or dropped. -/
  | ethFrameReceived (p : Fin 16) (bad : Bool) (data : List Byte) (ago : Nat)
  /-- ETH_COALESCE_TIMEOUT (R454): COAL_US after a slot's first frame the MAC commits the slot and may signal. -/
  | ethCoalesceTimeout (p : Fin 4) (r : Fin 8)
  /-- ETH_TX_SLOT (R455): The MAC acquires a FULL send slot, transmits its frames with stamps written back, and releases it. -/
  | ethTxSlot (p : Fin 4) (sfd : List Nat)
  /-- CW_LINK_UP (R450): On causeway link-up the port's stamp corrections are set from its mode and ADJ fields. -/
  | cwLinkUp (q : Fin 8)
  /-- CW_LINK_DOWN (R459): Link loss on a causeway port clears its LEARNED bits. -/
  | cwLinkDown (q : Fin 8)
  /-- HELLO_SEND (R459): Every HELLO_MS each enabled port with link sends a HELLO. -/
  | helloSend (q : Fin 8)
  /-- HELLO_RECEIVED (R459): A HELLO sets LEARNED for its path, counts MISWIRED, or sets DUP. -/
  | helloReceived (q : Fin 8) (m : CwPkt)
  /-- HELLO_TIMEOUT (R459): Three HELLO periods without a HELLO on a path clear its LEARNED bit. -/
  | helloTimeout (q : Fin 8) (d : Fin 64)
  /-- CREDIT_GRANT (R461): A receive side reserves an EMPTY slot and sends a CREDIT packet. -/
  | creditGrant (c : Fin 256)
  /-- CREDIT_REPEAT (R461): Every 10 µs while credits are unused the CREDIT packet is repeated. -/
  | creditRepeat (c : Fin 256)
  /-- CREDIT_RECEIVED (R461): A CREDIT packet raises the sender's granted count. -/
  | creditReceived (q : Fin 8) (m : CwPkt)
  /-- CW_SLOT_SEND (R463): A send side acquires a credited FULL slot and sends it as data packets then a header, or releases a bad slot. -/
  | cwSlotSend (c : Fin 256)
  /-- CW_DATA_RECEIVED (R463): A DATA packet is placed at its offset in its slot, duplicates discarded. -/
  | cwDataReceived (q : Fin 8) (m : CwPkt)
  /-- CW_HEADER_RECEIVED (R463): A HEADER packet completes its slot's arrival. -/
  | cwHeaderReceived (q : Fin 8) (m : CwPkt)
  /-- ACK_SEND (R464): After 8 packets or 1 µs the receiver acknowledges with the cumulative PSN and bitmap. -/
  | ackSend (q : Fin 8) (d : Fin 64)
  /-- ACK_RECEIVED (R464): An ACK retires acknowledged packets and retransmits those reported missing. -/
  | ackReceived (q : Fin 8) (m : CwPkt)
  /-- RETRANSMIT_TIMEOUT (R464): A packet unacknowledged within RTO_US is retransmitted. -/
  | retransmitTimeout (q : Fin 8) (d : Fin 64)
  /-- CW_ABORT_RECEIVED (R467): An ABORT packet discards the receiving slot's partial data. -/
  | cwAbortReceived (q : Fin 8) (m : CwPkt)
  /-- PROXY_ACCESS (R468): Writing GO to NET_PXY_CMD sends one register or doorbell access to another device. -/
  | proxyAccess (fn : Fn) (val : DWord)
  /-- PROXY_REQUEST_RECEIVED (R469): A target executes a permitted proxy access as a PF access and responds. -/
  | proxyRequestReceived (q : Fin 8) (m : CwPkt)
  /-- PROXY_RESPONSE_RECEIVED (R468): A proxy response sets DONE and ERR and returns read data. -/
  | proxyResponseReceived (q : Fin 8) (m : CwPkt)
  /-- PROXY_TIMEOUT (R468): A proxy access without response within 1 ms completes with ERR 3. -/
  | proxyTimeout
  /-- HEARTBEAT (R484): GLB_HOSTCTL with HB restarts the host-loss timer. -/
  | heartbeat (fn : Fn)
  /-- HEARTBEAT_TIMEOUT (R485): No heartbeat for LOSS_MS declares host loss. -/
  | heartbeatTimeout
  /-- UNLOAD (R485): GLB_HOSTCTL with UNLOAD declares host loss at once. -/
  | unload (fn : Fn)
  /-- REARM (R490): GLB_HOSTCTL with REARM and the current EPOCH clears LOST and restarts the heartbeat timer. -/
  | rearm (fn : Fn) (epoch : Word)
  /-- PF_FLR (R485): A function-level reset of the PF declares host loss. -/
  | pfFlr
  /-- VF_FLR (R491): A VF reset or Bus Master Enable clear stops partition k's non-autonomous queues. -/
  | vfFlr (k : PartId) (flr : Bool)
  /-- USB4_LINK_CHANGE (R494): A change of link generation or tunnel state updates GLB_LINK and raises PF vector 0. -/
  | usb4LinkChange (gen : Fin 4) (tun : Bool) (numVf : Fin 9)
  /-- VERSION (R502): Mailbox OP VERSION returns the component's active version and slot. -/
  | version (k : Fin 11)
  /-- STAGE (R508): SEC OP STAGE verifies a bundle and programs its images into the inactive slots. -/
  | stage
  /-- ACTIVATE (R509): SEC OP ACTIVATE switches to the staged bundle and restarts components, or defers during an emergency. -/
  | activate
  /-- ABANDON (R508): SEC OP ABANDON ends a deferred activation. -/
  | abandon
  /-- STAGE_MANIFEST (R544): SEC OP STAGE_MANIFEST checks a manifest and writes it to the inactive manifest slot. -/
  | stageManifest
  /-- IDENTITY (R550): SEC OP IDENTITY writes the identity public key and device certificate. -/
  | identity
  /-- MEASURE (R551): SEC OP MEASURE extends a context's measurement register with a range's digest. -/
  | measure
  /-- ATTEST (R552): SEC OP ATTEST writes a signed attestation report. -/
  | attest
  /-- DBG_CHALLENGE (R554): SEC OP DBG_CHALLENGE issues a new debug challenge with the DEVICE_ID. -/
  | dbgChallenge
  /-- DBG_UNLOCK (R555): SEC OP DBG_UNLOCK checks a debug token and unlocks its scopes. -/
  | dbgUnlock
  /-- DBG_LOCK (R556): SEC OP DBG_LOCK locks every debug scope. -/
  | dbgLock
  /-- COMP_FAULT (R499): A component's protection fault, illegal instruction or watchdog halts it, logs COMP_FAULT and restarts it if permitted. -/
  | compFault (c : Fin 5) (inst : IslandId) (cause : Fin 3) (pc : DWord)
  /-- RESTART_COMPLETE (R509): A restarted component reports running and the activation proceeds to the next component. -/
  | restartComplete
  /-- ACTIVATION_REVERT (R510): A component not running within 1 s, or faulting, reverts the whole bundle. -/
  | activationRevert
  /-- DEFERRED_ACTIVATION_START (R511): A deferred activation starts after 100 ms without an emergency. -/
  | deferredActivationStart
  /-- DEFERRAL_EXPIRY (R511): A deferral not started within 10 s expires, setting EXP. -/
  | deferralExpiry
  /-- FLOOR_RAISE (R547): After new code has run 1 s without fault, SEC raises its rollback floor, retrying every 10 s. -/
  | floorRaise (c : Fin 6) (ok : Bool)
  /-- LOG_ENABLE_WRITE (R504): A write setting FWM_LOG_BASE.EN enables the main ring unless it overlaps a partition or leaves LPDDR5X. -/
  | logEnableWrite (fn : Fn) (val : DWord)
  /-- LOCKSTEP_DIFF (R512): A difference between the lockstep cores halts them, writes LOCKSTEP and drives the pins to SUPERVISOR. -/
  | lockstepDiff (pc0 pc1 : Word)
  /-- PINS_CLEAR (R516): A PF write of LHS_PINS.CLR returns the pins from FAULT to HEALTHY unless LOCK is set. -/
  | pinsClear (fn : Fn)
  /-- INJECTION_COMPLETE (R518): Error injection finishes, sets INJ_DONE and leaves the pins HEALTHY, FAULT or SUPERVISOR. -/
  | injectionComplete (fails : List CheckerFail)
  /-- BEACON_START (R521): When a core's beacon is due and permitted, the Lighthouse preempts the core and runs a beacon slice. -/
  | beaconStart (c : CoreId)
  /-- BEACON_COMPLETE (R524): A beacon slice ends and its digest is compared with the expected one, resetting DEFER. -/
  | beaconComplete (c : CoreId) (obs : List Byte)
  /-- BEACON_ABANDON (R522): A beacon is abandoned within 48 beats for an urgent slice or a reserved window. -/
  | beaconAbandon (c : CoreId)
  /-- SAFETY_FRAME_END (R523): A safety frame ends, counting deferrals per core. -/
  | safetyFrameEnd
  /-- DEADLINE_PERIODIC_OPEN (R525): A periodic deadline entry opens an instance at its deadline time and advances. -/
  | deadlinePeriodicOpen (n : Fin 256)
  /-- DEADLINE_EXPIRY (R526): An open instance whose deadline tick passes unmet writes DEADLINE_MISS and raises MISSES and PEND. -/
  | deadlineExpiry (n : Fin 256)
  /-- DEADLINE_ENTRY_DISABLE (R534): Clearing a deadline entry's EN closes its open instances without judging them. -/
  | deadlineEntryDisable (fn : Fn) (n : Fin 256)
  /-- BOOT (R540): From PORST release the boot stages verify and load every image and the manifest, then release the processors. -/
  | boot (puf : Bool) (se : Fin 3)
  /-- TAP_DBG_CHAL (R554): The TAP DBG_CHAL instruction shifts out a new debug challenge. -/
  | tapDbgChal
  /-- TAP_DBG_TOKEN (R554): The TAP DBG_TOKEN instruction shifts in a token checked by the SEC. -/
  | tapDbgToken (tok : List Byte)
  /-- ISLAND_SELECT (R559): A write of PWR_MODE.ISL_GATE selects islands for gating and stops ordinary dispatch to them. -/
  | islandSelect (fn : Fn) (val : Word)
  /-- ENTER_P3 (R563): PWR_MODE.DEV 3 selects every island and requests entry to P3. -/
  | enterP3 (fn : Fn)
  /-- ENTER_P4 (R564): PWR_MODE.DEV 4 selects every island and requests entry to P4. -/
  | enterP4 (fn : Fn)
  /-- DEV_CLEAR (R565): A write of DEV 0 abandons a pending entry or wakes P3. -/
  | devClear (fn : Fn)
  /-- ISLAND_GATE (R561): A selected island whose cores sleep and units are idle is power-gated. -/
  | islandGate (n : IslandId)
  /-- GATE_TIMEOUT (R562): An island not gated within GATE_TMO has its ordinary slices preempted and GATE_LATE set. -/
  | gateTimeout (n : IslandId)
  /-- P3_ENTRY (R563): Once every island is gated the PMC puts LPDDR5X in self-refresh, turns off VDD_STR and enters P3. -/
  | p3Entry
  /-- P4_ENTRY (R564): From P3 the PMC stops CAN, resets the pins, closes pad latches, erases the identity and turns off the shore rails. -/
  | p4Entry
  /-- WAKE_PIN (R566): WAKE_N low for 1 µs wakes the device from P3 or P4 when enabled. -/
  | wakePin
  /-- WAKE_TIMER (R566): The always-on timer expiring TIMER_MS after entry wakes the device. -/
  | wakeTimer
  /-- WAKE_SYNC_SIGNAL (R566): A signal to PWR_WAKE.OBJ wakes the device from P3 when enabled. -/
  | wakeSyncSignal
  /-- DOMAIN_RELEASE (R567): A waking domain whose power-good is high is released at its time in the wake order. -/
  | domainRelease
  /-- WAKE_ERROR (R567): A power-good input not high within 1 ms of its enable stops the wake and sets WAKE_ERR. -/
  | wakeError (rail : Fin 3)
  /-- THERMAL_SAMPLE (R570): Every 100 µs the junction sensors are read against the emergency and critical thresholds. -/
  | thermalSample (t : List Int)
  /-- THERMAL_STEP (R571): Every 10 ms of a standing emergency the PMC lowers VDD_ISL by 25 mV or engages throttling. -/
  | thermalStep
  /-- PORST (R573): PORST_N resets everything, drives pads to their reset state and restarts boot. -/
  | porst
  /-- SYSRST (R573): SYSRST_N held 1 µs resets all but SEC and PMC, holds pads and reruns boot from stage 0x1. -/
  | sysrst
  /-- PWR_RESET (R573): A write of KEY 0xA5 to PWR_RESET resets as SYSRST_N. -/
  | pwrReset (fn : Fn) (key : Byte)
  /-- TAP_RESET (R573): TRST_N resets the TAP state machine only. -/
  | tapReset
  /-- PAD_RELEASE (R569): A write of PAD_HOLD_REL releases held pad groups to their functions. -/
  | padRelease (fn : Fn) (rel : Fin 16)
  /-- CLAIM (R576): PAD_CLAIM ACTION 1 claims a resource unless it or a conflicting resource is held. -/
  | claim (w : Who) (res : BitVec 12)
  /-- CLAIM_RELEASE (R576): PAD_CLAIM ACTION 2 releases a resource held by the caller. -/
  | claimRelease (w : Who) (res : BitVec 12)
  /-- CLAIM_QUERY (R576): PAD_CLAIM ACTION 3 returns the holder of a resource. -/
  | claimQuery (w : Who) (res : BitVec 12)
  /-- TIMEBASE_TICK (R441): On each 250 MHz tick the timebase adds TIM_INCR to NS.FRAC and carries into S at 10^9 ns. -/
  | timebaseTick
  /-- SENSOR_LINK_CHANGE (R452): A sensor port's external PHY announces link up or down, or a rate, through its USXGMII auto-negotiation word, updating NET_SPp_STAT.LINK and RATE. -/
  | sensorLinkChange (p : Fin 4) (up : Bool) (rate : Fin 4)
  /-- BUS_MASTER_ENABLE_SET (R491): The host sets a function's Bus Master Enable again, so the partition's host-window accesses and the waiting fault records may proceed. -/
  | busMasterEnableSet (fn : Fn) (msix : Bool)
  /-- PCIE_HOT_RESET (R573): A PCIe hot reset on the tunnel resets the host link only. -/
  | pcieHotReset
  /-- MAILBOX_RESPONSE (R501): A firmware component finishes a mailbox request, writes the response, clears BUSY, sets DONE and raises vector 3. -/
  | mailboxResponse (k : Fin 11)
  deriving DecidableEq, Repr

end Sys2Proof
end

