-- ==== Sys2Proof/Decode.lean ====
section
/-! DEFINITION. The command that a word spells by the table's bits. No row of spec/opcode_table.json gives bits: the
block's commands are accesses, events and expiries, and none is a word, so no word spells one. (The instruction words of a
tensor core lie in a harbour and are read there by Machine/Issue.lean.) -/
namespace Sys2Proof

/-- The command spelled by `nbits` bits `w`: none. -/
def decodeTableWord (_nbits _w : Nat) : Option Instr := none

end Sys2Proof
end

