-- ==== Sys2Proof/Config.lean ====
section
/-! DEFINITION. What an implementation fixes and the values the spec leaves open. Every constant here has no body:
nothing can evaluate it and no proof can see its value, so a claim about it holds for every value. Each is named in the
assumption log. -/
namespace Sys2Proof.Config

/-- The bits read from undefined storage: width, which undefining event, address (R213, R145, R329, R584). Log 6. -/
opaque undefBits : (w gen addr : Nat) → BitVec w

/-- A free choice, numbered by the counter `State.free`; each use reduces it to the choices the spec allows. Log 8. -/
opaque choice : Nat → Nat

/-- The special functions of Table 3.7: function code of R156, operand bits, result bits; the stated special values are
never taken from here, and a value outside the stated bound is not used (R78, R79). Log 11. -/
opaque specialFn : (fn : Nat) → Word → Word

/-- The entropy source of the device (R192, R329): draw number, 32 bits. Log 8. -/
opaque entropy : Nat → Word

/-- Is this a valid ML-DSA signature of the message under the key? (R538, R539, R544, R555). Log 12. -/
opaque mldsaVerify : (key msg sig : List Byte) → Bool

/-- The hedged ML-DSA signature of a message under the identity with this seed, at a draw (R550 to R553). Log 12. -/
opaque mldsaSign : (seed msg : List Byte) → (draw : Nat) → List Byte

/-- The ML-DSA public key of the identity with this seed (R550). Log 12. -/
opaque mldsaPublic : (seed : List Byte) → List Byte

/-- The digest of the Henhorn root public key in the mask ROM (R539). Log 12. -/
opaque rootDigest : List Byte

/-- The physically unclonable function's secret (R548). Log 12. -/
opaque pufSecret : List Byte

/-- The beacon variant of a safety frame: variants rotate by frame number, how many there are is the image's (R520). Log 14. -/
opaque beaconVariant : (frame : Nat) → Nat

/-- The expected digest of a beacon variant, part of the Lighthouse image (R520). Log 14. -/
opaque beaconExpected : (variant : Nat) → List Byte

/-- The fixed inverse DCT of the JPEG decoder (R274): the 64 dequantised coefficients of a block, row by row, to the sample
at a position; its output bits are REV_MAJ's. Log 13. -/
opaque jpegIdct : (coefs : List Int) → (pos : Nat) → Byte

/-- Where a HELLO goes, a MAC address and an IPv6 address; the spec addresses it to no device (R459). Log 70. -/
opaque helloMac : Nat → Byte
opaque helloIp : Nat → Byte

/-- Traffic class and flow label, hop limit and UDP source port of a causeway frame with ENCAP 1 (R458). Log 70. -/
opaque cwFlow : Nat
opaque cwHop : Nat
opaque cwUdpSrc : Nat

end Sys2Proof.Config
end

