-- ==== Sys2Proof/Machine/Bits.lean ====
section
/-! DEFINITION. Bit fields, sign extension and little-endian byte order (00_scope.md: bit ranges are written
[msb:lsb], R8: multi-byte fields are little-endian). -/
namespace Sys2Proof.Machine

/-- Bits `[hi:lo]` of the natural number `v`. -/
def bitsOf (v hi lo : Nat) : Nat := v / 2 ^ lo % 2 ^ (hi + 1 - lo)

/-- Bit `i` of the natural number `v`. -/
def bitOf (v i : Nat) : Bool := v / 2 ^ i % 2 == 1

/-- 1 for true, 0 for false. -/
def boolNat (b : Bool) : Nat := if b then 1 else 0

/-- `v` with bits `[hi:lo]` replaced by the low bits of `f`. -/
def bitsPut (v hi lo f : Nat) : Nat :=
  v % 2 ^ lo + f % 2 ^ (hi + 1 - lo) * 2 ^ lo + v / 2 ^ (hi + 1) * 2 ^ (hi + 1)

/-- The signed value of the low `w` bits of `v`. -/
def signedOf (w v : Nat) : Int :=
  let u := v % 2 ^ w
  if u < 2 ^ (w - 1) then (u : Int) else (u : Int) - (2 ^ w : Nat)

/-- The code of the integer `i` in `w` bits, two's complement. -/
def wrapOf (w : Nat) (i : Int) : Nat := (i % (2 ^ w : Nat)).toNat

/-- The little-endian value of a list of bytes, first byte least significant (R8). -/
def leNat : List Byte → Nat
  | [] => 0
  | b :: bs => b.toNat + 256 * leNat bs

/-- The `n` little-endian bytes of `v` (R8). -/
def leBytes : Nat → Nat → List Byte
  | 0, _ => []
  | n + 1, v => BitVec.ofNat 8 v :: leBytes n (v / 256)

/-- The part of a record at byte offset `off`, `n` bytes, little-endian. -/
def recNat (r : List Byte) (off n : Nat) : Nat := leNat ((r.drop off).take n)

/-- Are all bytes `[off, off + n)` of a record zero? -/
def recZero (r : List Byte) (off n : Nat) : Bool := recNat r off n == 0

/-- Ceiling of a quotient. -/
def ceilDiv' (a b : Nat) : Nat := (a + b - 1) / b

/-- The positions `0 … n-1` whose bit of `v` is set, ascending. -/
def bitList (n v : Nat) : List Nat := (List.range n).filter (fun i => bitOf v i)

/-- The number of set bits among the low `n` bits of `v`. -/
def popCount (n v : Nat) : Nat := (bitList n v).length

/-- A natural number kept within `m` (a saturating counter). -/
def satNat (m v : Nat) : Nat := if v ≤ m then v else m

end Sys2Proof.Machine
end

