-- ==== Sys2Proof/Machine/Fp.lean ====
section
/-! DEFINITION. Number formats and arithmetic (03_arithmetic.md): exact values of codes, one rounding function for
every binary grid, `fp32_rne`, W20 and the beat sum, narrowing stores, MX blocks, IEEE binary32 operations and the
special functions. A finite value is exact: a sign, a natural significand and a power of two. -/
namespace Sys2Proof.Machine

/-- A value of a floating-point or integer code: NaN, an infinity, or exactly (−1)^neg · m · 2^e. -/
inductive FVal where
  | nan
  | inf (neg : Bool)
  | fin (neg : Bool) (m : Nat) (e : Int)
  deriving DecidableEq, Repr

/-- A binary floating-point grid of Table 3.1. -/
structure FGrid where
  eb : Nat
  mb : Nat
  bias : Nat
  hasInf : Bool
  hasNan : Bool
  maxCode : Nat
  nanCode : Nat
  deriving DecidableEq, Repr

def gridE2M1 : FGrid := ⟨2, 1, 1, false, false, 0x7, 0⟩
def gridE2M3 : FGrid := ⟨2, 3, 1, false, false, 0x1F, 0⟩
def gridE3M2 : FGrid := ⟨3, 2, 3, false, false, 0x1F, 0⟩
def gridE4M3 : FGrid := ⟨4, 3, 7, false, true, 0x7E, 0x7F⟩
def gridE5M2 : FGrid := ⟨5, 2, 15, true, true, 0x7B, 0x7E⟩
def gridBF16 : FGrid := ⟨8, 7, 127, true, true, 0x7F7F, 0x7FC0⟩
def gridFP16 : FGrid := ⟨5, 10, 15, true, true, 0x7BFF, 0x7E00⟩
def gridFP32 : FGrid := ⟨8, 23, 127, true, true, 0x7F7F_FFFF, 0x7FC0_0000⟩

/-- The value of a code on a grid (R51): an all-ones exponent is ordinary except where Table 3.1 lists it. -/
def FGrid.value (g : FGrid) (code : Nat) : FVal :=
  let sg := bitOf code (g.eb + g.mb)
  let E := bitsOf code (g.eb + g.mb - 1) g.mb
  let M := if g.mb = 0 then 0 else code % 2 ^ g.mb
  let mag := code % 2 ^ (g.eb + g.mb)
  if g.hasInf && mag == g.maxCode + 1 then .inf sg
  else if g.hasNan && decide (g.maxCode < mag) then .nan
  else if E = 0 then .fin sg M (1 - (g.bias : Int) - g.mb)
  else .fin sg (2 ^ g.mb + M) ((E : Int) - g.bias - g.mb)

/-- `n / d` rounded to the nearest integer, ties to even. -/
def rneDiv (n d : Nat) : Nat :=
  let q := n / d
  let r := n % d
  if 2 * r < d then q else if d < 2 * r then q + 1 else q + q % 2

/-- `n / d · 2^t` rounded to the nearest integer, ties to even. -/
def rneScaled (n d : Nat) (t : Int) : Nat := rneDiv (n * 2 ^ t.toNat) (d * 2 ^ (-t).toNat)

/-- floor(log2(n / d)) of a positive quotient. -/
def log2Div (n d : Nat) : Int :=
  let l : Int := (Nat.log2 n : Int) - Nat.log2 d
  if n * 2 ^ (-l).toNat < d * 2 ^ l.toNat then l - 1 else l

/-- The magnitude code, unbounded above, nearest to `n / d · 2^e` on the grid, ties to even. -/
def FGrid.rneMag (g : FGrid) (n d : Nat) (e : Int) : Nat :=
  if n = 0 then 0 else
  let lo : Int := 1 - (g.bias : Int) - g.mb
  let q := max lo (log2Div n d + e - g.mb)
  (q - lo).toNat * 2 ^ g.mb + rneScaled n d (e - q)

/-- `fp32_rne` of the quotient (−1)^neg · n / d · 2^e (R64): +0 for an exact zero, an infinity beyond the largest
finite value. -/
def f32Quot (neg : Bool) (n d : Nat) (e : Int) : Word :=
  if n = 0 then 0 else
  let c := gridFP32.rneMag n d e
  BitVec.ofNat 32 ((if c ≤ gridFP32.maxCode then c else 0x7F80_0000) + boolNat neg * 2 ^ 31)

/-- The canonical NaN of FP32 (R74). -/
def f32Nan : Word := 0x7FC0_0000

/-- An FP32 infinity. -/
def f32Inf (neg : Bool) : Word := if neg then 0xFF80_0000 else 0x7F80_0000

/-- The value of an FP32 word. -/
def f32Val (w : Word) : FVal := gridFP32.value w.toNat

/-- `fp32_rne` of a value: NaN canonical, +0 for an exact zero (R64, R66). -/
def f32Rne : FVal → Word
  | .nan => f32Nan
  | .inf s => f32Inf s
  | .fin s m e => f32Quot s m 1 e

/-- The FP32 word of a value with IEEE's signed zero kept (R77). -/
def f32Ieee : FVal → Word
  | .fin true 0 _ => 0x8000_0000
  | v => f32Rne v

/-- The negation of a value. -/
def FVal.neg : FVal → FVal
  | .nan => .nan
  | .inf s => .inf (!s)
  | .fin s m e => .fin (!s) m e

/-- The signed significand of a finite value at exponent `e0 ≤ e`. -/
def sigAt (s : Bool) (m : Nat) (e e0 : Int) : Int :=
  let k : Int := (m * 2 ^ (e - e0).toNat : Nat)
  if s then -k else k

/-- The exact sum; a zero sum of two negative zeros is negative (IEEE 754). -/
def FVal.add : FVal → FVal → FVal
  | .nan, _ => .nan
  | _, .nan => .nan
  | .inf a, .inf b => if a = b then .inf a else .nan
  | .inf a, _ => .inf a
  | _, .inf b => .inf b
  | .fin a m e, .fin b n f =>
    if m = 0 ∧ n = 0 then .fin (a && b) 0 0 else
    let e0 := min e f
    let k := sigAt a m e e0 + sigAt b n f e0
    .fin (decide (k < 0)) k.natAbs e0

/-- The exact product (IEEE 754 special cases). -/
def FVal.mul : FVal → FVal → FVal
  | .nan, _ => .nan
  | _, .nan => .nan
  | .inf a, .inf b => .inf (a != b)
  | .inf a, .fin b n _ => if n = 0 then .nan else .inf (a != b)
  | .fin a m _, .inf b => if m = 0 then .nan else .inf (a != b)
  | .fin a m e, .fin b n f => .fin (a != b) (m * n) (e + f)

/-- Is the value NaN? -/
def FVal.isNan : FVal → Bool
  | .nan => true
  | _ => false

/-- `a < b` for values that are not NaN. -/
def FVal.lt : FVal → FVal → Bool
  | .nan, _ => false
  | _, .nan => false
  | .inf a, .inf b => a && !b
  | .inf a, _ => a
  | _, .inf b => !b
  | .fin a m e, .fin b n f =>
    let e0 := min e f
    decide (sigAt a m e e0 < sigAt b n f e0)

/-- `a = b` for values that are not NaN, −0 equal to +0. -/
def FVal.eqv : FVal → FVal → Bool
  | .nan, _ => false
  | _, .nan => false
  | a, b => !(a.lt b) && !(b.lt a)

/-- Is the value zero? -/
def FVal.isZero : FVal → Bool
  | .fin _ 0 _ => true
  | _ => false

/-- The sign of a value. -/
def FVal.sign : FVal → Bool
  | .nan => false
  | .inf s => s
  | .fin s _ _ => s

/-- The value of an integer. -/
def FVal.ofInt (i : Int) : FVal := .fin (decide (i < 0)) i.natAbs 0

/-! ## `fp32_rne` of named steps (03_arithmetic.md R66, R71, R72) -/

/-- fp32_rne(a + b). -/
def addR (a b : Word) : Word := f32Rne ((f32Val a).add (f32Val b))
/-- fp32_rne(a − b). -/
def subR (a b : Word) : Word := f32Rne ((f32Val a).add (f32Val b).neg)
/-- fp32_rne(a × b). -/
def mulR (a b : Word) : Word := f32Rne ((f32Val a).mul (f32Val b))
/-- fp32_rne of an exact integer. -/
def intR (i : Int) : Word := f32Rne (FVal.ofInt i)

/-! ## IEEE binary32 operations of the vector unit (R77) -/

def addI (a b : Word) : Word := f32Ieee ((f32Val a).add (f32Val b))
def subI (a b : Word) : Word := f32Ieee ((f32Val a).add (f32Val b).neg)
def mulI (a b : Word) : Word := f32Ieee ((f32Val a).mul (f32Val b))
/-- a × b + c with one rounding. -/
def fmaI (a b c : Word) : Word := f32Ieee (((f32Val a).mul (f32Val b)).add (f32Val c))

/-- The quotient of two values, as a sign, a numerator, a denominator and a power of two, or a special value
(IEEE 754 division; R75). -/
inductive FQuot where
  | nan
  | inf (neg : Bool)
  | quot (neg : Bool) (n d : Nat) (e : Int)
  deriving DecidableEq, Repr

/-- IEEE 754 division, exact (R75): 0/0 and ∞/∞ are NaN, x/0 an infinity, x/∞ a zero. -/
def FVal.div : FVal → FVal → FQuot
  | .nan, _ => .nan
  | _, .nan => .nan
  | .inf _, .inf _ => .nan
  | .inf a, .fin b _ _ => .inf (a != b)
  | .fin a _ _, .inf b => .quot (a != b) 0 1 0
  | .fin a m e, .fin b n f =>
    if n = 0 then (if m = 0 then .nan else .inf (a != b)) else .quot (a != b) m n (e - f)

/-- Correctly rounded FP32 division, IEEE signed zero kept. -/
def divI (a b : Word) : Word :=
  match (f32Val a).div (f32Val b) with
  | .nan => f32Nan
  | .inf s => f32Inf s
  | .quot s n d e => if n = 0 then (if s then 0x8000_0000 else 0) else f32Quot s n d e

/-- fp32_rne(a / b) of the attention step (R297). -/
def divR (a b : Word) : Word :=
  match (f32Val a).div (f32Val b) with
  | .nan => f32Nan
  | .inf s => f32Inf s
  | .quot s n d e => f32Quot s n d e

/-- The integer square root by bits: `k` more bits of the root `r`. -/
def isqrtBits (n : Nat) : Nat → Nat → Nat
  | 0, r => r
  | k + 1, r => let c := r + 2 ^ k; isqrtBits n k (if c * c ≤ n then c else r)

/-- Correctly rounded square root (R77): the root of 2^62-fold the significand and a sticky bit are exact enough for
one rounding; a negative operand other than −0 gives NaN. -/
def sqrtI (a : Word) : Word :=
  match f32Val a with
  | .nan => f32Nan
  | .inf s => if s then f32Nan else f32Inf false
  | .fin s m e =>
    if m = 0 then a else if s then f32Nan else
    let m2 := if e % 2 = 0 then m * 2 ^ 62 else m * 2 ^ 63
    let e2 := if e % 2 = 0 then e - 62 else e - 63
    let r := isqrtBits m2 48 0
    f32Quot false (2 * r + boolNat (r * r != m2)) 1 (e2 / 2 - 1)

/-- The lesser of two lanes (R77, R152): a NaN and a number give the number; min(+0, −0) is −0. -/
def minI (a b : Word) : Word :=
  let x := f32Val a
  let y := f32Val b
  if x.isNan then (if y.isNan then f32Nan else b)
  else if y.isNan then a
  else if x.lt y then a else if y.lt x then b
  else if x.sign then a else b

/-- The greater of two lanes; max(+0, −0) is +0. -/
def maxI (a b : Word) : Word :=
  let x := f32Val a
  let y := f32Val b
  if x.isNan then (if y.isNan then f32Nan else b)
  else if y.isNan then a
  else if x.lt y then b else if y.lt x then a
  else if x.sign then b else a

/-- Round a finite value to an integer, ties to even (round_half_even, R75). -/
def rneInt (s : Bool) (n d : Nat) (e : Int) : Int :=
  let k : Int := rneScaled n d e
  if s then -k else k

/-- VCVTI of one lane (R155): to nearest even, saturating, NaN to 0. -/
def cvtI (a : Word) : Word :=
  match f32Val a with
  | .nan => 0
  | .inf s => if s then 0x8000_0000 else 0x7FFF_FFFF
  | .fin s m e =>
    let i := rneInt s m 1 e
    if i < -2147483648 then 0x8000_0000 else if 2147483647 < i then 0x7FFF_FFFF else BitVec.ofInt 32 i

/-! ## W20 (R55 to R58) -/

/-- The W20 code of a value (R55): exponent bias 255, ten mantissa bits; every finite code of at most 11 significant
bits is exact, a longer significand is truncated toward zero (R58); the canonical NaN is 0x7_FE00. -/
def w20Of : FVal → BitVec 20
  | .nan => 0x7FE00
  | .inf s => BitVec.ofNat 20 (boolNat s * 2 ^ 19 + 511 * 2 ^ 10)
  | .fin s m e =>
    if m = 0 then BitVec.ofNat 20 (boolNat s * 2 ^ 19) else
    let l := Nat.log2 m
    let man := if l ≤ 10 then m * 2 ^ (10 - l) else m / 2 ^ (l - 10)
    BitVec.ofNat 20 (boolNat s * 2 ^ 19 + ((l : Int) + e + 255).toNat * 2 ^ 10 + (man - 2 ^ 10))

/-- The value of a W20 code (R55). -/
def w20Val (w : BitVec 20) : FVal :=
  let s := bitOf w.toNat 19
  let E := bitsOf w.toNat 18 10
  let M := w.toNat % 2 ^ 10
  if E = 511 then (if M = 0 then .inf s else .nan)
  else if E = 0 then .fin s 0 0
  else .fin s (2 ^ 10 + M) ((E : Int) - 265)

/-- The unbiased exponent of a finite non-zero value. -/
def FVal.expo : FVal → Int
  | .fin _ m e => (Nat.log2 m : Int) + e
  | _ => 0

/-- hi and lo of an FP32 operand (R58): each truncated toward zero to 11 significant bits; a special value gives hi
equal to it and lo +0. -/
def splitHiLo (v : FVal) : FVal × FVal :=
  match v with
  | .fin s m e =>
    let hi := w20Val (w20Of (.fin s m e))
    let r := v.add hi.neg
    (hi, if r.isZero then .fin false 0 0 else w20Val (w20Of r))
  | x => (x, .fin false 0 0)

/-! ## The beat sum (R63, R64) -/

/-- A product of two W20 values with its product exponent ea + eb (R63). -/
def w20Prod (a b : BitVec 20) : FVal × Int :=
  let x := w20Val a
  let y := w20Val b
  (x.mul y, x.expo + y.expo)

/-- One truncated term of a beat sum, in units of q = 2^(emax − 40) (R64). -/
def beatTerm (q : Int) : FVal → Int
  | .fin s m e =>
    let k : Int := if q ≤ e then (m * 2 ^ (e - q).toNat : Nat) else (m / 2 ^ (q - e).toNat : Nat)
    if s then -k else k
  | _ => 0

/-- The beat sum of n products (R64): it depends on the multiset of products alone. -/
def beatSum (ps : List (FVal × Int)) : Word :=
  if ps.any (fun p => p.1.isNan) then f32Nan
  else if ps.any (fun p => p.1 == .inf false) && ps.any (fun p => p.1 == .inf true) then f32Nan
  else if ps.any (fun p => p.1 == .inf false) then f32Inf false
  else if ps.any (fun p => p.1 == .inf true) then f32Inf true
  else
    match ps.filter (fun p => !p.1.isZero) with
    | [] => 0
    | nz@(p :: _) =>
      let emax := nz.foldl (fun m p => max m p.2) p.2
      let q := emax - 40
      let k := nz.foldl (fun a p => a + beatTerm q p.1) 0
      f32Quot (decide (k < 0)) k.natAbs 1 q

/-! ## Narrowing stores (R73 to R76) -/

/-- Flags a narrowing store may raise (R111). -/
structure NFlags where
  nan : Bool
  ovf : Bool
  clamp : Bool
  deriving DecidableEq, Repr

def NFlags.none : NFlags := ⟨false, false, false⟩
def NFlags.or (a b : NFlags) : NFlags := ⟨a.nan || b.nan, a.ovf || b.ovf, a.clamp || b.clamp⟩

/-- narrow(x, fmt, mode) of R73 on a grid; `im` is mode INF. A zero result keeps the sign of x; OVF_STORE is set where
the largest finite value or an infinity replaces a larger result, and not for an infinity stored as an infinity. Mode INF acts for
FP32 as for the other formats that have an infinity (DESIGN CHOICE, Log 75). -/
def FGrid.narrow (g : FGrid) (im : Bool) (x : FVal) : Nat × NFlags :=
  let sgn := fun (s : Bool) (c : Nat) => c + boolNat s * 2 ^ (g.eb + g.mb)
  match x with
  | .nan => if g.hasNan then (g.nanCode, .none) else (0, ⟨true, false, false⟩)
  | .inf s => if g.hasInf && im then (sgn s (g.maxCode + 1), .none) else (sgn s g.maxCode, ⟨false, true, false⟩)
  | .fin s m e =>
    let c := g.rneMag m 1 e
    if c ≤ g.maxCode then (sgn s c, .none)
    else if g.hasInf && im then (sgn s (g.maxCode + 1), ⟨false, true, false⟩)
    else (sgn s g.maxCode, ⟨false, true, false⟩)

/-- A store to an integer code range `[lo, hi]` with destination scale and zero point (R75). -/
def narrowInt (lo hi : Int) (s : FVal) (z : Int) (x : FVal) : Int × NFlags :=
  match x.div s with
  | .nan => (z, ⟨true, false, false⟩)
  | .inf n => (if n then lo else hi, ⟨false, false, true⟩)
  | .quot n a d e =>
    let i := rneInt n a d e + z
    if i < lo then (lo, ⟨false, false, true⟩) else if hi < i then (hi, ⟨false, false, true⟩) else (i, .none)

/-- The element rule of an MX store: a grid, or INT8 with its implicit factor 2^−6 (R53, R76). -/
inductive MxElem where
  | grid (g : FGrid) (emax : Int)
  | int8
  deriving DecidableEq, Repr

def MxElem.emax : MxElem → Int
  | .grid _ e => e
  | .int8 => 0

/-- One element code of an MX block with scale exponent e (R76). -/
def MxElem.code (k : MxElem) (e : Int) (x : FVal) : Nat × NFlags :=
  match k, x with
  | .grid g _, .fin s m f => g.narrow false (.fin s m (f - e))
  | .grid g _, v => g.narrow false v
  | .int8, .fin s m f =>
    let i := rneInt s m 1 (f + 6 - e)
    if i < -127 then (0x81, ⟨false, false, true⟩) else if 127 < i then (0x7F, ⟨false, false, true⟩)
    else (wrapOf 8 i, .none)
  | .int8, _ => (0, .none)

/-- mx_block of R76: the scale byte and the element codes of one block. -/
def mxBlock (k : MxElem) (xs : List FVal) : Nat × List (Nat × NFlags) :=
  let bad := xs.any (fun v => match v with | .fin _ _ _ => false | _ => true)
  if bad then (0xFF, xs.map (fun _ => (0, NFlags.none)))
  else
    let nz := xs.filter (fun v => !v.isZero)
    match nz with
    | [] => (0, xs.map (fun _ => (0, NFlags.none)))
    | v :: t =>
      let top := t.foldl (fun a x => max a x.expo) v.expo
      let e := max (-127) (min 127 (top - k.emax))
      ((e + 127).toNat, xs.map (k.code e))

end Sys2Proof.Machine
end

