-- ==== Sys2Proof/Machine/Special.lean ====
section
/-! DEFINITION. The special functions (R78, R79, Table 3.7): their special values, the exact result to more than 320 binary
places by integer series, the bound of each, and the value a lane takes: a fixed function of the operand that keeps the
bound and is otherwise free (Log 11). -/
namespace Sys2Proof.Machine

/-! ## The functions and their special values -/

/-- The function codes of VFN (R156). -/
inductive Sfn where
  | rcp | rsqrt | exp2 | exp | log2 | log | sin | cos | tanh | sigmoid | erf | gelu | geluTanh | silu
  deriving DecidableEq, Repr

def Sfn.code : Sfn → Nat
  | .rcp => 0 | .rsqrt => 1 | .exp2 => 2 | .exp => 3 | .log2 => 4 | .log => 5 | .sin => 6 | .cos => 7
  | .tanh => 8 | .sigmoid => 9 | .erf => 10 | .gelu => 11 | .geluTanh => 12 | .silu => 13

def Sfn.ofCode : Nat → Option Sfn
  | 0 => some .rcp | 1 => some .rsqrt | 2 => some .exp2 | 3 => some .exp | 4 => some .log2 | 5 => some .log
  | 6 => some .sin | 7 => some .cos | 8 => some .tanh | 9 => some .sigmoid | 10 => some .erf | 11 => some .gelu
  | 12 => some .geluTanh | 13 => some .silu | _ => none

/-- The special value Table 3.7 states for this operand, if it states one. -/
def Sfn.special (f : Sfn) (w : Word) : Option Word :=
  let one : Word := 0x3F80_0000
  let mone : Word := 0xBF80_0000
  match f, f32Val w with
  | _, .nan => some f32Nan
  | .rcp, .fin s 0 _ => some (f32Inf s)
  | .rcp, .inf s => some (if s then 0x8000_0000 else 0)
  | .rsqrt, .fin s 0 _ => some (f32Inf s)
  | .rsqrt, .fin true _ _ => some f32Nan
  | .rsqrt, .inf s => some (if s then f32Nan else 0)
  | .exp2, .inf s => some (if s then 0 else f32Inf false)
  | .exp, .inf s => some (if s then 0 else f32Inf false)
  | .exp2, v => if v.lt (.fin false 128 0) then none else some (f32Inf false)
  | .exp, v => if v.lt (.fin false 128 0) then none else some (f32Inf false)
  | .log2, .fin _ 0 _ => some (f32Inf true)
  | .log, .fin _ 0 _ => some (f32Inf true)
  | .log2, .fin true _ _ => some f32Nan
  | .log, .fin true _ _ => some f32Nan
  | .log2, .inf s => some (if s then f32Nan else f32Inf false)
  | .log, .inf s => some (if s then f32Nan else f32Inf false)
  | .sin, .inf _ => some f32Nan
  | .cos, .inf _ => some f32Nan
  | .sin, .fin s 0 _ => some (if s then 0x8000_0000 else 0)
  | .tanh, .inf s => some (if s then mone else one)
  | .tanh, .fin s 0 _ => some (if s then 0x8000_0000 else 0)
  | .sigmoid, .inf s => some (if s then 0 else one)
  | .erf, .inf s => some (if s then mone else one)
  | .gelu, .inf s => some (if s then 0x8000_0000 else f32Inf false)
  | .geluTanh, .inf s => some (if s then 0x8000_0000 else f32Inf false)
  | .silu, .inf s => some (if s then 0x8000_0000 else f32Inf false)
  | _, _ => none

/-! ## The exact result, as an integer in units of 2^-768 -/

/-- Binary places of the fixed-point values below. -/
def fxBits : Nat := 768
def fxOne : Int := 2 ^ fxBits
def fxMul (a b : Int) : Int := a * b / fxOne
def fxDiv (a b : Int) : Int := a * fxOne / b

/-- A finite FP32 value, exactly. -/
def fxOf (neg : Bool) (m : Nat) (e : Int) : Int := (if neg then -1 else 1) * ((m * 2 ^ (e + fxBits).toNat : Nat) : Int)

/-- The sum of `c / (2k + 1)` over `k`, `c` falling by the factor `q` each time. -/
def fxOddSum (q : Int) : (n k : Nat) → (c acc : Int) → Int
  | 0, _, _, acc => acc
  | n + 1, k, c, acc => fxOddSum q n (k + 1) (fxMul c q) (acc + c / (2 * k + 1))

/-- Inverse hyperbolic tangent for arguments up to 1/3. -/
def fxAtanh (z : Int) : Int := fxOddSum (fxMul z z) 260 0 z 0
/-- Inverse tangent of 1/n. -/
def fxAtanInv (n : Int) : Int := fxOddSum (-(fxOne / (n * n))) 340 0 (fxOne / n) 0
def fxLn2 : Int := 2 * fxAtanh (fxOne / 3)
/-- Machin's formula. -/
def fxPi : Int := 16 * fxAtanInv 5 - 4 * fxAtanInv 239
/-- Square root of a value at least 0. -/
def fxSqrt (a : Int) : Int := (isqrtBits (a * fxOne).toNat (fxBits + 128) 0 : Nat)

/-- The power series with each term the one before times `x / (k + 1)`. -/
def fxExpSum (x : Int) : (n k : Nat) → (c acc : Int) → Int
  | 0, _, _, acc => acc
  | n + 1, k, c, acc => fxExpSum x n (k + 1) (fxMul c x / (k + 1)) (acc + c)

/-- 2 to the power `k` times a value. -/
def fxScale (k : Int) (a : Int) : Int := if 0 ≤ k then a * 2 ^ k.toNat else a / 2 ^ (-k).toNat

/-- 2 to the power `x`, 0 for `x` below −2000 and taken at 1000 above it. -/
def fxExp2 (x : Int) : Int :=
  if x < -2000 * fxOne then 0
  else
    let y := min x (1000 * fxOne)
    let k := y / fxOne
    fxScale k (fxExpSum (fxMul (y - k * fxOne) fxLn2) 160 0 fxOne 0)

/-- e to the power `x`. -/
def fxExp (x : Int) : Int := if x < -1400 * fxOne then 0 else fxExp2 (fxDiv (min x (600 * fxOne)) fxLn2)

/-- Natural logarithm of a value above 0. -/
def fxLn (a : Int) : Int :=
  let k : Int := (a.toNat.log2 : Int) - fxBits
  let m := fxScale (-k) a
  2 * fxAtanh (fxDiv (m - fxOne) (m + fxOne)) + k * fxLn2

/-- The terms `c` of a sine or cosine, each the one before times `-x² / ((k + 1) (k + 2))`. -/
def fxTrigSum (q : Int) : (n k : Nat) → (c acc : Int) → Int
  | 0, _, _, acc => acc
  | n + 1, k, c, acc => fxTrigSum q n (k + 2) (-(fxMul c q) / ((k + 1) * (k + 2))) (acc + c)

/-- Sine of `x + quarter` quarter turns: the argument is reduced to an eighth of a turn. -/
def fxSin (x : Int) (quarter : Int) : Int :=
  let h := fxPi / 2
  let k := (x + h / 2) / h
  let r := x - k * h
  let q := fxMul r r
  let n := (k + quarter) % 4
  let v := if n % 2 = 0 then fxTrigSum q 90 1 r 0 else fxTrigSum q 90 0 fxOne 0
  if n < 2 then v else -v

/-- 1 / (1 + e^-x). -/
def fxSigmoid (x : Int) : Int :=
  if 0 ≤ x then fxDiv fxOne (fxOne + fxExp (-x)) else let e := fxExp x; fxDiv e (fxOne + e)

/-- The terms of the error function's series, each the one before times `2 x² / (2 k + 3)`. -/
def fxErfSum (q : Int) : (n k : Nat) → (c acc : Int) → Int
  | 0, _, _, acc => acc
  | n + 1, k, c, acc => fxErfSum q n (k + 1) (2 * fxMul c q / (2 * k + 3)) (acc + c)

/-- The error function; beyond 16 it is 1 to 370 binary places. -/
def fxErf (x : Int) : Int :=
  let a : Int := x.natAbs
  let v := if 16 * fxOne ≤ a then fxOne
    else
      let q := fxMul a a
      fxDiv (2 * fxMul (fxExp (-q)) (fxErfSum q 1200 0 a 0)) (fxSqrt fxPi)
  if 0 ≤ x then v else -v

/-- The result of a function on a finite operand that has no special value. The cubic form of gelu_tanh is the one in
general use: 0.5 x (1 + tanh(sqrt(2/π) (x + 0.044715 x³))) (Log 11). -/
def Sfn.exact (f : Sfn) (x : Int) : Int :=
  match f with
  | .rcp => fxDiv fxOne x
  | .rsqrt => (isqrtBits ((fxOne * fxOne * fxOne) / x).toNat (fxBits + 128) 0 : Nat)
  | .exp2 => fxExp2 x
  | .exp => fxExp x
  | .log2 => fxDiv (fxLn x) fxLn2
  | .log => fxLn x
  | .sin => fxSin x 0
  | .cos => fxSin x 1
  | .tanh => 2 * fxSigmoid (2 * x) - fxOne
  | .sigmoid => fxSigmoid x
  | .erf => fxErf x
  | .gelu => fxMul x (fxOne + fxErf (fxDiv x (fxSqrt (2 * fxOne)))) / 2
  | .geluTanh =>
    let y := max (-64 * fxOne) (min (64 * fxOne) x)
    let u := fxMul (fxSqrt (fxDiv (2 * fxOne) fxPi)) (y + 44715 * fxMul y (fxMul y y) / 1000000)
    fxMul x (fxSigmoid (2 * u))
  | .silu => fxMul x (fxSigmoid x)

/-! ## The bounds of Table 3.7 -/

/-- The spacing of FP32 values at a result (R78). -/
def fxUlp (y : Int) : Int :=
  let e := max (-126) ((y.natAbs.log2 : Int) - fxBits)
  2 ^ (e - 23 + fxBits).toNat

/-- The maximum error at operand `x` and exact result `y`. -/
def Sfn.bound (f : Sfn) (x y : Int) : Int :=
  match f with
  | .rcp | .rsqrt | .exp2 | .log2 => fxUlp y
  | .exp | .log | .tanh | .sigmoid | .erf => 2 * fxUlp y
  | .sin | .cos => if (x.natAbs : Int) ≤ 65536 * fxOne then 2 * fxUlp y else 2 ^ (fxBits - 20)
  | .gelu | .geluTanh | .silu => if (y.natAbs : Int) < 2 ^ (fxBits - 126) then 2 ^ (fxBits - 126) else 3 * fxUlp y

/-- The value of an FP32 word in the same units, an infinity taken as 2^128; a NaN has none. -/
def fxWord (w : Word) : Option Int :=
  match f32Val w with
  | .nan => none
  | .inf s => some ((if s then -1 else 1) * 2 ^ (fxBits + 128))
  | .fin s m e => some (fxOf s m e)

/-- Is `r` within the bound of the exact result `y`? The integer series err by less than 2^-320. Where no FP32 value is
within it, the largest finite value and the infinity of the sign are. -/
def Sfn.within (f : Sfn) (x y : Int) (r : Word) : Bool :=
  let t := f.bound x y + 2 ^ (fxBits - 320)
  let near := fun (v : Int) => decide (((v - y).natAbs : Int) ≤ t)
  match fxWord r with
  | none => false
  | some v =>
    near v || (decide (2 ^ (fxBits + 128) + t < (y.natAbs : Int)) && decide (0 < v ↔ 0 < y)
      && decide (0x7F7F_FFFF ≤ r.toNat % 2 ^ 31))

/-- The FP32 value nearest to an exact result. -/
def fxNearest (y : Int) : Word := f32Quot (decide (y < 0)) y.natAbs 1 (-(fxBits : Int))

/-- A special function of Table 3.7: its stated special values; elsewhere the implementation's own value where that keeps
the bound, else the nearest one (R78, R79). Log 11. -/
def sfnApply (f : Sfn) (w : Word) : Word :=
  match f.special w with
  | some v => v
  | none =>
    match f32Val w with
    | .fin s m e =>
      let x := fxOf s m e
      let y := f.exact x
      let r := Config.specialFn f.code w
      if f.within x y r then r else fxNearest y
    | _ => f32Nan

end Sys2Proof.Machine
end

