-- ==== Sys2Proof/Machine/Formats.lean ====
section
/-! DEFINITION. Storage formats by format code (Table 4.4), packing of narrow codes (R52), the value of an element with
its MX scale (R53, R56, R57), and tile descriptors (R89 to R91). -/
namespace Sys2Proof.Machine

/-- The storage formats of Table 4.4. -/
inductive Fmt where
  | int4 | uint4 | int8 | uint8 | fp4 | fp6e2m3 | fp6e3m2 | fp8e4m3 | fp8e5m2 | bf16 | fp16 | fp32
  | mxfp4 | mxfp6e2m3 | mxfp6e3m2 | mxfp8e4m3 | mxfp8e5m2 | mxint8
  deriving DecidableEq, Repr

/-- The format of a format code (Table 4.4); the other codes are reserved. -/
def Fmt.ofCode : Nat → Option Fmt
  | 0x00 => some .int4 | 0x01 => some .uint4 | 0x02 => some .int8 | 0x03 => some .uint8
  | 0x04 => some .fp4 | 0x05 => some .fp6e2m3 | 0x06 => some .fp6e3m2 | 0x07 => some .fp8e4m3
  | 0x08 => some .fp8e5m2 | 0x09 => some .bf16 | 0x0A => some .fp16 | 0x0B => some .fp32
  | 0x10 => some .mxfp4 | 0x11 => some .mxfp6e2m3 | 0x12 => some .mxfp6e3m2 | 0x13 => some .mxfp8e4m3
  | 0x14 => some .mxfp8e5m2 | 0x15 => some .mxint8
  | _ => none

/-- Bits of one element (Table 3.1). -/
def Fmt.bits : Fmt → Nat
  | .int4 | .uint4 | .fp4 | .mxfp4 => 4
  | .fp6e2m3 | .fp6e3m2 | .mxfp6e2m3 | .mxfp6e3m2 => 6
  | .int8 | .uint8 | .fp8e4m3 | .fp8e5m2 | .mxfp8e4m3 | .mxfp8e5m2 | .mxint8 => 8
  | .bf16 | .fp16 => 16
  | .fp32 => 32

/-- Is the format one of the four integer formats, which alone have zero points (R54)? -/
def Fmt.isInt : Fmt → Bool
  | .int4 | .uint4 | .int8 | .uint8 => true
  | _ => false

/-- Is the format an MX format (R53)? -/
def Fmt.isMx : Fmt → Bool
  | .mxfp4 | .mxfp6e2m3 | .mxfp6e3m2 | .mxfp8e4m3 | .mxfp8e5m2 | .mxint8 => true
  | _ => false

/-- May the format take part in pair mode (R61)? -/
def Fmt.pairOk : Fmt → Bool
  | .int4 | .uint4 | .fp4 | .mxfp4 => true
  | _ => false

/-- The code range of an integer format. -/
def Fmt.intRange : Fmt → Int × Int
  | .int4 => (-8, 7)
  | .uint4 => (0, 15)
  | .int8 => (-128, 127)
  | _ => (0, 255)

/-- The integer a code of an integer format stands for. -/
def Fmt.intVal (f : Fmt) (c : Nat) : Int :=
  match f with
  | .int4 => signedOf 4 c
  | .int8 => signedOf 8 c
  | _ => (c : Int)

/-- The grid of a floating-point element format. -/
def Fmt.grid : Fmt → Option FGrid
  | .fp4 | .mxfp4 => some gridE2M1
  | .fp6e2m3 | .mxfp6e2m3 => some gridE2M3
  | .fp6e3m2 | .mxfp6e3m2 => some gridE3M2
  | .fp8e4m3 | .mxfp8e4m3 => some gridE4M3
  | .fp8e5m2 | .mxfp8e5m2 => some gridE5M2
  | .bf16 => some gridBF16
  | .fp16 => some gridFP16
  | .fp32 => some gridFP32
  | _ => none

/-- The element rule of an MX store (R76). -/
def Fmt.mxElem : Fmt → MxElem
  | .mxfp4 => .grid gridE2M1 2
  | .mxfp6e2m3 => .grid gridE2M3 2
  | .mxfp6e3m2 => .grid gridE3M2 4
  | .mxfp8e4m3 => .grid gridE4M3 8
  | .mxfp8e5m2 => .grid gridE5M2 15
  | _ => .int8

/-- The value of an element code before any scale (R51); MXINT8 carries 2^−6 (R53). -/
def Fmt.elemVal (f : Fmt) (c : Nat) : FVal :=
  match f.grid with
  | some g => g.value c
  | none => match f with
    | .mxint8 => .fin (decide (signedOf 8 c < 0)) (signedOf 8 c).natAbs (-6)
    | _ => FVal.ofInt (f.intVal c)

/-- The value times 2^(X − 127); every element of a block whose scale is 0xFF is NaN (R53, R57). -/
def mxScale (x : Nat) (v : FVal) : FVal :=
  if x = 0xFF then .nan else
  match v with
  | .fin s m e => .fin s m (e + (x : Int) - 127)
  | w => w

/-- Element `i` of a packed little-endian byte string held as a number (R52): codes fill from the least significant
bit upward. -/
def packedElem (f : Fmt) (v i : Nat) : Nat := v / 2 ^ (f.bits * i) % 2 ^ f.bits

/-! ## Tile descriptors (R89) -/

/-- A tile descriptor: its two words (Table 4.3). -/
structure TileDesc where
  w0 : DWord
  w1 : DWord
  deriving DecidableEq, Repr

namespace TileDesc
def orient (t : TileDesc) : Bool := bitOf t.w0.toNat 63
def pitch (t : TileDesc) : Nat := bitsOf t.w0.toNat 62 48
def cols (t : TileDesc) : Nat := bitsOf t.w0.toNat 47 32
def rows (t : TileDesc) : Nat := bitsOf t.w0.toNat 31 16
def base (t : TileDesc) : Nat := bitsOf t.w0.toNat 14 0
def zpEn (t : TileDesc) : Bool := bitOf t.w1.toNat 39
def zpRef (t : TileDesc) : Nat := bitsOf t.w1.toNat 38 24
def scEn (t : TileDesc) : Bool := bitOf t.w1.toNat 23
def scRef (t : TileDesc) : Nat := bitsOf t.w1.toNat 22 8
def zpPc (t : TileDesc) : Bool := bitOf t.w1.toNat 7
def scPc (t : TileDesc) : Bool := bitOf t.w1.toNat 6
def ovf (t : TileDesc) : Bool := bitOf t.w1.toNat 5
def fmtCode (t : TileDesc) : Nat := bitsOf t.w1.toNat 4 0
def fmt (t : TileDesc) : Option Fmt := Fmt.ofCode t.fmtCode
/-- A reserved bit is set: w0 [15] or w1 [63:40]. -/
def reservedSet (t : TileDesc) : Bool := bitOf t.w0.toNat 15 || bitsOf t.w1.toNat 63 40 != 0
/-- Cells of one tile row (R91). -/
def rowCells (t : TileDesc) (f : Fmt) : Nat := ceilDiv' (t.cols * f.bits) 128
/-- The cell index of cell `j` of tile row `r` (R91). -/
def cell (t : TileDesc) (r j : Nat) : Nat := t.base + r * t.pitch + (if t.orient then 32 * j else j)
/-- The byte address of the MX scale of block `b` of tile row `r` (R89). -/
def mxScaleByte (t : TileDesc) (r b : Nat) : Nat := 16 * t.scRef + r * ceilDiv' t.cols 32 + b
end TileDesc

end Sys2Proof.Machine
end

