-- ==== Sys2Proof/Machine/RegMap.lean ====
section
/-! DEFINITION. The BAR0 register map: every register group of the spec with its offset, its strides, its width and its
fields (access code and reset value), from the register tables of the chapters named at each group. Reset values the
spec gives as per part, per manifest or per flash are DESIGN CHOICEs (logs 4 and 5). -/
namespace Sys2Proof.Machine

/-- The access codes of Table 0.5. -/
inductive Acc where
  | ro | rw | w1c | w1s | wo | rc
  deriving DecidableEq, Repr

/-- A register field: bits [hi:lo], its access code, its reset value. -/
structure RegField where
  hi : Nat
  lo : Nat
  acc : Acc
  reset : Nat
  deriving DecidableEq, Repr

/-- A group of equal registers: base offset, (count, stride) of each index, width in bits, fields. -/
structure RegGroup where
  name : String
  base : Nat
  strides : List (Nat × Nat)
  width : Nat
  fields : List RegField
  deriving DecidableEq, Repr

/-- BAR0 offset of GLB_IDENT (00_scope.md R5). -/
def Reg.GLB_IDENT : Nat := 0x0
/-- BAR0 offset of GLB_STATE (01_device_and_loop.md R26). -/
def Reg.GLB_STATE : Nat := 0x4
/-- BAR0 offset of GLB_TC_MARKED (01_device_and_loop.md R28). -/
def Reg.GLB_TC_MARKED : Nat := 0x8
/-- BAR0 offset of GLB_HOST (16_host_link.md R492). -/
def Reg.GLB_HOST : Nat := 0x100
/-- BAR0 offset of GLB_HOSTCTL (16_host_link.md R493). -/
def Reg.GLB_HOSTCTL : Nat := 0x108
/-- BAR0 offset of GLB_LINK (16_host_link.md R494). -/
def Reg.GLB_LINK : Nat := 0x110
/-- BAR0 offset of GLB_ACCERR (16_host_link.md R495). -/
def Reg.GLB_ACCERR : Nat := 0x118
/-- BAR0 offset of GLB_QVEC (16_host_link.md R496). -/
def Reg.GLB_QVEC (i0 : Nat) : Nat := 0x10000 + 4 * i0
/-- BAR0 offset of PWR_BEAT_CTRL (02_self_timed_interior.md R44). -/
def Reg.PWR_BEAT_CTRL : Nat := 0x600400
/-- BAR0 offset of PWR_FLOOR_STAT (02_self_timed_interior.md R45). -/
def Reg.PWR_FLOOR_STAT : Nat := 0x600404
/-- BAR0 offset of PWR_BEAT_ISL (02_self_timed_interior.md R46). -/
def Reg.PWR_BEAT_ISL (i0 : Nat) : Nat := 0x600440 + 8 * i0
/-- BAR0 offset of TC_STATUS (04_tensor_core.md R110). -/
def Reg.TC_STATUS (i0 i1 : Nat) : Nat := 0x1000000 + 0x200000 * i0 + 0x20000 * i1
/-- BAR0 offset of TC_ASTAT (04_tensor_core.md R111). -/
def Reg.TC_ASTAT (i0 i1 : Nat) : Nat := 0x1000004 + 0x200000 * i0 + 0x20000 * i1
/-- BAR0 offset of TC_PC (04_tensor_core.md R112). -/
def Reg.TC_PC (i0 i1 : Nat) : Nat := 0x1000008 + 0x200000 * i0 + 0x20000 * i1
/-- BAR0 offset of LGN_TAG (07_lagoon.md R219). -/
def Reg.LGN_TAG (i0 i1 i2 : Nat) : Nat := 0x1008000 + 0x200000 * i0 + 0x20000 * i1 + 8 * i2
/-- BAR0 offset of LGN_LIVE (07_lagoon.md R219). -/
def Reg.LGN_LIVE (i0 i1 i2 : Nat) : Nat := 0x1008010 + 0x200000 * i0 + 0x20000 * i1 + 8 * i2
/-- BAR0 offset of LGN_WAIT (07_lagoon.md R220). -/
def Reg.LGN_WAIT (i0 i1 : Nat) : Nat := 0x1008020 + 0x200000 * i0 + 0x20000 * i1
/-- BAR0 offset of LGN_SCRUB (07_lagoon.md R221). -/
def Reg.LGN_SCRUB (i0 i1 : Nat) : Nat := 0x1008028 + 0x200000 * i0 + 0x20000 * i1
/-- BAR0 offset of LGN_ECC (07_lagoon.md R222). -/
def Reg.LGN_ECC (i0 i1 : Nat) : Nat := 0x1008030 + 0x200000 * i0 + 0x20000 * i1
/-- BAR0 offset of FRY_STATUS (08_ferries_and_rings.md R255). -/
def Reg.FRY_STATUS (i0 i1 i2 : Nat) : Nat := 0x1010000 + 0x200000 * i0 + 0x20000 * i1 + 0x100 * i2
/-- BAR0 offset of FRY_BYTES (08_ferries_and_rings.md R256). -/
def Reg.FRY_BYTES (i0 i1 i2 : Nat) : Nat := 0x1010008 + 0x200000 * i0 + 0x20000 * i1 + 0x100 * i2
/-- BAR0 offset of FRY_X (08_ferries_and_rings.md R257). -/
def Reg.FRY_X (i0 i1 i2 i3 : Nat) : Nat := 0x1010010 + 0x200000 * i0 + 0x20000 * i1 + 0x100 * i2 + 8 * i3
/-- BAR0 offset of FRY_LATE (08_ferries_and_rings.md R258). -/
def Reg.FRY_LATE (i0 i1 : Nat) : Nat := 0x1010200 + 0x200000 * i0 + 0x20000 * i1
/-- BAR0 offset of BFRY_STATUS (08_ferries_and_rings.md R254). -/
def Reg.BFRY_STATUS (i0 i1 : Nat) : Nat := 0x1108000 + 0x200000 * i0 + 0x100 * i1
/-- BAR0 offset of BFRY_BYTES (08_ferries_and_rings.md R254). -/
def Reg.BFRY_BYTES (i0 i1 : Nat) : Nat := 0x1108008 + 0x200000 * i0 + 0x100 * i1
/-- BAR0 offset of BFRY_X (08_ferries_and_rings.md R254). -/
def Reg.BFRY_X (i0 i1 i2 : Nat) : Nat := 0x1108010 + 0x200000 * i0 + 0x100 * i1 + 8 * i2
/-- BAR0 offset of HBR_ECC (11_memory.md R346). -/
def Reg.HBR_ECC (i0 : Nat) : Nat := 0x1100000 + 0x200000 * i0
/-- BAR0 offset of HBR_CECC (11_memory.md R346). -/
def Reg.HBR_CECC (i0 : Nat) : Nat := 0x1100008 + 0x200000 * i0
/-- BAR0 offset of ITK_PORT_CFG (09_vision_path.md R290). -/
def Reg.ITK_PORT_CFG (i0 : Nat) : Nat := 0xB00000 + 8 * i0
/-- BAR0 offset of ITK_STR_CFG (09_vision_path.md R291). -/
def Reg.ITK_STR_CFG (i0 : Nat) : Nat := 0xB01000 + 0x80 * i0
/-- BAR0 offset of ITK_STR_RING (09_vision_path.md R291). -/
def Reg.ITK_STR_RING (i0 : Nat) : Nat := 0xB01008 + 0x80 * i0
/-- BAR0 offset of ITK_STR_STAT (09_vision_path.md R291). -/
def Reg.ITK_STR_STAT (i0 : Nat) : Nat := 0xB01010 + 0x80 * i0
/-- BAR0 offset of ITK_STR_DESC (09_vision_path.md R290). -/
def Reg.ITK_STR_DESC (i0 i1 : Nat) : Nat := 0xB01040 + 0x80 * i0 + 4 * i1
/-- BAR0 offset of ITK_JQ_BASE (09_vision_path.md R291). -/
def Reg.ITK_JQ_BASE (i0 : Nat) : Nat := 0xB02000 + 0x40 * i0
/-- BAR0 offset of ITK_JQ_RING (09_vision_path.md R291). -/
def Reg.ITK_JQ_RING (i0 : Nat) : Nat := 0xB02008 + 0x40 * i0
/-- BAR0 offset of ITK_JQ_PTR (09_vision_path.md R292). -/
def Reg.ITK_JQ_PTR (i0 : Nat) : Nat := 0xB02010 + 0x40 * i0
/-- BAR0 offset of ITK_DEC_CTRL (09_vision_path.md R292). -/
def Reg.ITK_DEC_CTRL : Nat := 0xB03000
/-- BAR0 offset of MEM_CFG (11_memory.md R346). -/
def Reg.MEM_CFG : Nat := 0x400000
/-- BAR0 offset of MEM_XTS (11_memory.md R346). -/
def Reg.MEM_XTS : Nat := 0x400008
/-- BAR0 offset of MEM_SCRUB (11_memory.md R346). -/
def Reg.MEM_SCRUB : Nat := 0x400010
/-- BAR0 offset of MEM_INV (11_memory.md R346). -/
def Reg.MEM_INV : Nat := 0x400020
/-- BAR0 offset of MEM_INV_STAT (11_memory.md R346). -/
def Reg.MEM_INV_STAT : Nat := 0x400028
/-- BAR0 offset of MEM_FRING (11_memory.md R346). -/
def Reg.MEM_FRING : Nat := 0x400030
/-- BAR0 offset of MEM_FRING_PTR (11_memory.md R346). -/
def Reg.MEM_FRING_PTR : Nat := 0x400038
/-- BAR0 offset of MEM_FAULT_RESP (11_memory.md R346). -/
def Reg.MEM_FAULT_RESP : Nat := 0x400040
/-- BAR0 offset of MEM_FAULT_STAT (11_memory.md R346). -/
def Reg.MEM_FAULT_STAT : Nat := 0x400048
/-- BAR0 offset of MEM_ECC (11_memory.md R346). -/
def Reg.MEM_ECC : Nat := 0x400050
/-- BAR0 offset of MEM_AS (11_memory.md R346). -/
def Reg.MEM_AS (i0 : Nat) : Nat := 0x401000 + 8 * i0
/-- BAR0 offset of SCH_QRING (12_scheduling.md R347). -/
def Reg.SCH_QRING (i0 : Nat) : Nat := 0x100000 + 0x20 * i0
/-- BAR0 offset of SCH_QCPL (12_scheduling.md R347). -/
def Reg.SCH_QCPL (i0 : Nat) : Nat := 0x100008 + 0x20 * i0
/-- BAR0 offset of SCH_QCFG (12_scheduling.md R350). -/
def Reg.SCH_QCFG (i0 : Nat) : Nat := 0x100010 + 0x20 * i0
/-- BAR0 offset of SCH_QPTR (12_scheduling.md R350). -/
def Reg.SCH_QPTR (i0 : Nat) : Nat := 0x100018 + 0x20 * i0
/-- BAR0 offset of SCH_CTX_CFG (12_scheduling.md R365). -/
def Reg.SCH_CTX_CFG (i0 : Nat) : Nat := 0x180000 + 0x80 * i0
/-- BAR0 offset of SCH_CTX_SEED (12_scheduling.md R364). -/
def Reg.SCH_CTX_SEED (i0 i1 : Nat) : Nat := 0x180008 + 0x80 * i0 + 8 * i1
/-- BAR0 offset of SCH_CTX_STEP (12_scheduling.md R364). -/
def Reg.SCH_CTX_STEP (i0 : Nat) : Nat := 0x180018 + 0x80 * i0
/-- BAR0 offset of SCH_CTX_NDCOUNT (12_scheduling.md R364). -/
def Reg.SCH_CTX_NDCOUNT (i0 : Nat) : Nat := 0x180020 + 0x80 * i0
/-- BAR0 offset of SCH_CTX_PERF (12_scheduling.md R377). -/
def Reg.SCH_CTX_PERF (i0 : Nat) : Nat := 0x180028 + 0x80 * i0
/-- BAR0 offset of SCH_CTX_ACCT (12_scheduling.md R378). -/
def Reg.SCH_CTX_ACCT (i0 i1 : Nat) : Nat := 0x180030 + 0x80 * i0 + 8 * i1
/-- BAR0 offset of SCH_CTX_LEGACY (12_scheduling.md R379). -/
def Reg.SCH_CTX_LEGACY (i0 i1 : Nat) : Nat := 0x180068 + 0x80 * i0 + 8 * i1
/-- BAR0 offset of SCH_PART_W0 (12_scheduling.md R362). -/
def Reg.SCH_PART_W0 (i0 : Nat) : Nat := 0x188000 + 0x20 * i0
/-- BAR0 offset of SCH_PART_W1 (12_scheduling.md R362). -/
def Reg.SCH_PART_W1 (i0 : Nat) : Nat := 0x188008 + 0x20 * i0
/-- BAR0 offset of SCH_PART_W2 (12_scheduling.md R362). -/
def Reg.SCH_PART_W2 (i0 : Nat) : Nat := 0x188010 + 0x20 * i0
/-- BAR0 offset of SCH_CANCEL (12_scheduling.md R376). -/
def Reg.SCH_CANCEL : Nat := 0x189000
/-- BAR0 offset of SCH_READMIT (12_scheduling.md R382). -/
def Reg.SCH_READMIT : Nat := 0x189008
/-- BAR0 offset of SCH_READMIT_STAT (12_scheduling.md R382). -/
def Reg.SCH_READMIT_STAT : Nat := 0x189010
/-- BAR0 offset of SYN_CNT (12_scheduling.md R360). -/
def Reg.SYN_CNT (i0 : Nat) : Nat := 0x200000 + 0x10 * i0
/-- BAR0 offset of SYN_CTL (12_scheduling.md R360). -/
def Reg.SYN_CTL (i0 : Nat) : Nat := 0x200008 + 0x10 * i0
/-- BAR0 offset of TDL_CTRL (13_tideline.md R412). -/
def Reg.TDL_CTRL : Nat := 0xA00000
/-- BAR0 offset of TDL_FRAME (13_tideline.md R413). -/
def Reg.TDL_FRAME : Nat := 0xA00008
/-- BAR0 offset of TDL_DROP (13_tideline.md R414). -/
def Reg.TDL_DROP (i0 : Nat) : Nat := 0xA00100 + 0x20 * i0
/-- BAR0 offset of TDL_DROP_MASK (13_tideline.md R414). -/
def Reg.TDL_DROP_MASK (i0 : Nat) : Nat := 0xA00108 + 0x20 * i0
/-- BAR0 offset of TDL_DROP_STAT (13_tideline.md R414). -/
def Reg.TDL_DROP_STAT (i0 : Nat) : Nat := 0xA00110 + 0x20 * i0
/-- BAR0 offset of TDL_CAP (13_tideline.md R415). -/
def Reg.TDL_CAP : Nat := 0xA00200
/-- BAR0 offset of TDL_PWM (13_tideline.md R416). -/
def Reg.TDL_PWM (i0 : Nat) : Nat := 0xA01000 + 8 * i0
/-- BAR0 offset of TDL_ENC (13_tideline.md R417). -/
def Reg.TDL_ENC (i0 : Nat) : Nat := 0xA01100 + 8 * i0
/-- BAR0 offset of TDL_SPIDEV (13_tideline.md R418). -/
def Reg.TDL_SPIDEV (i0 : Nat) : Nat := 0xA01200 + 8 * i0
/-- BAR0 offset of TDL_RC (13_tideline.md R401). -/
def Reg.TDL_RC (i0 : Nat) : Nat := 0xA40000 + 4 * i0
/-- BAR0 offset of TDL_CAPBUF (13_tideline.md R406). -/
def Reg.TDL_CAPBUF (i0 : Nat) : Nat := 0xA80000 + 4 * i0
/-- BAR0 offset of TDL_CHSEL (13_tideline.md R419). -/
def Reg.TDL_CHSEL (i0 : Nat) : Nat := 0xA10000 + 0x1000 * i0
/-- BAR0 offset of CH_SCHED (13_tideline.md R420). -/
def Reg.CH_SCHED (i0 : Nat) : Nat := 0xA10008 + 0x1000 * i0
/-- BAR0 offset of CH_IO (13_tideline.md R420). -/
def Reg.CH_IO (i0 : Nat) : Nat := 0xA10010 + 0x1000 * i0
/-- BAR0 offset of CH_GAIN (13_tideline.md R420). -/
def Reg.CH_GAIN (i0 : Nat) : Nat := 0xA10018 + 0x1000 * i0
/-- BAR0 offset of CH_KD (13_tideline.md R420). -/
def Reg.CH_KD (i0 : Nat) : Nat := 0xA10020 + 0x1000 * i0
/-- BAR0 offset of CH_LIM (13_tideline.md R420). -/
def Reg.CH_LIM (i0 : Nat) : Nat := 0xA10028 + 0x1000 * i0
/-- BAR0 offset of CH_SPFF (13_tideline.md R420). -/
def Reg.CH_SPFF (i0 : Nat) : Nat := 0xA10030 + 0x1000 * i0
/-- BAR0 offset of CH_INTEG (13_tideline.md R420). -/
def Reg.CH_INTEG (i0 : Nat) : Nat := 0xA10038 + 0x1000 * i0
/-- BAR0 offset of CH_FE (13_tideline.md R420). -/
def Reg.CH_FE (i0 : Nat) : Nat := 0xA10040 + 0x1000 * i0
/-- BAR0 offset of CH_RC (13_tideline.md R420). -/
def Reg.CH_RC (i0 : Nat) : Nat := 0xA10048 + 0x1000 * i0
/-- BAR0 offset of CH_TEST (13_tideline.md R420). -/
def Reg.CH_TEST (i0 : Nat) : Nat := 0xA10050 + 0x1000 * i0
/-- BAR0 offset of CH_STAT (13_tideline.md R421). -/
def Reg.CH_STAT (i0 : Nat) : Nat := 0xA10058 + 0x1000 * i0
/-- BAR0 offset of CH_OBS (13_tideline.md R421). -/
def Reg.CH_OBS (i0 : Nat) : Nat := 0xA10060 + 0x1000 * i0
/-- BAR0 offset of CH_COMMIT (13_tideline.md R419). -/
def Reg.CH_COMMIT (i0 : Nat) : Nat := 0xA10068 + 0x1000 * i0
/-- BAR0 offset of CAN_CHSEL (14_can.md R440). -/
def Reg.CAN_CHSEL (i0 : Nat) : Nat := 0x910000 + 0x10000 * i0
/-- BAR0 offset of CAN_WSTAT (14_can.md R440). -/
def Reg.CAN_WSTAT (i0 : Nat) : Nat := 0x910004 + 0x10000 * i0
/-- BAR0 offset of CAN_CTRL (14_can.md R440). -/
def Reg.CAN_CTRL (i0 : Nat) : Nat := 0x910008 + 0x10000 * i0
/-- BAR0 offset of CAN_NBT (14_can.md R440). -/
def Reg.CAN_NBT (i0 : Nat) : Nat := 0x910010 + 0x10000 * i0
/-- BAR0 offset of CAN_DBT (14_can.md R440). -/
def Reg.CAN_DBT (i0 : Nat) : Nat := 0x910014 + 0x10000 * i0
/-- BAR0 offset of CAN_TDC (14_can.md R440). -/
def Reg.CAN_TDC (i0 : Nat) : Nat := 0x910018 + 0x10000 * i0
/-- BAR0 offset of CAN_STAT (14_can.md R440). -/
def Reg.CAN_STAT (i0 : Nat) : Nat := 0x910020 + 0x10000 * i0
/-- BAR0 offset of CAN_TXREQ (14_can.md R440). -/
def Reg.CAN_TXREQ (i0 : Nat) : Nat := 0x910028 + 0x10000 * i0
/-- BAR0 offset of CAN_TXQ (14_can.md R440). -/
def Reg.CAN_TXQ (i0 : Nat) : Nat := 0x910030 + 0x10000 * i0
/-- BAR0 offset of RXB_FLT (14_can.md R440). -/
def Reg.RXB_FLT (i0 i1 : Nat) : Nat := 0x914000 + 0x10000 * i0 + 0x80 * i1
/-- BAR0 offset of RXB_SIG (14_can.md R440). -/
def Reg.RXB_SIG (i0 i1 : Nat) : Nat := 0x914008 + 0x10000 * i0 + 0x80 * i1
/-- BAR0 offset of RXB_HDR (14_can.md R440). -/
def Reg.RXB_HDR (i0 i1 : Nat) : Nat := 0x914010 + 0x10000 * i0 + 0x80 * i1
/-- BAR0 offset of RXB_TS_S (14_can.md R440). -/
def Reg.RXB_TS_S (i0 i1 : Nat) : Nat := 0x914018 + 0x10000 * i0 + 0x80 * i1
/-- BAR0 offset of RXB_TS_NS (14_can.md R440). -/
def Reg.RXB_TS_NS (i0 i1 : Nat) : Nat := 0x914020 + 0x10000 * i0 + 0x80 * i1
/-- BAR0 offset of RXB_DATA (14_can.md R440). -/
def Reg.RXB_DATA (i0 i1 i2 : Nat) : Nat := 0x914040 + 0x10000 * i0 + 0x80 * i1 + 4 * i2
/-- BAR0 offset of TPL_HDR (14_can.md R440). -/
def Reg.TPL_HDR (i0 i1 : Nat) : Nat := 0x918000 + 0x10000 * i0 + 0x80 * i1
/-- BAR0 offset of TPL_TS_S (14_can.md R440). -/
def Reg.TPL_TS_S (i0 i1 : Nat) : Nat := 0x918008 + 0x10000 * i0 + 0x80 * i1
/-- BAR0 offset of TPL_TS_NS (14_can.md R440). -/
def Reg.TPL_TS_NS (i0 i1 : Nat) : Nat := 0x918010 + 0x10000 * i0 + 0x80 * i1
/-- BAR0 offset of TPL_DATA (14_can.md R440). -/
def Reg.TPL_DATA (i0 i1 i2 : Nat) : Nat := 0x918040 + 0x10000 * i0 + 0x80 * i1 + 4 * i2
/-- BAR0 offset of TIM_NOW_S (15_time_and_causeway.md R473). -/
def Reg.TIM_NOW_S : Nat := 0x700000
/-- BAR0 offset of TIM_NOW_NS (15_time_and_causeway.md R473). -/
def Reg.TIM_NOW_NS : Nat := 0x700008
/-- BAR0 offset of TIM_INCR (15_time_and_causeway.md R473). -/
def Reg.TIM_INCR : Nat := 0x700010
/-- BAR0 offset of TIM_STEP (15_time_and_causeway.md R473). -/
def Reg.TIM_STEP : Nat := 0x700018
/-- BAR0 offset of TIM_SET_S (15_time_and_causeway.md R473). -/
def Reg.TIM_SET_S : Nat := 0x700020
/-- BAR0 offset of TIM_SET_NS (15_time_and_causeway.md R473). -/
def Reg.TIM_SET_NS : Nat := 0x700028
/-- BAR0 offset of TIM_SYNC (15_time_and_causeway.md R473). -/
def Reg.TIM_SYNC : Nat := 0x700030
/-- BAR0 offset of TIM_TRIG_S (15_time_and_causeway.md R473). -/
def Reg.TIM_TRIG_S (i0 : Nat) : Nat := 0x700100 + 0x20 * i0
/-- BAR0 offset of TIM_TRIG_NS (15_time_and_causeway.md R473). -/
def Reg.TIM_TRIG_NS (i0 : Nat) : Nat := 0x700108 + 0x20 * i0
/-- BAR0 offset of TIM_TRIG_CTL (15_time_and_causeway.md R473). -/
def Reg.TIM_TRIG_CTL (i0 : Nat) : Nat := 0x700110 + 0x20 * i0
/-- BAR0 offset of TIM_CAP_S (15_time_and_causeway.md R473). -/
def Reg.TIM_CAP_S (i0 : Nat) : Nat := 0x700200 + 0x20 * i0
/-- BAR0 offset of TIM_CAP_NS (15_time_and_causeway.md R473). -/
def Reg.TIM_CAP_NS (i0 : Nat) : Nat := 0x700208 + 0x20 * i0
/-- BAR0 offset of TIM_CAP_CTL (15_time_and_causeway.md R473). -/
def Reg.TIM_CAP_CTL (i0 : Nat) : Nat := 0x700210 + 0x20 * i0
/-- BAR0 offset of NET_SP_CFG (15_time_and_causeway.md R474). -/
def Reg.NET_SP_CFG (i0 : Nat) : Nat := 0x800000 + 0x1000 * i0
/-- BAR0 offset of NET_SP_CORR (15_time_and_causeway.md R474). -/
def Reg.NET_SP_CORR (i0 : Nat) : Nat := 0x800008 + 0x1000 * i0
/-- BAR0 offset of NET_SP_STAT (15_time_and_causeway.md R474). -/
def Reg.NET_SP_STAT (i0 : Nat) : Nat := 0x800010 + 0x1000 * i0
/-- BAR0 offset of NET_SP_RX_MATCH (15_time_and_causeway.md R474). -/
def Reg.NET_SP_RX_MATCH (i0 i1 : Nat) : Nat := 0x800100 + 0x1000 * i0 + 0x10 * i1
/-- BAR0 offset of NET_SP_RX_RING (15_time_and_causeway.md R474). -/
def Reg.NET_SP_RX_RING (i0 i1 : Nat) : Nat := 0x800108 + 0x1000 * i0 + 0x10 * i1
/-- BAR0 offset of NET_SP_TX (15_time_and_causeway.md R474). -/
def Reg.NET_SP_TX (i0 : Nat) : Nat := 0x800200 + 0x1000 * i0
/-- BAR0 offset of NET_CW_CFG (15_time_and_causeway.md R474). -/
def Reg.NET_CW_CFG : Nat := 0x808000
/-- BAR0 offset of NET_CW_IP6 (15_time_and_causeway.md R474). -/
def Reg.NET_CW_IP6 : Nat := 0x808008
/-- BAR0 offset of NET_CW_XPORT (15_time_and_causeway.md R474). -/
def Reg.NET_CW_XPORT : Nat := 0x808010
/-- BAR0 offset of NET_CW_STAT (15_time_and_causeway.md R474). -/
def Reg.NET_CW_STAT : Nat := 0x808018
/-- BAR0 offset of NET_CW_PORT_STAT (15_time_and_causeway.md R474). -/
def Reg.NET_CW_PORT_STAT (i0 : Nat) : Nat := 0x808100 + 0x20 * i0
/-- BAR0 offset of NET_CW_PORT_ADJ (15_time_and_causeway.md R474). -/
def Reg.NET_CW_PORT_ADJ (i0 : Nat) : Nat := 0x808108 + 0x20 * i0
/-- BAR0 offset of NET_PXY_CMD (15_time_and_causeway.md R474). -/
def Reg.NET_PXY_CMD : Nat := 0x808800
/-- BAR0 offset of NET_PXY_DATA (15_time_and_causeway.md R474). -/
def Reg.NET_PXY_DATA : Nat := 0x808808
/-- BAR0 offset of NET_PXY_STAT (15_time_and_causeway.md R474). -/
def Reg.NET_PXY_STAT : Nat := 0x808810
/-- BAR0 offset of NET_PXY_ALLOW (15_time_and_causeway.md R474). -/
def Reg.NET_PXY_ALLOW : Nat := 0x808818
/-- BAR0 offset of NET_ROUTE (15_time_and_causeway.md R474). -/
def Reg.NET_ROUTE (i0 : Nat) : Nat := 0x809000 + 8 * i0
/-- BAR0 offset of NET_CH_SEND (15_time_and_causeway.md R474). -/
def Reg.NET_CH_SEND (i0 : Nat) : Nat := 0x80A000 + 0x20 * i0
/-- BAR0 offset of NET_CH_RECV (15_time_and_causeway.md R474). -/
def Reg.NET_CH_RECV (i0 : Nat) : Nat := 0x80A008 + 0x20 * i0
/-- BAR0 offset of NET_CH_STAT (15_time_and_causeway.md R474). -/
def Reg.NET_CH_STAT (i0 : Nat) : Nat := 0x80A010 + 0x20 * i0
/-- BAR0 offset of MBX_REQ (17_firmware.md R501). -/
def Reg.MBX_REQ (i0 i1 : Nat) : Nat := 0xC00000 + 0x100 * i0 + 4 * i1
/-- BAR0 offset of MBX_RESP (17_firmware.md R501). -/
def Reg.MBX_RESP (i0 i1 : Nat) : Nat := 0xC00040 + 0x100 * i0 + 4 * i1
/-- BAR0 offset of MBX_CTL (17_firmware.md R501). -/
def Reg.MBX_CTL (i0 : Nat) : Nat := 0xC00080 + 0x100 * i0
/-- BAR0 offset of IMBX_REQ (17_firmware.md R501). -/
def Reg.IMBX_REQ (i0 i1 : Nat) : Nat := 0x1180000 + 0x200000 * i0 + 4 * i1
/-- BAR0 offset of IMBX_RESP (17_firmware.md R501). -/
def Reg.IMBX_RESP (i0 i1 : Nat) : Nat := 0x1180040 + 0x200000 * i0 + 4 * i1
/-- BAR0 offset of IMBX_CTL (17_firmware.md R501). -/
def Reg.IMBX_CTL (i0 : Nat) : Nat := 0x1180080 + 0x200000 * i0
/-- BAR0 offset of FWM_PMB (17_firmware.md R503). -/
def Reg.FWM_PMB (i0 : Nat) : Nat := 0xC00400 + 0x10 * i0
/-- BAR0 offset of FWM_PMB_HEAD (17_firmware.md R503). -/
def Reg.FWM_PMB_HEAD (i0 : Nat) : Nat := 0xC00408 + 0x10 * i0
/-- BAR0 offset of FWM_COMP (17_firmware.md R509). -/
def Reg.FWM_COMP (i0 : Nat) : Nat := 0xC01000 + 8 * i0
/-- BAR0 offset of FWM_UPD_STAT (17_firmware.md R511). -/
def Reg.FWM_UPD_STAT : Nat := 0xC01100
/-- BAR0 offset of FWM_LOG_BASE (17_firmware.md R504). -/
def Reg.FWM_LOG_BASE : Nat := 0xC01200
/-- BAR0 offset of FWM_LOG_PTR (17_firmware.md R506). -/
def Reg.FWM_LOG_PTR : Nat := 0xC01208
/-- BAR0 offset of FWM_TRACE_EN (17_firmware.md R507). -/
def Reg.FWM_TRACE_EN (i0 : Nat) : Nat := 0xC02000 + 8 * i0
/-- BAR0 offset of FWM_SEC_STAT (19_security.md R557). -/
def Reg.FWM_SEC_STAT : Nat := 0xC03000
/-- BAR0 offset of FWM_DEVID (19_security.md R557). -/
def Reg.FWM_DEVID (i0 : Nat) : Nat := 0xC03040 + 8 * i0
/-- BAR0 offset of FWM_EARLY_LOG (17_firmware.md R504). -/
def Reg.FWM_EARLY_LOG (i0 : Nat) : Nat := 0xC80000 + 4 * i0
/-- BAR0 offset of LHS_CFG (18_safety_and_replay.md R534). -/
def Reg.LHS_CFG : Nat := 0x500000
/-- BAR0 offset of LHS_PINS (18_safety_and_replay.md R516). -/
def Reg.LHS_PINS : Nat := 0x500008
/-- BAR0 offset of LHS_INJ (18_safety_and_replay.md R534). -/
def Reg.LHS_INJ : Nat := 0x500010
/-- BAR0 offset of LHS_INJ_CORE (18_safety_and_replay.md R534). -/
def Reg.LHS_INJ_CORE : Nat := 0x500018
/-- BAR0 offset of LHS_EVT_PTR (18_safety_and_replay.md R534). -/
def Reg.LHS_EVT_PTR : Nat := 0x500020
/-- BAR0 offset of LHS_MM_DIGEST (18_safety_and_replay.md R534). -/
def Reg.LHS_MM_DIGEST (i0 : Nat) : Nat := 0x500040 + 8 * i0
/-- BAR0 offset of LHS_MM_INFO (18_safety_and_replay.md R534). -/
def Reg.LHS_MM_INFO : Nat := 0x500060
/-- BAR0 offset of LHS_WIN_S (18_safety_and_replay.md R534). -/
def Reg.LHS_WIN_S (i0 : Nat) : Nat := 0x500100 + 0x20 * i0
/-- BAR0 offset of LHS_WIN_NS (18_safety_and_replay.md R534). -/
def Reg.LHS_WIN_NS (i0 : Nat) : Nat := 0x500108 + 0x20 * i0
/-- BAR0 offset of LHS_WIN_CTL (18_safety_and_replay.md R534). -/
def Reg.LHS_WIN_CTL (i0 : Nat) : Nat := 0x500110 + 0x20 * i0
/-- BAR0 offset of LHS_BCN (18_safety_and_replay.md R534). -/
def Reg.LHS_BCN (i0 : Nat) : Nat := 0x500400 + 8 * i0
/-- BAR0 offset of LHS_DL_CFG (18_safety_and_replay.md R525). -/
def Reg.LHS_DL_CFG (i0 : Nat) : Nat := 0x510000 + 0x40 * i0
/-- BAR0 offset of LHS_DL_THR (18_safety_and_replay.md R525). -/
def Reg.LHS_DL_THR (i0 : Nat) : Nat := 0x510008 + 0x40 * i0
/-- BAR0 offset of LHS_DL_TS (18_safety_and_replay.md R525). -/
def Reg.LHS_DL_TS (i0 : Nat) : Nat := 0x510010 + 0x40 * i0
/-- BAR0 offset of LHS_DL_TNS (18_safety_and_replay.md R525). -/
def Reg.LHS_DL_TNS (i0 : Nat) : Nat := 0x510018 + 0x40 * i0
/-- BAR0 offset of LHS_DL_STAT (18_safety_and_replay.md R525). -/
def Reg.LHS_DL_STAT (i0 : Nat) : Nat := 0x510020 + 0x40 * i0
/-- BAR0 offset of LHS_PROV (18_safety_and_replay.md R531). -/
def Reg.LHS_PROV (i0 i1 : Nat) : Nat := 0x520000 + 0x40 * i0 + 8 * i1
/-- BAR0 offset of LHS_EVENT_RING (18_safety_and_replay.md R513). -/
def Reg.LHS_EVENT_RING (i0 : Nat) : Nat := 0x508000 + 4 * i0
/-- BAR0 offset of PWR_MODE (20_power_reset_pins.md R583). -/
def Reg.PWR_MODE : Nat := 0x600000
/-- BAR0 offset of PWR_STAT (20_power_reset_pins.md R583). -/
def Reg.PWR_STAT : Nat := 0x600008
/-- BAR0 offset of PWR_WAKE (20_power_reset_pins.md R583). -/
def Reg.PWR_WAKE : Nat := 0x600010
/-- BAR0 offset of PWR_LIMIT (20_power_reset_pins.md R583). -/
def Reg.PWR_LIMIT : Nat := 0x600018
/-- BAR0 offset of PWR_THERM (20_power_reset_pins.md R583). -/
def Reg.PWR_THERM : Nat := 0x600020
/-- BAR0 offset of PWR_RESET (20_power_reset_pins.md R583). -/
def Reg.PWR_RESET : Nat := 0x600028
/-- BAR0 offset of PAD_HOLD_STAT (20_power_reset_pins.md R583). -/
def Reg.PAD_HOLD_STAT : Nat := 0xD00000
/-- BAR0 offset of PAD_HOLD_REL (20_power_reset_pins.md R583). -/
def Reg.PAD_HOLD_REL : Nat := 0xD00008
/-- BAR0 offset of PAD_CLAIM (20_power_reset_pins.md R583). -/
def Reg.PAD_CLAIM (i0 : Nat) : Nat := 0xD00100 + 0x10 * i0
/-- BAR0 offset of MSIX_ADDR (16_host_link.md R481). -/
def Reg.MSIX_ADDR (i0 i1 : Nat) : Nat := 0xF0000 + 0x10 * i0 + 4 * i1
/-- BAR0 offset of MSIX_CTRL (16_host_link.md R481). -/
def Reg.MSIX_CTRL (i0 : Nat) : Nat := 0xF000C + 0x10 * i0
/-- BAR0 offset of MSIX_PBA (16_host_link.md R481). -/
def Reg.MSIX_PBA (i0 : Nat) : Nat := 0xF8000 + 4 * i0

/-- Register groups, part 0. -/
def regGroups0 : List RegGroup := [
  ⟨"GLB_IDENT", 0x0, [], 32, [⟨31, 16, .ro, 0x8640⟩, ⟨15, 8, .ro, 1⟩, ⟨7, 4, .ro, 1⟩, ⟨3, 0, .ro, 0⟩]⟩,
  ⟨"GLB_STATE", 0x4, [], 32, [⟨15, 8, .ro, 0⟩, ⟨5, 5, .ro, 0⟩, ⟨4, 4, .ro, 0⟩, ⟨3, 0, .ro, 0⟩]⟩,
  ⟨"GLB_TC_MARKED", 0x8, [], 64, [⟨63, 0, .ro, 0⟩]⟩,
  ⟨"GLB_HOST", 0x100, [], 64, [⟨63, 32, .ro, 0⟩, ⟨31, 16, .rw, 0x32⟩, ⟨2, 1, .ro, 0⟩, ⟨0, 0, .ro, 1⟩]⟩,
  ⟨"GLB_HOSTCTL", 0x108, [], 64, [⟨63, 32, .wo, 0⟩, ⟨2, 2, .wo, 0⟩, ⟨1, 1, .wo, 0⟩, ⟨0, 0, .wo, 0⟩]⟩,
  ⟨"GLB_LINK", 0x110, [], 32, [⟨15, 8, .rc, 0⟩, ⟨7, 4, .ro, 0⟩, ⟨3, 3, .ro, 0⟩, ⟨1, 0, .ro, 0⟩]⟩,
  ⟨"GLB_ACCERR", 0x118, [], 64, [⟨63, 48, .rc, 0⟩, ⟨47, 44, .ro, 0⟩, ⟨43, 42, .ro, 0⟩, ⟨41, 41, .ro, 0⟩, ⟨40, 40, .w1c, 0⟩, ⟨25, 0, .ro, 0⟩]⟩,
  ⟨"GLB_QVEC", 0x10000, [(16384, 4)], 32, [⟨7, 0, .rw, 0x10⟩]⟩,
  ⟨"PWR_BEAT_CTRL", 0x600400, [], 32, [⟨31, 16, .rw, 0x5DC⟩, ⟨15, 15, .rw, 0⟩, ⟨13, 4, .rw, 0x2EE⟩, ⟨3, 0, .rw, 7⟩]⟩,
  ⟨"PWR_FLOOR_STAT", 0x600404, [], 32, [⟨16, 16, .ro, 0⟩, ⟨15, 8, .ro, 0⟩, ⟨7, 0, .w1c, 0⟩]⟩,
  ⟨"PWR_BEAT_ISL", 0x600440, [(8, 8)], 64, [⟨63, 48, .ro, 0⟩, ⟨47, 32, .ro, 0⟩, ⟨31, 0, .ro, 0⟩]⟩,
  ⟨"TC_STATUS", 0x1000000, [(8, 0x200000), (8, 0x20000)], 32, [⟨31, 16, .ro, 0⟩, ⟨15, 8, .ro, 0⟩, ⟨7, 5, .ro, 0⟩, ⟨4, 4, .ro, 0⟩, ⟨3, 0, .ro, 0⟩]⟩,
  ⟨"TC_ASTAT", 0x1000004, [(8, 0x200000), (8, 0x20000)], 32, [⟨2, 2, .w1c, 0⟩, ⟨1, 1, .w1c, 0⟩, ⟨0, 0, .w1c, 0⟩]⟩,
  ⟨"TC_PC", 0x1000008, [(8, 0x200000), (8, 0x20000)], 64, [⟨56, 50, .ro, 0⟩, ⟨49, 32, .ro, 0⟩, ⟨22, 3, .ro, 0⟩, ⟨0, 0, .ro, 0⟩]⟩,
  ⟨"LGN_TAG", 0x1008000, [(8, 0x200000), (8, 0x20000), (2, 8)], 64, [⟨63, 0, .ro, 0⟩]⟩,
  ⟨"LGN_LIVE", 0x1008010, [(8, 0x200000), (8, 0x20000), (2, 8)], 64, [⟨63, 0, .ro, 0⟩]⟩,
  ⟨"LGN_WAIT", 0x1008020, [(8, 0x200000), (8, 0x20000)], 64, [⟨63, 62, .ro, 0⟩, ⟨54, 48, .ro, 0⟩, ⟨47, 46, .ro, 0⟩, ⟨38, 32, .ro, 0⟩, ⟨31, 30, .ro, 0⟩, ⟨22, 16, .ro, 0⟩, ⟨15, 14, .ro, 0⟩, ⟨6, 0, .ro, 0⟩]⟩,
  ⟨"LGN_SCRUB", 0x1008028, [(8, 0x200000), (8, 0x20000)], 32, [⟨31, 16, .ro, 0⟩, ⟨4, 2, .ro, 0⟩, ⟨1, 1, .w1c, 0⟩, ⟨0, 0, .ro, 0⟩]⟩,
  ⟨"LGN_ECC", 0x1008030, [(8, 0x200000), (8, 0x20000)], 64, [⟨63, 48, .rc, 0⟩, ⟨47, 47, .w1c, 0⟩, ⟨46, 40, .ro, 0⟩, ⟨32, 32, .w1c, 0⟩, ⟨15, 0, .ro, 0⟩]⟩,
  ⟨"FRY_STATUS", 0x1010000, [(8, 0x200000), (8, 0x20000), (2, 0x100)], 32, [⟨31, 24, .ro, 0⟩, ⟨21, 16, .ro, 0⟩, ⟨15, 15, .ro, 0⟩, ⟨14, 14, .ro, 0⟩, ⟨13, 11, .ro, 0⟩, ⟨7, 4, .ro, 0⟩, ⟨3, 0, .ro, 0⟩]⟩,
  ⟨"FRY_BYTES", 0x1010008, [(8, 0x200000), (8, 0x20000), (2, 0x100)], 64, [⟨63, 0, .ro, 0⟩]⟩,
  ⟨"FRY_X", 0x1010010, [(8, 0x200000), (8, 0x20000), (2, 0x100), (4, 8)], 64, [⟨63, 0, .ro, 0⟩]⟩,
  ⟨"FRY_LATE", 0x1010200, [(8, 0x200000), (8, 0x20000)], 64, [⟨63, 48, .rc, 0⟩, ⟨47, 44, .ro, 0⟩, ⟨43, 39, .ro, 0⟩, ⟨31, 0, .ro, 0⟩]⟩,
  ⟨"BFRY_STATUS", 0x1108000, [(8, 0x200000), (4, 0x100)], 32, [⟨31, 24, .ro, 0⟩, ⟨21, 16, .ro, 0⟩, ⟨15, 15, .ro, 0⟩, ⟨14, 14, .ro, 0⟩, ⟨13, 11, .ro, 0⟩, ⟨7, 4, .ro, 0⟩, ⟨3, 0, .ro, 0⟩]⟩,
  ⟨"BFRY_BYTES", 0x1108008, [(8, 0x200000), (4, 0x100)], 64, [⟨63, 0, .ro, 0⟩]⟩,
  ⟨"BFRY_X", 0x1108010, [(8, 0x200000), (4, 0x100), (4, 8)], 64, [⟨63, 0, .ro, 0⟩]⟩,
  ⟨"HBR_ECC", 0x1100000, [(8, 0x200000)], 64, [⟨63, 48, .rc, 0⟩, ⟨32, 32, .w1c, 0⟩, ⟨19, 0, .ro, 0⟩]⟩,
  ⟨"HBR_CECC", 0x1100008, [(8, 0x200000)], 64, [⟨63, 48, .rc, 0⟩, ⟨47, 47, .w1c, 0⟩, ⟨46, 44, .ro, 0⟩, ⟨43, 43, .ro, 0⟩, ⟨14, 0, .ro, 0⟩]⟩,
  ⟨"ITK_PORT_CFG", 0xB00000, [(8, 8)], 32, [⟨15, 8, .rw, 0xE4⟩, ⟨7, 4, .rw, 0⟩, ⟨2, 0, .rw, 0⟩]⟩,
  ⟨"ITK_STR_CFG", 0xB01000, [(32, 0x80)], 64, [⟨63, 48, .rw, 0⟩, ⟨47, 32, .rw, 0⟩, ⟨31, 18, .rw, 0⟩, ⟨17, 17, .rw, 0⟩, ⟨16, 16, .w1s, 0⟩, ⟨15, 8, .rw, 0⟩]⟩]

/-- Register groups, part 1. -/
def regGroups1 : List RegGroup := [
  ⟨"ITK_STR_RING", 0xB01008, [(32, 0x80)], 64, [⟨63, 61, .rw, 0⟩, ⟨60, 53, .rw, 0⟩, ⟨52, 49, .rw, 0⟩, ⟨48, 46, .rw, 0⟩, ⟨45, 35, .rw, 0⟩, ⟨31, 16, .rw, 0⟩, ⟨0, 0, .rw, 0⟩]⟩,
  ⟨"ITK_STR_STAT", 0xB01010, [(32, 0x80)], 64, [⟨63, 48, .ro, 0⟩, ⟨47, 32, .rc, 0⟩, ⟨31, 16, .rc, 0⟩, ⟨4, 4, .w1c, 0⟩, ⟨3, 0, .ro, 0⟩]⟩,
  ⟨"ITK_STR_DESC", 0xB01040, [(32, 0x80), (16, 4)], 32, [⟨31, 0, .rw, 0⟩]⟩,
  ⟨"ITK_JQ_BASE", 0xB02000, [(4, 0x40)], 64, [⟨47, 6, .rw, 0⟩]⟩,
  ⟨"ITK_JQ_RING", 0xB02008, [(4, 0x40)], 64, [⟨63, 61, .rw, 0⟩, ⟨60, 53, .rw, 0⟩, ⟨52, 49, .rw, 0⟩, ⟨48, 46, .rw, 0⟩, ⟨45, 35, .rw, 0⟩, ⟨31, 16, .rw, 0⟩, ⟨15, 12, .rw, 0⟩, ⟨1, 1, .rw, 0⟩, ⟨0, 0, .rw, 0⟩]⟩,
  ⟨"ITK_JQ_PTR", 0xB02010, [(4, 0x40)], 32, [⟨31, 16, .ro, 0⟩, ⟨15, 0, .rw, 0⟩]⟩,
  ⟨"ITK_DEC_CTRL", 0xB03000, [], 32, [⟨31, 16, .ro, 0x6B⟩, ⟨4, 4, .wo, 0⟩, ⟨3, 0, .rw, 8⟩]⟩,
  ⟨"MEM_CFG", 0x400000, [], 64, [⟨63, 43, .rw, 0⟩, ⟨25, 16, .ro, 224⟩, ⟨2, 2, .ro, 0⟩, ⟨1, 1, .ro, 0⟩, ⟨0, 0, .ro, 1⟩]⟩,
  ⟨"MEM_XTS", 0x400008, [], 32, [⟨23, 16, .ro, 0⟩, ⟨7, 0, .rw, 0⟩]⟩,
  ⟨"MEM_SCRUB", 0x400010, [], 32, [⟨31, 24, .rw, 0x18⟩, ⟨15, 0, .ro, 0⟩]⟩,
  ⟨"MEM_INV", 0x400020, [], 64, [⟨63, 62, .wo, 0⟩, ⟨61, 54, .wo, 0⟩, ⟨47, 16, .wo, 0⟩, ⟨15, 0, .wo, 0⟩]⟩,
  ⟨"MEM_INV_STAT", 0x400028, [], 32, [⟨31, 31, .w1c, 0⟩, ⟨27, 16, .ro, 0⟩, ⟨11, 0, .ro, 0⟩]⟩,
  ⟨"MEM_FRING", 0x400030, [], 64, [⟨63, 48, .rw, 0⟩, ⟨47, 44, .rw, 0⟩, ⟨43, 12, .rw, 0⟩, ⟨0, 0, .rw, 0⟩]⟩,
  ⟨"MEM_FRING_PTR", 0x400038, [], 32, [⟨31, 16, .ro, 0⟩, ⟨15, 0, .rw, 0⟩]⟩,
  ⟨"MEM_FAULT_RESP", 0x400040, [], 64, [⟨33, 32, .wo, 0⟩, ⟨31, 0, .wo, 0⟩]⟩,
  ⟨"MEM_FAULT_STAT", 0x400048, [], 32, [⟨31, 16, .ro, 0⟩, ⟨15, 8, .ro, 0⟩, ⟨1, 1, .w1c, 0⟩, ⟨0, 0, .w1c, 0⟩]⟩,
  ⟨"MEM_ECC", 0x400050, [], 64, [⟨63, 48, .rc, 0⟩, ⟨47, 44, .ro, 0⟩, ⟨43, 6, .ro, 0⟩, ⟨5, 5, .w1c, 0⟩]⟩,
  ⟨"MEM_AS", 0x401000, [(256, 8)], 64, [⟨63, 63, .rw, 0⟩, ⟨58, 56, .rw, 0⟩, ⟨55, 48, .rw, 0⟩, ⟨43, 9, .rw, 0⟩]⟩,
  ⟨"SCH_QRING", 0x100000, [(16384, 0x20)], 64, [⟨43, 10, .rw, 0⟩, ⟨4, 0, .rw, 4⟩]⟩,
  ⟨"SCH_QCPL", 0x100008, [(16384, 0x20)], 64, [⟨43, 10, .rw, 0⟩]⟩,
  ⟨"SCH_QCFG", 0x100010, [(16384, 0x20)], 64, [⟨63, 48, .rw, 0⟩, ⟨47, 47, .rw, 0⟩, ⟨39, 32, .rw, 0⟩, ⟨15, 15, .rw, 0⟩, ⟨14, 12, .rw, 0⟩, ⟨11, 11, .rw, 0⟩, ⟨10, 10, .rw, 0⟩, ⟨9, 9, .rw, 0⟩]⟩,
  ⟨"SCH_QPTR", 0x100018, [(16384, 0x20)], 64, [⟨63, 32, .ro, 0⟩, ⟨31, 0, .ro, 0⟩]⟩,
  ⟨"SCH_CTX_CFG", 0x180000, [(256, 0x80)], 64, [⟨63, 63, .rw, 0⟩, ⟨62, 60, .rw, 0⟩, ⟨59, 58, .rw, 0⟩, ⟨57, 57, .rw, 0⟩, ⟨56, 56, .rw, 0⟩, ⟨55, 48, .rw, 1⟩, ⟨43, 20, .rw, 0⟩]⟩,
  ⟨"SCH_CTX_SEED", 0x180008, [(256, 0x80), (2, 8)], 64, [⟨63, 0, .rw, 0⟩]⟩,
  ⟨"SCH_CTX_STEP", 0x180018, [(256, 0x80)], 64, [⟨63, 0, .rw, 0⟩]⟩,
  ⟨"SCH_CTX_NDCOUNT", 0x180020, [(256, 0x80)], 64, [⟨63, 0, .ro, 0⟩]⟩,
  ⟨"SCH_CTX_PERF", 0x180028, [(256, 0x80)], 64, [⟨63, 32, .rw, 0⟩, ⟨31, 16, .ro, 0⟩, ⟨15, 0, .ro, 0⟩]⟩,
  ⟨"SCH_CTX_ACCT", 0x180030, [(256, 0x80), (7, 8)], 64, [⟨63, 0, .ro, 0⟩]⟩,
  ⟨"SCH_CTX_LEGACY", 0x180068, [(256, 0x80), (2, 8)], 64, [⟨63, 0, .ro, 0⟩]⟩,
  ⟨"SCH_CTX_RSVD", 0x180078, [(256, 0x80)], 64, [⟨63, 0, .ro, 0⟩]⟩,
  ⟨"SCH_PART_W0", 0x188000, [(8, 0x20)], 64, [⟨63, 63, .rw, 0⟩, ⟨35, 26, .rw, 0⟩, ⟨25, 16, .rw, 0⟩, ⟨15, 8, .rw, 0⟩, ⟨7, 0, .rw, 0⟩]⟩]

/-- Register groups, part 2. -/
def regGroups2 : List RegGroup := [
  ⟨"SCH_PART_W1", 0x188008, [(8, 0x20)], 64, [⟨48, 40, .rw, 0⟩, ⟨39, 32, .rw, 0⟩, ⟨30, 16, .rw, 0⟩, ⟨14, 0, .rw, 0⟩]⟩,
  ⟨"SCH_PART_W2", 0x188010, [(8, 0x20)], 64, [⟨38, 32, .ro, 0⟩, ⟨23, 16, .ro, 0⟩, ⟨15, 0, .ro, 0⟩]⟩,
  ⟨"SCH_CANCEL", 0x189000, [], 32, [⟨15, 15, .wo, 0⟩, ⟨13, 0, .wo, 0⟩]⟩,
  ⟨"SCH_READMIT", 0x189008, [], 32, [⟨7, 6, .wo, 0⟩, ⟨5, 0, .wo, 0⟩]⟩,
  ⟨"SCH_READMIT_STAT", 0x189010, [], 32, [⟨15, 15, .ro, 0⟩, ⟨14, 14, .w1c, 0⟩, ⟨13, 13, .w1c, 0⟩, ⟨7, 6, .ro, 0⟩, ⟨5, 0, .ro, 0⟩]⟩,
  ⟨"SYN_CNT", 0x200000, [(16384, 0x10)], 64, [⟨63, 0, .rw, 0⟩]⟩,
  ⟨"SYN_CTL", 0x200008, [(16384, 0x10)], 64, [⟨63, 32, .ro, 0⟩, ⟨31, 16, .ro, 0⟩, ⟨15, 15, .wo, 0⟩, ⟨7, 0, .rw, 0⟩]⟩,
  ⟨"TDL_CTRL", 0xA00000, [], 32, [⟨31, 16, .ro, 0⟩, ⟨15, 8, .ro, 0⟩, ⟨3, 3, .ro, 0⟩, ⟨2, 2, .ro, 0⟩, ⟨0, 0, .rw, 0⟩]⟩,
  ⟨"TDL_FRAME", 0xA00008, [], 64, [⟨63, 0, .ro, 0⟩]⟩,
  ⟨"TDL_DROP", 0xA00100, [(4, 0x20)], 64, [⟨63, 63, .rw, 0⟩, ⟨62, 60, .rw, 0⟩, ⟨59, 52, .rw, 0⟩, ⟨51, 48, .rw, 0⟩]⟩,
  ⟨"TDL_DROP_MASK", 0xA00108, [(4, 0x20)], 64, [⟨63, 0, .rw, 0⟩]⟩,
  ⟨"TDL_DROP_STAT", 0xA00110, [(4, 0x20)], 64, [⟨63, 32, .ro, 0⟩, ⟨31, 16, .rc, 0⟩, ⟨3, 0, .ro, 0⟩]⟩,
  ⟨"TDL_CAP", 0xA00200, [], 64, [⟨63, 63, .w1s, 0⟩, ⟨62, 62, .w1c, 0⟩, ⟨61, 61, .ro, 0⟩, ⟨57, 56, .rw, 0⟩, ⟨55, 50, .rw, 0⟩, ⟨49, 42, .rw, 0⟩, ⟨41, 29, .rw, 0⟩, ⟨13, 0, .ro, 0⟩]⟩,
  ⟨"TDL_PWM", 0xA01000, [(12, 8)], 64, [⟨63, 48, .rw, 0⟩, ⟨47, 40, .rw, 0⟩, ⟨39, 39, .rw, 0⟩, ⟨38, 38, .rw, 0⟩, ⟨31, 16, .ro, 0⟩, ⟨0, 0, .rw, 0⟩]⟩,
  ⟨"TDL_ENC", 0xA01100, [(16, 8)], 64, [⟨63, 32, .ro, 0⟩, ⟨15, 8, .rw, 0⟩, ⟨7, 7, .rw, 0⟩, ⟨6, 6, .rw, 0⟩]⟩,
  ⟨"TDL_SPIDEV", 0xA01200, [(16, 8)], 64, [⟨63, 32, .rw, 0⟩, ⟨31, 27, .rw, 0⟩, ⟨26, 19, .rw, 4⟩, ⟨18, 17, .rw, 0⟩, ⟨16, 16, .rw, 0⟩, ⟨15, 12, .rw, 0⟩]⟩,
  ⟨"TDL_RC", 0xA40000, [(16384, 4)], 32, [⟨31, 0, .rw, 0⟩]⟩,
  ⟨"TDL_CAPBUF", 0xA80000, [(32768, 4)], 32, [⟨31, 0, .ro, 0⟩]⟩,
  ⟨"TDL_CHSEL", 0xA10000, [(4, 0x1000)], 32, [⟨31, 31, .ro, 0⟩, ⟨30, 30, .w1c, 0⟩, ⟨29, 29, .w1c, 0⟩, ⟨28, 28, .ro, 0⟩, ⟨5, 0, .rw, 0⟩]⟩,
  ⟨"CH_SCHED", 0xA10008, [(4, 0x1000)], 64, [⟨63, 63, .rw, 0⟩, ⟨62, 56, .rw, 0⟩, ⟨47, 32, .rw, 1⟩, ⟨31, 16, .rw, 0⟩, ⟨15, 15, .rw, 0⟩, ⟨13, 8, .rw, 0⟩]⟩,
  ⟨"CH_IO", 0xA10010, [(4, 0x1000)], 64, [⟨63, 60, .rw, 0⟩, ⟨59, 49, .rw, 0⟩, ⟨48, 40, .rw, 0⟩, ⟨39, 35, .rw, 0⟩, ⟨34, 34, .rw, 0⟩, ⟨31, 28, .rw, 0⟩, ⟨27, 17, .rw, 0⟩, ⟨16, 8, .rw, 0⟩, ⟨7, 3, .rw, 0⟩]⟩,
  ⟨"CH_GAIN", 0xA10018, [(4, 0x1000)], 64, [⟨63, 32, .rw, 0⟩, ⟨31, 0, .rw, 0⟩]⟩,
  ⟨"CH_KD", 0xA10020, [(4, 0x1000)], 64, [⟨63, 32, .rw, 0⟩, ⟨7, 4, .rw, 0⟩, ⟨3, 3, .rw, 0⟩]⟩,
  ⟨"CH_LIM", 0xA10028, [(4, 0x1000)], 64, [⟨63, 32, .rw, 0x7FFFFFFF⟩, ⟨31, 0, .rw, 0x80000000⟩]⟩,
  ⟨"CH_SPFF", 0xA10030, [(4, 0x1000)], 64, [⟨63, 32, .rw, 0⟩, ⟨31, 0, .rw, 0⟩]⟩,
  ⟨"CH_INTEG", 0xA10038, [(4, 0x1000)], 64, [⟨63, 0, .rw, 0⟩]⟩,
  ⟨"CH_FE", 0xA10040, [(4, 0x1000)], 64, [⟨63, 63, .rw, 0⟩, ⟨61, 48, .rw, 0⟩, ⟨47, 32, .rw, 0⟩, ⟨31, 0, .rw, 0⟩]⟩,
  ⟨"CH_RC", 0xA10048, [(4, 0x1000)], 64, [⟨63, 63, .rw, 0⟩, ⟨62, 62, .rw, 0⟩, ⟨61, 61, .rw, 0⟩, ⟨60, 57, .rw, 0⟩, ⟨56, 53, .rw, 0⟩, ⟨47, 34, .rw, 0⟩, ⟨33, 20, .rw, 0⟩, ⟨15, 0, .rw, 0⟩]⟩,
  ⟨"CH_TEST", 0xA10050, [(4, 0x1000)], 64, [⟨63, 63, .rw, 0⟩, ⟨62, 61, .rw, 0⟩, ⟨60, 59, .rw, 0⟩, ⟨47, 32, .rw, 0⟩, ⟨31, 0, .rw, 0⟩]⟩,
  ⟨"CH_STAT", 0xA10058, [(4, 0x1000)], 64, [⟨63, 48, .ro, 0⟩, ⟨47, 40, .ro, 0⟩, ⟨39, 30, .rc, 0⟩, ⟨15, 15, .ro, 0⟩, ⟨6, 6, .w1c, 0⟩, ⟨5, 5, .w1c, 0⟩, ⟨4, 4, .w1c, 0⟩, ⟨3, 3, .w1c, 0⟩, ⟨2, 2, .w1c, 0⟩, ⟨1, 1, .w1c, 0⟩, ⟨0, 0, .w1c, 0⟩]⟩]

/-- Register groups, part 3. -/
def regGroups3 : List RegGroup := [
  ⟨"CH_OBS", 0xA10060, [(4, 0x1000)], 64, [⟨63, 32, .ro, 0⟩, ⟨31, 0, .ro, 0⟩]⟩,
  ⟨"CH_COMMIT", 0xA10068, [(4, 0x1000)], 32, [⟨0, 0, .wo, 0⟩]⟩,
  ⟨"CAN_CHSEL", 0x910000, [(4, 0x10000)], 32, [⟨2, 0, .rw, 0⟩]⟩,
  ⟨"CAN_WSTAT", 0x910004, [(4, 0x10000)], 32, [⟨4, 4, .w1c, 0⟩, ⟨3, 3, .w1c, 0⟩, ⟨2, 2, .w1c, 0⟩, ⟨1, 1, .w1c, 0⟩, ⟨0, 0, .w1c, 0⟩]⟩,
  ⟨"CAN_CTRL", 0x910008, [(4, 0x10000)], 32, [⟨31, 31, .rw, 0⟩, ⟨29, 16, .rw, 0⟩, ⟨6, 6, .w1s, 0⟩, ⟨5, 5, .rw, 1⟩, ⟨4, 4, .rw, 0⟩, ⟨3, 3, .rw, 0⟩, ⟨2, 2, .rw, 0⟩, ⟨0, 0, .rw, 1⟩]⟩,
  ⟨"CAN_NBT", 0x910010, [(4, 0x10000)], 32, [⟨31, 25, .rw, 0⟩, ⟨24, 17, .rw, 0⟩, ⟨16, 10, .rw, 0⟩, ⟨7, 0, .rw, 0⟩]⟩,
  ⟨"CAN_DBT", 0x910014, [(4, 0x10000)], 32, [⟨31, 28, .rw, 0⟩, ⟨27, 23, .rw, 0⟩, ⟨22, 19, .rw, 0⟩, ⟨4, 0, .rw, 0⟩]⟩,
  ⟨"CAN_TDC", 0x910018, [(4, 0x10000)], 32, [⟨31, 31, .rw, 0⟩, ⟨22, 16, .ro, 0⟩, ⟨14, 8, .rw, 0⟩, ⟨6, 0, .rw, 0⟩]⟩,
  ⟨"CAN_STAT", 0x910020, [(4, 0x10000)], 64, [⟨63, 56, .ro, 0⟩, ⟨55, 48, .ro, 0⟩, ⟨47, 46, .ro, 3⟩, ⟨45, 45, .ro, 0⟩, ⟨44, 42, .ro, 0⟩, ⟨41, 39, .ro, 0⟩, ⟨31, 16, .rc, 0⟩, ⟨15, 8, .rc, 0⟩, ⟨2, 2, .w1c, 0⟩, ⟨1, 1, .w1c, 0⟩, ⟨0, 0, .w1c, 0⟩]⟩,
  ⟨"CAN_TXREQ", 0x910028, [(4, 0x10000)], 32, [⟨31, 31, .wo, 0⟩, ⟨6, 0, .wo, 0⟩]⟩,
  ⟨"CAN_TXQ", 0x910030, [(4, 0x10000)], 64, [⟨63, 56, .ro, 0⟩, ⟨55, 48, .ro, 0⟩, ⟨47, 47, .ro, 0⟩]⟩,
  ⟨"RXB_FLT", 0x914000, [(4, 0x10000), (128, 0x80)], 64, [⟨63, 63, .rw, 0⟩, ⟨62, 62, .rw, 0⟩, ⟨60, 32, .rw, 0⟩, ⟨28, 0, .rw, 0⟩]⟩,
  ⟨"RXB_SIG", 0x914008, [(4, 0x10000), (128, 0x80)], 32, [⟨31, 31, .rw, 0⟩, ⟨13, 0, .rw, 0⟩]⟩,
  ⟨"RXB_HDR", 0x914010, [(4, 0x10000), (128, 0x80)], 64, [⟨63, 35, .ro, 0⟩, ⟨34, 34, .ro, 0⟩, ⟨33, 33, .ro, 0⟩, ⟨32, 32, .ro, 0⟩, ⟨31, 31, .ro, 0⟩, ⟨30, 27, .ro, 0⟩, ⟨26, 26, .rc, 0⟩, ⟨25, 18, .ro, 0⟩]⟩,
  ⟨"RXB_TS_S", 0x914018, [(4, 0x10000), (128, 0x80)], 64, [⟨63, 0, .ro, 0⟩]⟩,
  ⟨"RXB_TS_NS", 0x914020, [(4, 0x10000), (128, 0x80)], 32, [⟨29, 0, .ro, 0⟩]⟩,
  ⟨"RXB_DATA", 0x914040, [(4, 0x10000), (128, 0x80), (16, 4)], 32, [⟨31, 0, .ro, 0⟩]⟩,
  ⟨"TPL_HDR", 0x918000, [(4, 0x10000), (128, 0x80)], 64, [⟨63, 35, .rw, 0⟩, ⟨34, 34, .rw, 0⟩, ⟨33, 33, .rw, 0⟩, ⟨32, 32, .rw, 0⟩, ⟨30, 27, .rw, 0⟩, ⟨26, 25, .ro, 0⟩, ⟨24, 24, .ro, 0⟩]⟩,
  ⟨"TPL_TS_S", 0x918008, [(4, 0x10000), (128, 0x80)], 64, [⟨63, 0, .ro, 0⟩]⟩,
  ⟨"TPL_TS_NS", 0x918010, [(4, 0x10000), (128, 0x80)], 32, [⟨29, 0, .ro, 0⟩]⟩,
  ⟨"TPL_DATA", 0x918040, [(4, 0x10000), (128, 0x80), (16, 4)], 32, [⟨31, 0, .rw, 0⟩]⟩,
  ⟨"TIM_NOW_S", 0x700000, [], 64, [⟨63, 0, .ro, 0⟩]⟩,
  ⟨"TIM_NOW_NS", 0x700008, [], 64, [⟨61, 32, .ro, 0⟩, ⟨31, 0, .ro, 0⟩]⟩,
  ⟨"TIM_INCR", 0x700010, [], 64, [⟨63, 0, .rw, 0x400000000⟩]⟩,
  ⟨"TIM_STEP", 0x700018, [], 64, [⟨63, 0, .wo, 0⟩]⟩,
  ⟨"TIM_SET_S", 0x700020, [], 64, [⟨63, 0, .wo, 0⟩]⟩,
  ⟨"TIM_SET_NS", 0x700028, [], 32, [⟨29, 0, .wo, 0⟩]⟩,
  ⟨"TIM_SYNC", 0x700030, [], 64, [⟨63, 32, .rw, 0⟩, ⟨31, 16, .ro, 0⟩, ⟨3, 3, .w1c, 0⟩, ⟨2, 2, .w1c, 0⟩, ⟨1, 1, .rw, 0⟩, ⟨0, 0, .rw, 0⟩]⟩,
  ⟨"TIM_TRIG_S", 0x700100, [(4, 0x20)], 64, [⟨63, 0, .rw, 0⟩]⟩,
  ⟨"TIM_TRIG_NS", 0x700108, [(4, 0x20)], 64, [⟨63, 32, .rw, 0⟩, ⟨29, 0, .rw, 0⟩]⟩]

/-- Register groups, part 4. -/
def regGroups4 : List RegGroup := [
  ⟨"TIM_TRIG_CTL", 0x700110, [(4, 0x20)], 32, [⟨31, 31, .rw, 0⟩, ⟨30, 30, .rw, 0⟩, ⟨29, 29, .rw, 0⟩, ⟨27, 14, .rw, 0⟩, ⟨13, 0, .rw, 0⟩]⟩,
  ⟨"TIM_CAP_S", 0x700200, [(2, 0x20)], 64, [⟨63, 0, .ro, 0⟩]⟩,
  ⟨"TIM_CAP_NS", 0x700208, [(2, 0x20)], 64, [⟨63, 48, .ro, 0⟩, ⟨47, 47, .w1c, 0⟩, ⟨29, 0, .ro, 0⟩]⟩,
  ⟨"TIM_CAP_CTL", 0x700210, [(2, 0x20)], 32, [⟨31, 31, .rw, 0⟩, ⟨30, 30, .rw, 0⟩, ⟨29, 28, .rw, 0⟩, ⟨13, 0, .rw, 0⟩]⟩,
  ⟨"NET_SP_CFG", 0x800000, [(4, 0x1000)], 64, [⟨63, 63, .rw, 0⟩, ⟨62, 62, .rw, 0⟩, ⟨47, 0, .rw, 0⟩]⟩,
  ⟨"NET_SP_CORR", 0x800008, [(4, 0x1000)], 64, [⟨63, 32, .rw, 0⟩, ⟨31, 0, .rw, 0⟩]⟩,
  ⟨"NET_SP_STAT", 0x800010, [(4, 0x1000)], 64, [⟨63, 63, .ro, 0⟩, ⟨62, 61, .ro, 0⟩, ⟨47, 32, .rc, 0⟩, ⟨31, 16, .rc, 0⟩, ⟨15, 0, .rc, 0⟩]⟩,
  ⟨"NET_SP_RX_MATCH", 0x800100, [(4, 0x1000), (8, 0x10)], 64, [⟨63, 63, .rw, 0⟩, ⟨62, 62, .rw, 0⟩, ⟨59, 48, .rw, 0⟩, ⟨47, 32, .rw, 0⟩, ⟨31, 16, .rw, 0⟩]⟩,
  ⟨"NET_SP_RX_RING", 0x800108, [(4, 0x1000), (8, 0x10)], 64, [⟨63, 61, .rw, 0⟩, ⟨60, 53, .rw, 0⟩, ⟨52, 49, .rw, 0⟩, ⟨48, 48, .rw, 0⟩, ⟨47, 34, .rw, 0⟩, ⟨15, 0, .rw, 0⟩]⟩,
  ⟨"NET_SP_TX", 0x800200, [(4, 0x1000)], 64, [⟨63, 63, .rw, 0⟩, ⟨62, 60, .rw, 0⟩, ⟨59, 52, .rw, 0⟩, ⟨51, 48, .rw, 0⟩]⟩,
  ⟨"NET_CW_CFG", 0x808000, [], 64, [⟨63, 63, .rw, 0⟩, ⟨62, 61, .rw, 0⟩, ⟨60, 60, .rw, 0⟩, ⟨47, 32, .rw, 0xBE00⟩, ⟨31, 16, .ro, 0⟩, ⟨5, 0, .ro, 0⟩]⟩,
  ⟨"NET_CW_IP6", 0x808008, [], 64, [⟨63, 0, .rw, 0⟩]⟩,
  ⟨"NET_CW_XPORT", 0x808010, [], 32, [⟨31, 24, .rw, 1⟩, ⟨23, 20, .rw, 7⟩, ⟨15, 0, .rw, 0x10⟩]⟩,
  ⟨"NET_CW_STAT", 0x808018, [], 64, [⟨63, 48, .rc, 0⟩, ⟨47, 32, .rc, 0⟩, ⟨31, 16, .rc, 0⟩, ⟨15, 0, .rc, 0⟩]⟩,
  ⟨"NET_CW_PORT_STAT", 0x808100, [(8, 0x20)], 64, [⟨63, 63, .ro, 0⟩, ⟨62, 62, .ro, 0⟩, ⟨31, 16, .rc, 0⟩, ⟨15, 0, .rc, 0⟩]⟩,
  ⟨"NET_CW_PORT_ADJ", 0x808108, [(8, 0x20)], 64, [⟨63, 32, .rw, 0⟩, ⟨31, 0, .rw, 0⟩]⟩,
  ⟨"NET_PXY_CMD", 0x808800, [], 64, [⟨63, 63, .w1s, 0⟩, ⟨62, 62, .rw, 0⟩, ⟨61, 61, .rw, 0⟩, ⟨60, 60, .rw, 0⟩, ⟨53, 48, .rw, 0⟩, ⟨25, 0, .rw, 0⟩]⟩,
  ⟨"NET_PXY_DATA", 0x808808, [], 64, [⟨63, 0, .rw, 0⟩]⟩,
  ⟨"NET_PXY_STAT", 0x808810, [], 32, [⟨31, 31, .ro, 0⟩, ⟨30, 30, .w1c, 0⟩, ⟨2, 0, .ro, 0⟩]⟩,
  ⟨"NET_PXY_ALLOW", 0x808818, [], 64, [⟨63, 0, .rw, 0⟩]⟩,
  ⟨"NET_ROUTE", 0x809000, [(64, 8)], 32, [⟨24, 24, .ro, 0⟩, ⟨23, 16, .ro, 0⟩, ⟨15, 8, .ro, 0⟩, ⟨7, 0, .rw, 0xFF⟩]⟩,
  ⟨"NET_CH_SEND", 0x80A000, [(256, 0x20)], 64, [⟨63, 63, .rw, 0⟩, ⟨62, 60, .rw, 0⟩, ⟨59, 52, .rw, 0⟩, ⟨51, 48, .rw, 0⟩, ⟨47, 45, .rw, 0⟩, ⟨37, 32, .rw, 0⟩, ⟨7, 0, .rw, 0⟩]⟩,
  ⟨"NET_CH_RECV", 0x80A008, [(256, 0x20)], 64, [⟨63, 63, .rw, 0⟩, ⟨62, 60, .rw, 0⟩, ⟨59, 52, .rw, 0⟩, ⟨51, 48, .rw, 0⟩, ⟨47, 47, .rw, 0⟩, ⟨37, 32, .rw, 0⟩, ⟨29, 16, .rw, 0⟩, ⟨7, 0, .rw, 0⟩]⟩,
  ⟨"NET_CH_STAT", 0x80A010, [(256, 0x20)], 64, [⟨63, 48, .ro, 0⟩, ⟨47, 32, .ro, 0⟩, ⟨7, 4, .ro, 0⟩, ⟨3, 0, .ro, 0⟩]⟩,
  ⟨"MBX_REQ", 0xC00000, [(3, 0x100), (16, 4)], 32, [⟨31, 0, .rw, 0⟩]⟩,
  ⟨"MBX_RESP", 0xC00040, [(3, 0x100), (16, 4)], 32, [⟨31, 0, .ro, 0⟩]⟩,
  ⟨"MBX_CTL", 0xC00080, [(3, 0x100)], 32, [⟨31, 31, .w1s, 0⟩, ⟨30, 30, .ro, 0⟩, ⟨29, 29, .w1c, 0⟩, ⟨28, 28, .w1c, 0⟩, ⟨15, 0, .ro, 0⟩]⟩,
  ⟨"IMBX_REQ", 0x1180000, [(8, 0x200000), (16, 4)], 32, [⟨31, 0, .rw, 0⟩]⟩,
  ⟨"IMBX_RESP", 0x1180040, [(8, 0x200000), (16, 4)], 32, [⟨31, 0, .ro, 0⟩]⟩,
  ⟨"IMBX_CTL", 0x1180080, [(8, 0x200000)], 32, [⟨31, 31, .w1s, 0⟩, ⟨30, 30, .ro, 0⟩, ⟨29, 29, .w1c, 0⟩, ⟨28, 28, .w1c, 0⟩, ⟨15, 0, .ro, 0⟩]⟩]

/-- Register groups, part 5. -/
def regGroups5 : List RegGroup := [
  ⟨"FWM_PMB", 0xC00400, [(8, 0x10)], 64, [⟨63, 63, .rw, 0⟩, ⟨43, 12, .rw, 0⟩]⟩,
  ⟨"FWM_PMB_HEAD", 0xC00408, [(8, 0x10)], 32, [⟨31, 0, .ro, 0⟩]⟩,
  ⟨"FWM_COMP", 0xC01000, [(5, 8)], 64, [⟨63, 48, .ro, 0⟩, ⟨47, 32, .ro, 0⟩, ⟨31, 16, .ro, 0⟩, ⟨4, 4, .w1c, 0⟩, ⟨3, 3, .ro, 0⟩, ⟨2, 2, .ro, 0⟩, ⟨1, 1, .ro, 0⟩, ⟨0, 0, .ro, 0⟩]⟩,
  ⟨"FWM_UPD_STAT", 0xC01100, [], 64, [⟨63, 48, .ro, 0⟩, ⟨47, 44, .ro, 0⟩, ⟨43, 40, .ro, 0⟩, ⟨39, 36, .ro, 0⟩, ⟨32, 32, .w1c, 0⟩, ⟨15, 0, .ro, 0⟩]⟩,
  ⟨"FWM_LOG_BASE", 0xC01200, [], 64, [⟨43, 20, .rw, 0⟩, ⟨0, 0, .rw, 0⟩]⟩,
  ⟨"FWM_LOG_PTR", 0xC01208, [], 64, [⟨63, 32, .ro, 0⟩, ⟨17, 16, .rw, 3⟩, ⟨15, 0, .rc, 0⟩]⟩,
  ⟨"FWM_TRACE_EN", 0xC02000, [(64, 8)], 64, [⟨63, 0, .rw, 0⟩]⟩,
  ⟨"FWM_SEC_STAT", 0xC03000, [], 64, [⟨63, 48, .ro, 0⟩, ⟨47, 32, .ro, 0⟩, ⟨23, 20, .ro, 0⟩, ⟨19, 19, .ro, 0⟩, ⟨18, 18, .w1c, 0⟩, ⟨17, 17, .ro, 0⟩, ⟨16, 16, .ro, 0⟩, ⟨7, 7, .ro, 0⟩, ⟨6, 6, .ro, 0⟩]⟩,
  ⟨"FWM_DEVID", 0xC03040, [(2, 8)], 64, [⟨63, 0, .ro, 0⟩]⟩,
  ⟨"FWM_EARLY_LOG", 0xC80000, [(16384, 4)], 32, [⟨31, 0, .ro, 0⟩]⟩,
  ⟨"LHS_CFG", 0x500000, [], 64, [⟨63, 63, .rw, 1⟩, ⟨57, 48, .rw, 0x14⟩, ⟨46, 44, .rw, 1⟩, ⟨43, 36, .rw, 4⟩, ⟨35, 28, .rw, 0x10⟩, ⟨15, 0, .rw, 0x57C⟩]⟩,
  ⟨"LHS_PINS", 0x500008, [], 32, [⟨31, 31, .wo, 0⟩, ⟨15, 8, .ro, 0⟩, ⟨2, 2, .ro, 0⟩, ⟨1, 0, .ro, 0⟩]⟩,
  ⟨"LHS_INJ", 0x500010, [], 64, [⟨63, 63, .ro, 0⟩, ⟨55, 40, .ro, 0⟩, ⟨39, 32, .ro, 0⟩, ⟨22, 0, .ro, 0⟩]⟩,
  ⟨"LHS_INJ_CORE", 0x500018, [], 64, [⟨63, 0, .ro, 0⟩]⟩,
  ⟨"LHS_EVT_PTR", 0x500020, [], 32, [⟨31, 0, .ro, 0⟩]⟩,
  ⟨"LHS_MM_DIGEST", 0x500040, [(4, 8)], 64, [⟨63, 0, .ro, 0⟩]⟩,
  ⟨"LHS_MM_INFO", 0x500060, [], 64, [⟨63, 58, .ro, 0⟩, ⟨57, 54, .ro, 0⟩, ⟨47, 32, .rc, 0⟩]⟩,
  ⟨"LHS_WIN_S", 0x500100, [(16, 0x20)], 64, [⟨63, 0, .rw, 0⟩]⟩,
  ⟨"LHS_WIN_NS", 0x500108, [(16, 0x20)], 64, [⟨63, 32, .rw, 0⟩, ⟨29, 0, .rw, 0⟩]⟩,
  ⟨"LHS_WIN_CTL", 0x500110, [(16, 0x20)], 64, [⟨63, 63, .rw, 0⟩, ⟨55, 48, .rw, 0⟩, ⟨31, 0, .rw, 0⟩]⟩,
  ⟨"LHS_BCN", 0x500400, [(64, 8)], 64, [⟨63, 56, .ro, 0⟩, ⟨55, 48, .ro, 0⟩, ⟨47, 47, .ro, 0⟩, ⟨46, 45, .ro, 0⟩, ⟨44, 41, .ro, 0⟩, ⟨31, 0, .ro, 0⟩]⟩,
  ⟨"LHS_DL_CFG", 0x510000, [(256, 0x40)], 64, [⟨63, 63, .rw, 0⟩, ⟨62, 62, .rw, 0⟩, ⟨59, 46, .rw, 0⟩, ⟨45, 32, .rw, 0⟩, ⟨31, 0, .rw, 0⟩]⟩,
  ⟨"LHS_DL_THR", 0x510008, [(256, 0x40)], 64, [⟨63, 48, .rw, 0⟩, ⟨47, 0, .rw, 0⟩]⟩,
  ⟨"LHS_DL_TS", 0x510010, [(256, 0x40)], 64, [⟨63, 0, .rw, 0⟩]⟩,
  ⟨"LHS_DL_TNS", 0x510018, [(256, 0x40)], 64, [⟨63, 32, .rw, 0⟩, ⟨29, 0, .rw, 0⟩]⟩,
  ⟨"LHS_DL_STAT", 0x510020, [(256, 0x40)], 64, [⟨63, 48, .rc, 0⟩, ⟨47, 32, .ro, 0⟩, ⟨31, 16, .ro, 0⟩, ⟨7, 7, .w1c, 0⟩, ⟨6, 3, .ro, 0⟩, ⟨2, 0, .ro, 0⟩]⟩,
  ⟨"LHS_PROV", 0x520000, [(256, 0x40), (8, 8)], 64, [⟨63, 0, .rw, 0⟩]⟩,
  ⟨"LHS_EVENT_RING", 0x508000, [(8192, 4)], 32, [⟨31, 0, .ro, 0⟩]⟩,
  ⟨"PWR_MODE", 0x600000, [], 32, [⟨23, 16, .rw, 0xA⟩, ⟨15, 8, .rw, 0⟩, ⟨2, 0, .rw, 0⟩]⟩,
  ⟨"PWR_STAT", 0x600008, [], 32, [⟨19, 16, .ro, 0⟩, ⟨15, 8, .ro, 0⟩, ⟨7, 4, .ro, 0⟩, ⟨3, 3, .w1c, 0⟩, ⟨2, 0, .ro, 0⟩]⟩]

/-- Register groups, part 6. -/
def regGroups6 : List RegGroup := [
  ⟨"PWR_WAKE", 0x600010, [], 64, [⟨63, 32, .rw, 0⟩, ⟨29, 16, .rw, 0⟩, ⟨3, 3, .ro, 1⟩, ⟨2, 0, .rw, 1⟩]⟩,
  ⟨"PWR_LIMIT", 0x600018, [], 32, [⟨31, 16, .ro, 0⟩, ⟨8, 0, .rw, 400⟩]⟩,
  ⟨"PWR_THERM", 0x600020, [], 64, [⟨47, 32, .rc, 0x8000⟩, ⟨31, 24, .ro, 0⟩, ⟨21, 21, .ro, 0⟩, ⟨20, 20, .ro, 0⟩, ⟨19, 16, .ro, 0⟩, ⟨15, 0, .ro, 0⟩]⟩,
  ⟨"PWR_RESET", 0x600028, [], 32, [⟨31, 24, .wo, 0⟩]⟩,
  ⟨"PAD_HOLD_STAT", 0xD00000, [], 32, [⟨5, 4, .ro, 0⟩, ⟨3, 0, .ro, 0⟩]⟩,
  ⟨"PAD_HOLD_REL", 0xD00008, [], 32, [⟨3, 0, .wo, 0⟩]⟩,
  ⟨"PAD_CLAIM", 0xD00100, [(4, 0x10)], 64, [⟨63, 48, .ro, 0⟩, ⟨45, 40, .ro, 0⟩, ⟨38, 36, .ro, 0⟩, ⟨31, 30, .wo, 0⟩, ⟨11, 0, .rw, 0⟩]⟩,
  ⟨"MSIX_ADDR", 0xF0000, [(256, 0x10), (3, 4)], 32, [⟨31, 0, .rw, 0⟩]⟩,
  ⟨"MSIX_CTRL", 0xF000C, [(256, 0x10)], 32, [⟨0, 0, .rw, 1⟩]⟩,
  ⟨"MSIX_PBA", 0xF8000, [(8, 4)], 32, [⟨31, 0, .ro, 0⟩]⟩]

/-- Every register group of BAR0. -/
def regGroups : List RegGroup := regGroups0 ++ regGroups1 ++ regGroups2 ++ regGroups3 ++ regGroups4 ++ regGroups5 ++ regGroups6

/-- The indices a relative offset names in a group, or none. -/
def regIndex : List (Nat × Nat) → Nat → Option (List Nat)
  | [], rel => if rel = 0 then some [] else none
  | (n, st) :: t, rel => if rel / st < n then (regIndex t (rel % st)).map (fun l => rel / st :: l) else none

/-- The group and the indices at an offset, or none (an unused offset, R25). -/
def regFind (off : Nat) : List RegGroup → Option (RegGroup × List Nat)
  | [] => none
  | g :: t =>
    if g.base ≤ off then
      match regIndex g.strides (off - g.base) with
      | some ix => some (g, ix)
      | none => regFind off t
    else regFind off t

/-- The register at a BAR0 offset. -/
def regAt (off : Nat) : Option (RegGroup × List Nat) := regFind off regGroups

/-- The reset value of a group's register: its fields at their reset values, other bits 0 (R11). -/
def RegGroup.resetVal (g : RegGroup) : Nat := g.fields.foldl (fun v f => v + f.reset * 2 ^ f.lo) 0

/-- The reset value of the register at an offset. Offsets beyond BAR0 hold the banked copies of window registers, at
the offset of window 0's register plus a multiple of 64 MiB. -/
def regReset (off : Nat) : DWord :=
  match regAt (off % 0x4000000) with
  | some (g, _) => BitVec.ofNat 64 g.resetVal
  | none => 0

end Sys2Proof.Machine
end

