-- ==== Sys2Proof/Machine/Tab.lean ====
section
/-! DEFINITION. Tables: sparse data as a list of key and value pairs, keys strictly rising. A table over a default
function lists no entry equal to its default, so that equal contents are equal data. -/
namespace Sys2Proof.Machine

/-- A sparse table: (key, value) pairs with strictly rising keys. -/
abbrev Tab (α : Type) := List (Nat × α)

/-- The value listed at key `k`. -/
def tabFind {α : Type} : Tab α → Nat → Option α
  | [], _ => none
  | (j, v) :: t, k => if k = j then some v else tabFind t k

/-- The value at key `k`, `d` where none is listed. -/
def tabGet {α : Type} (d : α) (t : Tab α) (k : Nat) : α := (tabFind t k).getD d

/-- The table with `v` listed at key `k`. -/
def tabPut {α : Type} : Tab α → Nat → α → Tab α
  | [], k, v => [(k, v)]
  | (j, u) :: t, k, v =>
    if k < j then (k, v) :: (j, u) :: t
    else if k = j then (k, v) :: t
    else (j, u) :: tabPut t k v

/-- The table with nothing listed at key `k`. -/
def tabDel {α : Type} : Tab α → Nat → Tab α
  | [], _ => []
  | (j, u) :: t, k => if k = j then tabDel t k else (j, u) :: tabDel t k

/-- The table with `v` at key `k`, the default `d` not listed. -/
def tabSet {α : Type} [DecidableEq α] (d : α) (t : Tab α) (k : Nat) (v : α) : Tab α :=
  if v = d then tabDel t k else tabPut t k v

/-- The table with an optional value at key `k`. -/
def tabOpt {α : Type} (t : Tab α) (k : Nat) : Option α → Tab α
  | none => tabDel t k
  | some v => tabPut t k v

/-- The table without the keys `[lo, lo + n)`. -/
def tabClear {α : Type} (t : Tab α) (lo n : Nat) : Tab α := t.filter (fun p => decide (p.1 < lo) || decide (lo + n ≤ p.1))

/-- Keys strictly rising. -/
def tabRising {α : Type} : Tab α → Bool
  | [] => true
  | [_] => true
  | a :: b :: t => decide (a.1 < b.1) && tabRising (b :: t)

/-- No entry equals its default. -/
def tabNoDefault {α : Type} [DecidableEq α] (d : Nat → α) (t : Tab α) : Bool :=
  t.all (fun p => decide (p.2 ≠ d p.1))

/-- The canonical form of a table over the default `d`. -/
def tabWf {α : Type} [DecidableEq α] (d : Nat → α) (t : Tab α) : Bool := tabRising t && tabNoDefault d t

/-- A sorted list of naturals with `k` in it. -/
def setIns : List Nat → Nat → List Nat
  | [], k => [k]
  | j :: t, k => if k < j then k :: j :: t else if k = j then j :: t else j :: setIns t k

/-- A list of naturals without `k`. -/
def setDel (t : List Nat) (k : Nat) : List Nat := t.filter (fun j => decide (j ≠ k))

/-- Insertion into a list ordered by `le`, after the elements that are not greater. -/
def insBy {α : Type} (le : α → α → Bool) (x : α) : List α → List α
  | [] => [x]
  | y :: t => if le y x then y :: insBy le x t else x :: y :: t

/-- A list ordered by `le`, stable. -/
def sortBy {α : Type} (le : α → α → Bool) (l : List α) : List α := l.foldl (fun a x => insBy le x a) []

end Sys2Proof.Machine
end

