-- ==== Sys2Proof/Machine/State.lean ====
section
/-! DEFINITION. The state of the block as plain data, and its reset value. -/
namespace Sys2Proof.Machine

/-! ## Tensor core state (04_tensor_core.md, 06, 07, 08) -/

/-- Storage with undefined regions: listed cells, and regions whose unlisted cells are undefined (`some gen`) or zero
(`none`), the latest region first; outside every region an unlisted cell reads 0. -/
structure Region where
  lo : Nat
  len : Nat
  gen : Option Nat
  deriving DecidableEq, Repr

/-- Byte- or word-wide storage: cells by address in canonical form, and the regions of Log 6. -/
structure Store (w : Nat) where
  cells : Tab (BitVec w)
  regions : List Region
  deriving DecidableEq, Repr

/-- The state of a ring slot (R241): E EMPTY, P reserved, F FULL, C acquired. -/
inductive SlotSt where
  | e | p | f | c
  deriving DecidableEq, Repr

/-- A defined ring (R166, R241): base berth or 4 KiB unit, slot count, berths or units per slot, lagoon or harbour,
roles, late threshold, slot states and the four pointers. -/
structure Ring where
  base : Nat
  slots : Nat
  sb : Nat
  harbour : Bool
  prod : Nat
  cons : Nat
  lateNs : Nat
  st : List SlotSt
  head : Nat
  rsv : Nat
  tail : Nat
  acq : Nat
  deriving DecidableEq, Repr

/-- What a stalled instruction waits for (R108, R165); a tag wait names the direction and the berths (R205); `row` is a
stop at a row boundary for a preemption (R107). -/
inductive Wait where
  | tags (write : Bool) (bs : List Nat)
  | slot
  | sync (obj thresh : Nat)
  | barrier (id : Nat)
  | launch (sec ns : Nat)
  | ferry (f : Nat)
  | bind (f h : Nat)
  | streams
  | icc
  | reduce
  | hash
  | row
  deriving DecidableEq, Repr

/-- What an instruction touches (R104): its unit (R103; 0 none, 1 the matrix path, 2 the epilogue path, 3 the vector unit,
4 the request to the island control core), the registers it reads and writes by number, accumulator groups of 16 rows at
0x200 + 8 bank + group, digest contexts at 0x100 + number, the lagoon cells as (first, count), and whether it takes effect
only after every earlier instruction of the slice. -/
structure Foot where
  unit : Nat
  rd : List Nat
  wr : List Nat
  crd : List (Nat × Nat)
  cwr : List (Nat × Nat)
  drain : Bool
  deriving DecidableEq, Repr

/-- A REDUCE in progress (R181 to R183). At its holder: the row being summed, the slices added into it so far in order, the
sums formed, keyed as accumulator elements, and whether an order has differed from the ascending one. At a contributor: its
next row. It is kept across a preemption. -/
structure RedSt where
  row : Nat
  order : List Nat
  sums : Tab Word
  differs : Bool
  deriving DecidableEq, Repr

/-- The stationary tile that the arrays hold for a K-block and pass, column by column (R99). -/
abbrev StatTile := List (List (Option (BitVec 20)))

/-- An instruction that has issued and waits while later ones go on (R104, R108): its address and words, what it waits
for and since when, its resume point, the stationary tile it has loaded, what it touches, its number of arrival at the wait
(R171), and how far a REDUCE has come. -/
structure Fly where
  pc : Nat
  w1 : Nat
  w2 : Nat
  wait : Wait
  since : Nat
  resume : Option (Nat × Nat)
  tile : StatTile
  foot : Foot
  arr : Nat
  red : RedSt
  deriving DecidableEq, Repr

/-- The program-visible registers of a core (Table 4.1), its program counter and resume point, the wait that holds
back its next instruction, the instructions that wait while others go on, and the slice state of
chapter 6 (barriers executed, by ID). Tables list what differs from 0: scalars by number, vector lanes at 128 v + lane, descriptor words at
2 t + word, accumulator elements at 8192 a + 64 row + column, row sums and position counts at 128 a + row. -/
structure CoreRegs where
  s : Tab DWord
  v : Tab Word
  t : Tab DWord
  acc : Store 32
  rowsum : Tab Word
  poscnt : Tab Word
  live : BitVec 8
  p : BitVec 8
  rings : Tab Ring
  fh : Tab Nat
  fran : BitVec 8
  pc : Nat
  resume : Option (Nat × Nat)
  tile : StatTile
  stall : Option Wait
  waitStart : Nat
  fly : List Fly
  stream : Nat
  block : Nat
  digests : Tab (List Byte)
  barriers : Tab Nat
  deriving DecidableEq, Repr

/-- One slice of a command (R85, R247, R318, R367): its queue, its index and the count, argument pointer, entry offset,
context, partition, priority, the step its registers read, whether it belongs to a gang, its stage of a CHAIN with its
index within the stage, real-time, power-control and digest marks, the core it is placed on (R371), for a CONV slice
its stripes, and a number of its own. -/
structure Slice where
  q : Nat
  idx : Nat
  nslice : Nat
  argp : Nat
  entry : Nat
  ctx : Nat
  part : Nat
  prio : Nat
  step : Nat
  gang : Bool
  stage : Nat
  sidx : Nat
  rt : Bool
  pwr : Bool
  digest : Bool
  place : Option Nat
  stripes : List Nat
  seq : Nat
  deriving DecidableEq, Repr

/-- What a core does (TC_STATUS.STATE, R110), waits apart. -/
inductive CoreMode where
  | idle | running | saving | restoring | scrubbing | beacon | asleep
  deriving DecidableEq, Repr

/-- A tensor core with its lagoon; `restArr` is the arrival of its restore among the waits for a ferry (R240). -/
structure Core where
  regs : CoreRegs
  mode : CoreMode
  slice : Option Slice
  queue : List Slice
  gen : Nat
  resident : Option Nat
  lastPart : Option Nat
  lastCtx : Nat
  lastPrio : Nat
  started : Nat
  preempt : Bool
  restArr : Nat
  lgn : Store 8
  tags : BitVec 128
  blive : BitVec 128
  parity : List Nat
  lgnUe : List Nat
  lgnCe : List Nat
  accUe : List Nat
  accCe : List Nat
  icUe : List Nat
  icCe : List Nat
  cap : List DWord
  deriving DecidableEq, Repr

/-- The mode of an address register (R229, R230); sizes and limits in bytes. -/
inductive XMode where
  | none
  | wrap (size : Nat)
  | clamp (limit : Nat)
  | fence (limit : Nat)
  deriving DecidableEq, Repr

/-- A ferry's x register with its base and mode (R229). -/
structure XReg where
  x : DWord
  b : DWord
  mode : XMode
  deriving DecidableEq, Repr

/-- An open loop level of a stream (R229). -/
structure LoopSt where
  cnt : Nat
  it : Nat
  top : Nat
  strides : List (Nat × Int)
  deriving DecidableEq, Repr

/-- The name of a ring of the command: core and handle (R225). -/
structure RingName where
  core : Nat
  handle : Nat
  deriving DecidableEq, Repr

/-- What a ferry waits for (FRY_STATUS.STATE 0x3 to 0x9, R255); a tag wait names the core, the direction, the berths. -/
inductive FWait where
  | none | slotE | slotF | tags (core : Nat) (write : Bool) (bs : List Nat) | remote | fault (fid : Nat) | landing | saved
  deriving DecidableEq, Repr

/-- Does a ferry wait on tags? -/
def FWait.onTags : FWait → Bool
  | .tags _ _ _ => true
  | _ => false

/-- The page a KVGATHER slot is being filled from, as read when the slot was reserved (R307): its data's address, virtual
or in the harbour, its VALID word and its size; `src` is none for a page that is absent. -/
structure KvPageRun where
  src : Option Nat
  hbr : Bool
  valid : Nat
  size : Nat
  deriving DecidableEq, Repr

/-- A built-in KVGATHER stream (R189, R307): entry address, next page index, end index, the page being delivered. -/
structure KvGather where
  entry : Nat
  next : Nat
  stop : Nat
  cur : Option KvPageRun
  deriving DecidableEq, Repr

/-- A built-in convolution stream (R280 to R285): the descriptor, the slice's stripes, the next unit of work (a stripe to
stage and the run of it, or a window slot), the staging buffers (0 or 1) that its stripes have or had, in their order, and
whether it is the staging stream. -/
structure ConvRun where
  desc : List Byte
  stripes : List Nat
  next : Nat
  run : Nat
  bufs : List Nat
  staging : Bool
  deriving DecidableEq, Repr

/-- An open stream of a ferry (R227 to R240); `load` is the harbour offset of a program not yet loaded. -/
structure Stream where
  load : Option Nat
  prog : List Nat
  op : Nat
  loops : Tab LoopSt
  pend : List (Nat × Int)
  pad : Nat
  ringA : Option Nat
  ringB : Option Nat
  mem : Option RingName
  pos : Nat
  q : Nat
  slice : Nat
  core : Nat
  wait : FWait
  kv : Option KvGather
  conv : Option ConvRun
  held : List RingName
  acqd : List RingName
  absorbed : List Byte
  seq : Nat
  since : Nat
  waitRing : Option RingName
  deriving DecidableEq, Repr

/-- A ferry (R223, R254 to R257): the core and handle it is bound to, its open stream, its x registers, the status
fields of the current or last stream, the rings of which an ended stream has kept slots for the next one (R241), and
whether it stops for a cancellation (R251) or drains (R252). -/
structure Ferry where
  bound : Option RingName
  stream : Option Stream
  held : List RingName
  acqd : List RingName
  xs : Tab XReg
  ctx : Nat
  prio : Nat
  op : Nat
  err : Nat
  bytes : Nat
  drain : Bool
  cancelling : Option Nat
  deriving DecidableEq, Repr

/-- A saved slice or a residence saved between commands (R109, R213, R240, R370). -/
structure Saved where
  ctx : Nat
  core : Nat
  slice : Option Slice
  regs : CoreRegs
  tags : BitVec 128
  blive : BitVec 128
  lgn : Store 8
  badWords : List Nat
  badAcc : List Nat
  ferries : Tab Ferry
  deriving DecidableEq, Repr

/-! ## Scheduling state (12_scheduling.md) -/

/-- The phases of a fetched command (R348 to R359). -/
inductive CmdPhase where
  | waiting | ready | running | ended
  deriving DecidableEq, Repr

/-- A fetched command of a queue (Table 12.4) with its progress: its queue's context, partition, priority and marks, the
context's configuration and provenance digests and the usable cores as they stood at fetch (R365, R371, R534), its phase,
the slices not yet dispatched, how many dispatched ones have not ended, what its completion record will say, and the core
each slice was placed on last, by index (R225). -/
structure Cmd where
  idx : Nat
  kind : Nat
  flags : Nat
  nslice : Nat
  tag : Nat
  argp : Nat
  entry : Nat
  waits : List (Nat × Nat)
  sigs : List (Nat × Bool × Nat)
  ctx : Nat
  part : Nat
  prio : Nat
  rt : Bool
  pwr : Bool
  cfg : DWord
  prov : List Byte
  cores : List Nat
  step : Nat
  phase : CmdPhase
  since : Nat
  begun : Bool
  todo : List Slice
  live : Nat
  status : Nat
  prop : Bool
  dl : Bool
  late : Bool
  pre : Bool
  bcn : Bool
  ndc : Nat
  engine : Nat
  endS : Nat
  endNs : Nat
  endCyc : Nat
  endKey : Nat
  ranOn : List Nat
  digests : List (Nat × Nat × List Byte)
  acks : List Nat
  homes : Tab Nat
  stages : List Nat
  conv : List Byte
  deriving DecidableEq, Repr

/-- Commands of a queue that complete without running (R376, R487): those below an index, with a status; whether the
queue is disabled once they have. -/
structure Flush where
  stop : Nat
  status : Nat
  close : Bool
  deriving DecidableEq, Repr

/-- A request to an island control core (R165, R187, R190): island, the slice that waits (with its number `seq`), append or evict, the entry,
the source keys and values of an append, or the target and the pinned spans of an eviction. -/
structure KvReq where
  island : Nat
  q : Nat
  slice : Nat
  ctx : Nat
  append : Bool
  entry : Nat
  dim : Nat
  toks : List (List Byte × List Byte)
  target : Nat
  sink : Nat
  window : Nat
  dst : Nat
  fault : Option Nat
  seq : Nat
  deriving DecidableEq, Repr

/-! ## Memory path state (11_memory.md) -/

/-- The translation caches (R334): a ferry's, an island's, an island's of level-1 and level-2 entries, the intake's. -/
inductive TlbUnit where
  | ferry (f : Nat)
  | island (n : Nat)
  | walk (n : Nat)
  | intake
  deriving DecidableEq, Repr

/-- A cached translation entry (R334): its cache, address space, level, the region it maps, the entry and where it was
read. -/
structure TlbEntry where
  unit : TlbUnit
  asid : Nat
  level : Nat
  va : Nat
  entry : Nat
  addr : Nat
  deriving DecidableEq, Repr

/-- What has reached a sync object in the present shore cycle (R176, R361): the counter at its start, the counter before its
signals, the sum of the additions, the greatest maximum, the first error. -/
structure SynCyc where
  start : DWord
  base : DWord
  add : DWord
  top : DWord
  err : Option (Nat × Nat)
  deriving DecidableEq, Repr

/-- An event of the present shore cycle (R513): its place among them (CODE, then UNIT), its effect on the pins (0 none, 2 FAULT,
3 SUPERVISOR), its code, and the bytes of its record after PIN. -/
structure EvtNow where
  key : Nat
  eff : Nat
  code : Nat
  body : List Byte
  deriving DecidableEq, Repr

/-- The counter after the cycle's signals: every addition, then every maximum. -/
def SynCyc.value (x : SynCyc) : DWord := if (x.base + x.add).toNat < x.top.toNat then x.top else x.base + x.add

/-- A queued invalidation (R335): scope, address space, first page, page count. -/
structure Inval where
  scope : Nat
  asid : Nat
  page : Nat
  pages : Nat
  deriving DecidableEq, Repr

/-- A BAR4 access that waits for its memory (R329, R584): its function, whether it writes, address, length, data. -/
structure Bar4Acc where
  fn : Fn
  wr : Bool
  addr : Nat
  len : Nat
  data : List Byte
  deriving DecidableEq, Repr

/-- The agents that fault (Table 11.5). -/
inductive FaultAgent where
  | ferry (f : Nat)
  | job (n : Nat)
  | icc (n : Nat)
  deriving DecidableEq, Repr

/-- A held fault that is open (R337 to R339), with the shore cycle that opened it. -/
structure HeldFault where
  fid : Nat
  agent : FaultAgent
  q : Nat
  slice : Nat
  cyc : Nat
  deriving DecidableEq, Repr

/-! ## Supervision state (18_safety_and_replay.md) -/

/-- An open instance of a deadline entry (R525): deadline, threshold, missed. -/
structure DlInst where
  sec : Nat
  ns : Nat
  thr : Nat
  missed : Bool
  deriving DecidableEq, Repr

/-- A message the block sends out on one of its links: an MSI-X message, a frame, a packet, a pad level. -/
inductive OutMsg where
  | msix (fn vec : Nat)
  | packet (port : Nat) (bytes : List Byte)
  | frame (port : Nat) (bytes : List Byte)
  | pad (group pad : Nat) (level : Bool)
  | spi (dev : Nat) (word : Nat)
  | ldac (m : Nat)
  | can (ctl : Nat) (frame : CanFrame)
  | canAck (ctl : Nat)
  | canErrorFrame (ctl : Nat) (active : Bool)
  | tap (bits : List Byte)
  | secure (msg : List Byte)
  deriving DecidableEq, Repr
/-! ## Intake state (09_vision_path.md) -/

/-- What a sample's frame record will say (Table 9.5), SEQ and NOSLOTS apart. -/
structure SampleRec where
  tag : Nat
  status : Nat
  flags : Nat
  source : Nat
  startS : Nat
  startNs : Nat
  endS : Nat
  endNs : Nat
  digest : List Byte
  deriving DecidableEq, Repr

/-- Where a sample's output stands: rows written, slots committed to the ring as now defined and in all, a slot reserved
and not committed, and the row bytes written. -/
structure SampleOut where
  rows : Nat
  slots : Nat
  total : Nat
  opened : Bool
  full : Bool
  base : Nat
  bytes : List Byte
  deriving DecidableEq, Repr

/-- An ended live frame whose slots are still owed (R271): how many, how many it has committed to the ring as now
defined, and its record. -/
structure SlotDebt where
  owed : Nat
  out : SampleOut
  record : SampleRec
  deriving DecidableEq, Repr

/-- A live frame being received (R270 to R273). -/
structure LiveFrame where
  desc : List Byte
  w : Nat
  h : Nat
  dt : Nat
  startS : Nat
  startNs : Nat
  lines : List (List Nat)
  flags : Nat
  out : SampleOut
  dropped : Bool
  noRing : Bool
  sb : Nat
  gen : Nat
  deriving DecidableEq, Repr

/-- A live stream: its descriptor in force, its sample count, its open frame, its debts. -/
structure LiveStream where
  desc : List Byte
  seq : Nat
  frame : Option LiveFrame
  debts : List SlotDebt
  deriving DecidableEq, Repr

/-- The memory job a queue runs (R261, R275 to R277): its descriptor once read, its source rows or JPEG bytes read so
far, whether its checks are done, whether it has ended early, the MCUs decoded before an overrun, an open fault. -/
structure Job where
  desc : Option (List Byte)
  startS : Nat
  startNs : Nat
  rows : List (List Nat)
  jpeg : List Byte
  checked : Bool
  ended : Bool
  status : Nat
  flags : Nat
  overran : Option Nat
  time : Nat
  fault : Option Nat
  out : SampleOut
  gen : Nat
  deriving DecidableEq, Repr

/-- A job queue: its sample count and the job it runs. -/
structure JobQueue where
  seq : Nat
  job : Option Job
  deriving DecidableEq, Repr

/-! ## Tideline state (13_tideline.md) -/

/-- A pending set-point record (R398): apply time in nanoseconds, KIND, SP, FF, TAG. -/
structure TdlRec where
  apply : Nat
  kind : Nat
  sp : Word
  ff : Word
  tag : Nat
  deriving DecidableEq, Repr

/-- A commit that awaits its sample (R409): window, the shore cycle of its write, the registers by index. -/
structure TdlCommit where
  win : Nat
  cyc : Nat
  vals : Tab DWord
  deriving DecidableEq, Repr

/-- What a loop channel holds beside its registers (R386 to R405): whether an enable is in force, whether no sample has
run since, the frame of its latest sample, the values of the latest sample, its sample count, the count of R403, the
encoder count and the CAN arrival of the latest sample, the output before the latest with the cycle from which the
latest is visible (R395), when its SPI read completes, its pending records and commits, the injection's sample number
and shift register. -/
structure TdlChan where
  live : Bool
  fresh : Bool
  last : Option Nat
  ep : Int
  yp : Int
  df : Int
  count : Nat
  fe : Nat
  enc : Nat
  seen : Nat
  uPrev : Nat
  visAt : Nat
  rd : Option Nat
  pend : List TdlRec
  commits : List TdlCommit
  tn : Nat
  lfsr : Nat
  deriving DecidableEq, Repr

/-- A slot a drop binding copies (R396): the byte offset of the next record, whether it waits for space. -/
structure DropCopy where
  off : Nat
  full : Bool
  deriving DecidableEq, Repr

/-- A landed record in the shore drop ring: binding, bytes, landing time in nanoseconds. -/
structure LandedRec where
  b : Nat
  bytes : List Byte
  ns : Nat
  deriving DecidableEq, Repr

/-- A PWM carrier (R416): the cycle of its latest start, period and centre alignment in force, the cycle of its next
start, a CMP that awaits a start. -/
structure PwmRun where
  start : Nat
  period : Nat
  centre : Bool
  next : Nat
  cmp : Option Nat
  since : Nat
  on0 : Option Nat
  on1 : Option Nat
  deriving DecidableEq, Repr

/-- What a sample will do at a later cycle of its slot (Table 13.4): drive its output by the channel's CH_IO, or update an
entry of the learning table. -/
structure TdlDue where
  cyc : Nat
  chan : Nat
  slot : Nat
  io : Nat
  u : Int
  rc : Option (Nat × Nat)
  deriving DecidableEq, Repr

/-- A claim made in this shore cycle (R576): resource, holder and channel, whether it is granted, the window it came by, and,
of a channel's enabling commit, the registers' new values and those before it. -/
structure ClaimNow where
  res : Nat
  holder : Nat
  ch : Nat
  ok : Bool
  win : Nat
  new : Tab DWord
  old : Tab DWord
  deriving DecidableEq, Repr

/-- A register write of an agent other than the host in this shore cycle, with the agent's window (R410, R425). -/
structure WinWrite where
  win : Nat
  key : Nat
  val : DWord
  deriving DecidableEq, Repr

/-- The timebase at a cycle from which its value and rate are known: the value in units of 2^-32 ns and INCR. -/
structure TbAnchor where
  cyc : Nat
  val : Nat
  incr : Nat
  deriving DecidableEq, Repr

/-! ## CAN state (14_can.md) -/

/-- The active copy of a receive buffer (R429): frame, stamp, SEQ, its number of arrival and the cycle of its swap. -/
structure CanRx where
  frame : CanFrame
  sec : Nat
  ns : Nat
  seq : Nat
  arr : Nat
  cyc : Nat
  deriving DecidableEq, Repr

/-- A transmission attempt (R433): the template, its copy at SOF, the cycle of the sample point of its SOF bit, and its
stamp from then on (R430). -/
structure CanTx where
  tpl : Nat
  frame : CanFrame
  sof : Nat
  stamp : Option (Nat × Nat)
  deriving DecidableEq, Repr

/-- A transmit request of this shore cycle: controller, template, window (R434). -/
structure CanReq where
  ctl : Nat
  tpl : Nat
  win : Nat
  deriving DecidableEq, Repr

/-- A PTP frame received on a causeway port, with its stamp in seconds, ns and 2^-16 ns (R451). -/
structure PtpFrame where
  stamp : Nat × Nat × Nat
  bytes : List Byte
  deriving DecidableEq, Repr

/-! ## Time and network state (15_time_and_causeway.md) -/

/-- A step of the timebase that takes effect at the next tick (R443). -/
inductive TbOp where
  | step (d : Int)
  | set (sec ns : Nat)
  deriving DecidableEq, Repr

/-- The slot a receive binding of a sensor port fills (R454): the offset after its latest frame, the cycle of its first. -/
structure EthRx where
  off : Nat
  since : Nat
  deriving DecidableEq, Repr

/-- A slot being assembled by a receive side (R463): its number, the payload ranges that have arrived, its header. -/
structure CwSlotRx where
  n : Nat
  got : List (Nat × Nat)
  hdr : Option (List Byte)
  deriving DecidableEq, Repr

/-- A receive side (R461): credits granted, slots committed, the slots being assembled, the cycle of the latest CREDIT. -/
structure CwRx where
  granted : Nat
  done : Nat
  slots : List CwSlotRx
  sent : Nat
  deriving DecidableEq, Repr

/-- A send side (R461 to R463): credits received with the credited slot size, slots delivered, the port used last, the
slot held: whether it has been sent, and its LEN. -/
structure CwTx where
  credits : Nat
  size : Nat
  n : Nat
  port : Nat
  cur : Option (Bool × Nat)
  deriving DecidableEq, Repr

/-- A packet that awaits its acknowledgement (R464): its TYPE, the cycle it was last sent, its retransmissions, and
whether it is void: sent again on another port, or of an abandoned slot, so that only its PSN matters. -/
structure CwUnack where
  typ : Nat
  pkt : CwPkt
  sent : Nat
  tries : Nat
  void : Bool
  deriving DecidableEq, Repr

/-- A path (R464): next PSN, unacknowledged packets, next PSN expected, those received beyond it, packets and cycle since
the latest acknowledgement. -/
structure CwPath where
  psn : Nat
  unacked : List CwUnack
  rx : Nat
  ooo : List Nat
  owed : Nat
  since : Nat
  deriving DecidableEq, Repr

/-! ## Firmware and security state (17_firmware.md, 19_security.md) -/

/-- A running image or the manifest in force: digest, SVN, FLOOR. -/
structure ImageInfo where
  digest : List Byte
  svn : Nat
  floor : Nat
  deriving DecidableEq, Repr

/-- A restart of a component (R509): component, island, reason of Table 17.4. -/
structure Restart where
  comp : Nat
  inst : Nat
  reason : Nat
  deriving DecidableEq, Repr

/-- A region of memory assigned to a component's processor (R498): kind 0 code, 1 data, 2 mailboxes. -/
structure FwRegion where
  comp : Nat
  inst : Nat
  kind : Nat
  base : Nat
  size : Nat
  deriving DecidableEq, Repr

/-- A message of 32 bytes from one component to another (R500): 0 SEC, 1 PMC, 2 SCH, 3 + n the ICC of island n, 11 LHS. -/
structure Mail where
  src : Nat
  dst : Nat
  bytes : List Byte
  deriving DecidableEq, Repr

/-! ## The faults and refusals of a step -/

/-- The faults of a step. No command of this block stops the machine: what a command does wrong, the block reports in
its own state (R4), so no constructor is needed. -/
inductive Fault where
  deriving DecidableEq, Repr

/-- The refusals of a step. -/
inductive Refusal where
  /-- Raised by Machine/Dispatch.lean alone, for a command of the table that has no meaning yet: safe, nothing runs. -/
  | notModelled (mnemonic : String)
  deriving DecidableEq, Repr

/-! ## The whole block -/

/-- What the present shore cycle has brought (R12): register events, signals, records, writes and claims of windows, requests,
pins; a tick ends it. -/
structure CycleState where
  memHeld : Bool
  fnow : List (List Byte)
  lnow : List (Nat × List Byte)
  evt : Tab (DWord × DWord)
  synEvt : Tab SynCyc
  winNow : List WinWrite
  claimNow : List ClaimNow
  canNow : List CanReq
  enow : List EvtNow
  pinBase : Nat
  pendBase : Nat
  dlNow : List Nat
  deriving DecidableEq, Repr

/-- The firmware components and the security core (chapters 17 and 19). -/
structure FirmwareState where
  flash : Store 8
  seCnt : Tab Nat
  sePaired : Bool
  floors : List Nat
  seed : List Byte
  manifest : List Byte
  images : Tab ImageInfo
  seAtBoot : Bool
  fbEver : Bool
  dbgEver : Nat
  chal : Option (List Byte)
  mr : Tab (List Byte)
  mrCnt : Tab Nat
  mbxAns : Tab (Nat × List Nat)
  regions : List FwRegion
  mpLock : Bool
  mail : List Mail
  mailWait : List Mail
  restarts : List Restart
  restartAt : Nat
  restartHold : List KvReq
  down : List (Nat × Nat)
  cplOwed : List Nat
  halted : List Nat
  bundle : List Nat
  active : List Nat
  actEnd : Nat
  revert : Bool
  deferAt : Nat
  emgEnd : Nat
  ranSince : Tab Nat
  injAt : Nat
  raiseAt : Tab Nat
  tapOut : List Byte
  tapPend : List (List Byte)
  deriving DecidableEq, Repr

/-- Voltage, beats, domains, heat and held pads (chapters 2 and 20). -/
structure PowerState where
  vdd : Nat
  beatMin : Tab (Nat × Nat)
  beatWin : Tab (Nat × Nat)
  beatGated : List Nat
  wake : List (Nat × Nat × Nat)
  wakeKind : Nat
  standby : Bool
  gateAt : Tab Nat
  heldWake : Nat
  wakeSig : Bool
  entryAt : Nat
  thHot : Nat
  thCool : Option Nat
  thTop : Int
  thStep : Nat
  heldPads : Tab Nat
  deriving DecidableEq, Repr

set_option maxRecDepth 4000 in
/-- The state of the block. -/
structure State extends CycleState, FirmwareState, PowerState where
  pending : List Instr
  readData : Nat
  readOk : Bool
  regs : Tab DWord
  cores : Tab Core
  ferries : Tab Ferry
  mem : Store 8
  bar4q : List Bar4Acc
  lpUe : List Nat
  lpCe : List Nat
  hbrUe : List Nat
  hbrCe : List Nat
  queues : Tab Cmd
  flush : Tab Flush
  saved : List Saved
  gangRes : Tab Nat
  islGen : Tab Nat
  drr : Tab Int
  drrCur : Tab Nat
  thrBudget : Nat
  thrRot : Nat
  thrStart : Nat
  thrAt : Nat
  kv : List KvReq
  live : Tab LiveStream
  jobs : Tab JobQueue
  jobLast : Nat
  tlb : List TlbEntry
  invq : List Inval
  xtsKeys : Tab (List Byte)
  granOwner : Tab Nat
  faults : List HeldFault
  frecs : List (List Byte)
  fid : Nat
  patrolAt : Option Nat
  initDone : List Nat
  dl : Tab (List DlInst)
  dlOnce : List Nat
  lockstep : Bool
  frameMs : Nat
  frameStart : Nat
  frameNo : Nat
  bcnDone : BitVec 64
  bcnSeen : BitVec 64
  mmHist : Tab (List Nat)
  tbS : Nat
  tbNs : Nat
  tbFrac : Nat
  tbJump : Option Nat
  hbAt : Nat
  hbOld : Nat
  lossDue : Bool
  vfDue : List Nat
  cyc : Nat
  tbOps : List TbOp
  tbPast : List TbAnchor
  timArm : Option Nat
  timLatch : Tab Nat
  capUnread : List Nat
  trigEnd : Tab Nat
  trigPast : Tab Nat
  claims : Tab (Nat × Nat)
  tdl : Tab TdlChan
  tdlDirty : Tab DWord
  tdlStart : Nat
  tdlNext : Nat
  drops : Tab DropCopy
  dropRing : List LandedRec
  spiRead : Tab (List (Nat × Nat))
  spiBusy : Tab Nat
  tdlDue : List TdlDue
  pwm : Tab PwmRun
  capDec : Nat
  canRx : Tab CanRx
  canOld : Tab (List CanRx)
  canNew : List Nat
  canLatch : Tab CanRx
  canQ : Tab (List Nat)
  canTx : Tab CanTx
  ethRx : Tab EthRx
  helloAt : Tab Nat
  helloSent : Tab Nat
  cwRx : Tab CwRx
  cwTx : Tab CwTx
  cwPath : Tab CwPath
  cwCorr : Tab (Int × Int)
  ptpRx : Tab PtpFrame
  pxyId : Nat
  pxyAt : Nat
  msixEn : BitVec 9
  bme : BitVec 9
  seq : Nat
  free : Nat
  out : List OutMsg
  astat : Tab (BitVec 3)
  pinPend : Nat
  pinFrom : Nat
  pinHigh : Nat
  tbLast : Nat
  pinCause : Nat
  deriving DecidableEq, Repr

/-! ## Reset -/

/-- An empty store. -/
def Store.empty (w : Nat) : Store w := { cells := [], regions := [] }

/-- The registers of a core at the start of a slice (R86) and at reset. -/
def CoreRegs.init : CoreRegs where
  s := []
  v := []
  t := []
  acc := Store.empty 32
  rowsum := []
  poscnt := []
  live := 0
  p := 1
  rings := []
  fh := []
  fran := 0
  pc := 0
  resume := none
  tile := []
  stall := none
  waitStart := 0
  fly := []
  stream := 0
  block := 0
  digests := []
  barriers := []

/-- A core at reset: idle, its lagoon initialised (R110, R216). -/
def Core.init : Core where
  regs := CoreRegs.init
  mode := .idle
  slice := none
  queue := []
  gen := 0
  resident := none
  lastPart := none
  lastCtx := 0
  lastPrio := 0
  started := 0
  preempt := false
  restArr := 0
  lgn := Store.empty 8
  tags := 0
  blive := 0
  parity := []
  lgnUe := []
  lgnCe := []
  accUe := []
  accCe := []
  icUe := []
  icCe := []
  cap := []

/-- A ferry at reset (R255). -/
def Ferry.init : Ferry where
  bound := none
  stream := none
  held := []
  acqd := []
  xs := []
  ctx := 0
  prio := 0
  op := 0
  err := 0
  bytes := 0
  drain := false
  cancelling := none

/-- The whole LPDDR5X range of the larger part: undefined after reset (R584). -/
def lpddrRegion (gen : Nat) : Region := { lo := 0, len := 0x400000_0000, gen := some gen }

/-- Where the bytes of host memory are kept: at 2^64 plus their host bus address. -/
def hostKey : Nat := 0x1_0000_0000_0000_0000

/-- The host's memory holds what the host put there: unknown bytes where the device has written none (Log 26). -/
def hostRegion : Region := { lo := hostKey, len := hostKey, gen := some 0 }

/-- The wake order from Off (Table 20.3, R574): domain (0 the shore, 1 the straits, 2 + n island n), the shore cycles from
the wake event at which it is enabled and released. -/
def bootWake : List (Nat × Nat × Nat) :=
  (0, 0, 100000) :: (1, 100000, 130000) :: (List.range 8).map (fun n => (2 + n, 130000 + 10000 * n, 190000 + 10000 * n))

/-- The block right after reset: every register at the reset value of its table, nothing listed. -/
def State.reset : State where
  pending := []
  readData := 0
  readOk := true
  regs := []
  cores := []
  ferries := []
  mem := { cells := [], regions := [lpddrRegion 0, hostRegion] }
  memHeld := false
  bar4q := []
  lpUe := []
  lpCe := []
  hbrUe := []
  hbrCe := []
  queues := []
  flush := []
  saved := []
  gangRes := []
  islGen := []
  drr := []
  drrCur := []
  thrBudget := 0
  thrRot := 0
  thrStart := 0
  thrAt := 0
  vdd := 750
  beatMin := []
  beatWin := []
  beatGated := []
  kv := []
  live := []
  jobs := []
  jobLast := 3
  tlb := []
  invq := []
  xtsKeys := []
  granOwner := []
  faults := []
  frecs := []
  fnow := []
  lnow := []
  fid := 0
  patrolAt := none
  initDone := []
  dl := []
  dlOnce := []
  lockstep := false
  frameMs := 20
  frameStart := 0
  frameNo := 0
  bcnDone := 0
  bcnSeen := 0
  mmHist := []
  tbS := 0
  tbNs := 0
  tbFrac := 0
  tbJump := none
  hbAt := 0
  hbOld := 0
  lossDue := false
  vfDue := []
  cyc := 0
  evt := []
  synEvt := []
  tbOps := []
  tbPast := []
  timArm := none
  timLatch := []
  capUnread := []
  trigEnd := []
  trigPast := []
  claims := []
  tdl := []
  tdlDirty := []
  tdlStart := 0
  tdlNext := 0
  drops := []
  dropRing := []
  spiRead := []
  spiBusy := []
  tdlDue := []
  winNow := []
  claimNow := []
  pwm := []
  capDec := 0
  canRx := []
  canOld := []
  canNow := []
  canNew := []
  canLatch := []
  canQ := []
  canTx := []
  ethRx := []
  helloAt := []
  helloSent := []
  cwRx := []
  cwTx := []
  cwPath := []
  cwCorr := []
  ptpRx := []
  pxyId := 0
  pxyAt := 0
  msixEn := 0
  bme := 0
  seq := 0
  free := 2
  out := []
  astat := []
  pinPend := 1
  enow := []
  pinBase := 0
  pendBase := 1
  pinFrom := 0
  pinHigh := 0
  dlNow := []
  tbLast := 0
  pinCause := 0
  flash := { cells := [], regions := [⟨0, 0x3000000, some 1⟩] }
  seCnt := []
  sePaired := false
  floors := [0, 0, 0, 0, 0, 0]
  seed := []
  manifest := []
  images := []
  seAtBoot := false
  fbEver := false
  dbgEver := 0
  chal := none
  mr := []
  mrCnt := []
  mbxAns := []
  regions := []
  mpLock := false
  mail := []
  mailWait := []
  restarts := []
  restartAt := 0
  restartHold := []
  down := []
  cplOwed := []
  halted := []
  bundle := []
  active := []
  actEnd := 0
  revert := false
  deferAt := 0
  emgEnd := 0
  ranSince := []
  injAt := 0
  raiseAt := []
  tapOut := [0x47, 0x0B, 0x64, 0x18]
  tapPend := []
  wake := bootWake
  wakeKind := 0
  standby := true
  gateAt := []
  heldWake := 0
  wakeSig := false
  entryAt := 0
  thHot := 0
  thCool := none
  thTop := 0
  thStep := 0
  heldPads := []

end Sys2Proof.Machine
end

