-- ==== Sys2Proof/Machine/Ops.lean ====
section
/-! DEFINITION. The named operations over the state: registers, cores, ferries, stores, free values, time, interrupts,
event and log records, sync objects with the deadline watch behind them. -/
namespace Sys2Proof.Machine

/-- What a command's meaning answers. -/
abbrev Res := Host.Outcome State Fault Refusal

/-! ## Registers -/

/-- The register at an offset. -/
def State.reg (s : State) (off : Nat) : DWord :=
  match tabFind s.regs off with
  | some v => v
  | none => regReset off

/-- The state with a register at an offset. -/
def State.setReg (s : State) (off : Nat) (v : DWord) : State := { s with regs := tabSet (regReset off) s.regs off v }

/-- Field `[hi:lo]` of the register at an offset. -/
def State.fld (s : State) (off hi lo : Nat) : Nat := bitsOf (s.reg off).toNat hi lo

/-- Bit `i` of the register at an offset. -/
def State.flag (s : State) (off i : Nat) : Bool := bitOf (s.reg off).toNat i

/-- What the hardware sets in a W1C or RC field within bits `[hi:lo]` of a register is an event of the present shore cycle
(R12): `evt` keeps the register as it stood before the cycle's first event and the events since, field by field. -/
def State.noted (s : State) (off hi lo : Nat) (upd : RegField → Nat → Nat) : Tab (DWord × DWord) :=
  match regAt (off % 0x4000000) with
  | none => s.evt
  | some (g, _) =>
    let x := tabGet (s.reg off, 0) s.evt off
    let a := g.fields.foldl (fun a f =>
      if lo ≤ f.hi ∧ f.lo ≤ hi ∧ (f.acc = .w1c ∨ f.acc = .rc) then bitsPut a f.hi f.lo (upd f (bitsOf a f.hi f.lo)) else a) x.2.toNat
    if a = x.2.toNat then s.evt else tabPut s.evt off (x.1, BitVec.ofNat 64 a)

/-- The state with the events of a register's change noted. -/
def State.note (s : State) (off hi lo : Nat) (upd : RegField → Nat → Nat) : State := { s with evt := s.noted off hi lo upd }

/-- The state with a field of a register replaced by the hardware. -/
def State.setFld (s : State) (off hi lo v : Nat) : State :=
  (s.note off hi lo (fun f a =>
    let n := bitsOf (bitsPut 0 hi lo v) f.hi f.lo
    if f.acc = .rc then n else a ||| n)).setReg off (BitVec.ofNat 64 (bitsPut (s.reg off).toNat hi lo v))

/-- The state with a bit of a register replaced. -/
def State.setFlag (s : State) (off i : Nat) (b : Bool) : State := s.setFld off i i (boolNat b)

/-- A counter field that saturates at its width. -/
def State.bumpSat (s : State) (off hi lo : Nat) : State :=
  let top := 2 ^ (hi + 1 - lo) - 1
  (s.note off hi lo (fun f a => if f.acc = .rc then satNat top (a + 1) else a)).setReg off
    (BitVec.ofNat 64 (bitsPut (s.reg off).toNat hi lo (satNat top (s.fld off hi lo + 1))))

/-- A counter field that wraps at its width. -/
def State.bumpMod (s : State) (off hi lo : Nat) : State := s.setFld off hi lo (s.fld off hi lo + 1)

/-- Bits of a register set by the hardware beside those that are set. -/
def State.setBits (s : State) (off bits : Nat) : State :=
  (s.note off 63 0 (fun f a => if f.acc = .rc then a else a ||| bitsOf bits f.hi f.lo)).setReg off (s.reg off ||| BitVec.ofNat 64 bits)

/-- The listed registers of a range of offsets: those that differ from reset. -/
def State.listed (s : State) (lo hi : Nat) : List (Nat × DWord) :=
  s.regs.filter (fun p => decide (lo ≤ p.1) && decide (p.1 < hi))

/-! ## Cores and ferries -/

def State.core (s : State) (c : Nat) : Core := tabGet Core.init s.cores c
def State.setCore (s : State) (c : Nat) (k : Core) : State := { s with cores := tabPut s.cores c k }
def State.ferry (s : State) (f : Nat) : Ferry := tabGet Ferry.init s.ferries f
def State.setFerry (s : State) (f : Nat) (k : Ferry) : State := { s with ferries := tabPut s.ferries f k }

/-- The state with the registers of a core replaced. -/
def State.setRegs (s : State) (c : Nat) (r : CoreRegs) : State := s.setCore c { s.core c with regs := r }

/-- The island of a core (R14). -/
def islandOf (c : Nat) : Nat := c / 8

/-- The island of a ferry (R14). -/
def ferryIsland (f : Nat) : Nat := if f < 128 then f / 16 else (f - 128) / 4

/-- Is core `c` unmarked: neither it nor its island is marked (R367)? -/
def State.unmarked (s : State) (c : Nat) : Bool :=
  !(bitOf (s.reg Reg.GLB_TC_MARKED).toNat c) && !(s.flag Reg.GLB_STATE (8 + islandOf c))

/-- Is island `n` selected for gating: by ISL_GATE, or by DEV 3 or 4, which select every island (R559)? -/
def State.gateSel (s : State) (n : Nat) : Bool :=
  s.flag Reg.PWR_MODE (8 + n) || s.fld Reg.PWR_MODE 2 0 == 3 || s.fld Reg.PWR_MODE 2 0 == 4

/-- Is island `n` powered (PWR_STAT.ISL_ON)? -/
def State.islandOn (s : State) (n : Nat) : Bool := s.flag Reg.PWR_STAT (8 + n)

/-- Is core `c` usable: unmarked, on an island that is powered and not selected for gating (R367, R559)? -/
def State.usable (s : State) (c : Nat) : Bool :=
  s.unmarked c && s.islandOn (islandOf c) && !(s.gateSel (islandOf c))

/-! ## Firmware that is not running (R499, Table 17.6) -/

/-- Is component `c` halted until PORST? -/
def State.compHalted (s : State) (c : Nat) : Bool := s.halted.contains c

/-- Is component `c`, its part on island `n` for the ICC, out of action: halted by a fault until its restart, or in the restart
that is in progress? A restart that waits for KV requests is not yet in progress. -/
def State.restarting (s : State) (c n : Nat) : Bool :=
  s.down.contains (c, n) || (match s.restarts with
    | [] => false
    | r :: _ => s.restartHold.isEmpty && r.comp == c && r.inst == n)

/-- Is the scheduler restarting? -/
def State.schPaused (s : State) : Bool := s.restarting 2 0

/-! ## Stores with undefined regions (Log 6) -/

/-- The undefining event of an address: `some (some g)` inside an undefined region, `some none` in a cleared one. -/
def regionOf : List Region → Nat → Option (Option Nat)
  | [], _ => none
  | r :: t, a => if r.lo ≤ a ∧ a < r.lo + r.len then some r.gen else regionOf t a

/-- What an unlisted cell reads as. -/
def Store.dflt {w : Nat} (m : Store w) (a : Nat) : BitVec w :=
  match regionOf m.regions a with
  | some (some g) => Config.undefBits w g a
  | _ => 0

/-- A cell's value. -/
def Store.read {w : Nat} (m : Store w) (a : Nat) : BitVec w :=
  match tabFind m.cells a with
  | some v => v
  | none => m.dflt a

/-- A write of a cell: inside an undefined region it is listed whatever it holds, elsewhere a zero is not listed. -/
def Store.write {w : Nat} (m : Store w) (a : Nat) (v : BitVec w) : Store w :=
  match regionOf m.regions a with
  | some (some _) => { m with cells := tabPut m.cells a v }
  | _ => { m with cells := tabSet 0 m.cells a v }

/-- A range made undefined by event `g`. -/
def Store.undef {w : Nat} (m : Store w) (lo n g : Nat) : Store w :=
  { cells := tabClear m.cells lo n, regions := ⟨lo, n, some g⟩ :: m.regions }

/-- A range made zero. -/
def Store.zero {w : Nat} (m : Store w) (lo n : Nat) : Store w :=
  { cells := tabClear m.cells lo n, regions := if m.regions = [] then [] else ⟨lo, n, none⟩ :: m.regions }

/-- `n` cells from `a`. -/
def Store.readN {w : Nat} (m : Store w) (a : Nat) : Nat → List (BitVec w)
  | 0 => []
  | n + 1 => m.read a :: m.readN (a + 1) n

/-- Cells written from `a`. -/
def Store.writeN {w : Nat} (m : Store w) (a : Nat) : List (BitVec w) → Store w
  | [] => m
  | v :: t => (m.write a v).writeN (a + 1) t

/-- The canonical form of a store: keys strictly rising, and no listed zero outside an undefined region. -/
def Store.wf {w : Nat} (m : Store w) : Bool :=
  tabRising m.cells &&
    m.cells.all (fun p => match regionOf m.regions p.1 with | some (some _) => true | _ => decide (p.2 ≠ 0))

/-! ## Free values (Log 8) -/

/-- A fresh number for a free value, and the state that has used it. -/
def State.draw (s : State) : Nat × State := (s.free, { s with free := s.free + 1 })

/-- A free choice among `n` alternatives. -/
def State.choose (s : State) (n : Nat) : Nat × State := (Config.choice s.free % n, { s with free := s.free + 1 })

/-! ## Time -/

/-- The timebase in nanoseconds. -/
def State.nowNs (s : State) : Nat := 1000000000 * s.tbS + s.tbNs

/-- The time the shore has run in nanoseconds, which no step of the timebase moves: two for each cycle. -/
def State.upNs (s : State) : Nat := 2 * s.cyc

/-- The twelve bytes of a time stamp: 64-bit seconds, 32-bit nanoseconds (R8). -/
def timeBytes (sec ns : Nat) : List Byte := leBytes 8 sec ++ leBytes 4 ns

/-- A step counter for orders of arrival. -/
def State.tick (s : State) : State := { s with seq := s.seq + 1 }

/-! ## Interrupts (R481, R482) -/

/-- The function number of a partition: VFk while SR-IOV is enabled with NumVFs greater than k, else the PF (R476). -/
def State.partFn (s : State) (k : Nat) : Nat := if k < s.fld Reg.GLB_LINK 7 4 then k + 1 else 0

/-- The vectors of a function (R481). -/
def vecCount (fn : Nat) : Nat := if fn = 0 then 256 else 224

/-- Raise a vector of a function: nothing while its MSI-X Enable or Bus Master Enable is 0 or the host is lost; a masked
vector sets its pending bit (R482). -/
def State.raise (s : State) (fn vec : Nat) : State :=
  if !(s.msixEn.getLsbD fn) || !(s.bme.getLsbD fn) || s.flag Reg.GLB_HOST 0 then s
  else if s.flag (Reg.MSIX_CTRL vec + 0x4000000 * fn) 0 then
    s.setFlag (Reg.MSIX_PBA (vec / 32) + 0x4000000 * fn) (vec % 32) true
  else { s with out := s.out ++ [.msix fn vec] }

/-! ## Lighthouse event records (R513, R515) -/

/-- The pin class of an event code (Table 18.1): 0 never, 1 maskable, 2 always, 3 supervisor. -/
def pinClass (code : Nat) : Nat :=
  if code = 0x01 then 2 else if code = 0x0B then 3 else if code = 0x07 ∨ code = 0x0C then 0 else 1

/-- What an event does to the pins (R515, R519): 0 nothing, 2 FAULT, 3 SUPERVISOR. -/
def State.pinEff (s : State) (code kind unit : Nat) : Nat :=
  if pinClass code = 3 ∨ (code = 0x01 ∧ kind = 3 ∧ unit = 19) then 3
  else if pinClass code = 2 ∨ (pinClass code = 1 ∧ s.flag Reg.LHS_CFG code) then 2
  else 0

/-- The pins put into a state by something other than an event; HEALTHY begins with ERRA high at the next 500 µs boundary of
the reference count (R516), and the pins keep the levels of the state before until then. -/
def State.setPins (s : State) (st : Nat) : State :=
  { s.setFld Reg.LHS_PINS 1 0 st with pinBase := st, pinFrom := s.fld Reg.LHS_PINS 1 0, pinHigh := (s.cyc / 250000 + 1) * 250000 }

/-- ERRA and ERRB (R514, Table 18.3): in HEALTHY a square wave of 1 ms and its complement. -/
def State.errPins (s : State) : Bool × Bool :=
  let fixed := fun (st : Nat) => (decide (st = 3), decide (2 ≤ st))
  let st := s.fld Reg.LHS_PINS 1 0
  if st ≠ 1 then fixed st
  else if s.cyc < s.pinHigh then fixed s.pinFrom
  else let a := (s.cyc - s.pinHigh) / 250000 % 2 == 0; (a, !a)

/-- The pins after the events of this shore cycle, in their order (R515): FAULT from HEALTHY, SUPERVISOR over FAULT; CAUSE keeps
the code that left HEALTHY. In RESET the events decide the state the pins take when RESET ends (Table 18.2), held in
`pinPend`. -/
def State.pinEvents (s : State) (all : List EvtNow) : State :=
  let eff := all.foldl (fun m (e : EvtNow) => max m e.eff) 0
  match all.find? (fun e => e.eff != 0) with
  | none => s
  | some e =>
    if s.fld Reg.LHS_PINS 1 0 = 0 then
      { s with pinPend := max s.pinPend eff, pinCause := if s.pendBase ≤ 1 then e.code else s.pinCause }
    else
      let s1 := if s.pinBase = 1 then s.setFld Reg.LHS_PINS 15 8 e.code else s
      s1.setFld Reg.LHS_PINS 1 0 (max (s.fld Reg.LHS_PINS 1 0) eff)

/-- The 32-bit words of a record stored in a register ring. -/
def State.putWords (s : State) (off : Nat) : List Byte → State
  | a :: b :: c :: d :: t => (s.setReg off (BitVec.ofNat 64 (leNat [a, b, c, d]))).putWords (off + 4) t
  | _ => s

/-- An event's record in its slot of the ring: PIN is the state of the pins after it, given those before the cycle's events
and the events up to it (Table 18.2). -/
def State.evtPut (s : State) (n : Nat) (upTo : List EvtNow) (e : EvtNow) : State :=
  let pin := if s.pinBase = 0 then 0 else upTo.foldl (fun m (e : EvtNow) => max m e.eff) s.pinBase
  s.putWords (0x508000 + 32 * (n % 1024)) (leBytes 4 n ++ leBytes 1 e.code ++ leBytes 1 pin ++ e.body)

/-- Write an event record: its pin effect, the record, NEXT_SEQ, PF vector 4; the events of one shore cycle stand in ascending
CODE, then UNIT, so an event moves those of the cycle behind it up (R513). `args` are bytes 20 to 31. -/
def State.event (s : State) (code kind unit : Nat) (args : List Byte) : State :=
  let s0 := if s.enow = [] then { s with pinBase := s.fld Reg.LHS_PINS 1 0, pendBase := s.pinPend } else s
  let x : EvtNow := ⟨256 * code + unit, s.pinEff code kind unit, code,
    leBytes 1 kind ++ leBytes 1 unit ++ timeBytes s.tbS s.tbNs ++ (args ++ leBytes 12 0).take 12⟩
  let front := s.enow.filter (fun (y : EvtNow) => decide (y.key ≤ x.key))
  let l := x :: s.enow.filter (fun (y : EvtNow) => decide (x.key < y.key))
  let n := s.fld Reg.LHS_EVT_PTR 31 0
  let first := n + 1 + 2 ^ 32 - l.length
  let s1 := { s0 with enow := front ++ l }.pinEvents (front ++ l)
  let s2 := l.zipIdx.foldl (fun (t : State) (y : EvtNow × Nat) =>
    t.evtPut ((first + y.2) % 2 ^ 32) (front ++ l.take (y.2 + 1)) y.1) s1
  (s2.setFld Reg.LHS_EVT_PTR 31 0 (n + 1)).raise 0 4

/-! ## Physical memory (Table 11.1) -/

/-- The contents of a device physical address. -/
inductive PhysKind where
  | lpddr
  | harbour (n off : Nat)
  | host
  | unmapped
  deriving DecidableEq, Repr

/-- The visible LPDDR5X capacity in bytes: MEM_CFG.GRANULES granules of 512 MiB (R323). -/
def State.visible (s : State) : Nat := 2 ^ 29 * s.fld Reg.MEM_CFG 25 16

/-- What a device physical address reaches (Table 11.1). -/
def State.phys (s : State) (p : Nat) : PhysKind :=
  if p < s.visible then .lpddr
  else if 0x400_0000_0000 ≤ p ∧ p < 0x400_0400_0000 then .harbour ((p - 0x400_0000_0000) / 0x80_0000) (p % 0x80_0000)
  else if 0x800_0000_0000 ≤ p ∧ p < 0x1000_0000_0000 then .host
  else .unmapped

/-- The physical address of a harbour byte. -/
def hbrAddr (n off : Nat) : Nat := 0x400_0000_0000 + 0x80_0000 * n + off

/-- Is the host window refused to a partition's function: host lost (R486), or its Bus Master Enable 0 (R491)? -/
def State.hostRefused (s : State) (fn : Nat) : Bool := s.flag Reg.GLB_HOST 0 || !(s.bme.getLsbD fn)

/-- Where the byte at a device physical address is kept: its address, and for the host window the host bus address
MEM_CFG.HOST_HI × 2^43 + p[42:0] beyond 2^64 (Table 11.1). -/
def State.memKey (s : State) (p : Nat) : Nat :=
  if 0x800_0000_0000 ≤ p ∧ p < 0x1000_0000_0000 then hostKey + 2 ^ 43 * s.fld Reg.MEM_CFG 63 43 + p % 2 ^ 43 else p

/-- Bytes of physical memory as they stand. -/
def State.bytes (s : State) (p n : Nat) : List Byte := s.mem.readN (s.memKey p) n

/-- Bytes of physical memory replaced. -/
def State.poke (s : State) (p : Nat) (bs : List Byte) : State := { s with mem := s.mem.writeN (s.memKey p) bs }

/-- Memory after a reset or a loss of power: LPDDR5X undefined by event `g`, harbours zero, the host's own untouched. -/
def Store.restart (m : Store 8) (g : Nat) : Store 8 :=
  { cells := m.cells.filter (fun p => decide (hostKey ≤ p.1) && decide (p.1 < 2 * hostKey)), regions := [lpddrRegion g, hostRegion] }

/-- The channel of a visible physical address (R321). -/
def channelOf (p : Nat) : Nat :=
  bitsOf p 14 9 ^^^ bitsOf p 20 15 ^^^ bitsOf p 26 21 ^^^ bitsOf p 32 27 ^^^ bitsOf p 38 33 ^^^ bitsOf p 43 39

/-- The offset of a visible physical address within its channel (R321). -/
def channelOffset (p : Nat) : Nat := 2 ^ 9 * (p / 2 ^ 15) + bitsOf p 8 0

/-- The channel offset of the 8 check bytes of a visible address's sector, in a channel of `size` bytes (R321). -/
def checkOffset (size p : Nat) : Nat := 7 * size / 8 + channelOffset (p / 64 * 64) / 8

/-- Is a channel offset in the last 1/64 of a channel of `size` bytes, which inline ECC leaves unused (R321)? -/
def channelUnused (size o : Nat) : Bool := decide (63 * size / 64 ≤ o) && decide (o < size)

/-- How a 64-bit word with its SECDED check reads; the check of an LPDDR5X word covers its sector's address too, so a word
from another row or channel is a bad one (R325). -/
inductive WordEcc where
  | good | correctable | bad
  deriving DecidableEq, Repr

/-- How an LPDDR5X word stands. -/
def State.wordEcc (s : State) (w : Nat) : WordEcc :=
  if s.lpUe.contains w then .bad else if s.lpCe.contains w then .correctable else .good

/-- A sector is uncorrectable when any of its eight words is; it is corrected when none is and some word is correctable
(R325). -/
def State.sectorEcc (s : State) (x : Nat) : WordEcc :=
  let ws := (List.range 8).map (fun i => s.wordEcc (8 * x + i))
  if ws.contains .bad then .bad else if ws.contains .correctable then .correctable else .good

/-- The uncorrectable sectors, and those that a read corrects. -/
def State.ueSec (s : State) : List Nat := (s.lpUe.map (· / 8)).eraseDups
def State.ceSec (s : State) : List Nat := ((s.lpCe.map (· / 8)).eraseDups).filter (fun x => s.sectorEcc x == .correctable)

/-- Some sectors become good: all their words do. -/
def State.sectorsGood (s : State) (p : Nat → Bool) : State :=
  { s with lpUe := s.lpUe.filter (fun w => !(p (w / 8))), lpCe := s.lpCe.filter (fun w => !(p (w / 8))) }

/-- The sectors a byte range touches. -/
def sectorsOf (p n : Nat) : List Nat := if n = 0 then [] else (List.range ((p + n - 1) / 64 - p / 64 + 1)).map (· + p / 64)

/-- The 64-bit words a byte range touches. -/
def wordsOf (p n : Nat) : List Nat := if n = 0 then [] else (List.range ((p + n - 1) / 8 - p / 8 + 1)).map (· + p / 8)

/-- Record an uncorrectable sector: MEM_ECC and an ECC_UE event (R345, Table 11.18). -/
def State.eccSector (s : State) (src sec : Nat) : State :=
  let s1 := ((s.setFld Reg.MEM_ECC 47 44 src).setFld Reg.MEM_ECC 43 6 sec).setFlag Reg.MEM_ECC 5 true
  s1.event 0x06 6 (channelOf (sec * 64) / 4) (leBytes 1 src ++ leBytes 3 0 ++ leBytes 8 (sec * 64))

/-- Record an uncorrectable harbour word of island `n` (R346, Table 11.19). -/
def State.eccHarbour (s : State) (n word : Nat) : State :=
  let s1 := (s.setFld (Reg.HBR_ECC n) 19 0 word).setFlag (Reg.HBR_ECC n) 32 true
  s1.event 0x06 2 n (leBytes 1 0x9 ++ leBytes 3 0 ++ leBytes 8 word)

/-- Inline ECC is on (R324). -/
def State.eccOn (s : State) : Bool := s.flag Reg.MEM_CFG 0

/-- Correct some sectors or harbour words at `p`, as they are read: those that are correctable are counted and written back
(R327, R346). -/
def State.eccFix (s : State) (p : Nat) (l : List Nat) : State :=
  match s.phys p with
  | .lpddr =>
    let hit := l.filter (fun x => s.eccOn && s.sectorEcc x == .correctable)
    hit.foldl (fun t x => (t.bumpSat Reg.MEM_ECC 63 48).sectorsGood (· == x)) s
  | .harbour i _ =>
    let hit := l.filter (fun x => s.hbrCe.contains x)
    hit.foldl (fun t x => { t.bumpSat (Reg.HBR_ECC i) 63 48 with hbrCe := setDel t.hbrCe x }) s
  | _ => s

/-- The sectors or harbour words of a byte range. -/
def State.unitsOf (s : State) (p n : Nat) : List Nat :=
  match s.phys p with
  | .lpddr => sectorsOf p n
  | .harbour _ _ => wordsOf p n
  | _ => []

/-- Correct what a read of a byte range meets. -/
def State.eccCorrect (s : State) (p n : Nat) : State := s.eccFix p (s.unitsOf p n)

/-- The first uncorrectable one of some sectors or harbour words at `p`. -/
def State.badUnit (s : State) (p : Nat) (l : List Nat) : Option Nat :=
  match s.phys p with
  | .lpddr => if s.eccOn then l.find? (fun x => s.sectorEcc x == .bad) else none
  | .harbour _ _ => l.find? (fun x => s.hbrUe.contains x)
  | _ => none

/-- The first uncorrectable sector or harbour word of a byte range. -/
def State.firstBad (s : State) (p n : Nat) : Option Nat := s.badUnit p (s.unitsOf p n)

/-- Report an uncorrectable sector or harbour word `x` at `p` to its registers and the Lighthouse. -/
def State.eccReport (s : State) (src p x : Nat) : State :=
  match s.phys p with
  | .lpddr => s.eccSector src x
  | .harbour i _ => s.eccHarbour i (x - hbrAddr i 0 / 8)
  | _ => s

/-! ## Partitions -/

/-- Is partition `k` enabled (Table 12.10)? -/
def State.partEn (s : State) (k : Nat) : Bool := s.flag (Reg.SCH_PART_W0 k) 63

/-- Does partition `k` hold island `n`? -/
def State.partHas (s : State) (k n : Nat) : Bool := s.flag (Reg.SCH_PART_W0 k) n

/-- Is a byte range inside partition `k`'s carve-out? -/
def State.inCarve (s : State) (k p n : Nat) : Bool :=
  let first := s.fld (Reg.SCH_PART_W0 k) 25 16
  let cnt := s.fld (Reg.SCH_PART_W0 k) 35 26
  decide (2 ^ 29 * first ≤ p) && decide (p + n ≤ 2 ^ 29 * (first + cnt)) && decide (p + n ≤ s.visible)

/-- The check of a translated or physical address against a partition (R333): 0 passes, else the cause of Table 11.4. -/
def State.partCheck (s : State) (k p n : Nat) : Nat :=
  match s.phys p with
  | .lpddr => if s.inCarve k p n then 0 else 0x8
  | .harbour i _ => if s.partHas k i then 0 else 0x8
  | .host => if s.hostRefused (s.partFn k) then 0x9 else 0
  | .unmapped => 0x9

/-- The enabled partition that holds island `n`, if any. -/
def State.partOfIsland (s : State) (n : Nat) : Option Nat := (List.range 8).find? (fun k => s.partEn k && s.partHas k n)

/-- The enabled partition that owns a granule (R329). -/
def State.partOfAddr (s : State) (p : Nat) : Option Nat := (List.range 8).find? (fun k => s.partEn k && s.inCarve k p 1)

/-! ### Memory that is off, and memory that makes an access wait -/

/-- Is the memory at a physical address powered (Table 1.2): LPDDR5X with its controllers, which P3 and P4 switch off and a
wake brings back; a harbour with its island? What an access of memory that is off does is Log 62. -/
def State.memOn (s : State) (p : Nat) : Bool :=
  match s.phys p with
  | .lpddr => s.fld Reg.PWR_STAT 2 0 != 3 && !(s.wake.any (fun d => d.1 == 1))
  | .harbour i _ => s.islandOn i
  | _ => true

/-- Does an access of LPDDR5X wait: before the initialisation is complete (R584), or while a key is made for the partition
whose granules it reaches (R329)? -/
def State.memBusy (s : State) (p n : Nat) : Bool :=
  let keyed := fun (a : Nat) => match s.partOfAddr a with
    | some k => s.flag Reg.MEM_XTS (16 + k)
    | none => false
  match s.phys p with
  | .lpddr => !(s.flag Reg.MEM_CFG 2) || keyed p || keyed (p + n - 1)
  | _ => false

/-- A command one of whose accesses has to wait does nothing yet: `t` is the state it would leave (R329, R584). -/
def State.orWait (s t : State) : State := if t.memHeld then s else t

/-- A read of physical memory: `none` where a sector or word of it is uncorrectable (R345). Memory that is off gives free
bytes; a read that has to wait marks its command. -/
def State.readPhys (s : State) (src p n : Nat) : Option (List Byte) × State :=
  if !(s.memOn p) then let (g, t) := s.draw; (some ((List.range n).map (fun i => Config.undefBits 8 g (p + i))), t)
  else if s.memBusy p n then (some (s.bytes p n), { s with memHeld := true })
  else match s.firstBad p n with
  | some x => (none, s.eccReport src p x)
  | none => let t := s.eccCorrect p n; (some (t.bytes p n), t)

/-- Sectors or words of a byte range that a write covers only in part (R326, R346). -/
def State.partial (s : State) (p n : Nat) : List Nat :=
  match s.phys p with
  | .lpddr => if s.eccOn then (sectorsOf p n).filter (fun x => !(decide (p ≤ x * 64) && decide (x * 64 + 64 ≤ p + n))) else []
  | .harbour _ _ => (wordsOf p n).filter (fun x => !(decide (p ≤ x * 8) && decide (x * 8 + 8 ≤ p + n)))
  | _ => []

/-- A write of harbour `i` takes the lines it overlaps out of the island's instruction caches, with the errors that stand in
them (R98). -/
def State.dropLines (s : State) (i p n : Nat) : State :=
  let hit := fun (w : Nat) => decide (p < hbrAddr i (256 * (w / 32)) + 256) && decide (hbrAddr i (256 * (w / 32)) < p + n)
  let had := fun (x : Nat × Core) => islandOf x.1 == i && (x.2.icUe.any hit || x.2.icCe.any hit)
  if !(s.cores.any had) then s
  else
    let clean := fun (x : Nat × Core) =>
      if had x then (x.1, { x.2 with icUe := x.2.icUe.filter (fun w => !(hit w)), icCe := x.2.icCe.filter (fun w => !(hit w)) })
      else x
    { s with cores := s.cores.map clean }

/-- A write of physical memory: whole sectors and words become good; a merge corrects and counts what it reads, and through
an uncorrectable one it is not made and answers false (R326, R327, R346). Memory that is off takes nothing. -/
def State.writePhys (s : State) (src p : Nat) (bs : List Byte) : Bool × State :=
  let n := bs.length
  if !(s.memOn p) then (true, s)
  else match s.badUnit p (s.partial p n) with
  | some x => (false, s.eccReport src p x)
  | none =>
    let t0 := (s.eccFix p (s.partial p n)).poke p bs
    let t := match s.phys p with
      | .harbour i _ => t0.dropLines i p n
      | _ => t0
    match s.phys p with
    | .lpddr => (true, t.sectorsGood (fun x => (sectorsOf p n).contains x))
    | .harbour _ _ => (true, { t with hbrUe := t.hbrUe.filter (fun x => !((wordsOf p n).contains x)),
                                      hbrCe := t.hbrCe.filter (fun x => !((wordsOf p n).contains x)) })
    | _ => (true, t)

/-! ## The fault ring (R338) -/

/-- Records of the fault ring. -/
def State.fringSize (s : State) : Nat := 64 * 2 ^ min 6 (s.fld Reg.MEM_FRING 47 44)

/-- The records that the present shore cycle has put into the fault ring, the latest ones of it, written anew (R338). -/
def State.fringRewrite (s : State) (l : List (List Byte)) : State :=
  let first := s.fld Reg.MEM_FRING_PTR 31 16 + 65536 - l.length
  let base := 4096 * s.fld Reg.MEM_FRING 43 12
  l.zipIdx.foldl (fun t x => (t.writePhys 4 (base + 64 * ((first + x.2) % s.fringSize)) x.1).2) { s with fnow := l }

/-! ## Firmware log and partition notices (R503 to R506) -/

/-- A log record in its slot of the early ring and, when FWM_LOG_BASE.EN is 1, of the main ring (R504). -/
def State.logPut (s : State) (n : Nat) (body : List Byte) : State :=
  let r := leBytes 4 n ++ body
  let s1 := s.putWords (0xC80000 + 32 * (n % 2048)) r
  if s1.flag Reg.FWM_LOG_BASE 0 then (s1.writePhys 4 (2 ^ 20 * s1.fld Reg.FWM_LOG_BASE 43 20 + 32 * (n % 32768)) r).2 else s1

/-- Write a log record: header of Table 17.3, bytes 8 to 31 given. The records of one shore cycle stand in ascending SOURCE,
those of one SOURCE in order of arrival (R505): a record moves those of the cycle behind it up. A severity of at least
IRQ_SEV raises PF vector 3. -/
def State.fwLogRaw (s : State) (source inst sev code : Nat) (body : List Byte) : State :=
  let n := s.fld Reg.FWM_LOG_PTR 63 32
  let x := (32 * source + inst, leBytes 1 (source + 8 * inst) ++ leBytes 1 sev ++ leBytes 2 code ++ (body ++ leBytes 24 0).take 24)
  let front := s.lnow.filter (fun (y : Nat × List Byte) => decide (y.1 ≤ x.1))
  let l := x :: s.lnow.filter (fun (y : Nat × List Byte) => decide (x.1 < y.1))
  let first := n + 1 + 2 ^ 32 - l.length
  let s1 := l.zipIdx.foldl (fun (t : State) (y : (Nat × List Byte) × Nat) => t.logPut ((first + y.2) % 2 ^ 32) y.1.2)
    { s with lnow := front ++ l }
  let s2 := s1.setFld Reg.FWM_LOG_PTR 63 32 (n + 1)
  if s2.fld Reg.FWM_LOG_PTR 17 16 ≤ sev then s2.raise 0 3 else s2

/-- A log record stamped now; `args` are bytes 20 to 31 (R506). -/
def State.fwLog (s : State) (source inst sev code : Nat) (args : List Byte) : State :=
  s.fwLogRaw source inst sev code (timeBytes s.tbS s.tbNs ++ args)

/-- Write a notice to partition `k`'s mailbox (R503, Table 17.2). -/
def State.notice (s : State) (k kind arg0 arg1 : Nat) : State :=
  if !(s.flag (Reg.FWM_PMB k) 63) then s else
  let i := s.fld (Reg.FWM_PMB_HEAD k) 31 0
  let r := leBytes 4 i ++ leBytes 2 kind ++ leBytes 2 0 ++ timeBytes s.tbS s.tbNs ++ leBytes 4 arg0 ++ leBytes 4 arg1
    ++ leBytes 36 0
  let s1 := (s.writePhys 4 (4096 * s.fld (Reg.FWM_PMB k) 43 12 + 64 * (i % 64)) r).2
  (s1.setFld (Reg.FWM_PMB_HEAD k) 31 0 (i + 1)).raise (s1.partFn k) 3

/-! ## The beginning of a restart (R509, Table 17.6) -/

/-- The enabled partitions. -/
def State.partsOn (s : State) : List Nat := (List.range 8).filter s.partEn

/-- The bound of a restart in microseconds (Table 17.6). -/
def restartBound (c : Nat) : Nat := if c = 1 then 10000 else if c = 3 then 15000 else 40000

/-- The first restart begins: its clock, COMP and ISL, RUN clear, a notice to each partition. -/
def State.restartGo (s : State) : State :=
  match s.restarts with
  | [] => s
  | r :: _ =>
    let s0 : State := { s with restartAt := s.cyc, restartHold := [], down := s.down.filter (fun p => p != (r.comp, r.inst)) }
    let s1 := if r.reason = 1 then s0
      else (s0.setFld Reg.FWM_UPD_STAT 43 40 r.comp).setFld Reg.FWM_UPD_STAT 39 36 r.inst
    let s2 := s1.setFlag (Reg.FWM_COMP r.comp) 0 false
    s2.partsOn.foldl (fun t k => t.notice k 2 r.comp (restartBound r.comp)) s2

/-- The first restart begins, or waits: that of an ICC for the requests in progress on its island, unless the ICC has halted. -/
def State.restartBegin (s : State) : State :=
  match s.restarts with
  | [] => s
  | r :: _ =>
    let l := s.kv.filter (fun q => r.comp == 3 && q.island == r.inst && !(s.down.contains (3, r.inst)))
    if l = [] then s.restartGo else { s with restartHold := l }

/-- Are two records one request, at a fault or not? -/
def KvReq.same (a b : KvReq) : Bool := decide ({ a with fault := none } = { b with fault := none })

/-- The KV requests replaced; a restart that has waited for the last of those it waits for begins. -/
def State.setKv (s : State) (l : List KvReq) : State :=
  let h := s.restartHold.filter (fun x => l.any (fun r => r.same x))
  let s1 : State := { s with kv := l, restartHold := h }
  if s.restartHold != [] && h == [] then s1.restartGo else s1

/-- Unmarked cores of partition `k`'s islands (Table 12.10). -/
def State.coresUsable (s : State) (k : Nat) : List Nat :=
  (List.range 64).filter (fun c => s.partHas k (islandOf c) && s.usable c)

/-- A unit of an island was marked, readmitted or woken: PGEN of the partition holding it rises and a notice of KIND 1
is posted (R380, R503). `unit` is coded as ARG1 of Table 17.2. -/
def State.pgenRise (s : State) (n unit : Nat) : State :=
  match s.partOfIsland n with
  | none => s
  | some k =>
    let s1 := s.bumpMod (Reg.SCH_PART_W2 k) 15 0
    s1.notice k 1 (s1.fld (Reg.SCH_PART_W2 k) 15 0) unit

/-! ## The deadline watch (R525, R526) -/

/-- A time plus nanoseconds. -/
def addNs (sec ns d : Nat) : Nat × Nat := let t := 1000000000 * sec + ns + d; (t / 1000000000, t % 1000000000)

/-- The entries of the deadline watch whose EN is 1. -/
def State.dlEntries (s : State) : List Nat :=
  ((s.listed 0x510000 0x514000).filter (fun p => p.1 % 0x40 = 0 && bitOf p.2.toNat 63)).map (fun p => (p.1 - 0x510000) / 0x40)

/-- The open instances of an entry replaced; OPEN follows. -/
def State.setDl (s : State) (n : Nat) (l : List DlInst) : State :=
  ({ s with dl := tabSet [] s.dl n l }).setFld (Reg.LHS_DL_STAT n) 2 0 l.length

/-- Open an instance of entry `n`, or set OVR when four are open; THRESH advances by END_STEP either way (R525). -/
def State.dlOpen (s : State) (n : Nat) (sec ns : Nat) : State :=
  let l := tabGet [] s.dl n
  let thr := s.fld (Reg.LHS_DL_THR n) 47 0
  let s1 := s.setFld (Reg.LHS_DL_THR n) 47 0 (thr + s.fld (Reg.LHS_DL_THR n) 63 48)
  if l.length < 4 then s1.setDl n (l ++ [⟨sec, ns, thr, false⟩]) else s1.setFlag (Reg.LHS_DL_STAT n) 7 true

/-- Judge one instance of entry `n` as met: MET rises, and the lateness of a missed one is written to LATE_US. -/
def State.dlMet (s : State) (n : Nat) (d : DlInst) : State :=
  let s1 := s.bumpMod (Reg.LHS_DL_STAT n) 47 32
  if d.missed then
    s1.setFld (Reg.LHS_DL_STAT n) 31 16 (satNat 0xFFFF ((s.nowNs - (1000000000 * d.sec + d.ns)) / 1000))
  else s1

/-- Has an instance's deadline tick passed: was a tick before the latest one at or after its deadline? -/
def State.dlPast (s : State) (d : DlInst) : Bool := !d.missed && decide (1000000000 * d.sec + d.ns ≤ s.tbLast)

/-- An instance whose deadline tick has passed is missed (R526): DEADLINE_MISS, MISSES and PEND. -/
def State.dlMiss (s : State) (n : Nat) (d : DlInst) : State :=
  let r := Reg.LHS_DL_STAT n
  ((s.bumpSat r 63 48).bumpSat r 6 3).event 0x05 5 n (leBytes 4 0 ++ leBytes 6 d.thr ++ leBytes 2 0)

/-- The open instances of entry `n` whose deadline tick has passed are missed, in order of opening. -/
def State.dlLate (s : State) (n : Nat) : State :=
  let l := tabGet [] s.dl n
  if l.any s.dlPast then
    ((l.filter s.dlPast).foldl (fun t d => t.dlMiss n d) s).setDl n
      (l.map (fun d => if s.dlPast d then { d with missed := true } else d))
  else s

/-- Judge entry `n` against its END_OBJ's counter: every open instance whose threshold is reached is met, one whose deadline
tick has passed after it is missed (R526). -/
def State.dlJudge (s : State) (n : Nat) : State :=
  let cnt := (s.reg (Reg.SYN_CNT (s.fld (Reg.LHS_DL_CFG n) 45 32))).toNat
  if (tabGet [] s.dl n).any (fun d => decide (d.thr ≤ cnt)) then
    let s1 := s.dlLate n
    let l := tabGet [] s1.dl n
    ((l.filter (fun d => decide (d.thr ≤ cnt))).foldl (fun t d => t.dlMet n d) s1).setDl n
      (l.filter (fun d => decide (cnt < d.thr)))
  else s

/-- What the deadline watch does when object `i`'s counter changes in a shore cycle that it began at `old`: a cycle in which
START_OBJ rises opens one instance (R525, R526). -/
def State.dlWatch (s : State) (i old : Nat) : State :=
  let new := (s.reg (Reg.SYN_CNT i)).toNat
  let s1 := s.dlEntries.foldl (fun t n =>
    if t.fld (Reg.LHS_DL_CFG n) 59 46 = i ∧ !(t.flag (Reg.LHS_DL_CFG n) 62) ∧ old < new ∧ !(t.dlNow.contains n) then
      let d := addNs t.tbS t.tbNs (t.fld (Reg.LHS_DL_CFG n) 31 0)
      { t with dlNow := n :: t.dlNow }.dlOpen n d.1 d.2
    else t) s
  s1.dlEntries.foldl (fun t n => if t.fld (Reg.LHS_DL_CFG n) 45 32 = i then t.dlJudge n else t) s1

/-! ## Beacon due times (R521, R523) -/

/-- When core `c`'s beacon is due in the present safety frame, in nanoseconds of the timebase. -/
def State.beaconDue (s : State) (c : Nat) : Nat := s.frameStart + 1000000 * (c * s.frameMs) / 64

/-- Core `c` stops being usable or powered: if its beacon was due by now, the frame counts it (R523). -/
def State.beaconSeen (s : State) (c : Nat) : State :=
  if s.usable c && decide (s.beaconDue c ≤ s.nowNs) then
    { s with bcnSeen := BitVec.ofNat 64 (bitsPut s.bcnSeen.toNat c c 1) }
  else s

/-! ## Sync objects (R176, R360) -/

/-- What has reached object `i` in the present shore cycle: nothing yet where none is listed. -/
def State.synNow (s : State) (i : Nat) : SynCyc := tabGet ⟨s.reg (Reg.SYN_CNT i), s.reg (Reg.SYN_CNT i), 0, 0, none⟩ s.synEvt i

/-- Object `i` with what has reached it in this cycle, the deadline watch following the counter. -/
def State.synPut (s : State) (i : Nat) (x : SynCyc) : State :=
  (({ s with synEvt := tabPut s.synEvt i x } : State).setReg (Reg.SYN_CNT i) x.value).dlWatch i x.start.toNat

/-- A host write of object `i`'s counter: it comes before the signals of its own cycle (R361). -/
def State.syncSet (s : State) (i : Nat) (v : DWord) : State := s.synPut i { s.synNow i with base := v }

/-- A signal of object `i`: an addition modulo 2^64, or the greater of the counter and the value; of the signals of one
cycle the additions come first (R176). A signal of the wake object while a device-level state is entered or held is a wake
source (Table 20.2). -/
def State.signal (s : State) (i : Nat) (max : Bool) (v : DWord) : State :=
  let x := s.synNow i
  let st := s.fld Reg.PWR_STAT 2 0
  let wk := s.wakeSig || (s.fld Reg.PWR_WAKE 29 16 == i && (st == 3 || st == 5))
  ({ s with wakeSig := wk } : State).synPut i (if max then { x with top := if x.top.toNat < v.toNat then v else x.top } else { x with add := x.add + v })

/-- Is object `i` granted to partition `k` (R360)? -/
def State.granted (s : State) (i k : Nat) : Bool := s.flag (Reg.SYN_CTL i) k

/-- A status signalled into object `i`: the first error is kept (R355), and the first of this cycle besides (R361). -/
def State.syncErr (s : State) (i status tag : Nat) : State :=
  let x := s.synNow i
  let s1 : State := { s with synEvt := tabPut s.synEvt i { x with err := some (x.err.getD (status, tag)) } }
  if s1.fld (Reg.SYN_CTL i) 31 16 = 0 then
    (s1.setFld (Reg.SYN_CTL i) 31 16 status).setFld (Reg.SYN_CTL i) 63 32 tag
  else s1

/-- ERR_CLR of object `i`: an error set in the same cycle stays (R361). -/
def State.syncErrClear (s : State) (i : Nat) : State :=
  let e := (s.synNow i).err.getD (0, 0)
  (s.setFld (Reg.SYN_CTL i) 31 16 e.1).setFld (Reg.SYN_CTL i) 63 32 e.2

end Sys2Proof.Machine
end

