-- ==== Sys2Proof/Machine/Operands.lean ====
section
/-! DEFINITION. Operand forms of the tensor core: instruction words (Table 4.5), register operands (Table 4.1), lagoon
accesses with tag, parity and ECC checks (R204, R217, R345), tiles and their elements (R89 to R92). -/
namespace Sys2Proof.Machine

/-! ## Instruction words (R94) -/

/-- A fetched instruction: its first word and, in the long form, the second. -/
structure IWord where
  w1 : Nat
  w2 : Nat
  deriving DecidableEq, Repr

def IWord.opc (w : IWord) : Nat := bitsOf w.w1 63 56
def IWord.long (w : IWord) : Bool := bitOf w.w1 55
def IWord.pred (w : IWord) : Nat := bitsOf w.w1 54 52
/-- MOD bit `i`, numbered 48 to 51 as the spec numbers it. -/
def IWord.mod (w : IWord) (i : Nat) : Bool := bitOf w.w1 i
def IWord.modBits (w : IWord) : Nat := bitsOf w.w1 51 48
def IWord.dst (w : IWord) : Nat := bitsOf w.w1 47 40
def IWord.src1 (w : IWord) : Nat := bitsOf w.w1 39 32
def IWord.src2 (w : IWord) : Nat := bitsOf w.w1 31 24
def IWord.imm (w : IWord) : Nat := bitsOf w.w1 23 0
/-- simm: IMM sign-extended from 24 bits to 64 (R115). -/
def IWord.simm (w : IWord) : DWord := BitVec.ofInt 64 (signedOf 24 w.imm)
/-- Bytes of the instruction. -/
def IWord.len (w : IWord) : Nat := if w.long then 16 else 8
/-- simm, or the second word in the long form (R116). -/
def IWord.immOrLong (w : IWord) : DWord := if w.long then BitVec.ofNat 64 w.w2 else w.simm
/-- Bits of IMM. -/
def IWord.immBits (w : IWord) (hi lo : Nat) : Nat := bitsOf w.imm hi lo
/-- Bits of the second word. -/
def IWord.w2Bits (w : IWord) (hi lo : Nat) : Nat := bitsOf w.w2 hi lo

/-! ## Register numbers (Table 4.1) -/

/-- The register kinds of Table 4.1. -/
inductive RegKind where
  | s | v | t | a | p | g | f | special | reserved
  deriving DecidableEq, Repr

/-- The kind of a register number. -/
def regKind (n : Nat) : RegKind :=
  if n < 0x20 then .s else if n < 0x30 then .v else if n < 0x40 then .t else if n < 0x48 then .a
  else if n < 0x50 then .p else if n < 0x60 then .g else if n < 0x68 then .f else if n < 0x70 then .reserved
  else if n < 0x80 then .special else .reserved

/-- The index of a register number within its kind. -/
def regIdx (n : Nat) : Nat :=
  match regKind n with
  | .s => n | .v => n - 0x20 | .t => n - 0x30 | .a => n - 0x40 | .p => n - 0x48 | .g => n - 0x50 | .f => n - 0x60
  | .special => n - 0x70 | .reserved => 0

/-! ## Register files -/

def CoreRegs.getS (r : CoreRegs) (i : Nat) : DWord := tabGet 0 r.s i
def CoreRegs.setS (r : CoreRegs) (i : Nat) (v : DWord) : CoreRegs := { r with s := tabSet 0 r.s i v }
def CoreRegs.getV (r : CoreRegs) (i lane : Nat) : Word := tabGet 0 r.v (128 * i + lane)
def CoreRegs.setV (r : CoreRegs) (i lane : Nat) (v : Word) : CoreRegs := { r with v := tabSet 0 r.v (128 * i + lane) v }
/-- All 128 lanes. -/
def CoreRegs.lanes (r : CoreRegs) (i : Nat) : List Word := (List.range 128).map (r.getV i)
/-- Lanes from `n` on written from a list. -/
def CoreRegs.setLanesFrom (r : CoreRegs) (i : Nat) : Nat → List Word → CoreRegs
  | _, [] => r
  | n, v :: t => (r.setV i n v).setLanesFrom i (n + 1) t
def CoreRegs.setLanes (r : CoreRegs) (i : Nat) (l : List Word) : CoreRegs := r.setLanesFrom i 0 l
def CoreRegs.getT (r : CoreRegs) (i : Nat) : TileDesc := ⟨tabGet 0 r.t (2 * i), tabGet 0 r.t (2 * i + 1)⟩
def CoreRegs.setT (r : CoreRegs) (i : Nat) (d : TileDesc) : CoreRegs :=
  { r with t := tabSet 0 (tabSet 0 r.t (2 * i) d.w0) (2 * i + 1) d.w1 }
/-- Predicate `i`; p0 reads 1. -/
def CoreRegs.getP (r : CoreRegs) (i : Nat) : Bool := i == 0 || r.p.getLsbD i
/-- A predicate written; a write to p0 is ignored (R85). -/
def CoreRegs.setP (r : CoreRegs) (i : Nat) (b : Bool) : CoreRegs :=
  if i = 0 then r else { r with p := BitVec.ofNat 8 (bitsPut r.p.toNat i i (boolNat b)) }
def accKey (a row col : Nat) : Nat := 8192 * a + 64 * row + col
def CoreRegs.getAcc (r : CoreRegs) (a row col : Nat) : Word := r.acc.read (accKey a row col)
/-- An accumulator element written; the bank becomes live (R87). -/
def CoreRegs.setAcc (r : CoreRegs) (a row col : Nat) (v : Word) : CoreRegs :=
  { r with acc := r.acc.write (accKey a row col) v, live := BitVec.ofNat 8 (bitsPut r.live.toNat a a 1) }
def CoreRegs.getSum (r : CoreRegs) (a row : Nat) : Word := tabGet 0 r.rowsum (128 * a + row)
def CoreRegs.setSum (r : CoreRegs) (a row : Nat) (v : Word) : CoreRegs := { r with rowsum := tabSet 0 r.rowsum (128 * a + row) v }
def CoreRegs.getCnt (r : CoreRegs) (a row : Nat) : Word := tabGet 0 r.poscnt (128 * a + row)
def CoreRegs.setCnt (r : CoreRegs) (a row : Nat) (v : Word) : CoreRegs := { r with poscnt := tabSet 0 r.poscnt (128 * a + row) v }

/-! ## Lagoon access (R203, R204, R209, R217) -/

/-- The berths a list of cells touches. -/
def berthsOf (cells : List Nat) : List Nat := (cells.map (· / 256)).eraseDups

def Core.tag (k : Core) (b : Nat) : Bool := k.tags.getLsbD b

/-- The outcome of a tag evaluation: granted, waiting, or a parity error of a berth's state bits. -/
inductive Grant where
  | ok | wait (write : Bool) (bs : List Nat) | parity (b : Nat)
  deriving DecidableEq, Repr

/-- A tag-checked access: a read needs every berth FULL, a write every berth EMPTY, all at once (R204); the parity of
the state bits is checked as they are read (R217). -/
def Core.grant (k : Core) (write : Bool) (berths : List Nat) : Grant :=
  match berths.find? (fun b => k.parity.contains b) with
  | some b => .parity b
  | none => if berths.all (fun b => k.tag b != write) then .ok else .wait write berths

/-- An access without tag checks still reads the state bits' parity (R217). -/
def Core.touch (k : Core) (berths : List Nat) : Grant :=
  match berths.find? (fun b => k.parity.contains b) with
  | some b => .parity b
  | none => .ok

/-- Set the state of berth `b` (Table 7.2). -/
def Core.setBerth (k : Core) (b : Nat) (tag live : Bool) : Core :=
  { k with tags := BitVec.ofNat 128 (bitsPut k.tags.toNat b b (boolNat tag)),
           blive := BitVec.ofNat 128 (bitsPut k.blive.toNat b b (boolNat live)),
           parity := k.parity.filter (· != b) }

/-- A range of berths set FULL or E0. -/
def Core.setBerths (k : Core) (first n : Nat) (full : Bool) : Core :=
  (List.range n).foldl (fun k i => k.setBerth (first + i) full full) k

/-- Bytes of the lagoon as they stand. -/
def Core.lgnBytes (k : Core) (a n : Nat) : List Byte := k.lgn.readN a n

/-- Bytes written to the lagoon: the berths written become live (Table 7.2); a whole word becomes good (R346). -/
def Core.lgnPoke (k : Core) (a : Nat) (bs : List Byte) : Core :=
  let n := bs.length
  let k1 := { k with lgn := k.lgn.writeN a bs,
                     lgnUe := k.lgnUe.filter (fun w => !(decide (a ≤ 8 * w) && decide (8 * w + 8 ≤ a + n))),
                     lgnCe := k.lgnCe.filter (fun w => !(decide (a ≤ 8 * w) && decide (8 * w + 8 ≤ a + n))) }
  let bers := if n = 0 then [] else (List.range ((a + n - 1) / 4096 - a / 4096 + 1)).map (· + a / 4096)
  { k1 with blive := bers.foldl (fun m b => BitVec.ofNat 128 (bitsPut m.toNat b b 1)) k1.blive }

/-- A parity error of berth `b` of core `c` is detected: E0, LGN_ECC.TAG_ERR, an ECC_UE event of source 0xC (R217). -/
def State.parityHit (s : State) (c b : Nat) : State :=
  let s1 := s.setCore c ((s.core c).setBerth b false false)
  let r := Reg.LGN_ECC (c / 8) (c % 8)
  let s2 := (s1.setFld r 46 40 b).setFlag r 47 true
  s2.event 0x06 1 c (leBytes 1 0xC ++ leBytes 3 0 ++ leBytes 8 b)

/-- An uncorrectable lagoon word was read or merged: LGN_ECC.UE and an event of source 0x8 (R222, R345). -/
def State.eccLagoon (s : State) (c word : Nat) : State :=
  let r := Reg.LGN_ECC (c / 8) (c % 8)
  let s1 := (s.setFld r 15 0 word).setFlag r 32 true
  s1.event 0x06 1 c (leBytes 1 0x8 ++ leBytes 3 0 ++ leBytes 8 word)

/-- An uncorrectable accumulator word was read: HBR_CECC and an event of source 0xA. -/
def State.eccAcc (s : State) (c word unit : Nat) : State :=
  let r := Reg.HBR_CECC (c / 8)
  let s1 := (((s.setFld r 14 0 word).setFld r 43 43 unit).setFld r 46 44 (c % 8)).setFlag r 47 true
  s1.event 0x06 1 c (leBytes 1 (0xA + unit) ++ leBytes 3 0 ++ leBytes 8 word)

/-- The 64-bit words of a list of cells. -/
def cellWords (cells : List Nat) : List Nat := cells.flatMap (fun i => [2 * i, 2 * i + 1])

/-- Correctable lagoon words met by a read are counted and written back (R222, R346). -/
def State.lgnCorrect (s : State) (c : Nat) (words : List Nat) : State :=
  let k := s.core c
  let hit := words.filter (fun w => k.lgnCe.contains w)
  if hit = [] then s
  else
    let s1 := s.setCore c { k with lgnCe := k.lgnCe.filter (fun w => !(hit.contains w)) }
    hit.foldl (fun t _ => t.bumpSat (Reg.LGN_ECC (c / 8) (c % 8)) 63 48) s1

/-- The first uncorrectable lagoon word among some words. -/
def Core.lgnBad (k : Core) (words : List Nat) : Option Nat := words.find? (fun w => k.lgnUe.contains w)

/-! ## Tiles (R91, R92) -/

/-- Byte `b` of tile row `r`. -/
def Core.tileByte (k : Core) (t : TileDesc) (r b : Nat) : Nat := (k.lgn.read (16 * t.cell r (b / 16) + b % 16)).toNat

/-- The code of element `c` of tile row `r` (R52). -/
def Core.tileCode (k : Core) (t : TileDesc) (f : Fmt) (r c : Nat) : Nat :=
  let o := c * f.bits
  let n := (o % 8 + f.bits + 7) / 8
  let v := (List.range n).foldl (fun a i => a + k.tileByte t r (o / 8 + i) * 256 ^ i) 0
  v / 2 ^ (o % 8) % 2 ^ f.bits

/-- The value of element `c` of tile row `r`, its MX scale folded in (R56). -/
def Core.tileVal (k : Core) (t : TileDesc) (f : Fmt) (r c : Nat) : FVal :=
  let v := f.elemVal (k.tileCode t f r c)
  if f.isMx then mxScale (k.lgn.read (t.mxScaleByte r (c / 32))).toNat v else v

/-- The cells that hold elements `[lo, hi)` of tile row `r`. -/
def tileCells (t : TileDesc) (f : Fmt) (r lo hi : Nat) : List Nat :=
  if hi ≤ lo then [] else
  (List.range ((hi * f.bits - 1) / 128 - lo * f.bits / 128 + 1)).map (fun j => t.cell r (lo * f.bits / 128 + j))

/-- The MX scale cells of elements `[lo, hi)` of tile row `r`. -/
def mxCells (t : TileDesc) (f : Fmt) (r lo hi : Nat) : List Nat :=
  if !f.isMx || decide (hi ≤ lo) then [] else
  ((List.range ((hi - 1) / 32 - lo / 32 + 1)).map (fun b => t.mxScaleByte r (lo / 32 + b) / 16)).eraseDups

/-- The checks of R92 on a whole tile: format, shape, reserved bits, MX scales enabled, cells within the lagoon, and
column orientation within its plane. -/
def tileOk (t : TileDesc) : Bool :=
  match t.fmt with
  | none => false
  | some f =>
    !(t.rows == 0) && !(t.cols == 0) && !t.reservedSet && (!f.isMx || t.scEn)
      && decide (t.cell (t.rows - 1) (t.rowCells f - 1) ≤ 32767)
      && (!t.orient || (List.range t.rows).all (fun r =>
            decide ((t.base + r * t.pitch) % 1024 / 32 + t.rowCells f ≤ 32)))

/-- The checks of R92 that apply to the descriptors of an epilogue's xs and ws (R139). -/
def sideOk (t : TileDesc) : Bool :=
  match t.fmt with
  | none => false
  | some f => !t.reservedSet && (!f.isMx || t.scEn)

/-- The byte of the zero point of tile row `r` (Table 4.3). -/
def TileDesc.zpByte (t : TileDesc) (r : Nat) : Nat := 16 * t.zpRef + (if t.zpPc then 2 * r else 0)
/-- The byte of the FP32 scale of tile row `r`. -/
def TileDesc.scByte (t : TileDesc) (r : Nat) : Nat := 16 * t.scRef + (if t.scPc then 4 * r else 0)
/-- Has the descriptor a zero point in force: an integer format with ZP_EN (R54)? -/
def TileDesc.hasZp (t : TileDesc) : Bool := t.zpEn && (t.fmt.map Fmt.isInt).getD false
/-- Has the descriptor an FP32 scale in force: not MX, SC_EN 1 (R72)? -/
def TileDesc.hasSc (t : TileDesc) : Bool := t.scEn && !((t.fmt.map Fmt.isMx).getD true)
/-- A 16-bit signed lagoon value. -/
def Core.lgnI16 (k : Core) (a : Nat) : Int := signedOf 16 (leNat (k.lgnBytes a 2))
/-- A 32-bit lagoon word. -/
def Core.lgnW32 (k : Core) (a : Nat) : Word := BitVec.ofNat 32 (leNat (k.lgnBytes a 4))
/-- The zero point of tile row `r`, 0 where none is in force. -/
def Core.zeroPoint (k : Core) (t : TileDesc) (r : Nat) : Int := if t.hasZp then k.lgnI16 (t.zpByte r) else 0
/-- The scale of tile row `r`, 1.0 where none is in force. -/
def Core.scaleOf (k : Core) (t : TileDesc) (r : Nat) : Word := if t.hasSc then k.lgnW32 (t.scByte r) else 0x3F80_0000

end Sys2Proof.Machine
end

