-- ==== Sys2Proof/Machine/Flags.lean ====
section
/-! DEFINITION. The arithmetic status flags (R88, R111): every setting of a bit in the context's ASTAT also sets the bit
of the core's TC_ASTAT; the program alone clears ASTAT, the host alone clears TC_ASTAT. NDCOUNT (R163). -/
namespace Sys2Proof.Machine

/-- The bits of raised flags: NAN_STORE 0, OVF_STORE 1, INT_CLAMP 2 (Table 4.11). -/
def NFlags.bits (f : NFlags) : Nat := boolNat f.nan + 2 * boolNat f.ovf + 4 * boolNat f.clamp

/-- Raise flags on core `c` for its running slice's context. -/
def State.raiseFlags (s : State) (c : Nat) (f : NFlags) : State :=
  if f.bits = 0 then s else
  let r := Reg.TC_ASTAT (c / 8) (c % 8)
  let s1 := s.setBits r f.bits
  match (s.core c).slice with
  | none => s1
  | some sl => { s1 with astat := tabSet 0 s1.astat sl.ctx (tabGet 0 s1.astat sl.ctx ||| BitVec.ofNat 3 f.bits) }

/-- Each 1 of a write clears that ASTAT bit (Table 5.4). -/
def State.clearAstat (s : State) (ctx : Nat) (v : DWord) : State :=
  { s with astat := tabSet 0 s.astat ctx (tabGet 0 s.astat ctx &&& ~~~(BitVec.ofNat 3 v.toNat)) }

/-- One timing-dependent choice of a context: NDCOUNT of the context and of its command rise (R163, R357). -/
def State.ndRise (s : State) (ctx q : Nat) : State :=
  let s1 := s.setReg (Reg.SCH_CTX_NDCOUNT ctx) (s.reg (Reg.SCH_CTX_NDCOUNT ctx) + 1)
  match tabFind s1.queues q with
  | none => s1
  | some m => { s1 with queues := tabPut s1.queues q { m with ndc := m.ndc + 1 } }

end Sys2Proof.Machine
end

