-- ==== Sys2Proof/Machine/CmdOps.lean ====
section
/-! DEFINITION. What ends slices, streams and commands: ring slot changes (R241), LATE_DATA (R249), stopping the work of
a command (R585, R251 to R253), the end of a slice (R133). -/
namespace Sys2Proof.Machine

/-! ## Rings (R241) -/

/-- The slot state at an index. -/
def Ring.at (r : Ring) (i : Nat) : SlotSt := r.st.getD i .e
/-- The next slot, modulo SLOTS. -/
def Ring.next (r : Ring) (i : Nat) : Nat := (i + 1) % r.slots
/-- The first berth or unit of a slot. -/
def Ring.slotBase (r : Ring) (i : Nat) : Nat := r.base + r.sb * i
/-- Slots in state P. -/
def Ring.reserved (r : Ring) : List Nat := (List.range r.slots).filter (fun i => r.at i == .p)
/-- Slots in state C. -/
def Ring.acquired (r : Ring) : List Nat := (List.range r.slots).filter (fun i => r.at i == .c)

/-- The rings of a core. -/
def State.ring (s : State) (c h : Nat) : Option Ring := tabFind (s.core c).regs.rings h
def State.setRing (s : State) (c h : Nat) (r : Ring) : State :=
  let k := s.core c
  s.setCore c { k with regs := { k.regs with rings := tabPut k.regs.rings h r } }

/-- For a lagoon ring, the berths of a slot set FULL or E0 (Table 7.2). -/
def Core.slotBerths (k : Core) (r : Ring) (i : Nat) (full : Bool) : Core :=
  if r.harbour then k else k.setBerths (r.slotBase i) r.sb full

/-- Reserve the slot at the reserve pointer; the caller has seen it EMPTY. -/
def Ring.doReserve (r : Ring) : Ring := { r with st := r.st.set r.rsv .p, rsv := r.next r.rsv }
/-- Acquire the slot at the acquire pointer; the caller has seen it FULL. -/
def Ring.doAcquire (r : Ring) : Ring := { r with st := r.st.set r.acq .c, acq := r.next r.acq }

/-- Commit the oldest reserved slot of ring `h` of core `c` (head +1, berths FULL); false with no reserved slot. -/
def State.ringCommit (s : State) (c h : Nat) : Bool × State :=
  match s.ring c h with
  | none => (false, s)
  | some r =>
    if r.at r.head == .p then
      let s1 := s.setCore c ((s.core c).slotBerths r r.head true)
      (true, s1.setRing c h { r with st := r.st.set r.head .f, head := r.next r.head })
    else (false, s)

/-- Release the oldest acquired slot of ring `h` of core `c` (tail +1, berths E0); false with no acquired slot. -/
def State.ringRelease (s : State) (c h : Nat) : Bool × State :=
  match s.ring c h with
  | none => (false, s)
  | some r =>
    if r.at r.tail == .c then
      let s1 := s.setCore c ((s.core c).slotBerths r r.tail false)
      (true, s1.setRing c h { r with st := r.st.set r.tail .e, tail := r.next r.tail })
    else (false, s)

/-- A ring whose producer's stream was cancelled or ended in error: its reserved slots become E, the reserve pointer goes
back to the head (Table 8.6). -/
def Ring.dropReserved (r : Ring) : Ring := { r with st := r.st.map (fun x => if x == .p then .e else x), rsv := r.head }

/-- A ring whose consumer's stream was cancelled or ended in error: its acquired slots become F again, the acquire pointer
goes back to the tail (Table 8.6). -/
def Ring.dropAcquired (r : Ring) : Ring := { r with st := r.st.map (fun x => if x == .c then .f else x), acq := r.tail }

/-- The berths of a lagoon ring's slot. -/
def Ring.slotBerths (r : Ring) (i : Nat) : List Nat := if r.harbour then [] else (List.range r.sb).map (· + r.slotBase i)

/-- The first berth of a slot whose state bits have a parity error, which an operation on the slot reads (R217). -/
def State.slotParity (s : State) (c : Nat) (r : Ring) (i : Nat) : Option Nat :=
  (r.slotBerths i).find? (fun b => (s.core c).parity.contains b)

/-! ## Slices off their cores (R213, R225) -/

/-- The saved state of a slice. -/
def State.savedSlice (s : State) (sl : Slice) : Option Saved :=
  s.saved.find? (fun v => match v.slice with | some x => x.seq == sl.seq | none => false)

/-- The saved residence of a context from core `c`, without a slice. -/
def State.savedFrom (s : State) (ctx c : Nat) : Option Saved :=
  s.saved.find? (fun v => v.ctx == ctx && v.core == c && v.slice.isNone)

/-- Does a saved slice belong to queue `q`'s command? -/
def Saved.of (v : Saved) (q : Nat) : Bool := match v.slice with | some sl => sl.q == q | none => false

/-- Is what is resident on a core being saved, restored or scrubbed, out of every agent's reach (R214)? -/
def Core.away (k : Core) : Bool := k.mode == .saving || k.mode == .restoring || k.mode == .scrubbing

/-- The core that a name of slice `i` of queue `q`'s command means, while agents may reach that slice's lagoon there: the
core it was placed on last, with the command's context resident and neither being saved nor restored (R214, R225). -/
def State.reach (s : State) (q i : Nat) : Option Nat :=
  match tabFind s.queues q with
  | none => none
  | some m =>
    match tabFind m.homes i with
    | none => none
    | some c =>
      let k := s.core c
      if k.resident = some m.ctx ∧ !k.away then some c else none

/-- Is a saved state the one that ring name 1000 + `i` of queue `q`'s streams means: slice `i`'s own, or the residence that
it left on its core? -/
def State.isHome (s : State) (q i : Nat) (v : Saved) : Bool :=
  match v.slice with
  | some sl => sl.q == q && sl.idx == i
  | none => match tabFind s.queues q with
    | some m => m.ctx == v.ctx && tabFind m.homes i == some v.core
    | none => false

/-- The ring that a name of queue `q`'s streams means: on a core, or, at 1000 plus the slice's index, saved. -/
def State.namedRing (s : State) (q : Nat) (rn : RingName) : Option Ring :=
  if rn.core < 1000 then s.ring rn.core rn.handle
  else (s.saved.find? (s.isHome q (rn.core - 1000))).bind (fun v => tabFind v.regs.rings rn.handle)

/-- A saved state with a ring's reserved slots reset: E, berths E0. -/
def Saved.dropReserved (v : Saved) (h : Nat) : Saved :=
  match tabFind v.regs.rings h with
  | none => v
  | some r =>
    let off := fun (m : BitVec 128) => (r.reserved.flatMap r.slotBerths).foldl (fun m b => BitVec.ofNat 128 (bitsPut m.toNat b b 0)) m
    { v with tags := off v.tags, blive := off v.blive, regs := { v.regs with rings := tabPut v.regs.rings h r.dropReserved } }

/-- A saved state with a ring's acquired slots FULL again. -/
def Saved.dropAcquired (v : Saved) (h : Nat) : Saved :=
  match tabFind v.regs.rings h with
  | none => v
  | some r => { v with regs := { v.regs with rings := tabPut v.regs.rings h r.dropAcquired } }

/-- The slots that a stopped producer's stream had reserved in a ring become E with berths E0 (Table 8.6). -/
def State.ringAbortProd (s : State) (q : Nat) (rn : RingName) : State :=
  if rn.core < 1000 then
    match s.ring rn.core rn.handle with
    | none => s
    | some r =>
      let s1 := s.setCore rn.core (r.reserved.foldl (fun k i => k.slotBerths r i false) (s.core rn.core))
      s1.setRing rn.core rn.handle r.dropReserved
  else { s with saved := s.saved.map (fun v => if s.isHome q (rn.core - 1000) v then v.dropReserved rn.handle else v) }

/-- The slots that a stopped consumer's stream had acquired in a ring become F again (Table 8.6). -/
def State.ringAbortCons (s : State) (q : Nat) (rn : RingName) : State :=
  if rn.core < 1000 then
    match s.ring rn.core rn.handle with
    | none => s
    | some r => s.setRing rn.core rn.handle r.dropAcquired
  else { s with saved := s.saved.map (fun v => if s.isHome q (rn.core - 1000) v then v.dropAcquired rn.handle else v) }

/-- The slots that a stream holds are reset by its role (R251, Table 8.6), those kept from the ferry's earlier streams
among them (R241). -/
def State.streamAbort (s : State) (st : Stream) : State :=
  let s1 := st.held.foldl (fun t r => t.ringAbortProd st.q r) s
  st.acqd.foldl (fun t r => t.ringAbortCons st.q r) s1

/-! ## LATE_DATA (R249, R250) -/

/-- A consumer's slot wait of `ns` nanoseconds on ring `h` of core `c` ended with `cause`: when it exceeds LATE_NS in a
real-time command, log LATE_DATA, update FRY_LATE and mark the command. `kind`: 0 program, 1 inbound, 2 outbound,
3 bulk ferry. -/
def State.lateData (s : State) (q c ctx h kind slot cause ns late : Nat) (rt : Bool) : State :=
  if !rt || late == 0 || decide (ns ≤ late) then s else
  let w := satNat 0xFFFF_FFFF ns
  let s1 := s.fwLogRaw 5 0 1 0x0201 (timeBytes s.tbS s.tbNs ++ leBytes 1 ctx ++ leBytes 1 c ++ leBytes 1 (h + 16 * kind)
    ++ leBytes 1 (slot + 32 * cause) ++ leBytes 4 w ++ leBytes 4 late)
  let r := Reg.FRY_LATE (c / 8) (c % 8)
  let s2 := (((s1.bumpSat r 63 48).setFld r 47 44 h).setFld r 43 39 slot).setFld r 31 0 w
  match tabFind s2.queues q with
  | none => s2
  | some m => { s2 with queues := tabPut s2.queues q { m with late := true } }

/-- The kind of a ferry for a LATE_DATA record and for fault records. -/
def ferryKind (f : Nat) : Nat := if 128 ≤ f then 3 else if f % 2 = 0 then 1 else 2

/-! ## Stopping work -/

/-- The core that runs slice `idx` of queue `q`. -/
def State.coreOf (s : State) (q idx : Nat) : Option Nat :=
  (s.cores.find? (fun p => match p.2.slice with | some sl => sl.q == q && sl.idx == idx | none => false)).map (·.1)

/-- The slot waits of the core's program that a stop ends, those of RACQ: LATE_DATA with the cause (R249). -/
def State.lateStop (s : State) (c cause : Nat) : State :=
  let k := s.core c
  match k.slice with
  | none => s
  | some sl => k.regs.fly.foldl (fun t e =>
      let h := bitsOf e.w1 39 32 - 0x50
      match tabFind k.regs.rings h with
      | some r =>
        if e.wait = .slot ∧ bitsOf e.w1 63 56 = 0x72 then
          t.lateData sl.q c sl.ctx h 0 r.acq cause (t.upNs - e.since) r.lateNs sl.rt
        else t
      | none => t) s

/-- The slice on core `c` stops: the core is idle, its banks are released (R87, R133), the context stays resident. -/
def Core.halt (k : Core) : Core :=
  { k with slice := none, mode := .idle, preempt := false,
           regs := { k.regs with stall := none, fly := [], resume := none, live := 0 } }

/-- A ferry stops for the end of its command (R251 step 1): it issues nothing more and waits to acknowledge. A consumer's
slot wait ends here (R249). -/
def State.ferryCancel (s : State) (f cause : Nat) : State :=
  let k := s.ferry f
  match k.stream with
  | none => s
  | some st =>
    let s1 := s.setFerry f { k with cancelling := some cause }
    match st.wait, st.waitRing with
    | .slotF, some rn =>
      match s1.namedRing st.q rn, tabFind s1.queues st.q with
      | some r, some m =>
        s1.lateData st.q st.core k.ctx rn.handle (ferryKind f) r.acq cause (s1.upNs - st.since) r.lateNs m.rt
      | _, _ => s1
    | _, _ => s1

/-- Ferries with an open stream of queue `q`'s command. -/
def State.openFerries (s : State) (q : Nat) : List Nat :=
  (s.ferries.filter (fun p => match p.2.stream with | some st => st.q == q | none => false)).map (·.1)

/-- The slot waits of a saved slice, its program's and its ferries', end with the command: LATE_DATA for the time waited
while the context was resident (R249). -/
def State.savedLate (s : State) (v : Saved) (cause : Nat) : State :=
  match v.slice with
  | none => s
  | some sl =>
    let s1 := v.regs.fly.foldl (fun t e =>
      let h := bitsOf e.w1 39 32 - 0x50
      match tabFind v.regs.rings h with
      | some r =>
        if e.wait = .slot ∧ bitsOf e.w1 63 56 = 0x72 then t.lateData sl.q v.core v.ctx h 0 r.acq cause e.since r.lateNs sl.rt else t
      | none => t) s
    v.ferries.foldl (fun t p =>
      match p.2.stream with
      | some st => match st.wait, st.waitRing with
        | .slotF, some rn => match t.namedRing st.q rn with
          | some r => t.lateData sl.q v.core v.ctx rn.handle (min p.1 2 + 1) r.acq cause st.since r.lateNs sl.rt
          | none => t
        | _, _ => t
      | none => t) s1

/-- A ferry without the stream it had. -/
def Ferry.cut (k : Ferry) : Ferry :=
  { k with stream := none, held := [], acqd := [], op := match k.stream with | some st => st.op | none => k.op }

/-- A saved slice of a stopped command: its streams are gone; the residence with its ferry handles stays. -/
def Saved.discard (v : Saved) : Saved :=
  { v with slice := none,
           ferries := v.ferries.map (fun p => (p.1, p.2.cut)),
           regs := { v.regs with stall := none, fly := [], resume := none, live := 0 } }

/-- The saved slices of queue `q`'s command are cancelled in the saved state: the slots that their streams hold are reset,
wherever the rings are, and the streams are discarded (R253). -/
def State.discardSaved (s : State) (q cause : Nat) : State :=
  let vs := s.saved.filter (·.of q)
  let s1 := vs.foldl (fun t v => t.savedLate v cause) s
  let s2 := vs.foldl (fun t v => v.ferries.foldl (fun t p => match p.2.stream with
    | some st => t.streamAbort st
    | none => t) t) s1
  { s2 with saved := s2.saved.map (fun v => if v.of q then v.discard else v) }

/-! ## Ferry handles and who waits for a ferry (R171, R240) -/

/-- The running slice of a core, or a slice of zeros where none runs. -/
def Core.sl (k : Core) : Slice :=
  k.slice.getD ⟨0, 0, 0, 0, 0, 0, 0, 0, 0, false, 0, 0, false, false, false, none, [], 0⟩

/-- The ferry that KIND selects for a core (R14, R171). -/
def ferryOf (c kind : Nat) : Nat :=
  if kind = 0 then 2 * c else if kind = 1 then 2 * c + 1 else 128 + 4 * islandOf c + (kind - 2)

/-- The kind of a ferry (R171). -/
def ferryKindOf (f : Nat) : Nat := if f < 128 then f % 2 else 2 + (f - 128) % 4

/-- The ferry of handle `h` of core `c`. -/
def State.handle (s : State) (c h : Nat) : Option Nat := tabFind (s.core c).regs.fh h

/-- Bind ferry `f` to handle `h` of core `c`; no stream has run since (R173). -/
def State.bindFerry (s : State) (c h f : Nat) : State :=
  let k := s.core c
  let s1 := s.setCore c { k with regs := { k.regs with
    fh := tabPut k.regs.fh h f, fran := BitVec.ofNat 8 (bitsPut k.regs.fran.toNat h h 0) } }
  s1.setFerry f { s1.ferry f with bound := some ⟨c, h⟩ }

/-- Unbind handle `h` of core `c` from ferry `f`. -/
def State.unbindFerry (s : State) (c h f : Nat) : State :=
  let k := s.core c
  let s1 := s.setCore c { k with regs := { k.regs with fh := tabDel k.regs.fh h } }
  s1.setFerry f { s1.ferry f with bound := none, held := [], acqd := [] }

/-- The instructions of core `c` that wait as `p` says have completed. -/
def State.landed (s : State) (c : Nat) (p : Fly → Bool) : State :=
  let k := s.core c
  s.setCore c { k with regs := { k.regs with fly := k.regs.fly.filter (fun e => !(p e)) } }

/-- What core `c` restores: the state of its slice, or the residence that its context left there. -/
def State.restoreFrom (s : State) (c : Nat) : Option (Saved × Bool) :=
  match (s.core c).mode, (s.core c).slice with
  | .restoring, some sl =>
    match s.savedSlice sl with
    | some v => some (v, true)
    | none => (s.savedFrom sl.ctx c).map (fun v => (v, false))
  | _, _ => none

/-- Who waits for ferry `f`: an FBIND with its handle, or the restore of a core (`none`), with priority and arrival. -/
structure BindWait where
  core : Nat
  handle : Option Nat
  prio : Nat
  arr : Nat
  deriving DecidableEq, Repr

/-- Priority order, then order of arrival (R171). -/
def BindWait.le (a b : BindWait) : Bool := decide (a.prio < b.prio) || (a.prio == b.prio && decide (a.arr ≤ b.arr))

/-- Those that wait for ferry `f`, in the order in which they are granted it. -/
def State.bindWaiters (s : State) (f : Nat) : List BindWait :=
  sortBy BindWait.le (s.cores.flatMap (fun p =>
    (match s.restoreFrom p.1 with
      | some (v, _) => if (v.ferries.map (fun x => ferryOf p.1 x.1)).contains f then [⟨p.1, none, p.2.sl.prio, p.2.restArr⟩] else []
      | none => []) ++
    p.2.regs.fly.filterMap (fun e => match e.wait with
      | .bind g h => if g = f ∧ p.2.mode = .running then some ⟨p.1, some h, p.2.sl.prio, e.arr⟩ else none
      | _ => none)))

/-- A bulk ferry that is not bound is granted to the first waiting FBIND, which completes, unless a restore comes first
(R171, R240). -/
def State.grantFerry (s : State) (f : Nat) : State :=
  if (s.ferry f).bound.isSome then s
  else match s.bindWaiters f with
    | ⟨c, some h, _, _⟩ :: _ => (s.bindFerry c h f).landed c (fun e => e.wait == .bind f h)
    | _ => s

/-- Every free bulk ferry granted to whoever waits for it. -/
def State.grantBulks (s : State) : State := (List.range 32).foldl (fun t i => t.grantFerry (128 + i)) s

/-- Is the stream of ferry `f` open? -/
def State.streamOpen (s : State) (f : Nat) : Bool := (s.ferry f).stream.isSome

/-! ## Charging and the end of commands -/

/-- The DRR key of a context and a level. -/
def drrKey (ctx p : Nat) : Nat := ctx * 8 + p

/-- Is a slice in some engine queue? -/
def State.queued (s : State) (sl : Slice) : Bool := s.cores.any (fun p => p.2.queue.any (fun x => x.seq == sl.seq))

/-- Saved slices that are ready to go on, the latest returned first; gangs go together and are left out (R178). -/
def State.returned (s : State) (k : Nat) : List Slice :=
  (s.saved.filterMap (·.slice)).filter (fun sl => sl.part == k && !sl.gang && !(s.queued sl))

/-- Is the command of a reference run held back, or does one hold this command back (R377)? -/
def State.refHeld (s : State) (q : Nat) (m : Cmd) : Bool :=
  s.queues.any (fun p => p.1 != q && p.2.part == m.part && p.2.ctx != m.ctx &&
    ((bitOf m.flags 4 && decide (0 < p.2.live)) || (bitOf p.2.flags 4 && p.2.begun)))

/-- Commands with slices that may be dispatched one by one: queue and command. -/
def State.readyCmds (s : State) (k : Nat) : List (Nat × Cmd) :=
  s.queues.filter (fun p => p.2.part == k && (p.2.phase == .ready || p.2.phase == .running)
    && !(p.2.todo.isEmpty) && !(p.2.todo.any (·.gang)) && !(s.refHeld p.1 p.2))

/-- The deficit of a context with no ready slice at its level is 0 (R368). -/
def State.drrTidy (s : State) : State :=
  { s with drr := s.drr.filter (fun e =>
      (List.range 8).any (fun k => (s.readyCmds k).any (fun x => x.2.ctx == e.1 / 8 && x.2.prio == e.1 % 8)
        || (s.returned k).any (fun sl => sl.ctx == e.1 / 8 && sl.prio == e.1 % 8))) }

/-- Engine time of the slice on core `c` is charged: ENGINE and ACCT1 in ns; ACCT0 and the level's deficit in beats, and the
energy of ACCT6, which the model leaves free (R368, R377, R378). -/
def State.charge (s : State) (c : Nat) : State :=
  let k := s.core c
  match k.slice with
  | none => s
  | some sl =>
    let ns := s.upNs - k.started
    let (n, s1) := s.draw
    let (e, s1) := s1.draw
    let beats := Config.choice n
    let add := fun (t : State) (i v : Nat) => t.setReg (Reg.SCH_CTX_ACCT sl.ctx i) (t.reg (Reg.SCH_CTX_ACCT sl.ctx i) + BitVec.ofNat 64 v)
    let s2 := add (add (add s1 0 beats) 1 ns) 6 (if s1.restarting 1 0 then 0 else Config.choice e)
    let key := drrKey sl.ctx sl.prio
    let s3 := { s2 with drr := tabSet 0 s2.drr key (tabGet 0 s2.drr key - (beats : Int)) }
    match tabFind s3.queues sl.q with
    | none => s3
    | some m => { s3 with queues := tabPut s3.queues sl.q { m with engine := m.engine + ns } }

/-- Does an ending cause with rank `key` decide over one that ended the command before: the earlier one does, and of one
shore cycle the lower rank, which is the slice's number for a slice or its stream (R358, R585)? -/
def Cmd.yields (m : Cmd) (cyc key : Nat) : Bool :=
  m.status == 0 || (m.endCyc == cyc && decide (key < m.endKey))

/-- Set FINAL in a fault record (Table 11.5). -/
def finalRecord (r : List Byte) : List Byte := (r.take 45) ++ leBytes 1 (recNat r 45 1 ||| 8) ++ r.drop 46

/-- The open faults of queue `q`'s command close; the records of those that opened in this very shore cycle are written with
FINAL set, in the ring or while they wait (R343). -/
def State.faultsFinal (s : State) (q : Nat) : State :=
  let fids := (s.faults.filter (fun h => h.q == q && h.cyc == s.cyc)).map (·.fid)
  let fix := fun (r : List Byte) => if fids.contains (recNat r 12 4) then finalRecord r else r
  let s1 := { s with faults := s.faults.filter (fun h => h.q != q), frecs := s.frecs.map fix }
  if fids = [] then s1 else s1.fringRewrite (s1.fnow.map fix)

/-- Stop the work of queue `q`'s command with an ending status (R585, R376): unstarted slices never start, running
slices stop and are charged, ferries stop for acknowledgement, open faults close and the requests held at them go (R343), and
the status that decides is kept. END is the time at which the last slice ended. `cause` is that of R249, `key` the rank among
the causes of one cycle. -/
def State.endBy (s : State) (q status cause key : Nat) : State :=
  match tabFind s.queues q with
  | none => s
  | some m =>
    if m.phase = .ended ∧ m.status ≠ 0 then
      if m.yields s.cyc key then { s with queues := tabPut s.queues q { m with status := status, endKey := key } } else s
    else
    let running := (s.cores.filter (fun p => match p.2.slice with | some sl => sl.q == q | none => false)).map (·.1)
    let off := s.saved.any (·.of q)
    let s1 := running.foldl (fun t c => let u := (t.lateStop c cause).charge c; u.setCore c (u.core c).halt) s
    let s2 := s1.discardSaved q cause
    let s3 := ({ s2 with
      cores := s2.cores.map (fun (p : Nat × Core) => (p.1, { p.2 with queue := p.2.queue.filter (fun x => x.q != q) })) } : State).setKv
      (s2.kv.filter (fun r => !(r.q == q && r.fault.isSome)))
    let fs := s3.openFerries q
    let s4 := (fs.foldl (fun t f => t.ferryCancel f cause) (s3.faultsFinal q)).grantBulks
    match tabFind s4.queues q with
    | none => s4
    | some m1 =>
      let now := !running.isEmpty || off || m1.ranOn.isEmpty
      let m2 := { m1 with
        phase := .ended, status := if m1.status = 0 then status else m1.status, todo := [], live := 0, acks := fs,
        endCyc := s4.cyc, endKey := key,
        endS := if now then s4.tbS else m1.endS, endNs := if now then s4.tbNs else m1.endNs }
      ({ s4 with queues := tabPut s4.queues q m2 } : State).drrTidy

/-- The rank of an ending cause that no slice raised: a cancellation comes last (R358). -/
def causeRank (status : Nat) : Nat := if status = 0x0010 then 0x20000 else 0x10000

/-- The command of queue `q` ends for a cause outside its slices. -/
def State.endCommand (s : State) (q status cause : Nat) : State := s.endBy q status cause (causeRank status)

/-- The command of the slice on core `c` ends with a status (INVALID_PROGRAM and the like). -/
def State.endSliceCmd (s : State) (c status : Nat) : State :=
  match (s.core c).slice with
  | none => s
  | some sl => s.endBy sl.q status 2 sl.idx

/-- The slice on core `c` has ended without a status (R133): its banks are released, and the command has ended with OK
once its last slice has. -/
def State.sliceDone (s : State) (c : Nat) : State :=
  match (s.core c).slice with
  | none => s
  | some sl =>
    let s1 := s.charge c
    let s2 := s1.setCore c (s1.core c).halt
    match tabFind s2.queues sl.q with
    | none => s2
    | some m =>
      let last := m.live ≤ 1 ∧ m.todo = []
      let m1 := { m with
        live := m.live - 1, phase := if last then .ended else m.phase, endS := s2.tbS, endNs := s2.tbNs }
      ({ s2 with queues := tabPut s2.queues sl.q m1 } : State).drrTidy

end Sys2Proof.Machine
end

