-- ==== Sys2Proof/Machine/Issue.lean ====
section
/-! DEFINITION. Fetching and issuing one instruction of a core (R94 to R97, R114 to R118): the word at the program
counter is read from the island's harbour (R98: every fetch sees the bytes as they stand), its encoding is checked, its
predicate decides, and its body answers how it ends. -/
namespace Sys2Proof.Machine

/-- How an instruction's body ends: completed, branched, stalled with what it has done so far, its command ended with a
status, or the slice already ended. -/
inductive IRes where
  | done (s : State)
  | jump (s : State) (pc : Nat)
  | wait (s : State) (w : Wait)
  | fail (s : State) (status : Nat)
  | stop (s : State)

/-- INVALID_PROGRAM (Table 12.18). -/
def stInvalidProgram : Nat := 0x0002
/-- ECC_UNCORRECTABLE (Table 12.18). -/
def stEcc : Nat := 0x0204
/-- ACCESS_VIOLATION (Table 12.18). -/
def stAccess : Nat := 0x0202

/-- What a register field of an opcode may hold: must be 0, or a register of a kind. -/
inductive FieldUse where
  | zero
  | reg (k : RegKind)
  | any
  deriving DecidableEq, Repr

def FieldUse.ok (u : FieldUse) (n : Nat) : Bool :=
  match u with
  | .zero => n == 0
  | .reg k => decide (regKind n = k)
  | .any => true

/-- Whether an opcode has no long form, may have it (L) or must (LL) (R116). -/
inductive LongUse where
  | never | optional | required
  deriving DecidableEq, Repr

/-- The encoding rules of an opcode (Table 5.1, Table 6.1): fields, used IMM bits, defined MOD bits, long form. -/
structure Enc where
  dst : FieldUse
  src1 : FieldUse
  src2 : FieldUse
  imm : Nat
  mod : Nat
  long : LongUse
  deriving DecidableEq, Repr

/-- The checks of R95, R114 to R117 for an opcode. -/
def Enc.ok (e : Enc) (w : IWord) : Bool :=
  e.dst.ok w.dst && e.src1.ok w.src1 && e.src2.ok w.src2
    && (w.imm &&& e.imm) == w.imm && (w.modBits &&& e.mod) == w.modBits
    && (match e.long with
        | .never => !w.long
        | .optional => !w.long || w.imm == 0
        | .required => w.long)

/-- The assigned opcodes (Table 5.1, Table 6.1). -/
def opcAssigned (o : Nat) : Bool :=
  decide (o ≤ 0x1D) || (decide (0x20 ≤ o) && decide (o ≤ 0x24)) || (decide (0x40 ≤ o) && decide (o ≤ 0x56))
    || o == 0x58 || o == 0x59 || o == 0x5C || (decide (0x70 ≤ o) && decide (o ≤ 0x76))
    || (decide (0x90 ≤ o) && decide (o ≤ 0x93)) || o == 0x98 || (decide (0xB0 ≤ o) && decide (o ≤ 0xB3))
    || (decide (0xC0 ≤ o) && decide (o ≤ 0xC3)) || (decide (0xD0 ≤ o) && decide (o ≤ 0xD2)) || o == 0xE0 || o == 0xE1

/-- A fetch: past the end of the harbour (R97), through an uncorrectable word, or an instruction. -/
inductive Fetch where
  | outside
  | bad (word : Nat) (cache : Bool)
  | word (w : IWord)
  deriving DecidableEq, Repr

/-- The 64-bit harbour word at an offset of island `n`. -/
def State.hbrWord (s : State) (n off : Nat) : Nat := leNat (s.bytes (hbrAddr n off) 8)

/-- Is the 64-bit word at a harbour offset uncorrectable, in core `c`'s instruction cache or in the harbour? -/
def State.fetchBad (s : State) (c off : Nat) : Option Fetch :=
  if (s.core c).icUe.contains (off / 8) then some (.bad (off / 8) true)
  else if s.hbrUe.contains (hbrAddr (islandOf c) off / 8) then some (.bad (off / 8) false)
  else none

/-- The words of a fetched instruction are corrected as they are read, in the core's instruction cache and in the harbour
(R346). -/
def State.fetchFix (s : State) (c off n : Nat) : State :=
  let hit := (s.core c).icCe.filter (fun w => decide (off / 8 ≤ w) && decide (w < (off + n) / 8))
  let s1 := if hit = [] then s else s.setCore c { s.core c with icCe := (s.core c).icCe.filter (fun w => !(hit.contains w)) }
  (hit.foldl (fun t _ => t.bumpSat (Reg.HBR_CECC (islandOf c)) 63 48) s1).eccCorrect (hbrAddr (islandOf c) off) n

/-- The state after instruction `w` is fetched at core `c`'s program counter. -/
def State.fetched (s : State) (c : Nat) (w : IWord) : State := s.fetchFix c (s.core c).regs.pc w.len

/-- Fetch the instruction at core `c`'s program counter. -/
def State.fetch (s : State) (c : Nat) : Fetch :=
  let pc := (s.core c).regs.pc
  if 0x80_0000 ≤ pc then .outside
  else
    let w1 := s.hbrWord (islandOf c) pc
    match s.fetchBad c pc with
    | some b => b
    | none =>
      if bitOf w1 55 then
        if 0x80_0000 ≤ pc + 8 then .outside
        else
          match s.fetchBad c (pc + 8) with
          | some b => b
          | none => .word ⟨w1, s.hbrWord (islandOf c) (pc + 8)⟩
      else .word ⟨w1, 0⟩

/-- The program counter of core `c` moved, the resume point cleared. -/
def State.setPc (s : State) (c pc : Nat) : State :=
  let k := s.core c
  s.setCore c { k with regs := { k.regs with pc := pc, resume := none, tile := [], stall := none } }

/-- Core `c` stalls. -/
def State.setStall (s : State) (c : Nat) (w : Wait) (since : Nat) : State :=
  let k := s.core c
  s.setCore c { k with regs := { k.regs with stall := some w, waitStart := since } }

/-- The waits of an instruction that has issued and is kept with its words (R98, R104); the others hold the slice at the
instruction (R177, R179, R195). -/
def Wait.parks : Wait → Bool
  | .tags _ _ | .slot | .ferry _ | .bind _ _ | .icc | .reduce | .hash | .streams | .row => true
  | .sync _ _ | .barrier _ | .launch _ _ => false

/-- The waits after which nothing issues: END's for its streams, and a stop at a row boundary (R107, R133). -/
def Wait.bars : Wait → Bool
  | .streams | .row => true
  | _ => false

/-- The instruction at the program counter has issued and waits; the next one follows (R104). -/
def State.park (s : State) (c : Nat) (e : Fly) (next : Nat) : State :=
  let k := s.core c
  (s.setCore c { k with regs := { k.regs with
    pc := next, resume := none, tile := [], stall := none, fly := k.regs.fly ++ [e] } }).tick

/-- The effect of how an instruction of length `len` at `pc` ended. -/
def IRes.settle (r : IRes) (c pc len since : Nat) : State :=
  match r with
  | .done s => s.setPc c (pc + len)
  | .jump s t => s.setPc c t
  | .wait s w => s.setStall c w since
  | .fail s st => s.endSliceCmd c st
  | .stop s => s

/-- The effect of how an instruction just issued at `pc` ended. -/
def IRes.issued (r : IRes) (c pc since : Nat) (w : IWord) (f : Foot) : State :=
  match r with
  | .wait s wt =>
    if wt.parks then
      s.park c ⟨pc, w.w1, w.w2, wt, since, (s.core c).regs.resume, (s.core c).regs.tile, f, s.seq, ⟨0, [], [], false⟩⟩ (pc + w.len)
    else s.setStall c wt since
  | .done s => IRes.settle (.done s) c pc w.len since
  | .jump s t => IRes.settle (.jump s t) c pc w.len since
  | .fail s st => IRes.settle (.fail s st) c pc w.len since
  | .stop s => IRes.settle (.stop s) c pc w.len since

/-! ## What an instruction touches (R104) -/

/-- Reads its SRC1 register. -/
def IWord.usesSrc1 (w : IWord) : Bool :=
  let o := w.opc
  o == 0x02 || o == 0x03 || (decide (0x04 ≤ o) && decide (o ≤ 0x18)) || o == 0x1B || (decide (0x20 ≤ o) && decide (o ≤ 0x24))
    || (decide (0x40 ≤ o) && decide (o ≤ 0x5C) && o != 0x47) || (decide (0x70 ≤ o) && decide (o ≤ 0x76))
    || (decide (0x91 ≤ o) && decide (o ≤ 0xB1)) || (decide (0xC0 ≤ o) && decide (o ≤ 0xC3)) || (o == 0xD0 && w.mod 49)
    || o == 0xD2 || o == 0xE1

/-- Reads its SRC2 register. -/
def IWord.usesSrc2 (w : IWord) : Bool :=
  let o := w.opc
  o == 0x03 || (decide (0x04 ≤ o) && decide (o ≤ 0x10) && !(w.mod 49)) || o == 0x11 || (o == 0x13 && bitsOf w.w1 51 49 != 4)
    || (o == 0x15 && !(w.mod 49)) || o == 0x18 || (decide (0x20 ≤ o) && decide (o ≤ 0x24)) || o == 0x41
    || (decide (0x48 ≤ o) && decide (o ≤ 0x4E)) || (decide (0x50 ≤ o) && decide (o ≤ 0x52))
    || (o == 0x53 && w.immBits 1 0 == 2) || o == 0x58 || (o == 0x59 && w.immBits 3 0 == 4) || o == 0x91
    || (decide (0x98 ≤ o) && decide (o ≤ 0xB1)) || (decide (0xC0 ≤ o) && decide (o ≤ 0xC3)) || o == 0xE1

/-- Reads what its DST register held, or names an operand there. -/
def IWord.usesDst (w : IWord) : Bool := [0x16, 0x1C, 0x24, 0x46, 0x4B, 0x51, 0x58].contains w.opc

/-- Writes its DST register. -/
def IWord.writesDst (w : IWord) : Bool :=
  !([0x00, 0x18, 0x19, 0x1B, 0x1D, 0x23, 0x24, 0x41, 0x71, 0x73, 0x75, 0x76, 0x93, 0x98, 0xB0, 0xB1, 0xB2, 0xB3, 0xC1, 0xD0,
     0xD2, 0xE0, 0xE1].contains w.opc)

/-- The unit that runs one instruction at a time (R103); divisions hold theirs for a bounded time only. -/
def IWord.unit (w : IWord) : Nat :=
  let o := w.opc
  if (decide (0x20 ≤ o) && decide (o ≤ 0x22)) || o == 0xC0 then 1
  else if o == 0x23 || o == 0x24 then 2
  else if decide (0x40 ≤ o) && decide (o ≤ 0x5C) then 3
  else if o == 0xC1 || o == 0xC3 then 4
  else 0

/-- What the register fields of a word say that it touches; accumulators go by groups and stand in `Foot.acc`. A ring or
ferry handle that an instruction changes counts as written. -/
def IWord.regFoot (w : IWord) : Foot :=
  let o := w.opc
  let keep := fun (l : List Nat) => l.filter (fun r => decide (regKind r ≠ .a))
  { unit := w.unit,
    rd := keep ((if w.usesSrc1 then [w.src1] else []) ++ (if w.usesSrc2 then [w.src2] else [])
      ++ (if w.usesDst then [w.dst] else []) ++ (if o == 0x91 then [w.src2 + 1, w.src2 + 2, w.src2 + 3] else [])),
    wr := keep ((if w.writesDst then [w.dst] else [])
      ++ (if (decide (0x71 ≤ o) && decide (o ≤ 0x75)) || o == 0x93 then [w.src1] else [])
      ++ (if o == 0x24 || o == 0x41 then [0x79] else [])),
    crd := [], cwr := [], drain := o == 0x1D || o == 0xB0 || o == 0xE0 }

/-- What an instruction touches beyond its register fields. -/
structure Touch where
  rd : List Nat := []
  wr : List Nat := []
  crd : List (Nat × Nat) := []
  cwr : List (Nat × Nat) := []

/-- The keys of rows `[ro, ro + m)` of banks `[ad, ad + nb)` in groups of 16 rows. -/
def accGroups (ad nb ro m : Nat) : List Nat :=
  (List.range nb).flatMap (fun j => (List.range ((ro + m - 1) / 16 - ro / 16 + 1)).map (fun g => 0x200 + 8 * (ad + j) + ro / 16 + g))

/-- Single cells as ranges. -/
def oneCells (l : List Nat) : List (Nat × Nat) := l.map (fun i => (i, 1))

/-- The whole footprint. -/
def IWord.foot (w : IWord) (t : Touch) : Foot :=
  let f := w.regFoot
  { f with rd := f.rd ++ t.rd, wr := f.wr ++ t.wr, crd := f.crd ++ t.crd, cwr := f.cwr ++ t.cwr }

/-- Do two lists of cell ranges share a cell? -/
def rangesMeet (a b : List (Nat × Nat)) : Bool :=
  a.any (fun p => b.any (fun q => decide (p.1 < q.1 + q.2) && decide (q.1 < p.1 + p.2)))

/-- Must a new instruction of footprint `f` wait for an earlier one of footprint `e` (R103, R104)? -/
def Foot.clash (e f : Foot) : Bool :=
  f.drain || (f.unit != 0 && f.unit == e.unit)
    || e.wr.any (fun r => f.rd.contains r || f.wr.contains r) || e.rd.any (fun r => f.wr.contains r)
    || rangesMeet e.cwr f.crd || rangesMeet e.cwr f.cwr || rangesMeet e.crd f.cwr

/-- Does a footprint wait for an instruction of the core that has not completed? -/
def CoreRegs.clash (r : CoreRegs) (f : Foot) : Bool := r.fly.any (fun e => e.foot.clash f)

/-- May core `c` issue: it runs a slice, does not stall, and no instruction in flight bars it? -/
def State.canIssue (s : State) (c : Nat) : Bool :=
  let k := s.core c
  decide (k.mode = .running) && k.slice.isSome && k.regs.stall.isNone && !(k.regs.fly.any (fun e => e.wait.bars))

/-- An uncorrectable word met by a fetch is reported: of the cache by its index there, whose line is free (Log 63). -/
def State.eccFetch (s : State) (c word : Nat) (cache : Bool) : State :=
  if cache then let (n, t) := s.choose 256; t.eccAcc c (32 * n + word % 32) 1 else s.eccHarbour (islandOf c) word

/-- Issue one instruction of core `c` as row `row` of the table: `row` says which fetched words are this row's, `touch`
what it touches beyond its register fields. A core that may not issue, or whose next instruction is another row's, is left
as it is; an unassigned opcode, a fetch past the harbour and a failed encoding check end the command with INVALID_PROGRAM
(R95, R97, R118); a predicate that reads 0 only moves the program counter (R96); an instruction that meets what an earlier
one still touches does not issue yet (R104). -/
def issueOn (touch : Core → IWord → Touch) (row enc : IWord → Bool) (body : IWord → State → IRes) (c : Nat) (s : State) :
    State :=
  if !(s.canIssue c) then s
  else
    match s.fetch c with
    | .outside => s.endSliceCmd c stInvalidProgram
    | .bad wd ic => (s.eccFetch c wd ic).endSliceCmd c stEcc
    | .word w =>
      if opcAssigned w.opc && !(row w) then s
      else
        let t := s.fetched c w
        if !(opcAssigned w.opc) || !(enc w) then t.endSliceCmd c stInvalidProgram
        else if !((t.core c).regs.getP w.pred) then t.setPc c ((t.core c).regs.pc + w.len)
        else
          let f := w.foot (touch (t.core c) w)
          if (t.core c).regs.clash f then t else (body w t).issued c (t.core c).regs.pc t.upNs w f

/-- The instruction of row `row` that core `c` fetches outside a gang (R178). -/
def State.gangless (s : State) (c : Nat) (row : IWord → Bool) : Option IWord :=
  if s.canIssue c && !((s.core c).sl.gang) then
    match s.fetch c with
    | .word w => if row w then some w else none
    | _ => none
  else none

/-- Issue an instruction that only a gang may have: fetching it elsewhere ends the command, whatever its predicate
(R178). -/
def issueGang (touch : Core → IWord → Touch) (row enc : IWord → Bool) (body : IWord → State → IRes) (c : Nat) (s : State) :
    State :=
  match s.gangless c row with
  | some w => (s.fetched c w).endSliceCmd c stInvalidProgram
  | none => issueOn touch row enc body c s

/-- Issue an instruction that touches its register fields alone. -/
def issue (row enc : IWord → Bool) (body : IWord → State → IRes) (c : Nat) (s : State) : State :=
  issueOn (fun _ _ => {}) row enc body c s

/-- The row of an opcode. -/
def rowOpc (o : Nat) (w : IWord) : Bool := w.opc == o

/-- A checked or unchecked lagoon access of an instruction on some cells: `none` when granted; otherwise how the
instruction ends (R204, R217). `u` is .U. -/
def State.lgnGrant (s : State) (c : Nat) (u write : Bool) (cells : List Nat) : Option IRes :=
  let k := s.core c
  match (if u then k.touch (berthsOf cells) else k.grant write (berthsOf cells)) with
  | .ok => none
  | .wait wr bs => some (.wait s (.tags wr bs))
  | .parity b => some (.fail (s.parityHit c b) stEcc)

/-- A lagoon read by an instruction of some cells' words: `none` when good; an uncorrectable word ends the command. -/
def State.lgnRead (s : State) (c : Nat) (cells : List Nat) : Option IRes :=
  match (s.core c).lgnBad (cellWords cells) with
  | some w => some (.fail (s.eccLagoon c w) stEcc)
  | none => none

/-- A store that covers lagoon words in part merges them: corrected words are counted, through an uncorrectable one it is not
made (R217, R346). -/
def State.lgnMerge (s : State) (c : Nat) (words : List Nat) : Except IRes State :=
  match (s.core c).lgnBad words with
  | some w => .error (.fail (s.eccLagoon c w) stEcc)
  | none => .ok (s.lgnCorrect c words)

end Sys2Proof.Machine
end

