-- ==== Sys2Proof/Machine/Scalar.lean ====
section
/-! DEFINITION. Scalar, descriptor, load and store and control-flow instructions (05_compute_instructions.md, R121 to
R133). Each body works on the registers of the issuing core; `issue` has made the encoding checks. -/
namespace Sys2Proof.Machine

/-- The registers of the issuing core rewritten. -/
def IRes.regs (s : State) (c : Nat) (f : CoreRegs → CoreRegs) : IRes := .done (s.setRegs c (f (s.core c).regs))

/-! ## Arithmetic (R123) -/

/-- The second operand: s[SRC2], or the immediate when I is 1 (R123). -/
def aluB (r : CoreRegs) (w : IWord) : DWord := if w.mod 49 then w.immOrLong else r.getS w.src2

/-- The encoding of ADD to MAX (Table 5.1); `u` allows the U bit of MIN and MAX. -/
def aluEnc (u : Bool) (w : IWord) : Bool :=
  if w.mod 49 then
    Enc.ok ⟨.reg .s, .reg .s, .zero, 0xFFFFFF, if u then 6 else 2, .optional⟩ w
  else Enc.ok ⟨.reg .s, .reg .s, .reg .s, 0, if u then 6 else 2, .never⟩ w

/-- s[DST] := f(a, b). -/
def aluBody (c : Nat) (f : DWord → DWord → DWord) (w : IWord) (s : State) : IRes :=
  IRes.regs s c (fun r => r.setS w.dst (f (r.getS w.src1) (aluB r w)))

/-- Signed quotient, truncated; 0 for a zero divisor; −2^63 / −1 wraps to −2^63 (Table 5.3). -/
def divVal (a b : DWord) : DWord := if b = 0 then 0 else BitVec.sdiv a b
/-- a − (a / b) × b; a for a zero divisor (Table 5.3). -/
def remVal (a b : DWord) : DWord := if b = 0 then a else BitVec.srem a b
def shlVal (a b : DWord) : DWord := a <<< (b.toNat % 64)
def shrVal (a b : DWord) : DWord := a >>> (b.toNat % 64)
def sraVal (a b : DWord) : DWord := a.sshiftRight (b.toNat % 64)
def minVal (u : Bool) (a b : DWord) : DWord := if (if u then BitVec.ult b a else BitVec.slt b a) then b else a
def maxVal (u : Bool) (a b : DWord) : DWord := if (if u then BitVec.ult a b else BitVec.slt a b) then b else a

def execNop (c : CoreId) (s : State) : Res :=
  .next (issue (rowOpc 0x00) (Enc.ok ⟨.zero, .zero, .zero, 0, 0, .never⟩) (fun _ s => .done s) c s)
/-- MOVI (R126). -/
def execMovi (c : CoreId) (s : State) : Res :=
  .next (issue (rowOpc 0x01) (Enc.ok ⟨.reg .s, .zero, .zero, 0xFFFFFF, 0, .optional⟩)
    (fun w s => IRes.regs s c (fun r => r.setS w.dst w.immOrLong)) c s)
def execAdd (c : CoreId) (s : State) : Res :=
  .next (issue (rowOpc 0x04) (aluEnc false) (aluBody c (fun a b => a + b)) c s)
def execSub (c : CoreId) (s : State) : Res :=
  .next (issue (rowOpc 0x05) (aluEnc false) (aluBody c (fun a b => a - b)) c s)
def execMul (c : CoreId) (s : State) : Res :=
  .next (issue (rowOpc 0x06) (aluEnc false) (aluBody c (fun a b => a * b)) c s)
def execDiv (c : CoreId) (s : State) : Res := .next (issue (rowOpc 0x07) (aluEnc false) (aluBody c divVal) c s)
def execRem (c : CoreId) (s : State) : Res := .next (issue (rowOpc 0x08) (aluEnc false) (aluBody c remVal) c s)
def execAndS (c : CoreId) (s : State) : Res :=
  .next (issue (rowOpc 0x09) (aluEnc false) (aluBody c (fun a b => a &&& b)) c s)
def execOrS (c : CoreId) (s : State) : Res :=
  .next (issue (rowOpc 0x0A) (aluEnc false) (aluBody c (fun a b => a ||| b)) c s)
def execXorS (c : CoreId) (s : State) : Res :=
  .next (issue (rowOpc 0x0B) (aluEnc false) (aluBody c (fun a b => a ^^^ b)) c s)
def execShl (c : CoreId) (s : State) : Res := .next (issue (rowOpc 0x0C) (aluEnc false) (aluBody c shlVal) c s)
def execShr (c : CoreId) (s : State) : Res := .next (issue (rowOpc 0x0D) (aluEnc false) (aluBody c shrVal) c s)
def execSra (c : CoreId) (s : State) : Res := .next (issue (rowOpc 0x0E) (aluEnc false) (aluBody c sraVal) c s)
/-- MIN: U is MOD bit 50 (Table 5.1). -/
def execMin (c : CoreId) (s : State) : Res :=
  .next (issue (rowOpc 0x0F) (aluEnc true) (fun w => aluBody c (minVal (w.mod 50)) w) c s)
def execMax (c : CoreId) (s : State) : Res :=
  .next (issue (rowOpc 0x10) (aluEnc true) (fun w => aluBody c (maxVal (w.mod 50)) w) c s)

/-! ## Comparisons and predicates (R124) -/

/-- The relation COND (R124); 6 and 7 are undefined. -/
def cmpRel (cond : Nat) (a b : DWord) : Option Bool :=
  match cond with
  | 0 => some (a == b)
  | 1 => some (a != b)
  | 2 => some (BitVec.slt a b)
  | 3 => some (!(BitVec.slt a b))
  | 4 => some (BitVec.ult a b)
  | 5 => some (!(BitVec.ult a b))
  | _ => none

/-- The three-bit MOD field [51:49]. -/
def IWord.mod3 (w : IWord) : Nat := bitsOf w.w1 51 49

def cmpBody (c : Nat) (imm : Bool) (w : IWord) (s : State) : IRes :=
  let r := (s.core c).regs
  match cmpRel w.mod3 (r.getS w.src1) (if imm then w.immOrLong else r.getS w.src2) with
  | none => .fail s stInvalidProgram
  | some b => IRes.regs s c (fun r => r.setP (regIdx w.dst) b)

/-- The encoding of CMP and CMPI: COND 6 and 7 are undefined. -/
def cmpEnc (e : Enc) (w : IWord) : Bool := e.ok w && decide (w.mod3 ≤ 5)

def execCmp (c : CoreId) (s : State) : Res :=
  .next (issue (rowOpc 0x11) (cmpEnc ⟨.reg .p, .reg .s, .reg .s, 0, 0xE, .never⟩) (cmpBody c false) c s)
def execCmpi (c : CoreId) (s : State) : Res :=
  .next (issue (rowOpc 0x12) (cmpEnc ⟨.reg .p, .reg .s, .zero, 0xFFFFFF, 0xE, .optional⟩) (cmpBody c true) c s)

/-- The predicate function OP (R124). -/
def plogFn (op : Nat) (a b : Bool) : Option Bool :=
  match op with
  | 0 => some (a && b)
  | 1 => some (a || b)
  | 2 => some (xor a b)
  | 3 => some (a && !b)
  | 4 => some (!a)
  | _ => none

def plogBody (c : Nat) (w : IWord) (s : State) : IRes :=
  let r := (s.core c).regs
  match plogFn w.mod3 (r.getP (regIdx w.src1)) (r.getP (regIdx w.src2)) with
  | none => .fail s stInvalidProgram
  | some b => IRes.regs s c (fun r => r.setP (regIdx w.dst) b)

/-- PLOG's encoding: with NOT, SRC2 must be 0; OP 5 to 7 are undefined. -/
def plogEnc (w : IWord) : Bool :=
  Enc.ok ⟨.reg .p, .reg .p, if w.mod3 = 4 then .zero else .reg .p, 0, 0xE, .never⟩ w && decide (w.mod3 ≤ 4)

def execPlog (c : CoreId) (s : State) : Res := .next (issue (rowOpc 0x13) plogEnc (plogBody c) c s)

/-! ## MOV (R125, Table 5.4, Table 4.2) -/

/-- A special register's value (Table 4.2); a reserved number reads 0. -/
def State.special (s : State) (c n : Nat) : DWord :=
  let sl := (s.core c).sl
  match n with
  | 0 => BitVec.ofNat 64 sl.step
  | 1 => s.reg (Reg.SCH_CTX_SEED sl.ctx 0)
  | 2 => s.reg (Reg.SCH_CTX_SEED sl.ctx 1)
  | 3 => s.reg (Reg.SCH_CTX_NDCOUNT sl.ctx)
  | 4 => BitVec.ofNat 64 c
  | 5 => BitVec.ofNat 64 (islandOf c)
  | 6 => BitVec.ofNat 64 (c % 8)
  | 7 => BitVec.ofNat 64 sl.ctx
  | 8 => BitVec.ofNat 64 sl.part
  | 9 => BitVec.ofNat 64 (tabGet 0 s.astat sl.ctx).toNat
  | 10 => BitVec.ofNat 64 sl.idx
  | 11 => BitVec.ofNat 64 sl.nslice
  | 12 => BitVec.ofNat 64 sl.argp
  | 13 => BitVec.ofNat 64 (s.core c).gen
  | _ => 0

/-- The pairings of Table 5.4. -/
def movOk (w : IWord) : Bool :=
  match regKind w.dst, regKind w.src1 with
  | .s, .s | .s, .special | .s, .p | .p, .s | .p, .p | .t, .t | .v, .v => true
  | .special, .s => w.dst == 0x79
  | _, _ => false

def movBody (c : Nat) (w : IWord) (s : State) : IRes :=
  match regKind w.dst, regKind w.src1 with
  | .s, .s => IRes.regs s c (fun r => r.setS w.dst (r.getS w.src1))
  | .s, .special => let v := s.special c (regIdx w.src1); IRes.regs s c (fun r => r.setS w.dst v)
  | .s, .p => IRes.regs s c (fun r => r.setS w.dst (if r.getP (regIdx w.src1) then 1 else 0))
  | .p, .s => IRes.regs s c (fun r => r.setP (regIdx w.dst) (r.getS w.src1 != 0))
  | .p, .p => IRes.regs s c (fun r => r.setP (regIdx w.dst) (r.getP (regIdx w.src1)))
  | .t, .t => IRes.regs s c (fun r => r.setT (regIdx w.dst) (r.getT (regIdx w.src1)))
  | .v, .v => IRes.regs s c (fun r => r.setLanes (regIdx w.dst) (r.lanes (regIdx w.src1)))
  | _, _ => .done (s.clearAstat (s.core c).sl.ctx ((s.core c).regs.getS w.src1))

def execMov (c : CoreId) (s : State) : Res :=
  .next (issue (rowOpc 0x02) (fun w => Enc.ok ⟨.any, .any, .zero, 0, 0, .never⟩ w && movOk w) (movBody c) c s)

/-! ## Descriptors (R127 to R129) -/

def execTdset (c : CoreId) (s : State) : Res :=
  .next (issue (rowOpc 0x03) (Enc.ok ⟨.reg .t, .reg .s, .reg .s, 0, 0, .never⟩)
    (fun w s => IRes.regs s c (fun r => r.setT (regIdx w.dst) ⟨r.getS w.src1, r.getS w.src2⟩)) c s)

def execTdget (c : CoreId) (s : State) : Res :=
  .next (issue (rowOpc 0x14) (Enc.ok ⟨.reg .s, .reg .t, .zero, 1, 0, .never⟩)
    (fun w s => IRes.regs s c (fun r =>
      let d := r.getT (regIdx w.src1)
      r.setS w.dst (if bitOf w.imm 0 then d.w1 else d.w0))) c s)

def tdaddBody (c : Nat) (w : IWord) (s : State) : IRes :=
  let r := (s.core c).regs
  let d := r.getT (regIdx w.src1)
  let off : Int := if w.mod 49 then w.immOrLong.toInt else (r.getS w.src2).toInt
  let b := (d.base : Int) + off
  if b < 0 ∨ 32767 < b then .fail s stInvalidProgram
  else IRes.regs s c (fun r => r.setT (regIdx w.dst) ⟨BitVec.ofNat 64 (bitsPut d.w0.toNat 14 0 b.toNat), d.w1⟩)

/-- TDADD (Table 5.1): I selects simm; it has no long form. -/
def execTdadd (c : CoreId) (s : State) : Res :=
  .next (issue (rowOpc 0x15)
    (fun w => if w.mod 49 then Enc.ok ⟨.reg .t, .reg .t, .zero, 0xFFFFFF, 2, .never⟩ w
              else Enc.ok ⟨.reg .t, .reg .t, .reg .s, 0, 2, .never⟩ w)
    (tdaddBody c) c s)

/-- The descriptor field FIELD (R129): word, high bit, low bit. -/
def tdField : Nat → Option (Nat × Nat × Nat)
  | 0 => some (0, 14, 0)
  | 1 => some (0, 31, 16)
  | 2 => some (0, 47, 32)
  | 3 => some (0, 62, 48)
  | 4 => some (1, 22, 8)
  | 5 => some (1, 38, 24)
  | _ => none

def tdfldBody (c : Nat) (w : IWord) (s : State) : IRes :=
  let r := (s.core c).regs
  match tdField (w.immBits 2 0) with
  | none => .fail s stInvalidProgram
  | some (k, hi, lo) =>
    let v := (r.getS w.src1).toNat
    let d := r.getT (regIdx w.dst)
    if 2 ^ (hi + 1 - lo) ≤ v then .fail s stInvalidProgram
    else if k = 0 then IRes.regs s c (fun r => r.setT (regIdx w.dst) ⟨BitVec.ofNat 64 (bitsPut d.w0.toNat hi lo v), d.w1⟩)
    else IRes.regs s c (fun r => r.setT (regIdx w.dst) ⟨d.w0, BitVec.ofNat 64 (bitsPut d.w1.toNat hi lo v)⟩)

def execTdfld (c : CoreId) (s : State) : Res :=
  .next (issue (rowOpc 0x16) (fun w => Enc.ok ⟨.reg .t, .reg .s, .zero, 7, 0, .never⟩ w && decide (w.immBits 2 0 ≤ 5)) (tdfldBody c) c s)

/-! ## Scalar loads and stores (R130, R131) -/

/-- SIZE, as a byte count. -/
def IWord.size (w : IWord) : Nat := 2 ^ bitsOf w.w1 50 49
/-- SPACE = 1: the lagoon. -/
def IWord.lagoon (w : IWord) : Bool := w.mod 51

/-- LD's and ST's encoding: .U with SPACE = 0 is undefined (R130). -/
def ldstEnc (e : Enc) (w : IWord) : Bool := e.ok w && (w.lagoon || !(w.mod 48))

def ldBody (c : Nat) (w : IWord) (s : State) : IRes :=
  let a := ((s.core c).regs.getS w.src1 + w.simm).toNat
  let n := w.size
  if a % n ≠ 0 then .fail s stInvalidProgram
  else if w.lagoon then
    if 0x80000 ≤ a then .fail s stInvalidProgram
    else
      match s.lgnGrant c (w.mod 48) false [a / 16] with
      | some r => r
      | none =>
        match (s.core c).lgnBad [a / 8] with
        | some wd => .fail (s.eccLagoon c wd) stEcc
        | none =>
          let s1 := s.lgnCorrect c [a / 8]
          IRes.regs s1 c (fun r => r.setS w.dst (BitVec.ofNat 64 (leNat ((s1.core c).lgnBytes a n))))
  else if 0x80_0000 ≤ a then .fail s stInvalidProgram
  else
    match s.readPhys 0 (hbrAddr (islandOf c) a) n with
    | (none, s1) => .fail s1 stEcc
    | (some bs, s1) => IRes.regs s1 c (fun r => r.setS w.dst (BitVec.ofNat 64 (leNat bs)))

/-- The lagoon cell of a load or store (R104). -/
def ldstTouch (store : Bool) (k : Core) (w : IWord) : Touch :=
  let l := if w.lagoon then [((k.regs.getS w.src1 + w.simm).toNat / 16, 1)] else []
  if store then { cwr := l } else { crd := l }

def execLd (c : CoreId) (s : State) : Res :=
  .next (issueOn (ldstTouch false) (rowOpc 0x17) (ldstEnc ⟨.reg .s, .reg .s, .zero, 0xFFFFFF, 0xF, .never⟩) (ldBody c) c s)

def stBody (c : Nat) (w : IWord) (s : State) : IRes :=
  let r := (s.core c).regs
  let a := (r.getS w.src1 + w.simm).toNat
  let n := w.size
  let bs := leBytes n (r.getS w.src2).toNat
  if a % n ≠ 0 then .fail s stInvalidProgram
  else if w.lagoon then
    if 0x80000 ≤ a then .fail s stInvalidProgram
    else
      match s.lgnGrant c (w.mod 48) true [a / 16] with
      | some r => r
      | none =>
        match (if n = 8 then .ok s else s.lgnMerge c [a / 8]) with
        | .error e => e
        | .ok s1 => .done (s1.setCore c ((s1.core c).lgnPoke a bs))
  else if 0x80_0000 ≤ a then .fail s stInvalidProgram
  else
    match s.writePhys 4 (hbrAddr (islandOf c) a) bs with
    | (false, s1) => .fail s1 stEcc
    | (true, s1) => .done s1

def execSt (c : CoreId) (s : State) : Res :=
  .next (issueOn (ldstTouch true) (rowOpc 0x18) (ldstEnc ⟨.zero, .reg .s, .reg .s, 0xFFFFFF, 0xF, .never⟩) (stBody c) c s)

/-! ## Control flow (R132, R133) -/

/-- PC + 8 × simm modulo 2^64, taken as unsigned. -/
def branchTarget (pc : Nat) (w : IWord) : Nat := (BitVec.ofNat 64 pc + 8 * w.simm).toNat

def brBody (c : Nat) (w : IWord) (s : State) : IRes := .jump s (branchTarget (s.core c).regs.pc w)

def execBr (c : CoreId) (s : State) : Res :=
  .next (issue (rowOpc 0x19) (Enc.ok ⟨.zero, .zero, .zero, 0xFFFFFF, 0, .never⟩) (brBody c) c s)

def jalBody (c : Nat) (w : IWord) (s : State) : IRes :=
  let pc := (s.core c).regs.pc
  .jump (s.setRegs c ((s.core c).regs.setS w.dst (BitVec.ofNat 64 (pc + 8)))) (branchTarget pc w)

def execJal (c : CoreId) (s : State) : Res :=
  .next (issue (rowOpc 0x1A) (Enc.ok ⟨.reg .s, .zero, .zero, 0xFFFFFF, 0, .never⟩) (jalBody c) c s)

def jrBody (c : Nat) (w : IWord) (s : State) : IRes :=
  let t := ((s.core c).regs.getS w.src1).toNat
  if t % 8 ≠ 0 then .fail s stInvalidProgram else .jump s t

def execJr (c : CoreId) (s : State) : Res :=
  .next (issue (rowOpc 0x1B) (Enc.ok ⟨.zero, .reg .s, .zero, 0, 0, .never⟩) (jrBody c) c s)

def dbnzBody (c : Nat) (w : IWord) (s : State) : IRes :=
  let r := (s.core c).regs
  let v := r.getS w.dst - 1
  let s1 := s.setRegs c (r.setS w.dst v)
  if v = 0 then .done s1 else .jump s1 (branchTarget r.pc w)

def execDbnz (c : CoreId) (s : State) : Res :=
  .next (issue (rowOpc 0x1C) (Enc.ok ⟨.reg .s, .zero, .zero, 0xFFFFFF, 0, .never⟩) (dbnzBody c) c s)

/-- Has a ferry an open stream of the slice that runs on core `c` (R133)? -/
def State.sliceStreams (s : State) (c : Nat) : Bool :=
  let sl := (s.core c).sl
  s.ferries.any (fun p => match p.2.stream with | some st => st.q == sl.q && st.slice == sl.idx | none => false)

/-- END (R133): it waits until every stream of the slice has ended, then the slice ends. -/
def endBody (c : Nat) (_ : IWord) (s : State) : IRes :=
  if s.sliceStreams c then .wait s .streams else .stop (s.sliceDone c)

def execEndSlice (c : CoreId) (s : State) : Res :=
  .next (issue (rowOpc 0x1D) (Enc.ok ⟨.zero, .zero, .zero, 0, 0, .never⟩) (endBody c) c s)

end Sys2Proof.Machine
end

