-- ==== Sys2Proof/Machine/Tiles.lean ====
section
/-! DEFINITION. Tile rows as the matrix and epilogue instructions use them (R91 to R93, R99, R100): the cells one row
block reads, its elements, the store of a row, the side areas with their bounds, and accumulator rows with their ECC. -/
namespace Sys2Proof.Machine

/-- The cells, MX scale cells included, that elements `[lo, hi)` of tile row `r` take; none beyond ROWS or COLS (R100). -/
def TileDesc.blockCells (t : TileDesc) (r lo hi : Nat) : List Nat :=
  match t.fmt with
  | none => []
  | some f =>
    let h := min hi t.cols
    if t.rows ≤ r then [] else tileCells t f r lo h ++ mxCells t f r lo h

/-- Element `c` of tile row `r`, `none` beyond ROWS or COLS. -/
def Core.elem (k : Core) (t : TileDesc) (r c : Nat) : Option FVal :=
  match t.fmt with
  | none => none
  | some f => if t.rows ≤ r ∨ t.cols ≤ c then none else some (k.tileVal t f r c)

/-- The integer code value of element `c` of tile row `r`. -/
def Core.elemInt (k : Core) (t : TileDesc) (r c : Nat) : Int :=
  match t.fmt with
  | none => 0
  | some f => f.intVal (k.tileCode t f r c)

/-- Is `n` bytes from byte `a` within the lagoon (the bound of R92)? -/
def spanOk (a n : Nat) : Bool := decide (a + n ≤ 0x80000)

/-- The bound on the MX scales of elements `[lo, hi)` of tile rows `[0, n)` (R92); true for a format without them. -/
def TileDesc.mxOk (t : TileDesc) (n lo hi : Nat) : Bool :=
  match t.fmt with
  | none => false
  | some f =>
    let rows := min n t.rows
    let h := min hi t.cols
    !f.isMx || decide (rows = 0) || decide (h ≤ lo) || spanOk (t.mxScaleByte (rows - 1) ((h - 1) / 32)) 1

/-- The bound on `n` zero points from row 0 (R92). -/
def TileDesc.zpOk (t : TileDesc) (n : Nat) : Bool :=
  !t.hasZp || decide (n = 0) || spanOk (16 * t.zpRef) (if t.zpPc then 2 * n else 2)

/-- The bound on `n` scales from row 0 (R92). -/
def TileDesc.scOk (t : TileDesc) (n : Nat) : Bool :=
  !t.hasSc || decide (n = 0) || spanOk (16 * t.scRef) (if t.scPc then 4 * n else 4)

/-- The cells of a byte range. -/
def byteCells (a n : Nat) : List Nat := if n = 0 then [] else (List.range ((a + n - 1) / 16 - a / 16 + 1)).map (· + a / 16)

/-- The cells of the zero points of rows `[r, r + n)`. -/
def TileDesc.zpCells (t : TileDesc) (r n : Nat) : List Nat :=
  if !t.hasZp || n == 0 then [] else if t.zpPc then byteCells (t.zpByte r) (2 * n) else byteCells (t.zpByte r) 2

/-- The cells of the scales of rows `[r, r + n)`. -/
def TileDesc.scCells (t : TileDesc) (r n : Nat) : List Nat :=
  if !t.hasSc || n == 0 then [] else if t.scPc then byteCells (t.scByte r) (4 * n) else byteCells (t.scByte r) 4

/-! ## Storing a tile row -/

/-- The value whose little-endian bytes are the packed codes (R52). -/
def packCodes (bits : Nat) : List Nat → Nat
  | [] => 0
  | c :: t => c % 2 ^ bits + 2 ^ bits * packCodes bits t

/-- Chunks of at most 16 bytes, numbered. -/
def chunks16 (fuel n : Nat) (bs : List Byte) : List (Nat × List Byte) :=
  match fuel with
  | 0 => []
  | k + 1 => if bs = [] then [] else (n, bs.take 16) :: chunks16 k (n + 1) (bs.drop 16)

/-- The bytes of a packed row of codes, a partial last byte merged with the byte it keeps (R52). -/
def Core.rowBytes (k : Core) (t : TileDesc) (bits r : Nat) (codes : List Nat) : List Byte :=
  let nb := codes.length * bits
  let v := packCodes bits codes
  let rem := nb % 8
  let v1 := if rem = 0 then v else v + k.tileByte t r (nb / 8) / 2 ^ rem * 2 ^ nb
  leBytes (ceilDiv' nb 8) v1

/-- The lagoon words that a store of `nb` bits to tile row `r` covers only in part. -/
def TileDesc.mergeWord (t : TileDesc) (r nb : Nat) : List Nat :=
  if nb % 64 = 0 then [] else let b := nb / 8; [(16 * t.cell r (b / 16) + b % 16) / 8]

/-- A row of codes stored from the first cell of tile row `r` (R91, R93). -/
def Core.putRow (k : Core) (t : TileDesc) (bits r : Nat) (codes : List Nat) : Core :=
  let bs := k.rowBytes t bits r codes
  (chunks16 bs.length 0 bs).foldl (fun k p => k.lgnPoke (16 * t.cell r p.1) p.2) k

/-! ## Accumulator rows -/

/-- The 64-bit accumulator words of row `row` of bank `a`. -/
def accWords (a row : Nat) : List Nat := (List.range 32).map (fun i => accKey a row 0 / 2 + i)

/-- Correctable accumulator words met by a read are counted and written back (R346). -/
def State.accCorrect (s : State) (c : Nat) (words : List Nat) : State :=
  let k := s.core c
  let hit := words.filter (fun w => k.accCe.contains w)
  if hit = [] then s
  else
    let s1 := s.setCore c { k with accCe := k.accCe.filter (fun w => !(hit.contains w)) }
    hit.foldl (fun t _ => t.bumpSat (Reg.HBR_CECC (islandOf c)) 63 48) s1

/-- Reading some accumulator words: corrected where they are correctable, or the command ends (Table 5.2). -/
def State.accRead (s : State) (c : Nat) (words : List Nat) : Except IRes State :=
  match words.find? (fun w => (s.core c).accUe.contains w) with
  | some w => .error (.fail (s.eccAcc c w 0) stEcc)
  | none => .ok (s.accCorrect c words)

/-- Row `row` of bank `a` written from a list of elements, column 0 first; its words become good. -/
def Core.putAccRow (k : Core) (a row : Nat) (vs : List Word) : Core :=
  let r := (vs.zipIdx).foldl (fun r p => r.setAcc a row p.2 p.1) k.regs
  let keep := fun (l : List Nat) => l.filter (fun w => !((accWords a row).contains w))
  { k with regs := r, accUe := keep k.accUe, accCe := keep k.accCe }

/-- Row `row` of bank `a`. -/
def CoreRegs.accRow (r : CoreRegs) (a row : Nat) : List Word := (List.range 64).map (r.getAcc a row)

/-- The resume point recorded: K-block with its pass, and row (R108). -/
def State.setResume (s : State) (c kbp row : Nat) : State :=
  let r := (s.core c).regs
  s.setRegs c { r with resume := some (kbp, row) }

/-- Does a row-preemptible instruction of core `c` stop at this row boundary: its slice is asked to, at a level other than
command, and when the request comes within the instruction is free (R107, Log 8)? -/
def State.rowStop (s : State) (c : Nat) : Bool × State :=
  let k := s.core c
  let level := match tabFind s.queues k.sl.q with
    | some m => bitsOf m.cfg.toNat 59 58
    | none => 0
  if k.preempt && decide (0 < level) then let (n, t) := s.choose 2; (n == 1, t) else (false, s)

/-- A read of some cells behind their tags: granted, good, and corrected words written back; or how it ends. -/
def State.readCells (s : State) (c : Nat) (u : Bool) (cells : List Nat) : Except IRes State :=
  match s.lgnGrant c u false cells with
  | some r => .error r
  | none =>
    match s.lgnRead c cells with
    | some r => .error r
    | none => .ok (s.lgnCorrect c (cellWords cells))

end Sys2Proof.Machine
end

