-- ==== Sys2Proof/Machine/Matrix.lean ====
section
/-! DEFINITION. MMA, MMAZ and MMAT (R99, R100, R134 to R138): the loop of R99 row by row, with the checks of R92, R99
and R135, tag checks before each row, and a resume point for a wait at a row (R106, R108). -/
namespace Sys2Proof.Machine

/-- The operands of a matrix instruction (R99, Table 5.6). -/
structure MatOp where
  xs : TileDesc
  ws : TileDesc
  ad : Nat
  ro : Nat
  m : Nat
  nb : Nat
  k0 : Nat
  kb : Nat
  kw : Nat
  passes : List (Bool × Bool)
  trans : Bool
  zero : Bool
  u : Bool
  deriving DecidableEq, Repr

/-- The passes of R59 as (streamed lo, stationary lo). -/
def passList (x w : Option Fmt) : List (Bool × Bool) :=
  match x == some .fp32, w == some .fp32 with
  | true, true => [(false, false), (false, true), (true, false)]
  | true, false => [(false, false), (true, false)]
  | false, true => [(false, false), (false, true)]
  | false, false => [(false, false)]

/-- The operands an instruction word gives on a core. -/
def MatOp.of (r : CoreRegs) (w : IWord) (trans zero : Bool) : MatOp :=
  let xs := r.getT (regIdx w.src1)
  let ws := r.getT (regIdx w.src2)
  { xs := xs, ws := ws, ad := regIdx w.dst, ro := w.immBits 23 17, m := w.immBits 16 10 + 1, nb := w.immBits 9 7 + 1,
    k0 := w.w2Bits 15 0, kb := w.w2Bits 31 16, kw := if w.mod 49 then 32 else 16, passes := passList xs.fmt ws.fmt,
    trans := trans, zero := zero, u := w.mod 48 }

/-- Some predicate of a descriptor's format. -/
def TileDesc.fmtIs (t : TileDesc) (p : Fmt → Bool) : Bool := (t.fmt.map p).getD false

/-- The checks of R92, R99, R135 and R138. -/
def MatOp.ok (o : MatOp) : Bool :=
  decide (o.ad + o.nb ≤ 8) && decide (o.ro + o.m ≤ 128) && tileOk o.xs && tileOk o.ws
    && o.xs.mxOk o.m o.k0 (o.k0 + o.kb * o.kw) && (o.trans || o.ws.mxOk (64 * o.nb) o.k0 (o.k0 + o.kb * o.kw))
    && o.kb != 0 && o.k0 % o.kw == 0
    && (o.kw == 16 || (o.xs.fmtIs Fmt.pairOk && o.ws.fmtIs Fmt.pairOk))
    && (!(o.xs.fmtIs Fmt.isMx || o.ws.fmtIs Fmt.isMx) || o.k0 % 32 == 0)
    && (!o.trans || (!(o.ws.fmtIs Fmt.isMx) && !o.ws.scPc && !o.ws.zpPc))

/-- The W20 value that a pass streams of an element (R56 to R59). -/
def passVal (fp32 lo : Bool) (v : FVal) : BitVec 20 :=
  if fp32 then (let p := splitHiLo v; w20Of (if lo then p.2 else p.1)) else w20Of v

/-- The first element of K-block `kb`. -/
def MatOp.first (o : MatOp) (kb : Nat) : Nat := o.k0 + kb * o.kw

/-- The cells of the streamed row `r` in K-block `kb`. -/
def MatOp.rowCells (o : MatOp) (kb r : Nat) : List Nat := o.xs.blockCells r (o.first kb) (o.first kb + o.kw)

/-- The cells of the stationary tiles of K-block `kb` (R99, R138). -/
def MatOp.statCells (o : MatOp) (kb : Nat) : List Nat :=
  if o.trans then (List.range o.kw).flatMap (fun k => o.ws.blockCells (o.first kb + k) 0 (64 * o.nb))
  else (List.range (64 * o.nb)).flatMap (fun n => o.ws.blockCells n (o.first kb) (o.first kb + o.kw))

/-- The streamed elements of a row in a K-block and pass. -/
def MatOp.streamed (o : MatOp) (k : Core) (kb r : Nat) (lo : Bool) : List (Option (BitVec 20)) :=
  (List.range o.kw).map (fun i => (k.elem o.xs r (o.first kb + i)).map (passVal (o.xs.fmt == some .fp32) lo))

/-- Stationary element (n, i) of a K-block and pass. -/
def MatOp.stat (o : MatOp) (k : Core) (kb n i : Nat) (lo : Bool) : Option (BitVec 20) :=
  let e := if o.trans then k.elem o.ws (o.first kb + i) n else k.elem o.ws n (o.first kb + i)
  e.map (passVal (o.ws.fmt == some .fp32) lo)

/-- The stationary tile of a K-block and pass (R99). -/
def MatOp.load (o : MatOp) (k : Core) (kb : Nat) (lo : Bool) : StatTile :=
  (List.range (64 * o.nb)).map (fun n => (List.range o.kw).map (fun i => o.stat k kb n i lo))

/-- The beat sum of a stationary column with a streamed row: an absent element contributes no product (R64, R100, R137). -/
def colSum (x w : List (Option (BitVec 20))) : Word :=
  beatSum ((x.zip w).filterMap (fun p => match p.1, p.2 with
    | some a, some b => some (w20Prod a b)
    | _, _ => none))

/-- Zero row `row` of the banks, with its row sums and counts (R100). -/
def MatOp.zeroRow (o : MatOp) (k : Core) (row : Nat) : Core :=
  (List.range o.nb).foldl (fun k j =>
    let k1 := k.putAccRow (o.ad + j) row (List.replicate 64 0)
    { k1 with regs := (k1.regs.setSum (o.ad + j) row 0).setCnt (o.ad + j) row 0 }) k

/-- Row sums and position counts of a streamed row of a K-block (R69, R100, R137). -/
def MatOp.sumRow (o : MatOp) (k : Core) (kb r : Nat) : Core :=
  if o.xs.rows ≤ r then k else
  let row := o.ro + r
  let cols := (List.range o.kw).filterMap (fun i => if o.first kb + i < o.xs.cols then some (o.first kb + i) else none)
  let sum : Int := if o.xs.fmtIs Fmt.isInt then cols.foldl (fun a c => a + k.elemInt o.xs r c) 0 else 0
  (List.range o.nb).foldl (fun k j =>
    { k with regs := (k.regs.setSum (o.ad + j) row (k.regs.getSum (o.ad + j) row + BitVec.ofInt 32 sum)).setCnt
                (o.ad + j) row (k.regs.getCnt (o.ad + j) row + BitVec.ofNat 32 cols.length) }) k

/-- The accumulation of one streamed row with a stationary tile (R66, R99). -/
def MatOp.accRow (o : MatOp) (k : Core) (kb r : Nat) (lo : Bool) (tile : StatTile) : Core :=
  let x := o.streamed k kb r lo
  let row := o.ro + r
  (List.range o.nb).foldl (fun a j =>
    let ws := (tile.drop (64 * j)).take 64
    a.putAccRow (o.ad + j) row (((a.regs.accRow (o.ad + j) row).zip ws).map (fun p => addR p.1 (colSum x p.2)))) k

/-- The stationary tile that the arrays of a core hold; none before it is loaded. -/
def State.setTile (s : State) (c : Nat) (t : StatTile) : State := s.setRegs c { (s.core c).regs with tile := t }

/-- Step `t` of the loop of R99: row t mod M of K-block and pass t / M. The stationary tile is loaded before the first row
that uses it, behind its tag check, and again after a restore (R108, R136). -/
def MatOp.step (o : MatOp) (c t : Nat) (s : State) : Except IRes State :=
  let kbp := t / o.m
  let r := t % o.m
  let kb := kbp / o.passes.length
  let pass := o.passes.getD (kbp % o.passes.length) (false, false)
  let s0 := s.setResume c kbp r
  let loaded : Except IRes State :=
    if (s0.core c).regs.tile ≠ [] then .ok s0
    else match s0.readCells c o.u (o.statCells kb) with
      | .error e => .error e
      | .ok s1 => .ok (s1.setTile c (o.load (s1.core c) kb pass.2))
  match loaded with
  | .error e => .error e
  | .ok s1 =>
    match s1.readCells c o.u (o.rowCells kb r) with
    | .error e => .error e
    | .ok s2 =>
      let wipe := o.zero && kbp == 0
      match (if wipe then .ok s2 else s2.accRead c ((List.range o.nb).flatMap (fun j => accWords (o.ad + j) (o.ro + r)))) with
      | .error e => .error e
      | .ok s3 =>
        let k0 := s3.core c
        let k1 := if wipe then o.zeroRow k0 (o.ro + r) else k0
        let s4 := s3.setCore c (o.sumRow (o.accRow k1 kb r pass.1 k0.regs.tile) kb r)
        .ok (if r + 1 = o.m then s4.setTile c [] else s4)

/-- `n` further steps from step `t`; between two rows a preemption may stop the instruction (R107). -/
def MatOp.loop (o : MatOp) (c : Nat) : (n t : Nat) → State → IRes
  | 0, _, s => .done s
  | n + 1, t, s =>
    match o.step c t s with
    | .error r => r
    | .ok s1 =>
      match (if n = 0 then (false, s1) else s1.rowStop c) with
      | (true, s2) => .wait (s2.setResume c ((t + 1) / o.m) ((t + 1) % o.m)) .row
      | (false, s2) => o.loop c n (t + 1) s2

/-- The body of a matrix instruction, from the resume point if there is one. -/
def mmaBody (trans : Bool) (zero : IWord → Bool) (c : Nat) (w : IWord) (s : State) : IRes :=
  let r := (s.core c).regs
  let o := MatOp.of r w trans (zero w)
  if !o.ok then .fail s stInvalidProgram
  else
    let t0 := match r.resume with
      | none => 0
      | some p => p.1 * o.m + p.2
    o.loop c (o.kb * o.passes.length * o.m - t0) t0 s

/-- The encoding of MMA, MMAZ and MMAT (Table 5.1, Table 5.6). -/
def mmaEnc (mods : Nat) (w : IWord) : Bool :=
  Enc.ok ⟨.reg .a, .reg .t, .reg .t, 0xFFFF80, mods, .required⟩ w && w.w2Bits 63 32 == 0

/-- The cells and accumulator groups of a matrix instruction (R104). -/
def mmaTouch (trans : Bool) (k : Core) (w : IWord) : Touch :=
  let o := MatOp.of k.regs w trans false
  if !o.ok then {}
  else
    let hi := o.first o.kb
    let stat := if trans then (List.range (min (o.kb * o.kw) o.ws.rows)).flatMap (fun i => o.ws.blockCells (o.k0 + i) 0 (64 * o.nb))
      else (List.range (64 * o.nb)).flatMap (fun n => o.ws.blockCells n o.k0 hi)
    { wr := accGroups o.ad o.nb o.ro o.m,
      crd := oneCells ((List.range o.m).flatMap (fun r => o.xs.blockCells r o.k0 hi) ++ stat) }

def execMma (c : CoreId) (s : State) : Res :=
  .next (issueOn (mmaTouch false) (rowOpc 0x20) (mmaEnc 3) (mmaBody false (fun _ => false) c) c s)
def execMmaz (c : CoreId) (s : State) : Res :=
  .next (issueOn (mmaTouch false) (rowOpc 0x21) (mmaEnc 3) (mmaBody false (fun _ => true) c) c s)
/-- MMAT: Z is MOD bit 50. -/
def execMmat (c : CoreId) (s : State) : Res :=
  .next (issueOn (mmaTouch true) (rowOpc 0x22) (mmaEnc 7) (mmaBody true (fun w => w.mod 50) c) c s)

end Sys2Proof.Machine
end

