-- ==== Sys2Proof/Machine/Vector.lean ====
section
/-! DEFINITION. The vector instructions (R147 to R159): lagoon and accumulator access, element operations, shuffles and
reductions over the 128 lanes. -/
namespace Sys2Proof.Machine

/-! ## Lagoon access (R147 to R149) -/

/-- Cells per access of a format (Table 5.10). -/
def vecCells : Fmt → Option Nat
  | .fp32 => some 32
  | .bf16 | .fp16 => some 16
  | .fp8e4m3 | .fp8e5m2 | .int8 | .uint8 => some 8
  | _ => none

/-- An access of VLD or VST: format and cells in access order, `none` where R147 forbids it. -/
def vecAccess (r : CoreRegs) (w : IWord) : Option (Fmt × List Nat) :=
  match Fmt.ofCode (w.immBits 23 19) with
  | none => none
  | some f =>
    match vecCells f with
    | none => none
    | some n =>
      let start := (r.getS w.src1 + BitVec.ofNat 64 (w.immBits 14 0)).toNat
      let col := w.mod 49
      let pos := if col then start % 1024 / 32 else start % 32
      if 32767 < start ∨ pos % n ≠ 0 then none
      else some (f, (List.range n).map (fun i => if col then start + 32 * i else start + i))

/-- Is FMT one of Table 5.10's? -/
def vecFmtOk (w : IWord) : Bool := ((Fmt.ofCode (w.immBits 23 19)).bind vecCells).isSome

/-- Elements per cell. -/
def perCell (f : Fmt) : Nat := 128 / f.bits

/-- The FP32 word of a loaded floating-point code keeps a zero's sign. -/
def vldWord (f : Fmt) (code : Nat) : Word := f32Ieee (f.elemVal code)

/-- The code of element `i` of an access. -/
def Core.vecCode (k : Core) (f : Fmt) (cells : List Nat) (i : Nat) : Nat :=
  let p := perCell f
  let a := 16 * cells.getD (i / p) 0 + i % p * (f.bits / 8)
  leNat (k.lgnBytes a (f.bits / 8))

def vldBody (c : Nat) (w : IWord) (s : State) : IRes :=
  match vecAccess (s.core c).regs w with
  | none => .fail s stInvalidProgram
  | some (f, cells) =>
    match s.readCells c (w.mod 48) cells with
    | .error e => e
    | .ok s1 =>
      let k := s1.core c
      IRes.regs s1 c (fun r => r.setLanes (regIdx w.dst) ((List.range 128).map (fun i => vldWord f (k.vecCode f cells i))))

/-- Narrow one lane for VST (R148). -/
def vstCode (f : Fmt) (inf : Bool) (v : Word) : Nat × NFlags :=
  match f.grid with
  | some g => g.narrow inf (f32Val v)
  | none =>
    let q := narrowInt f.intRange.1 f.intRange.2 (.fin false 1 0) 0 (f32Val v)
    (wrapOf f.bits q.1, q.2)

def vstBody (c : Nat) (w : IWord) (s : State) : IRes :=
  let r := (s.core c).regs
  match vecAccess r w with
  | none => .fail s stInvalidProgram
  | some (f, cells) =>
    match s.lgnGrant c (w.mod 48) true cells with
    | some e => e
    | none =>
      let codes := (r.lanes (regIdx w.src2)).map (vstCode f (w.mod 50))
      let bs := codes.flatMap (fun p => leBytes (f.bits / 8) p.1)
      let k := (chunks16 bs.length 0 bs).foldl (fun k p => k.lgnPoke (16 * cells.getD p.1 0) p.2) (s.core c)
      .done ((s.setCore c k).raiseFlags c (codes.foldl (fun a p => a.or p.2) NFlags.none))

/-- The cells of VLD and VST (R104). -/
def vecTouch (store : Bool) (k : Core) (w : IWord) : Touch :=
  let l := match vecAccess k.regs w with
    | some (_, cells) => oneCells cells
    | none => []
  if store then { cwr := l } else { crd := l }

def execVld (c : CoreId) (s : State) : Res :=
  .next (issueOn (vecTouch false) (rowOpc 0x40)
    (fun w => Enc.ok ⟨.reg .v, .reg .s, .zero, 0xF87FFF, 3, .never⟩ w && vecFmtOk w) (vldBody c) c s)
def execVst (c : CoreId) (s : State) : Res :=
  .next (issueOn (vecTouch true) (rowOpc 0x41)
    (fun w => Enc.ok ⟨.zero, .reg .s, .reg .v, 0xF87FFF, 7, .never⟩ w && vecFmtOk w) (vstBody c) c s)

/-! ## Accumulator access (R150) -/

/-- The accumulator element (row, column) of lane `i`. -/
def vecAcc (col : Bool) (ix i : Nat) : Nat × Nat := if col then (i, ix) else (ix + i / 64, i % 64)

/-- INDEX is even, or below 64 for a column. -/
def vecAccOk (col : Bool) (ix : Nat) : Bool := if col then decide (ix < 64) else ix % 2 == 0

def vldaBody (c : Nat) (w : IWord) (s : State) : IRes :=
  let ix := w.immBits 6 0
  let a := regIdx w.src1
  if !(vecAccOk (w.mod 49) ix) then .fail s stInvalidProgram
  else
    match s.accRead c ((List.range 128).map (fun i => let p := vecAcc (w.mod 49) ix i; accKey a p.1 p.2 / 2)) with
    | .error e => e
    | .ok s1 => IRes.regs s1 c (fun r => r.setLanes (regIdx w.dst) ((List.range 128).map (fun i =>
        let p := vecAcc (w.mod 49) ix i; r.getAcc a p.1 p.2)))

def vstaBody (c : Nat) (w : IWord) (s : State) : IRes :=
  let ix := w.immBits 6 0
  let a := regIdx w.dst
  if !(vecAccOk (w.mod 49) ix) then .fail s stInvalidProgram
  else
    match (if w.mod 49 then s.accRead c ((List.range 128).map (fun i => accKey a i ix / 2)) else .ok s) with
    | .error e => e
    | .ok s1 =>
      let k := s1.core c
      let r := (List.range 128).foldl (fun r i =>
        let p := vecAcc (w.mod 49) ix i
        r.setAcc a p.1 p.2 (r.getV (regIdx w.src1) i)) k.regs
      let good := if w.mod 49 then [] else accWords a ix ++ accWords a (ix + 1)
      let keep := fun (l : List Nat) => l.filter (fun x => !(good.contains x))
      .done (s1.setCore c { k with regs := r, accUe := keep k.accUe, accCe := keep k.accCe })

/-- The accumulator groups of VLDA and VSTA (R104). -/
def vaccTouch (store : Bool) (_ : Core) (w : IWord) : Touch :=
  let g := if w.mod 49 then accGroups (regIdx (if store then w.dst else w.src1)) 1 0 128
    else accGroups (regIdx (if store then w.dst else w.src1)) 1 (w.immBits 6 0) 2
  if store then { wr := g } else { rd := g }

def execVlda (c : CoreId) (s : State) : Res :=
  .next (issueOn (vaccTouch false) (rowOpc 0x42) (Enc.ok ⟨.reg .v, .reg .a, .zero, 0x7F, 2, .never⟩) (vldaBody c) c s)
def execVsta (c : CoreId) (s : State) : Res :=
  .next (issueOn (vaccTouch true) (rowOpc 0x43) (Enc.ok ⟨.reg .a, .reg .v, .zero, 0x7F, 2, .never⟩) (vstaBody c) c s)

/-! ## Element operations (R151 to R156) -/

/-- The low 32 bits of a scalar. -/
def CoreRegs.sw (r : CoreRegs) (i : Nat) : Word := BitVec.ofNat 32 (r.getS i).toNat

/-- A per-lane result from lane numbers. -/
def laneBody (c : Nat) (w : IWord) (s : State) (f : CoreRegs → Nat → Word) : IRes :=
  IRes.regs s c (fun r => r.setLanes (regIdx w.dst) ((List.range 128).map (f r)))

def execVsplat (c : CoreId) (s : State) : Res :=
  .next (issue (rowOpc 0x44) (Enc.ok ⟨.reg .v, .reg .s, .zero, 0, 0, .never⟩)
    (fun w s => laneBody c w s (fun r _ => r.sw w.src1)) c s)
def execVext (c : CoreId) (s : State) : Res :=
  .next (issue (rowOpc 0x45) (Enc.ok ⟨.reg .s, .reg .v, .zero, 0x7F, 0, .never⟩)
    (fun w s => IRes.regs s c (fun r => r.setS w.dst (BitVec.ofNat 64 (r.getV (regIdx w.src1) (w.immBits 6 0)).toNat))) c s)
def execVins (c : CoreId) (s : State) : Res :=
  .next (issue (rowOpc 0x46) (Enc.ok ⟨.reg .v, .reg .s, .zero, 0x7F, 0, .never⟩)
    (fun w s => IRes.regs s c (fun r => r.setV (regIdx w.dst) (w.immBits 6 0) (r.sw w.src1))) c s)
/-- VIOTA: F is MOD bit 49. -/
def execViota (c : CoreId) (s : State) : Res :=
  .next (issue (rowOpc 0x47) (Enc.ok ⟨.reg .v, .zero, .zero, 0, 2, .never⟩)
    (fun w s => laneBody c w s (fun _ i => if w.mod 49 then intR i else BitVec.ofNat 32 i)) c s)

/-- The second operand of a lane: v[SRC2], or s[SRC2] in every lane when S is 1 (R152). -/
def vecB (r : CoreRegs) (w : IWord) (i : Nat) : Word := if w.mod 49 then r.sw w.src2 else r.getV (regIdx w.src2) i

/-- The encoding of VADD to VDIV, VCMP and VLOGIC. -/
def vopEnc (imm : Nat) (w : IWord) : Bool :=
  Enc.ok ⟨.reg .v, .reg .v, if w.mod 49 then .reg .s else .reg .v, imm, 2, .never⟩ w

/-- Lane i := f(a, b). -/
def vopBody (c : Nat) (f : Word → Word → Word) (w : IWord) (s : State) : IRes :=
  laneBody c w s (fun r i => f (r.getV (regIdx w.src1) i) (vecB r w i))

def execVadd (c : CoreId) (s : State) : Res := .next (issue (rowOpc 0x48) (vopEnc 0) (vopBody c addI) c s)
def execVsub (c : CoreId) (s : State) : Res := .next (issue (rowOpc 0x49) (vopEnc 0) (vopBody c subI) c s)
def execVmul (c : CoreId) (s : State) : Res := .next (issue (rowOpc 0x4A) (vopEnc 0) (vopBody c mulI) c s)
/-- VFMA: v[DST] := a × b + v[DST]. -/
def execVfma (c : CoreId) (s : State) : Res :=
  .next (issue (rowOpc 0x4B) (vopEnc 0)
    (fun w s => laneBody c w s (fun r i => fmaI (r.getV (regIdx w.src1) i) (vecB r w i) (r.getV (regIdx w.dst) i))) c s)
def execVmin (c : CoreId) (s : State) : Res := .next (issue (rowOpc 0x4C) (vopEnc 0) (vopBody c minI) c s)
def execVmax (c : CoreId) (s : State) : Res := .next (issue (rowOpc 0x4D) (vopEnc 0) (vopBody c maxI) c s)
def execVdiv (c : CoreId) (s : State) : Res := .next (issue (rowOpc 0x4E) (vopEnc 0) (vopBody c divI) c s)

/-- The encoding of one-source lane operations. -/
def vunEnc (imm : Nat) : IWord → Bool := Enc.ok ⟨.reg .v, .reg .v, .zero, imm, 0, .never⟩

def execVsqrt (c : CoreId) (s : State) : Res :=
  .next (issue (rowOpc 0x4F) (vunEnc 0) (fun w s => laneBody c w s (fun r i => sqrtI (r.getV (regIdx w.src1) i))) c s)

/-- The relation COND of VCMP (R153); 7 is undefined. -/
def vcmpRel (cond : Nat) (a b : Word) : Option Bool :=
  let x := f32Val a
  let y := f32Val b
  let un := x.isNan || y.isNan
  match cond with
  | 0 => some (x.eqv y)
  | 1 => some (!(x.eqv y))
  | 2 => some (x.lt y)
  | 3 => some (!un && !(y.lt x))
  | 4 => some (y.lt x)
  | 5 => some (!un && !(x.lt y))
  | 6 => some un
  | _ => none

def vcmpBody (c : Nat) (w : IWord) (s : State) : IRes :=
  vopBody c (fun a b => if (vcmpRel (w.immBits 2 0) a b).getD false then 0xFFFF_FFFF else 0) w s

def execVcmp (c : CoreId) (s : State) : Res := .next (issue (rowOpc 0x50) (fun w => vopEnc 7 w && w.immBits 2 0 != 7) (vcmpBody c) c s)

def execVsel (c : CoreId) (s : State) : Res :=
  .next (issue (rowOpc 0x51) (Enc.ok ⟨.reg .v, .reg .v, .reg .v, 0, 0, .never⟩)
    (fun w s => laneBody c w s (fun r i =>
      if r.getV (regIdx w.dst) i ≠ 0 then r.getV (regIdx w.src1) i else r.getV (regIdx w.src2) i)) c s)

/-- VLOGIC's function OP (R154). -/
def vlogicFn (op : Nat) (a b : Word) : Word :=
  match op with
  | 0 => a &&& b
  | 1 => a ||| b
  | 2 => a ^^^ b
  | _ => a &&& ~~~b

def execVlogic (c : CoreId) (s : State) : Res :=
  .next (issue (rowOpc 0x52) (vopEnc 3) (fun w => vopBody c (vlogicFn (w.immBits 1 0)) w) c s)

/-- VSGN's function OP on lanes a and b (R154). -/
def vsgnFn (op : Nat) (a b : Word) : Word :=
  if (f32Val a).isNan then f32Nan
  else
    match op with
    | 0 => a &&& 0x7FFF_FFFF
    | 1 => a ^^^ 0x8000_0000
    | _ => (a &&& 0x7FFF_FFFF) ||| (b &&& 0x8000_0000)

/-- VSGN's encoding: SRC2 only with COPYSIGN. -/
def vsgnEnc (w : IWord) : Bool :=
  Enc.ok ⟨.reg .v, .reg .v, if w.immBits 1 0 = 2 then .reg .v else .zero, 3, 0, .never⟩ w && w.immBits 1 0 != 3

def execVsgn (c : CoreId) (s : State) : Res :=
  .next (issue (rowOpc 0x53) vsgnEnc (fun w s => laneBody c w s (fun r i =>
    vsgnFn (w.immBits 1 0) (r.getV (regIdx w.src1) i) (r.getV (regIdx w.src2) i))) c s)

def execVcvti (c : CoreId) (s : State) : Res :=
  .next (issue (rowOpc 0x54) (vunEnc 0) (fun w s => laneBody c w s (fun r i => cvtI (r.getV (regIdx w.src1) i))) c s)
def execVcvtf (c : CoreId) (s : State) : Res :=
  .next (issue (rowOpc 0x55) (vunEnc 0) (fun w s => laneBody c w s (fun r i => intR (r.getV (regIdx w.src1) i).toInt)) c s)

def vfnBody (c : Nat) (w : IWord) (s : State) : IRes :=
  match Sfn.ofCode (w.immBits 3 0) with
  | none => .fail s stInvalidProgram
  | some f => laneBody c w s (fun r i => sfnApply f (r.getV (regIdx w.src1) i))

def execVfn (c : CoreId) (s : State) : Res := .next (issue (rowOpc 0x56) (fun w => vunEnc 0xF w && decide (w.immBits 3 0 ≤ 13)) (vfnBody c) c s)

/-! ## Shuffles (R157, R158) -/

def execVshuf (c : CoreId) (s : State) : Res :=
  .next (issue (rowOpc 0x58) (Enc.ok ⟨.reg .v, .reg .v, .reg .v, 0, 0, .never⟩)
    (fun w s => laneBody c w s (fun r i =>
      let k := (r.getV (regIdx w.src2) i).toNat % 256
      if k < 128 then r.getV (regIdx w.src1) k else r.getV (regIdx w.dst) (k - 128))) c s)

/-- The source of lane `i` under pattern PAT: of b (true) or of a, and the lane (R158). -/
def vpermSrc (pat k i : Nat) : Option (Bool × Nat) :=
  match pat with
  | 0 => some (false, (i + k) % 128)
  | 1 => some (false, 127 - i)
  | 2 => some (false, i / 16 * 16 + i % 4 * 4 + i / 4 % 4)
  | 3 => some (false, i / 64 * 64 + i % 8 * 8 + i / 8 % 8)
  | 4 => some (i % 2 == 1, i / 2)
  | 5 => some (false, if i < 64 then 2 * i else 2 * (i - 64) + 1)
  | _ => none

/-- VPERM's encoding: K only with ROT, SRC2 only with ZIP. -/
def vpermEnc (w : IWord) : Bool :=
  Enc.ok ⟨.reg .v, .reg .v, if w.immBits 3 0 = 4 then .reg .v else .zero, 0x7F0F, 0, .never⟩ w
    && (w.immBits 3 0 == 0 || w.immBits 14 8 == 0) && decide (w.immBits 3 0 ≤ 5)

def execVperm (c : CoreId) (s : State) : Res :=
  .next (issue (rowOpc 0x59) vpermEnc (fun w s => laneBody c w s (fun r i =>
    let p := (vpermSrc (w.immBits 3 0) (w.immBits 14 8) i).getD (false, 0)
    r.getV (regIdx (if p.1 then w.src2 else w.src1)) p.2)) c s)

/-! ## Reductions (R159) -/

/-- One level of the fixed tree. -/
def treeLevel (h : Nat) (l : List Word) : List Word := (List.range h).map (fun i => addR (l.getD i 0) (l.getD (i + h) 0))

/-- The fixed tree of VRED SUM. -/
def treeSum (l : List Word) : Word := ([64, 32, 16, 8, 4, 2, 1].foldl (fun l h => treeLevel h l) l).getD 0 0

/-- MAX or MIN over the lanes. -/
def foldLanes (f : Word → Word → Word) : List Word → Word
  | [] => f32Nan
  | v :: t => t.foldl f v

/-- VRED's result OP; 5 to 7 are undefined. -/
def vredFn (op : Nat) (l : List Word) : Option Nat :=
  let arg := fun (m : Word) => ((l.zipIdx.find? (fun p => (f32Val p.1).eqv (f32Val m))).map (·.2)).getD 0
  match op with
  | 0 => some (treeSum l).toNat
  | 1 => some (foldLanes maxI l).toNat
  | 2 => some (foldLanes minI l).toNat
  | 3 => some (arg (foldLanes maxI l))
  | 4 => some (arg (foldLanes minI l))
  | _ => none

def vredBody (c : Nat) (w : IWord) (s : State) : IRes :=
  match vredFn (w.immBits 2 0) ((s.core c).regs.lanes (regIdx w.src1)) with
  | none => .fail s stInvalidProgram
  | some v => IRes.regs s c (fun r => r.setS w.dst (BitVec.ofNat 64 v))

def execVred (c : CoreId) (s : State) : Res :=
  .next (issue (rowOpc 0x5C) (fun w => Enc.ok ⟨.reg .s, .reg .v, .zero, 7, 0, .never⟩ w && decide (w.immBits 2 0 ≤ 4)) (vredBody c) c s)

end Sys2Proof.Machine
end

