-- ==== Sys2Proof/Machine/Attention.lean ====
section
/-! DEFINITION. ATB, one online-softmax block step (R184, R185, R295 to R300). -/
namespace Sys2Proof.Machine

/-- The operands of ATB (Table 6.5). -/
structure AtbOp where
  q : TileDesc
  kv : TileDesc
  ao : Nat
  ro : Nat
  m : Nat
  nd : Nat
  mv : Nat
  sb : Nat
  scale : Word
  qpos : Nat
  imp : Bool
  causal : Bool
  seg : Bool
  last : Bool
  u : Bool
  deriving DecidableEq, Repr

def AtbOp.of (r : CoreRegs) (w : IWord) : AtbOp where
  q := r.getT (regIdx w.src1)
  kv := r.getT (regIdx w.src2)
  ao := regIdx w.dst
  ro := w.immBits 23 17
  m := w.immBits 16 10 + 1
  nd := w.immBits 9 8 + 1
  mv := w.immBits 7 4
  sb := w.immBits 3 1
  scale := BitVec.ofNat 32 (w.w2Bits 31 0)
  qpos := w.w2Bits 47 32
  imp := bitOf w.w2 48
  causal := w.mod 49
  seg := w.mod 50
  last := w.mod 51
  u := w.mod 48

/-- Head dimension. -/
def AtbOp.d (o : AtbOp) : Nat := 64 * o.nd

/-- The checks of R92, R185 and R295 that need no lagoon contents. -/
def AtbOp.ok (o : AtbOp) : Bool :=
  tileOk o.q && tileOk o.kv && o.q.fmtIs (fun f => decide (f = .bf16 ∨ f = .fp16)) && o.q.cols == o.d
    && o.kv.fmtIs (fun f => decide (f = .bf16)) && o.kv.rows == 128 && o.kv.cols == o.d
    && decide (o.ao + o.nd ≤ 8) && !(decide (o.ao ≤ o.sb) && decide (o.sb < o.ao + o.nd))
    && decide (o.ro + o.m ≤ 128) && decide (o.mv ≤ 14) && decide (o.qpos + o.m - 1 ≤ 65535)
    && (!o.seg || (o.q.zpEn && o.q.zpPc && spanOk (16 * o.q.zpRef) (2 * o.m)))
    && (!(o.causal || o.seg) || (o.kv.zpEn && spanOk (16 * o.kv.zpRef) 144))
    && (!o.imp || (o.kv.scEn && spanOk (16 * o.kv.scRef) 256))

/-- Every cell read: queries, keys and values, and the side areas of the set modifiers (R300). -/
def AtbOp.cells (o : AtbOp) : List Nat :=
  (List.range o.m).flatMap (fun r => o.q.blockCells r 0 o.d)
    ++ (List.range 128).flatMap (fun r => o.kv.blockCells r 0 o.d)
    ++ (if o.seg then byteCells (16 * o.q.zpRef) (2 * o.m) else [])
    ++ (if o.causal || o.seg then byteCells (16 * o.kv.zpRef) 144 else [])
    ++ (if o.imp then byteCells (16 * o.kv.scRef) 256 else [])

/-- KPOS0 (Table 10.1); 0 where no modifier reads it. -/
def AtbOp.kpos (o : AtbOp) (k : Core) : Nat := if o.causal || o.seg then (k.lgnW32 (16 * o.kv.zpRef)).toNat else 0

/-- A 16-bit lagoon value. -/
def Core.lgnU16 (k : Core) (a : Nat) : Nat := leNat (k.lgnBytes a 2)

/-- Is key `j` admitted for row `r` (R296)? -/
def AtbOp.allows (o : AtbOp) (k : Core) (r j : Nat) : Bool :=
  let qm := k.lgnU16 (16 * o.q.zpRef + 2 * r)
  let km := k.lgnU16 (16 * (o.kv.zpRef + 1) + 2 * j)
  k.tileCode o.kv .bf16 j 0 != 0xFFFF
    && (!o.causal || decide (o.kpos k + j ≤ o.qpos + r))
    && (!o.seg || (qm == km && qm != 0xFFFF))

/-- An element as a W20 value. -/
def Core.w20At (k : Core) (t : TileDesc) (r c : Nat) : Option (BitVec 20) := (k.elem t r c).map w20Of

/-- The products of two lists of elements where both are present. -/
def pairSum (l : List (Option (BitVec 20) × Option (BitVec 20))) : Word :=
  beatSum (l.filterMap (fun p => match p.1, p.2 with
    | some a, some b => some (w20Prod a b)
    | _, _ => none))

/-- The scaled score of key `j` for row `r`. -/
def AtbOp.score (o : AtbOp) (k : Core) (r j : Nat) : Word :=
  let dot := (List.range (o.d / 16)).foldl (fun a kb =>
    addR a (pairSum ((List.range 16).map (fun i => (k.w20At o.q r (16 * kb + i), k.w20At o.kv j (16 * kb + i)))))) 0
  mulR o.scale dot

/-- Negative infinity. -/
def negInf : Word := f32Inf true

/-- fp16_rne of an FP32 word, as a value (R297). -/
def fp16Of (w : Word) : FVal := gridFP16.value (gridFP16.narrow true (f32Val w)).1

/-- The probability of a score under maximum mn. -/
def atbProb (mn s : Word) : FVal :=
  if s = negInf then .fin false 0 0 else fp16Of (sfnApply .exp (subR s mn))

/-- The fixed tree of R159 over 64 values. -/
def tree64 (l : List Word) : Word := ([32, 16, 8, 4, 2, 1].foldl (fun l h => treeLevel h l) l).getD 0 0

/-- The P·V sum of output element `d` from `o0`. -/
def AtbOp.pv (o : AtbOp) (k : Core) (p : List FVal) (o0 : Word) (d : Nat) : Word :=
  (List.range 4).foldl (fun a kb =>
    addR a (pairSum ((List.range 16).map (fun i =>
      (some (w20Of (p.getD (16 * kb + i) (.fin false 0 0))), k.w20At o.kv (64 + 16 * kb + i) d))))) o0

/-- The output row. -/
def AtbOp.outRow (o : AtbOp) (k : Core) (r : Nat) : List Word :=
  (List.range o.d).map (fun d => k.regs.getAcc (o.ao + d / 64) (o.ro + r) (d % 64))

/-- A row's block step on probabilities, output, maximum and sum (R297). -/
def AtbOp.rowStep (o : AtbOp) (k : Core) (r : Nat) (adm : List Bool) : List FVal × List Word × Word × Word :=
  let mo := k.regs.getV o.mv r
  let lo := k.regs.getV (o.mv + 1) r
  let out := o.outRow k r
  if adm.all (fun b => !b) then (List.replicate 64 (.fin false 0 0), out, mo, lo)
  else
    let s := (adm.zipIdx).map (fun p => if p.1 then o.score k r p.2 else negInf)
    let mn := s.foldl maxI mo
    let p := s.map (atbProb mn)
    let ls := tree64 (p.map f32Rne)
    let rises := (f32Val mo).lt (f32Val mn)
    let a := sfnApply .exp (subR mo mn)
    let fst := mo == negInf && lo == 0
    let l := if fst then ls else if rises then addR (mulR a lo) ls else addR lo ls
    let o1 := if fst then out.map (fun _ => (0 : Word)) else if rises then out.map (mulR a) else out
    (p, (o1.zipIdx).map (fun q => o.pv k p q.1 q.2), mn, l)

/-- The LAST division. -/
def atbLast (l : Word) (out : List Word) : List Word := out.map (fun x => if l = 0 then 0 else divR x l)

/-- The importance sums of a row added (R297). -/
def AtbOp.addImp (o : AtbOp) (k : Core) (p : List FVal) : Core :=
  (p.zipIdx).foldl (fun k q =>
    let a := 16 * o.kv.scRef + 4 * q.2
    k.lgnPoke a (leBytes 4 (addR (k.lgnW32 a) (f32Rne q.1)).toNat)) k

/-- Row `r` of the block step on a core. -/
def AtbOp.row (o : AtbOp) (k : Core) (r : Nat) : Core :=
  let adm := (List.range 64).map (o.allows k r)
  let t := o.rowStep k r adm
  let out := if o.last then atbLast t.2.2.2 t.2.1 else t.2.1
  let write := o.last || adm.any (fun b => b)
  let k1 := { k with regs := (k.regs.setV o.mv r t.2.2.1).setV (o.mv + 1) r t.2.2.2 }
  let k2 := if write then (List.range o.nd).foldl (fun k j =>
    k.putAccRow (o.ao + j) (o.ro + r) ((out.drop (64 * j)).take 64)) k1 else k1
  let k3 := k2.putAccRow o.sb (o.ro + r) (t.1.map f32Rne)
  if o.imp then o.addImp k3 t.1 else k3

/-- Rows `[r, r + n)`; between two rows a preemption may stop the instruction, which then resumes with the next (R108,
R165). -/
def AtbOp.loop (o : AtbOp) (c : Nat) : (n r : Nat) → State → IRes
  | 0, _, s => .done s
  | n + 1, r, s =>
    match s.accRead c ((List.range o.nd).flatMap (fun j => accWords (o.ao + j) (o.ro + r))) with
    | .error e => e
    | .ok s1 =>
      let s2 := s1.setCore c (o.row (s1.core c) r)
      match (if n = 0 then (false, s2) else s2.rowStop c) with
      | (true, s3) => .wait (s3.setResume c 0 (r + 1)) .row
      | (false, s3) => o.loop c n (r + 1) s3

def atbBody (c : Nat) (w : IWord) (s : State) : IRes :=
  let o := AtbOp.of (s.core c).regs w
  if !o.ok then .fail s stInvalidProgram
  else
    match (s.core c).regs.resume with
    | some p => o.loop c (o.m - p.2) p.2 s
    | none =>
      match s.readCells c o.u o.cells with
      | .error e => e
      | .ok s1 => if 65472 < o.kpos (s1.core c) then .fail s1 stInvalidProgram else o.loop c o.m 0 s1

/-- ATB's encoding. -/
def atbEnc (w : IWord) : Bool :=
  Enc.ok ⟨.reg .a, .reg .t, .reg .t, 0xFFFFFE, 0xF, .required⟩ w && w.w2Bits 63 49 == 0

/-- The cells, accumulator groups and vector registers of ATB (R104). -/
def atbTouch (k : Core) (w : IWord) : Touch :=
  let o := AtbOp.of k.regs w
  if !o.ok then {}
  else
    { wr := accGroups o.ao o.nd o.ro o.m ++ accGroups o.sb 1 o.ro o.m ++ [0x20 + o.mv, 0x21 + o.mv],
      crd := oneCells o.cells, cwr := if o.imp then [(o.kv.scRef, 16)] else [] }

def execAtb (c : CoreId) (s : State) : Res := .next (issueOn atbTouch (rowOpc 0xC0) atbEnc (atbBody c) c s)

end Sys2Proof.Machine
end

