-- ==== Sys2Proof/Machine/Guard.lean ====
section
/-! DEFINITION. What every register access passes first (R10 to R13, R25, R478, R480, R489): width and alignment, unused
offsets, the filter of a virtual function, host loss; and the effect of the access codes of Table 0.5. -/
namespace Sys2Proof.Machine

/-- The number of a function in GLB_ACCERR.FN (R495). -/
def fnCode : Fn → Nat
  | .pf => 0
  | .vf k => k + 1
  | .proxy => 15

/-- The function whose MSI-X table, requester ID and partition an access uses: the PF for the PF and the proxy. -/
def fnNum : Fn → Nat
  | .vf k => k + 1
  | _ => 0

/-- Is queue `q` in partition `k`'s queue range? -/
def State.qIn (s : State) (k q : Nat) : Bool :=
  let f := s.fld (Reg.SCH_PART_W1 k) 14 0
  decide (f ≤ q) && decide (q < f + s.fld (Reg.SCH_PART_W1 k) 30 16)

/-- Is context `n` in partition `k`'s context range? -/
def State.ctxIn (s : State) (k n : Nat) : Bool :=
  let f := s.fld (Reg.SCH_PART_W1 k) 39 32
  decide (f ≤ n) && decide (n < f + s.fld (Reg.SCH_PART_W1 k) 48 40)

/-- Record an ignored access (R480, R495) and raise PF vector 0. -/
def State.accErr (s : State) (fn : Fn) (kind : Nat) (wr : Bool) (off : Nat) : State :=
  let s1 := s.bumpSat Reg.GLB_ACCERR 63 48
  let s2 := ((((s1.setFld Reg.GLB_ACCERR 47 44 (fnCode fn)).setFld Reg.GLB_ACCERR 43 42 kind).setFlag
    Reg.GLB_ACCERR 41 wr).setFlag Reg.GLB_ACCERR 40 true).setFld Reg.GLB_ACCERR 25 0 off
  s2.raise 0 0

/-- May a virtual function of partition `k` reach a register (R478)? -/
def State.vfMay (s : State) (k : Nat) (wr : Bool) (g : RegGroup) (ix : List Nat) (val : DWord) : Bool :=
  let i := ix.headD 0
  let own := ["SCH_QRING", "SCH_QCPL", "SCH_QCFG", "SCH_QPTR", "GLB_QVEC"]
  let ctx := ["SCH_CTX_CFG", "SCH_CTX_SEED", "SCH_CTX_STEP", "SCH_CTX_NDCOUNT", "SCH_CTX_PERF", "SCH_CTX_ACCT", "SCH_CTX_LEGACY", "SCH_CTX_RSVD"]
  let glob := ["GLB_IDENT", "GLB_STATE", "GLB_TC_MARKED", "GLB_LINK"]
  let isl := ["TC_STATUS", "TC_ASTAT", "TC_PC", "LGN_TAG", "LGN_LIVE", "LGN_WAIT", "LGN_SCRUB", "LGN_ECC", "FRY_STATUS",
    "FRY_BYTES", "FRY_X", "FRY_LATE", "BFRY_STATUS", "BFRY_BYTES", "BFRY_X"]
  if own.contains g.name then s.qIn k i
  else if ctx.contains g.name then s.ctxIn k i
  else if g.name == "SYN_CNT" || g.name == "SYN_CTL" then s.granted i k
  else if g.name == "SCH_CANCEL" then !wr || s.qIn k (bitsOf val.toNat 13 0)
  else if g.name == "MSIX_ADDR" || g.name == "MSIX_CTRL" then decide (i < 224)
  else if g.name == "MSIX_PBA" then decide (i < 7)
  else if glob.contains g.name then !wr
  else if isl.contains g.name then !wr && s.partHas k i
  else false

/-- Why an access is ignored: 0 width or alignment, 1 unused offset, 2 virtual function filter, 3 host loss; `none` when
it takes effect (R480, R495). Of several grounds the first in this order is recorded (DESIGN CHOICE, Log 73). -/
def State.accessKind (s : State) (fn : Fn) (wr : Bool) (off width : Nat) (val : DWord) : Option Nat :=
  match regAt off with
  | none =>
    if off % 4 ≠ 0 ∨ (width ≠ 32 ∧ width ≠ 64) ∨ off % (width / 8) ≠ 0 then some 0
    else match regAt (off - 4) with
      | some (g, _) => if off % 8 = 4 ∧ g.width = 64 then some 0 else some 1
      | none => some 1
  | some (g, ix) =>
    if g.width ≠ width then some 0
    else if (match fn with | .vf k => !(s.vfMay k wr g ix val) | _ => false) then some 2
    else if wr && s.flag Reg.GLB_HOST 0 && off != Reg.GLB_HOSTCTL then some 3
    else none

/-- A register write by function `fn`: ignored and reported, or given its effect. -/
def State.guardWrite (s : State) (fn : Fn) (off width : Nat) (val : DWord) (eff : State → State) : State :=
  match s.accessKind fn true off width val with
  | some k => s.accErr fn k true off
  | none => eff s

/-- The value a field holds after a write, by its access code (Table 0.5); bits that the hardware has set in this shore
cycle, `ev`, stay set (R12). -/
def RegField.write (f : RegField) (old new ev : Nat) : Nat :=
  let o := bitsOf old f.hi f.lo
  let n := bitsOf new f.hi f.lo
  match f.acc with
  | .rw => n
  | .w1c => o &&& (n ^^^ (2 ^ (f.hi + 1 - f.lo) - 1)) ||| bitsOf ev f.hi f.lo
  | .w1s => o ||| n
  | .ro => o
  | .wo => o
  | .rc => o

/-- A register's value after a host write by the access codes of its fields; reserved bits read 0 (R11). -/
def RegGroup.write (g : RegGroup) (old new ev : Nat) : Nat :=
  g.fields.foldl (fun v f => bitsPut v f.hi f.lo (f.write old new ev)) old

/-- The register as it stood before the events of this shore cycle, and those events (R12). -/
def State.before (s : State) (off : Nat) : Nat := (tabGet (s.reg off, 0) s.evt off).1.toNat
def State.events (s : State) (off : Nat) : Nat := (tabGet (s.reg off, 0) s.evt off).2.toNat

/-- The state with a register written by its access codes alone. -/
def State.hostSet (s : State) (off : Nat) (val : DWord) : State :=
  match regAt (off % 0x4000000) with
  | some (g, _) => s.setReg off (BitVec.ofNat 64 (g.write (s.reg off).toNat val.toNat (s.events off)))
  | none => s

/-- The value a read of a register returns for a stored value: write-only fields read 0. -/
def RegGroup.view (g : RegGroup) (v : Nat) : Nat :=
  g.fields.foldl (fun a f => match f.acc with
    | .wo => a
    | _ => bitsPut a f.hi f.lo (bitsOf v f.hi f.lo)) 0

/-- What a read shows of a register's value: read-to-clear fields as they stood before this shore cycle's events (R12). -/
def RegGroup.shown (g : RegGroup) (v old : Nat) : Nat :=
  g.fields.foldl (fun a f => match f.acc with
    | .rc => bitsPut a f.hi f.lo (bitsOf old f.hi f.lo)
    | _ => a) v

/-- The register after a read: read-to-clear fields at their reset values, which is 0 but for MAX_TEMP (Log 20), or at this
shore cycle's events, which remain for the next read (R12). -/
def RegGroup.afterRead (g : RegGroup) (v ev : Nat) : Nat :=
  g.fields.foldl (fun a f => match f.acc with
    | .rc => bitsPut a f.hi f.lo (if bitsOf ev f.hi f.lo = 0 then f.reset else bitsOf ev f.hi f.lo)
    | _ => a) v

/-- The state after a read of a register that holds its value itself: its read-to-clear fields are read out; a second read
in the same shore cycle finds them cleared before the events. -/
def State.readOut (s : State) (g : RegGroup) (off : Nat) : State :=
  let old := (s.reg off).toNat
  let new := g.afterRead old (s.events off)
  let s1 := match tabFind s.evt off with
    | some x => { s with evt := tabPut s.evt off (BitVec.ofNat 64 (g.afterRead x.1.toNat 0), x.2) }
    | none => s
  if new = old then s1 else s1.setReg off (BitVec.ofNat 64 new)

end Sys2Proof.Machine
end

