-- ==== Sys2Proof/Machine/Frc.lean ====
section
/-! DEFINITION. Feature-map compression (R286 to R289): the FRC block codec on 64 BF16 values. -/
namespace Sys2Proof.Machine

/-- Bytes of a compressed block: FRC 1 is 2:1, FRC 2 is 4:1 (R286). -/
def frcBytes (frc : Nat) : Nat := if frc = 1 then 64 else 32

/-- Mantissa bits mb (R287). -/
def frcMb (frc : Nat) : Nat := if frc = 1 then 7 else 3

/-- ex of R287 on a BF16 code. -/
def frcEx (code : Nat) : Nat := if code % 2 ^ 15 = 0 then 0 else max 1 (bitsOf code 14 7)

/-- The greatest of a list. -/
def maxList (l : List Nat) : Nat := l.foldl max 0

/-- The exponent of q[r] (R287). -/
def frcQ (mb E o : Nat) : Int := (E : Int) - o - 125 - mb

/-- m of R287 for one code. -/
def frcM (mb : Nat) (q : Int) (code : Nat) : Int :=
  match gridBF16.value code with
  | .fin s m e =>
    let i := rneInt s m 1 (e - q)
    let top : Int := 2 ^ (mb - 1) - 1
    max (-top) (min top i)
  | _ => 0

/-- Is a BF16 code NaN or infinite? -/
def bf16Special (code : Nat) : Bool := bitsOf code 14 7 == 255

/-- The compressed block of 64 BF16 codes (R287, R289). -/
def frcEncode (frc : Nat) (x : List Nat) : List Byte :=
  let mb := frcMb frc
  if x.any bf16Special then leBytes (frcBytes frc) 256
  else
    let E := maxList (x.map frcEx)
    let o := (List.range 8).map (fun r => min 15 (E - maxList (((x.drop (8 * r)).take 8).map frcEx)))
    let ms := (x.zipIdx).map (fun p => frcM mb (frcQ mb E (o.getD (p.2 / 8) 0)) p.1)
    let head := E + (o.zipIdx).foldl (fun a p => a + p.1 * 2 ^ (32 + 4 * p.2)) 0
    leBytes (frcBytes frc) (head + (ms.zipIdx).foldl (fun a p => a + wrapOf mb p.1 * 2 ^ (64 + mb * p.2)) 0)

/-- The decoded value of m × 2^q as a BF16 code: +0 where m is 0, infinity where it rounds past the largest finite value. -/
def frcOne (q : Int) (m : Int) : Nat :=
  if m = 0 then 0 else min 0x7F80 (gridBF16.rneMag m.natAbs 1 q) + boolNat (decide (m < 0)) * 2 ^ 15

/-- The 64 BF16 codes of a compressed block (R287, R289). -/
def frcDecode (frc : Nat) (b : List Byte) : List Nat :=
  let v := leNat b
  let mb := frcMb frc
  if bitOf v 8 then List.replicate 64 0x7FC0
  else (List.range 64).map (fun i =>
    frcOne (frcQ mb (bitsOf v 7 0) (bitsOf v (35 + 4 * (i / 8)) (32 + 4 * (i / 8))))
      (signedOf mb (bitsOf v (64 + mb * i + mb - 1) (64 + mb * i))))

/-- The uncompressed view of a block, 128 bytes. -/
def frcView (frc : Nat) (b : List Byte) : List Byte := (frcDecode frc b).flatMap (leBytes 2)

/-- Two-byte codes of a byte string. -/
def halves : List Byte → List Nat
  | a :: b :: t => leNat [a, b] :: halves t
  | _ => []

/-- The compressed block of a 128-byte view. -/
def frcPack (frc : Nat) (view : List Byte) : List Byte := frcEncode frc (halves view)

end Sys2Proof.Machine
end

