-- ==== Sys2Proof/Machine/Mmu.lean ====
section
/-! DEFINITION. Translation (R330 to R336), fault records (R337 to R341) and reads and writes of device virtual memory.
A cached entry may be
used or passed over: which, is a free choice (R336). -/
namespace Sys2Proof.Machine

/-- A translation or access fault: CAUSE, level, entry, and the ADDR of Table 11.5. -/
structure TFault where
  cause : Nat
  level : Nat
  entry : Nat
  addr : Nat
  deriving DecidableEq, Repr

/-- A translated 128-byte-or-less access: physical address of its first byte, or of its FRC image with the FRC kind. -/
structure Leaf where
  entry : Nat
  level : Nat
  addr : Nat
  deriving DecidableEq, Repr

/-- Bytes mapped by an entry of a level. -/
def levelSize (l : Nat) : Nat := if l = 1 then 2 ^ 42 else if l = 2 then 2 ^ 29 else 2 ^ 16

/-- The table index of a level (Table 11.2). -/
def levelIndex (l va : Nat) : Nat := if l = 1 then bitsOf va 47 42 else if l = 2 then bitsOf va 41 29 else bitsOf va 28 16

/-- The shape of a valid entry (Table 11.3). -/
def entryShape (l e : Nat) : Bool :=
  let tbl := bitOf e 1
  bitsOf e 63 44 == 0 && bitsOf e 13 6 == 0 &&
    (if tbl then l != 3 && bitsOf e 15 14 == 0
     else if l = 1 then false
     else if l = 2 then bitsOf e 5 4 == 0 && bitsOf e 28 14 == 0
     else match bitsOf e 5 4 with
      | 0 => bitsOf e 15 14 == 0
      | 1 => !(bitOf e 14)
      | 2 => true
      | _ => false)

/-- ADDR × 2^14. -/
def entryBase (e : Nat) : Nat := 2 ^ 14 * bitsOf e 43 14

/-! ## The translation caches (R334, R336) -/

/-- The agents that translate: a ferry, an island's control core, the intake, and the scheduler, to which the spec gives no
cache. -/
inductive XAgent where
  | ferry (f : Nat)
  | icc (n : Nat)
  | intake
  | sch
  deriving DecidableEq, Repr

/-- Entries of a cache. -/
def TlbUnit.size : TlbUnit → Nat
  | .ferry _ => 16
  | .island _ => 2048
  | .walk _ => 64
  | .intake => 256

/-- The island of a translation cache. -/
def TlbUnit.isle : TlbUnit → Option Nat
  | .ferry f => some (ferryIsland f)
  | .island n => some n
  | .walk n => some n
  | .intake => none

/-- The caches an agent finds translations in, the nearest first. -/
def XAgent.leaves : XAgent → List TlbUnit
  | .ferry f => [.ferry f, .island (ferryIsland f)]
  | .icc n => [.island n]
  | .intake => [.intake]
  | .sch => []

/-- The cache of level-1 and level-2 entries that an agent's walks use. -/
def XAgent.tables : XAgent → Option TlbUnit
  | .ferry f => some (.walk (ferryIsland f))
  | .icc n => some (.walk n)
  | _ => none

/-- Does an entry cover a virtual address of an address space? -/
def TlbEntry.covers (e : TlbEntry) (asid va : Nat) : Bool := e.asid == asid && e.va == va / levelSize e.level

/-- The entry of a cache that covers an address, of the level that `p` asks for. -/
def State.tlbFind (s : State) (u : TlbUnit) (p : TlbEntry → Bool) (asid va : Nat) : Option TlbEntry :=
  s.tlb.find? (fun e => decide (e.unit = u) && p e && e.covers asid va)

/-- An entry goes into its cache: in place of one for the same region, else of any one, as the replacement has it, where the
cache is full (Log 65). -/
def State.tlbAdd (s : State) (e : TlbEntry) : State :=
  let l := s.tlb.filter (fun x => !(decide (x.unit = e.unit) && x.asid == e.asid && x.level == e.level && x.va == e.va))
  let mine := l.filter (fun x => decide (x.unit = e.unit))
  if mine.length < e.unit.size then { s with tlb := e :: l }
  else
    let (n, t) := s.choose e.unit.size
    match mine[n]? with
    | some v => { t with tlb := e :: l.filter (fun x => decide (x ≠ v)) }
    | none => { t with tlb := e :: l }

/-- The caches of some units are empty: of a unit that returns (R380). -/
def State.tlbDrop (s : State) (p : TlbUnit → Bool) : State := { s with tlb := s.tlb.filter (fun e => !(p e.unit)) }

/-- A translation from an agent's caches: each that has one may be used or passed over, by free choice (R336), and what a
farther one gives is kept in the nearer. -/
def State.tlbLeaf (s : State) (asid va : Nat) : List TlbUnit → Option TlbEntry × State
  | [] => (none, s)
  | u :: us =>
    let on := fun (t : State) => match t.tlbLeaf asid va us with
      | (some e, t1) => (some e, t1.tlbAdd { e with unit := u })
      | r => r
    match s.tlbFind u (fun _ => true) asid va with
    | some e => match s.choose 2 with
      | (0, t) => (some e, t)
      | (_, t) => on t
    | none => on s

/-- A valid entry that a walk has read goes into the agent's caches: a pointer to a table into the walk cache, another entry of
level 1 or 2 there too, a translation into the others. -/
def State.tlbFill (s : State) (ag : XAgent) (asid level va entry addr : Nat) : State :=
  let e := fun (u : TlbUnit) => (⟨u, asid, level, va / levelSize level, entry, addr⟩ : TlbEntry)
  let s1 := match ag.tables with
    | some u => if level ≤ 2 then s.tlbAdd (e u) else s
    | none => s
  if bitOf entry 1 && entryShape level entry then s1 else ag.leaves.foldl (fun t u => t.tlbAdd (e u)) s1

/-- The entry of a level for a virtual address: from the walk cache, by free choice, or read from its table at `tab`. -/
def State.entryOf (s : State) (ag : XAgent) (asid level va tab : Nat) : Except TFault (Nat × Nat) × State :=
  let addr := tab + 8 * levelIndex level va
  let read := fun (s : State) =>
    if s.visible < addr + 8 then (.error ⟨0x5, level, 0, addr⟩, s)
    else
      match s.readPhys 2 addr 8 with
      | (none, t) => (.error ⟨0xA, level, 0, addr⟩, t)
      | (some b, t) =>
        let e := leNat b
        if !(bitOf e 0) then (.error ⟨0x1, level, e, addr⟩, t)
        else (.ok (e, addr), t.tlbFill ag asid level va e addr)
  match ag.tables.bind (fun u => s.tlbFind u (fun e => e.level == level) asid va) with
  | some c => match s.choose 2 with
    | (0, t) => (.ok (c.entry, c.addr), t)
    | (_, t) => read t
  | none => read s

/-- The walk from a level with a table, at most `fuel` levels. -/
def State.walk (s : State) (ag : XAgent) (asid va : Nat) : (fuel level tab : Nat) → Except TFault Leaf × State
  | 0, level, tab => (.error ⟨0x4, level, 0, tab⟩, s)
  | fuel + 1, level, tab =>
    match s.entryOf ag asid level va tab with
    | (.error f, t) => (.error f, t)
    | (.ok (e, a), t) =>
      if !(entryShape level e) then (.error ⟨0x4, level, e, a⟩, t)
      else if bitOf e 1 then State.walk t ag asid va fuel (level + 1) (entryBase e)
      else (.ok ⟨e, level, a⟩, t)

/-- The leaf of a virtual address in context `ctx`: from the agent's caches, or by a walk from ROOT (R330, R331). A malformed
entry is one wherever it is found (R337). -/
def State.leafOf (s : State) (ag : XAgent) (ctx va : Nat) : Except TFault Leaf × State :=
  let as := s.reg (Reg.MEM_AS ctx)
  let asid := bitsOf as.toNat 55 48
  if !(bitOf as.toNat 63) then (.error ⟨0x6, 0, 0, 0⟩, s)
  else
    match s.tlbLeaf asid va ag.leaves with
    | (some c, t) => (if entryShape c.level c.entry then .ok ⟨c.entry, c.level, c.addr⟩ else .error ⟨0x4, c.level, c.entry, c.addr⟩, t)
    | (none, t) => t.walk ag asid va 3 1 (512 * bitsOf as.toNat 43 9)

/-- A translated access: physical address, FRC kind, and for an FRC page the byte within its 128-byte block. -/
structure Xlat where
  pa : Nat
  frc : Nat
  inBlock : Nat
  deriving DecidableEq, Repr

/-- The physical place of a virtual address under a leaf (R332, R286). -/
def Leaf.place (l : Leaf) (va : Nat) : Xlat :=
  let off := va % levelSize l.level
  let frc := if l.level = 3 then bitsOf l.entry 5 4 else 0
  if frc = 0 then ⟨entryBase l.entry + off, 0, 0⟩
  else ⟨entryBase l.entry + off / 128 * frcBytes frc, frc, off % 128⟩

/-- The partition of a context's address space (Table 11.11). -/
def State.asPart (s : State) (ctx : Nat) : Nat := s.fld (Reg.MEM_AS ctx) 58 56

/-- Translate an access of `n` bytes that stays within 64 bytes (or one FRC block): permissions (R331), then the
partition check (R333). -/
def State.translate (s : State) (ag : XAgent) (ctx va n : Nat) (write : Bool) : Except TFault Xlat × State :=
  match s.leafOf ag ctx va with
  | (.error f, t) => (.error f, t)
  | (.ok l, t) =>
    if !write && !(bitOf l.entry 2) then (.error ⟨0x2, l.level, l.entry, l.addr⟩, t)
    else if write && !(bitOf l.entry 3) then (.error ⟨0x3, l.level, l.entry, l.addr⟩, t)
    else
      let x := l.place va
      let c := t.partCheck (t.asPart ctx) x.pa (if x.frc = 0 then n else frcBytes x.frc)
      if c ≠ 0 then (.error ⟨c, 0, l.entry, x.pa⟩, t) else (.ok x, t)

/-! ## Data at a translated place -/

/-- Bytes read at a translated place; `none` where they are uncorrectable. -/
def State.readAt (s : State) (x : Xlat) (n : Nat) : Option (List Byte) × State :=
  if x.frc = 0 then s.readPhys 0 x.pa n
  else
    match s.readPhys 0 x.pa (frcBytes x.frc) with
    | (none, t) => (none, t)
    | (some b, t) => (some (((frcView x.frc b).drop x.inBlock).take n), t)

/-- A write that has to wait for its memory marks its command (R329, R584). -/
def State.markBusy (s : State) (p n : Nat) : State := if s.memBusy p n then { s with memHeld := true } else s

/-- Bytes written at a translated place; false where a merge met an uncorrectable word. -/
def State.writeAt (s0 : State) (x : Xlat) (bs : List Byte) : Bool × State :=
  let s := s0.markBusy x.pa bs.length
  if x.frc = 0 then s.writePhys 4 x.pa bs
  else if x.inBlock = 0 ∧ bs.length = 128 then s.writePhys 4 x.pa (frcPack x.frc bs)
  else
    match s.readPhys 4 x.pa (frcBytes x.frc) with
    | (none, t) => (false, t)
    | (some b, t) =>
      let v := frcView x.frc b
      t.writePhys 4 x.pa (frcPack x.frc (v.take x.inBlock ++ bs ++ v.drop (x.inBlock + bs.length)))

/-! ## Fault records (R338, R340) -/

/-- The kind and number of an agent (Table 11.5). -/
def FaultAgent.code : FaultAgent → Nat × Nat
  | .ferry f => (if 128 ≤ f then 2 else f % 2, f)
  | .job n => (3, n)
  | .icc n => (4, n)

/-- Can the fault ring take a record now (R340)? -/
def State.fringReady (s : State) : Bool :=
  let base := 4096 * s.fld Reg.MEM_FRING 43 12
  let head := s.fld Reg.MEM_FRING_PTR 31 16
  let tail := s.fld Reg.MEM_FRING_PTR 15 0
  let a := base + 64 * (head % s.fringSize)
  s.flag Reg.MEM_FRING 0 && decide ((head + 65536 - tail) % 65536 < s.fringSize)
    && (match s.phys a with
        | .lpddr => true
        | .host => !(s.hostRefused 0)
        | _ => false)

/-- A record is written to the ring: HEAD advances, NEW is set, PF vector 1 is raised (Table 16.3). -/
def State.fringPut (s : State) (r : List Byte) : State :=
  let head := s.fld Reg.MEM_FRING_PTR 31 16
  let s1 := (s.writePhys 4 (4096 * s.fld Reg.MEM_FRING 43 12 + 64 * (head % s.fringSize)) r).2
  ((s1.setFld Reg.MEM_FRING_PTR 31 16 (head + 1)).setFlag Reg.MEM_FAULT_STAT 0 true).raise 0 1

/-- The order of the faults of one shore cycle: ascending agent kind, then ascending agent number (R338). -/
def recAgentLe (a b : List Byte) : Bool :=
  decide (recNat a 44 1 < recNat b 44 1) || (recNat a 44 1 == recNat b 44 1 && decide (recNat a 46 2 ≤ recNat b 46 2))

/-- A record is written, or waits behind the records that wait (R340); among those of its own shore cycle it takes its
place by its agent (R338). -/
def State.faultRecord (s : State) (r : List Byte) : State :=
  if s.fringReady && s.frecs.isEmpty then (s.fringPut r).fringRewrite (insBy recAgentLe r s.fnow)
  else
    let now := fun (x : List Byte) => decide (x.take 12 = r.take 12)
    { s with frecs := s.frecs.filter (fun x => !(now x)) ++ insBy recAgentLe r (s.frecs.filter now) }

/-- Is a cause held for the host (Table 11.4)? -/
def causeHeld (c : Nat) : Bool := decide (c < 8)

/-- Where an agent stands when it faults: context, queue and slice it works for, op index and byte position. -/
structure FaultAt where
  agent : FaultAgent
  ctx : Nat
  q : Nat
  slice : Nat
  op : Nat
  pos : Nat
  deriving DecidableEq, Repr

/-- The bytes of a fault record without DELAYED (Table 11.5). -/
def State.faultBytes (s : State) (w : FaultAt) (va : Nat) (write : Bool) (f : TFault) (final : Bool) : List Byte :=
  let as := s.reg (Reg.MEM_AS w.ctx)
  timeBytes s.tbS s.tbNs ++ leBytes 4 s.fid ++ leBytes 8 (va / 64 * 64) ++ leBytes 8 f.entry ++ leBytes 8 f.addr
    ++ leBytes 1 w.ctx ++ leBytes 1 (bitsOf as.toNat 55 48) ++ leBytes 1 (s.asPart w.ctx) ++ leBytes 1 f.cause
    ++ leBytes 1 w.agent.code.1 ++ leBytes 1 (boolNat write + 2 * f.level + 8 * boolNat final)
    ++ leBytes 2 w.agent.code.2 ++ leBytes 1 w.op ++ leBytes 3 0 ++ leBytes 4 w.pos ++ leBytes 8 0

/-- A fault is recorded; a held one becomes open. Answers its FID (R338). -/
def State.faultRaise (s : State) (w : FaultAt) (va : Nat) (write : Bool) (f : TFault) : Nat × State :=
  let held := causeHeld f.cause
  let r := s.faultBytes w va write f (!held)
  let s1 := { s with fid := (s.fid + 1) % 2 ^ 32 }
  let s2 := if held then { s1 with faults := s1.faults ++ [⟨s.fid, w.agent, w.q, w.slice, s.cyc⟩] } else s1
  (s.fid, s2.faultRecord r)

/-- Close a held fault. -/
def State.faultClose (s : State) (fid : Nat) : State := { s with faults := s.faults.filter (fun h => h.fid != fid) }

/-- The ending status of a final cause (Table 11.4). -/
def causeStatus (c : Nat) : Nat := if c = 0xA then 0x0204 else 0x0202

/-! ## Runs of virtual bytes -/

/-- How a virtual access ended: data, a fault at a byte, or an uncorrectable read. -/
inductive VRes (α : Type) where
  | ok (a : α)
  | fault (va : Nat) (write : Bool) (f : TFault)
  | ecc
  deriving Repr

/-- The pieces of a virtual run: (address, length), cut at 64-byte boundaries. -/
def vaPieces (fuel va n : Nat) : List (Nat × Nat) :=
  match fuel with
  | 0 => []
  | k + 1 => if n = 0 then [] else
    let m := min n (64 - va % 64)
    (va, m) :: vaPieces k (va + m) (n - m)

/-- Pieces of a run of `n` bytes. -/
def piecesOf (va n : Nat) : List (Nat × Nat) := vaPieces (n / 64 + 2) va n

/-- Translate every piece of a run before anything is moved (R342). -/
def State.probe (s : State) (ag : XAgent) (ctx : Nat) (write : Bool) : List (Nat × Nat) → VRes (List (Xlat × Nat)) × State
  | [] => (.ok [], s)
  | (va, n) :: t =>
    match s.translate ag ctx va n write with
    | (.error f, s1) => (.fault va write f, s1)
    | (.ok x, s1) =>
      match s1.probe ag ctx write t with
      | (.ok l, s2) => (.ok ((x, n) :: l), s2)
      | r => r

/-- Charge bytes moved for a context: LPDDR5X reads and writes, host-window traffic (R378). -/
def State.account (s : State) (ctx : Nat) (x : Xlat) (n : Nat) (write : Bool) : State :=
  let m := if x.frc = 0 then n else frcBytes x.frc
  let add := fun (s : State) (i : Nat) =>
    s.setReg (Reg.SCH_CTX_ACCT ctx i) (s.reg (Reg.SCH_CTX_ACCT ctx i) + BitVec.ofNat 64 m)
  match s.phys x.pa with
  | .lpddr => add s (if write then 3 else 2)
  | .host => add s 5
  | _ => s

/-- Read translated pieces for a context. -/
def State.gather (s : State) (ctx : Nat) : List (Xlat × Nat) → VRes (List Byte) × State
  | [] => (.ok [], s)
  | (x, n) :: t =>
    match s.readAt x n with
    | (none, s1) => (.ecc, s1)
    | (some b, s1) =>
      match (s1.account ctx x n false).gather ctx t with
      | (.ok l, s2) => (.ok (b ++ l), s2)
      | r => r

/-- Write translated pieces for a context; false where a merge met an uncorrectable word. -/
def State.scatter (s : State) (ctx : Nat) : List (Xlat × Nat) → List Byte → Bool × State
  | [], _ => (true, s)
  | (x, n) :: t, bs =>
    match s.writeAt x (bs.take n) with
    | (false, s1) => (false, s1)
    | (true, s1) => (s1.account ctx x n true).scatter ctx t (bs.drop n)

/-- Read `n` virtual bytes of a context. -/
def State.vread (s : State) (ag : XAgent) (ctx va n : Nat) : VRes (List Byte) × State :=
  match s.probe ag ctx false (piecesOf va n) with
  | (.ok l, s1) => s1.gather ctx l
  | (.fault a w f, s1) => (.fault a w f, s1)
  | (.ecc, s1) => (.ecc, s1)

/-- Write virtual bytes of a context. -/
def State.vwrite (s : State) (ag : XAgent) (ctx va : Nat) (bs : List Byte) : VRes Unit × State :=
  match s.probe ag ctx true (piecesOf va bs.length) with
  | (.ok l, s1) =>
    match s1.scatter ctx l bs with
    | (true, s2) => (.ok (), s2)
    | (false, s2) => (.ecc, s2)
  | (.fault a w f, s1) => (.fault a w f, s1)
  | (.ecc, s1) => (.ecc, s1)

end Sys2Proof.Machine
end

