-- ==== Sys2Proof/Machine/Bar4.lean ====
section
/-! DEFINITION. BAR4, the host's window onto device memory (R345, R479, R480), with the accesses that wait for their memory (R329,
R584). -/
namespace Sys2Proof.Machine

/-- May function `fn` reach the byte at a BAR4 offset: none where it may, else the kind of GLB_ACCERR? -/
def State.bar4Kind (s : State) (fn : Fn) (p : Nat) : Option Nat :=
  match s.phys p with
  | .unmapped => some 1
  | .host => some 1
  | .lpddr => match fn with
    | .vf k => if s.inCarve k p 1 then none else some 2
    | _ => none
  | .harbour n _ => match fn with
    | .vf k => if s.partHas k n then none else some 2
    | _ => none

/-- The pieces of a BAR4 access: one sector or one harbour word each. -/
def State.bar4Pieces (s : State) (fuel p n : Nat) : List (Nat × Nat) :=
  match fuel with
  | 0 => []
  | k + 1 => if n = 0 then [] else
    let u := match s.phys p with
      | .harbour _ _ => 8
      | _ => 64
    let m := min n (u - p % u)
    (p, m) :: State.bar4Pieces s k (p + m) (n - m)

/-- A BAR4 read: all ones for an uncorrectable sector or word (R345). -/
def State.bar4Read (s : State) : List (Nat × Nat) → List Byte × State
  | [] => ([], s)
  | (p, n) :: t =>
    let (b, s1) := match s.readPhys 3 p n with
      | (some b, u) => (b, u)
      | (none, u) => (List.replicate n 0xFF, u)
    let (c, s2) := State.bar4Read s1 t
    (b ++ c, s2)

/-- A BAR4 write: a merge through a bad sector or word is not made. -/
def State.bar4Write (s : State) : List (Nat × Nat) → List Byte → State
  | [], _ => s
  | (p, n) :: t, bs => State.bar4Write (s.writePhys 3 p (bs.take n)).2 t (bs.drop n)

/-- A permitted BAR4 access. -/
def State.bar4Do (s : State) (x : Bar4Acc) : State :=
  let l := s.bar4Pieces x.len x.addr x.len
  if x.wr then s.bar4Write l (x.data ++ leBytes x.len 0)
  else
    let (b, s1) := s.bar4Read l
    { s1 with readData := leNat b, readOk := true }

/-- Does a BAR4 access wait: its memory makes it, or an earlier one waits (R329, R584, Log 66)? -/
def State.bar4Waits (s : State) (x : Bar4Acc) : Bool :=
  !s.bar4q.isEmpty || (s.bar4Pieces x.len x.addr x.len).any (fun p => s.memBusy p.1 p.2)

/-- The BAR4 accesses that waited go on, in their order, as far as their memory lets them. -/
def State.bar4Drain (s : State) : State :=
  s.bar4q.foldl (fun t x =>
    let u : State := { t with bar4q := [] }
    if !t.bar4q.isEmpty ∨ u.bar4Waits x then { t with bar4q := t.bar4q ++ [x] } else t.bar4Do x) { s with bar4q := [] }

/-- BAR4_ACCESS: a read or write of `len` bytes of device physical memory. -/
def execBar4Access (fn : Fn) (wr : Bool) (addr len : Nat) (data : List Byte) (s : State) : Res :=
  match ((List.range len).map (· + addr)).findSome? (s.bar4Kind fn) with
  | some k =>
    let s1 := s.accErr fn k wr addr
    .next (if wr then s1 else { s1 with readData := 0, readOk := true })
  | none =>
    let x : Bar4Acc := ⟨fn, wr, addr, len, data⟩
    .next (if s.bar4Waits x then { s with bar4q := s.bar4q ++ [x] } else s.bar4Do x)

end Sys2Proof.Machine
end

