-- ==== Sys2Proof/Machine/Hash.lean ====
section
/-! DEFINITION. SHAKE256 (FIPS 202), which digests use (R193, R530, R531), and the counter generator G (R529). -/
namespace Sys2Proof.Machine

/-- The lane at column `x` and row `y` of a state, as the five rows of five lanes one after another. -/
def kLane (a : List DWord) (x y : Nat) : DWord := a.getD (x % 5 + 5 * (y % 5)) 0

/-- The parity of column `x`. -/
def kColumn (a : List DWord) (x : Nat) : DWord := (List.range 5).foldl (fun p y => p ^^^ kLane a x y) 0

/-- Every lane of a state mapped by its column and row. -/
def kMap (a : List DWord) (f : Nat → Nat → DWord → DWord) : List DWord :=
  a.zipIdx.map (fun p => f (p.2 % 5) (p.2 / 5) p.1)

/-- Step theta: the parities of the two columns beside it are added to each lane. -/
def kTheta (a : List DWord) : List DWord :=
  let add := (List.range 5).map (fun x => kColumn a (x + 4) ^^^ (kColumn a (x + 1)).rotateLeft 1)
  kMap a (fun x _ v => v ^^^ add.getD x 0)

/-- Steps rho and pi as one tour of the other 24 lanes: from (1, 0) on, the lane at (x, y) is turned by the next triangular
number and put at (y, 2x + 3y), where the tour goes on. -/
def kTour (a : List DWord) : (left t x y : Nat) → List DWord → List DWord
  | 0, _, _, _, out => out
  | n + 1, t, x, y, out =>
    let z := (2 * x + 3 * y) % 5
    kTour a n (t + 1) y z (out.set (y + 5 * z) ((kLane a x y).rotateLeft (t * (t + 1) / 2 % 64)))

/-- Step chi. -/
def kChi (a : List DWord) : List DWord := kMap a (fun x y v => v ^^^ (kLane a (x + 2) y &&& ~~~kLane a (x + 1) y))

/-- The register that generates the constants of iota, one step on: x^8 + x^6 + x^5 + x^4 + 1. -/
def kLfsr (r : Nat) : Nat := if r < 128 then 2 * r else (2 * r - 256) ^^^ 0x71

/-- A round's constant: the register's bit 0 at positions 0, 1, 3, 7 up to 63 in seven steps; and the register after them. -/
def kConst : (left pos r : Nat) → DWord → DWord × Nat
  | 0, _, r, w => (w, r)
  | n + 1, pos, r, w => kConst n (2 * pos + 1) (kLfsr r) (if r % 2 = 1 then w ||| 1#64 <<< pos else w)

/-- The rounds of Keccak-f[1600], `r` the constants' register. -/
def kRounds : (left r : Nat) → List DWord → List DWord
  | 0, _, a => a
  | n + 1, r, a =>
    let t := kTheta a
    let c := kConst 7 0 r 0
    kRounds n c.2 ((kChi (kTour t 24 1 1 0 t)).modify 0 (· ^^^ c.1))

/-- Keccak-f[1600]: 24 rounds. -/
def keccakF (a : List DWord) : List DWord := kRounds 24 1 a

/-- The rate of SHAKE256 in bytes. -/
def shakeRate : Nat := 136

/-- One block of 136 bytes absorbed. -/
def kAbsorb (a : List DWord) (blk : List Byte) : List DWord :=
  keccakF ((a.zipIdx).map (fun p => if p.2 < 17 then p.1 ^^^ BitVec.ofNat 64 (recNat blk (8 * p.2) 8) else p.1))

/-- The message padded: the function's byte `dom` after it, 0x80 in the last byte of the rate. -/
def kPad (dom : Byte) (m : List Byte) : List Byte :=
  let k := shakeRate - m.length % shakeRate
  if k = 1 then m ++ [dom ||| 0x80] else m ++ [dom] ++ List.replicate (k - 2) 0 ++ [0x80]

/-- Absorb a padded message block by block. -/
def kAbsorbAll (a : List DWord) (fuel : Nat) (m : List Byte) : List DWord :=
  match fuel with
  | 0 => a
  | n + 1 => if m = [] then a else kAbsorbAll (kAbsorb a (m.take shakeRate)) n (m.drop shakeRate)

/-- The first `8 n` bytes of the sponge with a function's byte, within one rate. -/
def kSponge (dom : Byte) (n : Nat) (m : List Byte) : List Byte :=
  let p := kPad dom m
  ((kAbsorbAll (List.replicate 25 0) (p.length / shakeRate) p).take n).flatMap (fun w => leBytes 8 w.toNat)

/-- The first `8 n` bytes of SHAKE256: its byte is 0x1F. -/
def shakeWords (n : Nat) (m : List Byte) : List Byte := kSponge 0x1F n m

/-- The first 32 bytes of SHAKE256. -/
def shake256 (m : List Byte) : List Byte := shakeWords 4 m

/-- The first 64 bytes of SHAKE256: a digest of chapter 19 (R535). -/
def digest64 (m : List Byte) : List Byte := shakeWords 8 m

/-! ## KMAC256 (SP 800-185), the tag of a secure-element message (R546) -/

/-- A number in as few bytes as it needs, at least one, high byte first. -/
def kNumber (x : Nat) : List Byte := (leBytes (x.log2 / 8 + 1) x).reverse

/-- A string with its length in bits before it, that length with the count of its own bytes before it. -/
def kString (m : List Byte) : List Byte :=
  let n := kNumber (8 * m.length)
  leBytes 1 n.length ++ n ++ m

/-- Strings behind the rate, filled with zeros to a multiple of it. -/
def kBlock (m : List Byte) : List Byte :=
  let x := [1, BitVec.ofNat 8 shakeRate] ++ m
  x ++ List.replicate ((shakeRate - x.length % shakeRate) % shakeRate) 0

/-- KMAC256 with 256 bits of output, the key, the message and the customisation string. -/
def kmac256 (key msg custom : List Byte) : List Byte :=
  let name : List Byte := [0x4B, 0x4D, 0x41, 0x43]
  kSponge 0x04 4 (kBlock (kString name ++ kString custom) ++ kBlock (kString key) ++ msg ++ kNumber 256 ++ [2])

/-! ## The counter generator (R529) -/

/-- The four words of the generator. -/
structure GState where
  a : Word
  b : Word
  c : Word
  d : Word
  deriving DecidableEq, Repr

/-- Round `r` of G with its two key words. -/
def gRound (k1 k2 : Word) (r : Nat) (x : GState) : GState :=
  let a1 := x.a + k1
  let c1 := x.c ^^^ k2
  let a2 := a1 + x.b
  let d1 := (x.d ^^^ a2).rotateLeft 16
  let c2 := c1 + d1
  let b1 := (x.b ^^^ c2).rotateLeft 12
  let a3 := a2 + b1
  let d2 := (d1 ^^^ a3).rotateLeft 8
  let c3 := c2 + d2
  let b2 := (b1 ^^^ c3).rotateLeft 7
  ⟨a3, b2, c3, d2 + BitVec.ofNat 32 r + 1⟩

/-- G(SEED0, SEED1; STEP, SLICE, stream, block, i). -/
def gLane (seed0 seed1 step : DWord) (slice stream block i : Nat) : Word :=
  let k : List Word := [seed0.extractLsb' 0 32, seed0.extractLsb' 32 32, seed1.extractLsb' 0 32, seed1.extractLsb' 32 32,
    step.extractLsb' 0 32, step.extractLsb' 32 32]
  let x0 : GState := ⟨BitVec.ofNat 32 block, BitVec.ofNat 32 (stream + i / 4 * 2 ^ 24), BitVec.ofNat 32 slice, 0x47534E38⟩
  let x := (List.range 10).foldl (fun x r => gRound (k.getD (r % 6) 0) (k.getD ((r + 3) % 6) 0) r x) x0
  (match i % 4 with
   | 0 => x.a
   | 1 => x.b
   | 2 => x.c
   | _ => x.d) + k.getD (i % 4) 0

end Sys2Proof.Machine
end

