-- ==== Sys2Proof/Machine/Pixel.lean ====
section
/-! DEFINITION. The intake's pixel pipeline (R262 to R268): descriptor fields, unpacking, demosaicing, colour conversion,
geometry, sampling, normalisation; every step is an fp32_rne step in the order the spec gives. -/
namespace Sys2Proof.Machine

/-! ## The descriptor (Table 9.2) -/

/-- A per-sample descriptor. -/
structure SampDesc where
  src : Nat
  inFmt : Nat
  bayer : Nat
  ofmt : Nat
  chw : Bool
  mat : Bool
  limited : Bool
  hflip : Bool
  vflip : Bool
  rot : Nat
  affine : Bool
  area : Bool
  x0 : Nat
  y0 : Nat
  cw : Nat
  ch : Nat
  ow : Nat
  oh : Nat
  angle : Nat
  fill : Nat
  mul : List Word
  add : List Word
  va : Nat
  len : Nat
  sw : Nat
  sh : Nat
  sync : Nat
  syncEn : Bool
  tag : Nat
  reserved : Bool
  deriving DecidableEq, Repr

def SampDesc.of (b : List Byte) : SampDesc where
  src := recNat b 0 1 % 4
  inFmt := recNat b 1 1 % 16
  bayer := bitsOf (recNat b 1 1) 5 4
  ofmt := recNat b 2 1 % 4
  chw := bitOf (recNat b 2 1) 2
  mat := bitOf (recNat b 2 1) 3
  limited := bitOf (recNat b 2 1) 4
  hflip := bitOf (recNat b 3 1) 0
  vflip := bitOf (recNat b 3 1) 1
  rot := bitsOf (recNat b 3 1) 3 2
  affine := bitOf (recNat b 3 1) 4
  area := bitOf (recNat b 3 1) 5
  x0 := recNat b 4 2
  y0 := recNat b 6 2
  cw := recNat b 8 2
  ch := recNat b 10 2
  ow := recNat b 12 2
  oh := recNat b 14 2
  angle := recNat b 16 2
  fill := recNat b 18 2
  mul := (List.range 3).map (fun i => BitVec.ofNat 32 (recNat b (20 + 4 * i) 4))
  add := (List.range 3).map (fun i => BitVec.ofNat 32 (recNat b (32 + 4 * i) 4))
  va := recNat b 44 8
  len := recNat b 52 4
  sw := recNat b 56 2
  sh := recNat b 58 2
  sync := recNat b 60 2 % 2 ^ 14
  syncEn := bitOf (recNat b 60 2) 15
  tag := recNat b 62 2
  reserved := recNat b 0 1 / 4 != 0 || recNat b 1 1 / 64 != 0 || recNat b 2 1 / 32 != 0 || recNat b 3 1 / 64 != 0
    || bitOf (recNat b 60 2) 14

/-! ## The source -/

/-- The kinds of source pixels: raw mosaic codes, luma with chroma, or RGB. -/
inductive SrcKind where
  | raw | yuv | rgb
  deriving DecidableEq, Repr

/-- A source frame: its kind, its size, its codes by row, each row its pixels' codes (one for raw, three else), and the
number of the free codes that a pixel outside any received one takes. -/
structure Frame where
  kind : SrcKind
  w : Nat
  h : Nat
  rows : List (List Nat)
  gen : Nat
  deriving DecidableEq, Repr

/-- Codes per pixel. -/
def SrcKind.n : SrcKind → Nat
  | .raw => 1
  | _ => 3

/-- Component `c` of the pixel at (x, y); a place the frame does not hold has a free code (R264 gives no neighbour for a
source one pixel wide). -/
def Frame.code (f : Frame) (x y : Int) (c : Nat) : Nat :=
  let i := f.kind.n * x.toNat + c
  if 0 ≤ x ∧ x < f.w ∧ 0 ≤ y then
    match f.rows[y.toNat]? with
    | some r => r.getD i 0
    | none => (Config.undefBits 16 f.gen (65536 * y.toNat + i)).toNat
  else (Config.undefBits 16 f.gen (65536 * y.natAbs + i)).toNat

/-- A position taken at its mirror outside `[0, n)` (R264). -/
def mirror (n : Nat) (i : Int) : Int := if i < 0 then -i else if (n : Int) ≤ i then 2 * n - 2 - i else i

/-- The colour native to a site (R262 BAYER): 0 red, 1 green, 2 blue. -/
def bayerAt (b : Nat) (x y : Nat) : Nat :=
  let i := x % 2 + 2 * (y % 2)
  match b with
  | 0 => [0, 1, 1, 2].getD i 0
  | 1 => [1, 0, 2, 1].getD i 0
  | 2 => [1, 2, 0, 1].getD i 0
  | _ => [2, 1, 1, 0].getD i 0

/-- The exact mean of some neighbours' codes. -/
def Frame.mean (f : Frame) (l : List (Int × Int)) : Word :=
  f32Quot false ((l.map (fun p => f.code (mirror f.w p.1) (mirror f.h p.2) 0)).foldl (· + ·) 0) l.length 0

/-- Colour `c` at a raw site (R264). -/
def Frame.demosaic (f : Frame) (b : Nat) (x y c : Nat) : Word :=
  let k := bayerAt b x y
  let X : Int := x
  let Y : Int := y
  if k = c then f.mean [(X, Y)]
  else if c = 1 then f.mean [(X - 1, Y), (X + 1, Y), (X, Y - 1), (X, Y + 1)]
  else if k = 1 then
    if bayerAt b (x + 1) y = c then f.mean [(X - 1, Y), (X + 1, Y)] else f.mean [(X, Y - 1), (X, Y + 1)]
  else f.mean [(X - 1, Y - 1), (X + 1, Y - 1), (X - 1, Y + 1), (X + 1, Y + 1)]

/-- An FP32 constant n / 10^6. -/
def f32Dec (n : Nat) : Word := f32Quot false n 1000000 0

/-- Colour conversion (R265, Table 9.3). -/
def yuvRgb (mat limited : Bool) (y cb cr : Nat) : List Word :=
  let yy := if limited then mulR (intR ((y : Int) - 16)) (f32Quot false 255 219 0) else intR y
  let ch := fun (c : Nat) => if limited then mulR (intR ((c : Int) - 128)) (f32Quot false 255 224 0) else intR ((c : Int) - 128)
  let b := ch cb
  let r := ch cr
  if mat then
    [addR yy (mulR (f32Dec 1402000) r), subR (subR yy (mulR (f32Dec 344136) b)) (mulR (f32Dec 714136) r),
      addR yy (mulR (f32Dec 1772000) b)]
  else
    [addR yy (mulR (f32Dec 1574800) r), subR (subR yy (mulR (f32Dec 187324) b)) (mulR (f32Dec 468124) r),
      addR yy (mulR (f32Dec 1855600) b)]

/-- The RGB value of a source pixel (R264, R265). -/
def Frame.rgb (f : Frame) (d : SampDesc) (x y : Nat) : List Word :=
  match f.kind with
  | .raw => (List.range 3).map (f.demosaic d.bayer x y)
  | .yuv => yuvRgb d.mat d.limited (f.code x y 0) (f.code x y 1) (f.code x y 2)
  | .rgb => (List.range 3).map (fun c => intR (f.code x y c))

/-! ## Geometry (R266, R267) -/

def SampDesc.cropW (d : SampDesc) (w : Nat) : Nat := if d.cw = 0 then w - d.x0 else d.cw
def SampDesc.cropH (d : SampDesc) (h : Nat) : Nat := if d.ch = 0 then h - d.y0 else d.ch
def SampDesc.rw (d : SampDesc) (w h : Nat) : Nat := if d.rot % 2 = 1 then d.cropH h else d.cropW w
def SampDesc.rh (d : SampDesc) (w h : Nat) : Nat := if d.rot % 2 = 1 then d.cropW w else d.cropH h
def SampDesc.outW (d : SampDesc) (w h : Nat) : Nat := if d.ow = 0 then d.rw w h else d.ow
def SampDesc.outH (d : SampDesc) (w h : Nat) : Nat := if d.oh = 0 then d.rh w h else d.oh

/-- The crop lies inside the source (R266), and AREA's requirement holds (R267). -/
def SampDesc.geomOk (d : SampDesc) (w h : Nat) : Bool :=
  let cw := d.cropW w
  let ch := d.cropH h
  decide (1 ≤ cw) && decide (1 ≤ ch) && decide (d.x0 + cw ≤ w) && decide (d.y0 + ch ≤ h)
    && (!d.area || (!d.affine
      && (List.range 16).any (fun i => d.rw w h == (i + 1) * d.outW w h)
      && (List.range 16).any (fun i => d.rh w h == (i + 1) * d.outH w h)))

/-- The source position of position (a, b) of R (Table 9.4, then the flips, then the crop). -/
def SampDesc.place (d : SampDesc) (w h a b : Nat) : Nat × Nat :=
  let cw := d.cropW w
  let ch := d.cropH h
  let p := match d.rot with
    | 0 => (a, b)
    | 1 => (cw - 1 - b, a)
    | 2 => (cw - 1 - a, ch - 1 - b)
    | _ => (b, ch - 1 - a)
  (d.x0 + (if d.hflip then cw - 1 - p.1 else p.1), d.y0 + (if d.vflip then ch - 1 - p.2 else p.2))

/-- R(a, b), channel `c`. -/
def Frame.r (f : Frame) (d : SampDesc) (c a b : Nat) : Word :=
  let p := d.place f.w f.h a b
  (f.rgb d p.1 p.2).getD c 0

/-- Fixed point of the sine table: 2^96. -/
def trigOne : Nat := 2 ^ 96
/-- floor(π × 2^96). -/
def trigPi : Nat := 248902613312231085230521944622

/-- Terms of a Taylor series: x^n / n! with alternating signs, two steps at a time. -/
def trigSum (x : Nat) : (fuel n : Nat) → (term acc : Int) → Int
  | 0, _, _, acc => acc
  | k + 1, n, term, acc =>
    let t := -(term * x / trigOne * x / trigOne / ((n + 1) * (n + 2)))
    trigSum x k (n + 2) t (acc + t)

/-- cos and sin of 2π × k / 65536 for k in the first quadrant, rounded to multiples of 2^−14. -/
def trigQuad (k : Nat) : Int × Int :=
  let x := 2 * trigPi * k / 65536
  let rnd := fun (v : Int) => (v * 2 ^ 15 + trigOne) / (2 * trigOne)
  (rnd (trigSum x 20 0 trigOne trigOne), rnd (trigSum x 20 1 x x))

/-- ca and sa of R267, in units of 2^−14. -/
def trig (angle : Nat) : Int × Int :=
  let q := trigQuad (angle % 16384)
  match angle / 16384 % 4 with
  | 0 => q
  | 1 => (-q.2, q.1)
  | 2 => (-q.1, -q.2)
  | _ => (q.2, -q.1)

/-- q of R267: a rational rounded half to even onto multiples of 1/256, in those units. -/
def q256 (n : Int) (d : Nat) : Int := rneInt (decide (n < 0)) (n.natAbs * 256) d 0

/-- The sampling position of an output pixel: `none` outside R under the affine transform; else (a, b) in 1/256. -/
def SampDesc.samplePos (d : SampDesc) (w h u v : Nat) : Option (Int × Int) :=
  let RW : Int := d.rw w h
  let RH : Int := d.rh w h
  let OW := d.outW w h
  let OH := d.outH w h
  let na : Int := (2 * u + 1) * RW - OW
  let nb : Int := (2 * v + 1) * RH - OH
  if d.affine then
    let dx : Int := na - (RW - 1) * OW
    let dy : Int := nb - (RH - 1) * OH
    let t := trig d.angle
    let den : Nat := 2 ^ 15 * OW * OH
    let a := t.1 * dx * OH + t.2 * dy * OW + (RW - 1) * (2 ^ 14 * OW * OH)
    let b := t.1 * dy * OW - t.2 * dx * OH + (RH - 1) * (2 ^ 14 * OW * OH)
    if 2 * a < -(den : Int) ∨ (2 * RW - 1) * den < 2 * a ∨ 2 * b < -(den : Int) ∨ (2 * RH - 1) * den < 2 * b then none
    else some (q256 a den, q256 b den)
  else some (q256 na (2 * OW), q256 nb (2 * OH))

/-- One channel of the bilinear sample at clamped (a, b) in 1/256. -/
def Frame.bilinear (f : Frame) (d : SampDesc) (c : Nat) (p : Int × Int) : Word :=
  let RW := d.rw f.w f.h
  let RH := d.rh f.w f.h
  let a := (min (max p.1 0) (256 * ((RW : Int) - 1))).toNat
  let b := (min (max p.2 0) (256 * ((RH : Int) - 1))).toNat
  let a0 := a / 256
  let b0 := b / 256
  let a1 := min (a0 + 1) (RW - 1)
  let b1 := min (b0 + 1) (RH - 1)
  let fa := f32Quot false (a % 256) 256 0
  let fb := f32Quot false (b % 256) 256 0
  let lerp := fun (x y t : Word) => addR x (mulR t (subR y x))
  let t0 := lerp (f.r d c a0 b0) (f.r d c a1 b0) fa
  let t1 := lerp (f.r d c a0 b1) (f.r d c a1 b1) fa
  lerp t0 t1 fb

/-- One channel of an output pixel (R267). -/
def Frame.pix (f : Frame) (d : SampDesc) (c u v : Nat) : Word :=
  if d.area then
    let fx := d.rw f.w f.h / d.outW f.w f.h
    let fy := d.rh f.w f.h / d.outH f.w f.h
    let s := (List.range fy).foldl (fun s j => (List.range fx).foldl (fun s i => addR s (f.r d c (fx * u + i) (fy * v + j))) s) 0
    divR s (intR (fx * fy))
  else
    match d.samplePos f.w f.h u v with
    | none => intR d.fill
    | some p => f.bilinear d c p

/-! ## Output rows (R268, R269) -/

/-- Bytes of an output element. -/
def SampDesc.eb (d : SampDesc) : Nat := if d.ofmt = 2 then 1 else 2

/-- The stored code of a normalised value (R268). -/
def SampDesc.store (d : SampDesc) (y : FVal) : Nat :=
  match d.ofmt with
  | 0 => (gridBF16.narrow false y).1
  | 1 => (gridFP16.narrow false y).1
  | _ => match y with
    | .fin s m e => wrapOf 8 (max (-128) (min 127 (rneInt s m 1 e)))
    | .inf s => wrapOf 8 (if s then -128 else 127)
    | .nan => 0

/-- One output element: normalised with one rounding, then stored. -/
def Frame.elem (f : Frame) (d : SampDesc) (c u v : Nat) : List Byte :=
  let y := f32Rne (((f32Val (f.pix d c u v)).mul (f32Val (d.mul.getD c 0))).add (f32Val (d.add.getD c 0)))
  leBytes d.eb (d.store (f32Val y))

/-- The bytes of output row `i` in output order, without padding. -/
def Frame.outRow (f : Frame) (d : SampDesc) (i : Nat) : List Byte :=
  let OW := d.outW f.w f.h
  let OH := d.outH f.w f.h
  if d.chw then (List.range OW).flatMap (fun u => f.elem d (i / OH) u (i % OH))
  else (List.range OW).flatMap (fun u => (List.range 3).flatMap (fun c => f.elem d c u i))

/-- Output rows of a sample. -/
def SampDesc.outRows (d : SampDesc) (w h : Nat) : Nat := (if d.chw then 3 else 1) * d.outH w h

/-- rb of R269. -/
def SampDesc.rowPitch (d : SampDesc) (w h : Nat) : Nat := ceilDiv' (d.outW w h * (if d.chw then 1 else 3) * d.eb) 64 * 64

/-- rps of R269 for slots of `sb` units. -/
def SampDesc.rowsPerSlot (d : SampDesc) (w h sb : Nat) : Nat := sb * 4096 / d.rowPitch w h

/-- Slots a sample needs (R269); rps is not 0. -/
def SampDesc.needSlots (d : SampDesc) (w h sb : Nat) : Nat :=
  (if d.chw then 3 else 1) * ceilDiv' (d.outH w h) (d.rowsPerSlot w h sb)

/-- R269: rps is not 0 and the sample fits FSLOTS. -/
def SampDesc.slotsOk (d : SampDesc) (w h sb fslots : Nat) : Bool :=
  d.rowsPerSlot w h sb != 0 && decide (d.needSlots w h sb ≤ fslots)

/-- The slot within the sample and the byte within the slot of output row `i`. -/
def SampDesc.rowAt (d : SampDesc) (w h sb i : Nat) : Nat × Nat :=
  let OH := d.outH w h
  let rps := d.rowsPerSlot w h sb
  let v := if d.chw then i % OH else i
  let plane := if d.chw then i / OH else 0
  (plane * ceilDiv' OH rps + v / rps, v % rps * d.rowPitch w h)

/-- Source rows `[0, n)` that output row `i` needs (a mosaic needs one more). -/
def SampDesc.needRows (d : SampDesc) (w h i : Nat) : Nat :=
  let v := i % d.outH w h
  if d.rot = 0 ∧ !d.vflip ∧ !d.affine then
    let b := if d.area then (d.rh w h / d.outH w h) * (v + 1) - 1
      else match d.samplePos w h 0 v with
        | some p => min ((max p.2 0).toNat / 256 + 1) (d.rh w h - 1)
        | none => h
    min h (d.y0 + b + 2)
  else h

/-! ## Unpacking (Table 9.2 IN_FMT, the CSI-2 data types of Table 9.1) -/

/-- The packings: as CSI-2 10, 12 and 14 bits, two bytes with the first less or more significant, UYVY, RGB with red
first or last, YCbCr. -/
inductive Packing where
  | p10 | p12 | p14 | le16 | be16 | uyvy | rgb | bgr | ycc
  deriving DecidableEq, Repr

def Packing.kind : Packing → SrcKind
  | .uyvy | .ycc => .yuv
  | .rgb | .bgr => .rgb
  | _ => .raw

/-- The packing of IN_FMT of a memory job. -/
def packOfIn : Nat → Option Packing
  | 0 => some .p10
  | 1 => some .p12
  | 2 => some .p14
  | 3 => some .le16
  | 4 => some .uyvy
  | 5 => some .rgb
  | 6 => some .ycc
  | _ => none

/-- The packing of a CSI-2 data type (Table 9.1). -/
def packOfDt : Nat → Option Packing
  | 0x2B => some .p10
  | 0x2C => some .p12
  | 0x2D => some .p14
  | 0x2E => some .be16
  | 0x1E => some .uyvy
  | 0x24 => some .bgr
  | _ => none

/-- Pixels and bytes of a packing's group. -/
def Packing.group : Packing → Nat × Nat
  | .p10 => (4, 5)
  | .p12 => (2, 3)
  | .p14 => (4, 7)
  | .le16 | .be16 => (1, 2)
  | .uyvy => (2, 4)
  | .rgb | .bgr | .ycc => (1, 3)

/-- The codes of one group's bytes. -/
def Packing.codes (p : Packing) (b : List Nat) : List Nat :=
  let g := fun i => b.getD i 0
  match p with
  | .p10 => (List.range 4).map (fun i => 4 * g i + g 4 / 4 ^ i % 4)
  | .p12 => [16 * g 0 + g 2 % 16, 16 * g 1 + g 2 / 16]
  | .p14 =>
    let low := g 4 + 256 * g 5 + 65536 * g 6
    (List.range 4).map (fun i => 64 * g i + low / 64 ^ i % 64)
  | .le16 => [g 0 + 256 * g 1]
  | .be16 => [g 1 + 256 * g 0]
  | .uyvy => [g 1, g 0, g 2, g 3, g 0, g 2]
  | .rgb | .ycc => [g 0, g 1, g 2]
  | .bgr => [g 2, g 1, g 0]

/-- Whole groups of a byte string unpacked. -/
def unpackBytes (p : Packing) : Nat → List Nat → List Nat
  | 0, _ => []
  | k + 1, b =>
    if b.length < p.group.2 then [] else p.codes (b.take p.group.2) ++ unpackBytes p k (b.drop p.group.2)

/-- The codes of `w` pixels, or of fewer where the bytes end. -/
def Packing.unpack (p : Packing) (w : Nat) (b : List Byte) : List Nat :=
  (unpackBytes p (w + 1) (b.map (·.toNat))).take (p.kind.n * w)

/-- Bytes of a row of `w` pixels. -/
def Packing.rowBytes (p : Packing) (w : Nat) : Nat := ceilDiv' w p.group.1 * p.group.2

end Sys2Proof.Machine
end

