-- ==== Sys2Proof/Machine/Jpeg.lean ====
section
/-! DEFINITION. The JPEG decoder (R274 to R276): the marker syntax, Huffman decoding and dequantisation of ITU-T T.81
baseline images; the inverse DCT is REV_MAJ's own. -/
namespace Sys2Proof.Machine

/-! ## Headers (R274, R275; T.81 Annex B) -/

/-- A component of the frame: identifier, sampling factors across and down, quantisation table. -/
structure JpegComp where
  id : Nat
  hs : Nat
  vs : Nat
  tq : Nat
  deriving DecidableEq, Repr

/-- A Huffman table: the code words of each length in order, as (length, code, value). -/
abbrev HuffTab : Type := List (Nat × Nat × Nat)

/-- What the segments so far define: quantisation tables in zigzag order, Huffman tables by class and number (DC n, AC
16 + n), the frame and the restart interval. -/
structure JpegTabs where
  quant : Tab (List Nat)
  huff : Tab HuffTab
  frame : Option (Nat × Nat × List JpegComp)
  dri : Nat
  deriving DecidableEq, Repr

/-- A component of the scan with its quantisation table and its DC and AC tables. -/
structure JpegSel where
  comp : JpegComp
  quant : List Nat
  dc : HuffTab
  ac : HuffTab
  deriving DecidableEq, Repr

/-- What the markers up to SOS say: size, components with their quantisation, DC and AC tables, the restart interval, where
the entropy-coded data begins. -/
structure JpegHead where
  w : Nat
  h : Nat
  comps : List JpegSel
  restart : Nat
  data : Nat
  deriving DecidableEq, Repr

/-- How parsing a header ended. -/
inductive JpegRes where
  | ok (j : JpegHead)
  | unsupported
  | damaged
  deriving DecidableEq, Repr

/-- A big-endian 16-bit field. -/
def be16 (b : List Nat) (i : Nat) : Nat := 256 * b.getD i 0 + b.getD (i + 1) 0

/-- The components a frame header names. -/
def jpegComps (s : List Nat) : List JpegComp :=
  (List.range 3).map (fun i => let g := fun k => s.getD (8 + 3 * i + k) 0; ⟨g 0, g 1 / 16, g 1 % 16, g 2⟩)

/-- A baseline frame header: 8-bit samples, a number of lines (no DNL), three components, luma 2 × 2, 2 × 1 or 1 × 1 against
chroma 1 × 1. -/
def jpegFrame (s : List Nat) : Option (Nat × Nat × List JpegComp) :=
  let y := s.getD 9 0
  if s.getD 2 0 ≠ 8 ∨ s.getD 7 0 ≠ 3 ∨ be16 s 3 = 0 ∨ s.getD 12 0 ≠ 0x11 ∨ s.getD 15 0 ≠ 0x11 ∨ !([0x22, 0x21, 0x11].contains y) then
    none
  else some (be16 s 5, be16 s 3, jpegComps s)

/-- The tables of a DQT segment, after its length; none where one has 16-bit elements. -/
def jpegQuant : Nat → List Nat → Tab (List Nat) → Option (Tab (List Nat))
  | 0, _, t => some t
  | k + 1, s, t =>
    match s with
    | [] => some t
    | x :: r => if 16 ≤ x then none else jpegQuant k (r.drop 64) (tabPut t x (r.take 64))

/-- The code words of a Huffman table from its counts by length and its values (T.81 Annex C). -/
def huffCodes : (lens : List Nat) → (len code : Nat) → (vals : List Nat) → HuffTab
  | [], _, _, _ => []
  | n :: t, len, code, vals =>
    (vals.take n).zipIdx.map (fun (x : Nat × Nat) => (len, code + x.2, x.1)) ++ huffCodes t (len + 1) (2 * (code + n)) (vals.drop n)

/-- The tables of a DHT segment, after its length; none for a class or number beyond baseline's two of each. -/
def jpegHuff : Nat → List Nat → Tab HuffTab → Option (Tab HuffTab)
  | 0, _, t => some t
  | k + 1, s, t =>
    match s with
    | [] => some t
    | x :: r =>
      let lens := r.take 16
      let n := lens.foldl (· + ·) 0
      if 2 ≤ x / 16 ∨ 2 ≤ x % 16 then none
      else jpegHuff k (r.drop (16 + n)) (tabPut t x (huffCodes lens 1 0 ((r.drop 16).take n)))

/-- A scan header: all three components in frame order, interleaved, the whole spectrum; its tables must be defined. -/
def jpegScan (s : List Nat) (t : JpegTabs) (data : Nat) : JpegRes :=
  match t.frame with
  | none => .damaged
  | some (w, h, cs) =>
    let ids := (List.range 3).map (fun i => s.getD (3 + 2 * i) 0)
    if s.getD 2 0 ≠ 3 ∨ ids ≠ cs.map (·.id) ∨ (s.drop 9).take 3 ≠ [0, 63, 0] then .unsupported
    else
      let sel := cs.zipIdx.filterMap (fun (c : JpegComp × Nat) =>
        let td := s.getD (4 + 2 * c.2) 0
        match tabFind t.quant c.1.tq, tabFind t.huff (td / 16), tabFind t.huff (16 + td % 16) with
        | some q, some dc, some ac => some ⟨c.1, q, dc, ac⟩
        | _, _, _ => none)
      if sel.length = 3 then .ok ⟨w, h, sel, t.dri, data⟩ else .damaged

/-- The segments from byte `i` on. -/
def jpegParse (b : List Nat) : (fuel i : Nat) → (t : JpegTabs) → JpegRes
  | 0, _, _ => .damaged
  | k + 1, i, t =>
    if b.getD i 0 ≠ 0xFF ∨ b.length ≤ i + 3 then .damaged
    else
      let m := b.getD (i + 1) 0
      if m = 0xFF then jpegParse b k (i + 1) t
      else
        let n := be16 b (i + 2)
        let s := (b.drop (i + 2)).take n
        let next := i + 2 + n
        if m = 0xC0 then
          match jpegFrame s with
          | none => .unsupported
          | some f => jpegParse b k next { t with frame := some f }
        else if m = 0xC4 then
          match jpegHuff 8 (s.drop 2) t.huff with
          | none => .unsupported
          | some h => jpegParse b k next { t with huff := h }
        else if m = 0xDB then
          match jpegQuant 8 (s.drop 2) t.quant with
          | none => .unsupported
          | some q => jpegParse b k next { t with quant := q }
        else if (0xC0 ≤ m ∧ m ≤ 0xCF ∧ m ≠ 0xC8) ∨ m = 0xDC then .unsupported
        else if m = 0xDD then jpegParse b k next { t with dri := be16 s 2 }
        else if m = 0xDA then jpegScan s t next
        else if m = 0xD9 ∨ m = 0xD8 then .damaged
        else jpegParse b k next t

/-- The header of an image. -/
def jpegHead (src : List Byte) : JpegRes :=
  let b := src.map (·.toNat)
  if be16 b 0 ≠ 0xFFD8 then .damaged else jpegParse b (b.length + 1) 2 ⟨[], [], none, 0⟩

/-- The luma's sampling factors. -/
def JpegHead.hs (j : JpegHead) : Nat := max 1 ((j.comps.map (·.comp.hs)).headD 1)
def JpegHead.vs (j : JpegHead) : Nat := max 1 ((j.comps.map (·.comp.vs)).headD 1)

/-! ## Size (R275) -/

/-- Entropy-coded bytes: from the end of the SOS header to EOI or the end. -/
def jpegCoded : List Nat → Nat
  | a :: b :: t => if a = 0xFF ∧ b = 0xD9 then 0 else 1 + jpegCoded (b :: t)
  | [_] => 1
  | [] => 0

/-- MCUs across and down. -/
def JpegHead.mcus (j : JpegHead) : Nat × Nat := (ceilDiv' j.w (8 * j.hs), ceilDiv' j.h (8 * j.vs))

/-- 8 × 8 blocks of all components, to whole MCUs. -/
def JpegHead.blocks (j : JpegHead) : Nat := j.mcus.1 * j.mcus.2 * (j.hs * j.vs + 2)

/-- The size rules of R275 that need no ring. -/
def JpegHead.plausible (j : JpegHead) (src : List Byte) : Bool :=
  decide (j.w ≤ 16384) && decide (j.h ≤ 16384)
    && decide (j.blocks ≤ 4 * jpegCoded ((src.drop j.data).map (·.toNat)))

/-! ## Entropy-coded data (T.81 Annex F) -/

/-- The restart intervals of coded bytes, stuffed bytes taken out; other markers end the data. -/
def jpegIntervals : (b cur : List Nat) → List (List Nat)
  | a :: c :: t, cur =>
    if a ≠ 0xFF then jpegIntervals (c :: t) (a :: cur)
    else if c = 0 then jpegIntervals t (a :: cur)
    else if c = 0xFF then jpegIntervals (c :: t) cur
    else if 0xD0 ≤ c ∧ c ≤ 0xD7 then cur.reverse :: jpegIntervals t []
    else [cur.reverse]
  | [a], cur => [(a :: cur).reverse]
  | [], cur => [cur.reverse]

/-- The bits of bytes, most significant first. -/
def jpegBits (b : List Nat) : List Bool := b.flatMap (fun x => (List.range 8).map (fun i => x / 2 ^ (7 - i) % 2 == 1))

/-- The value of the next code word, and the bits after it; none for an invalid code or where the data ends. -/
def huffNext (t : HuffTab) : (fuel len code : Nat) → List Bool → Option (Nat × List Bool)
  | 0, _, _, _ => none
  | _, _, _, [] => none
  | k + 1, len, code, b :: r =>
    let c := 2 * code + boolNat b
    match t.find? (fun x => x.1 == len + 1 && x.2.1 == c) with
    | some x => some (x.2.2, r)
    | none => huffNext t k (len + 1) c r

/-- A value of `n` bits in the signed form of T.81. -/
def jpegValue (n : Nat) (l : List Bool) : Option (Int × List Bool) :=
  if l.length < n then none
  else
    let v := (l.take n).foldl (fun a b => 2 * a + boolNat b) 0
    some (if n = 0 then 0 else if v < 2 ^ (n - 1) then (v : Int) - (2 ^ n - 1) else v, l.drop n)

/-- The AC coefficients of a block from index `k` on, as (index, value). -/
def jpegAc (ac : HuffTab) : (fuel k : Nat) → List Bool → Option (List (Nat × Int) × List Bool)
  | 0, _, l => some ([], l)
  | fuel + 1, k, l =>
    if 64 ≤ k then some ([], l)
    else match huffNext ac 16 0 0 l with
      | none => none
      | some (x, r) =>
        if x = 0 then some ([], r)
        else if x % 16 = 0 ∧ x ≠ 0xF0 then none
        else
          let i := k + x / 16
          if 64 ≤ i then none
          else if x = 0xF0 then jpegAc ac fuel (i + 1) r
          else if 10 < x % 16 then none
          else match jpegValue (x % 16) r with
            | none => none
            | some (v, r2) => (jpegAc ac fuel (i + 1) r2).map (fun y => ((i, v) :: y.1, y.2))

/-- A block: its DC value and its AC coefficients, dequantised, in zigzag order. -/
def jpegBlock (c : JpegSel) (pred : Int) (l : List Bool) : Option (Int × List (Nat × Int) × List Bool) :=
  match huffNext c.dc 16 0 0 l with
  | none => none
  | some (n, r) =>
    if 11 < n then none
    else match jpegValue n r with
      | none => none
      | some (d, r2) =>
        let dc := pred + d
        (jpegAc c.ac 64 1 r2).map (fun y =>
          (dc, ((0, dc) :: y.1).map (fun (z : Nat × Int) => (z.1, z.2 * (c.quant.getD z.1 0 : Nat))), y.2))

/-- The blocks of an MCU, each as its component and coefficients, with the DC predictions after it. -/
def jpegMcu : List (Nat × JpegSel) → List Int → List Bool →
    Option (List (List (Nat × Int)) × List Int × List Bool)
  | [], preds, l => some ([], preds, l)
  | c :: t, preds, l =>
    match jpegBlock c.2 (preds.getD c.1 0) l with
    | none => none
    | some (dc, co, r) => (jpegMcu t (preds.set c.1 dc) r).map (fun y => (co :: y.1, y.2))

/-- The MCUs of an interval, at most `n`: those decoded before an error. -/
def jpegMcus (plan : List (Nat × JpegSel)) : (n : Nat) → List Int → List Bool →
    List (List (List (Nat × Int)))
  | 0, _, _ => []
  | n + 1, preds, l =>
    match jpegMcu plan preds l with
    | none => []
    | some (m, p, r) => m :: jpegMcus plan n p r

/-- The blocks of an MCU in order: those of the luma row by row, then one of each chroma component. -/
def JpegHead.plan (j : JpegHead) : List (Nat × JpegSel) :=
  j.comps.zipIdx.flatMap (fun (c : JpegSel × Nat) => List.replicate (c.1.comp.hs * c.1.comp.vs) (c.2, c.1))

/-- What decoding an image gives: for each interval the number of its first MCU, how many it should hold and those decoded
before an error. Interval i begins with MCU i times the restart interval; without one there is a single interval (R276). -/
def JpegHead.decode (j : JpegHead) (src : List Byte) : List (Nat × Nat × List (List (List (Nat × Int)))) :=
  let total := j.mcus.1 * j.mcus.2
  let step := if j.restart = 0 then total else j.restart
  let parts := jpegIntervals ((src.drop j.data).map (·.toNat)) []
  (List.range (ceilDiv' total (max 1 step))).map (fun i =>
    let n := min step (total - i * step)
    (i * step, n, jpegMcus j.plan n [0, 0, 0] (jpegBits (parts.getD i []))))

/-- Does any MCU meet an entropy error? -/
def JpegHead.corrupt (j : JpegHead) (src : List Byte) : Bool :=
  (j.decode src).any (fun x => decide (x.2.2.length < x.2.1))

/-! ## Samples -/

/-- The place of coefficient `k` of the zigzag order in its block, row by row. -/
def zigzag : List Nat :=
  [0, 1, 8, 16, 9, 2, 3, 10, 17, 24, 32, 25, 18, 11, 4, 5, 12, 19, 26, 33, 40, 48, 41, 34, 27, 20, 13, 6, 7, 14, 21, 28]
    ++ [35, 42, 49, 56, 57, 50, 43, 36, 29, 22, 15, 23, 30, 37, 44, 51, 58, 59, 52, 45, 38, 31, 39, 46, 53, 60, 61, 54, 47, 55, 62, 63]

/-- The 64 coefficients of a block, row by row. -/
def jpegCoefs (co : List (Nat × Int)) : List Int :=
  (List.range 64).map (fun p => (co.filter (fun x => zigzag.getD x.1 64 == p)).foldl (fun a x => a + x.2) 0)

/-- A sample of a block: 128 where every coefficient is zero (R276), else the transform's. -/
def jpegSample (co : List (Nat × Int)) (pos : Nat) : Nat :=
  let l := jpegCoefs co
  if l.all (· == 0) then 128 else (Config.jpegIdct l pos).toNat

/-- The decoded frame (R274, R276, R277): every MCU decoded without error and before `stop`; zero coefficients elsewhere;
chroma replicated. -/
def JpegHead.frame (j : JpegHead) (src : List Byte) (stop : Option Nat) : Frame :=
  let got := (j.decode src).flatMap (fun x => (List.range x.2.1).map (fun i => x.2.2[i]?.getD []))
  let block := fun (m b : Nat) =>
    if (match stop with | some n => decide (n ≤ m) | none => false) then [] else (got.getD m []).getD b []
  let sample := fun (x y c : Nat) =>
    let hs := if c = 0 then j.hs else 1
    let vs := if c = 0 then j.vs else 1
    let u := if c = 0 then x else x / j.hs
    let v := if c = 0 then y else y / j.vs
    let m := v / (8 * vs) * j.mcus.1 + u / (8 * hs)
    let b := if c = 0 then v / 8 % vs * hs + u / 8 % hs else j.hs * j.vs + c - 1
    jpegSample (block m b) (v % 8 * 8 + u % 8)
  let row := fun (y : Nat) => (List.range j.w).flatMap (fun x => (List.range 3).map (fun c => sample x y c))
  ⟨.yuv, j.w, j.h, (List.range j.h).map row, 0⟩

end Sys2Proof.Machine
end

