-- ==== Sys2Proof/Machine/IntakeOps.lean ====
section
/-! DEFINITION. The intake's slots, records and samples (R269 to R273): the bound ring, its slots, output rows, frame
records, debts, and what a RINGDEF or RINGFREE of a bound handle does. -/
namespace Sys2Proof.Machine

/-! ## Bindings (Table 9.12) -/

/-- A ring binding register's fields. -/
structure Binding where
  island : Nat
  ctx : Nat
  handle : Nat
  frecN : Nat
  frecBase : Nat
  fslots : Nat
  depth : Nat
  rt : Bool
  en : Bool
  deriving DecidableEq, Repr

def Binding.of (v : Nat) : Binding where
  island := bitsOf v 63 61
  ctx := bitsOf v 60 53
  handle := bitsOf v 52 49
  frecN := min 4 (bitsOf v 48 46)
  frecBase := bitsOf v 45 35
  fslots := bitsOf v 31 16
  depth := 16 * 2 ^ min 8 (bitsOf v 15 12)
  rt := bitOf v 1
  en := bitOf v 0 && bitsOf v 31 16 != 0

/-- The binding of stream `m`. -/
def State.strBind (s : State) (m : Nat) : Binding := Binding.of (s.reg (Reg.ITK_STR_RING m)).toNat
/-- The binding of job queue `n`. -/
def State.jqBind (s : State) (n : Nat) : Binding := Binding.of (s.reg (Reg.ITK_JQ_RING n)).toNat

/-- The core whose ring a binding names, with the ring: the context is resident on a core of the island and has defined
the handle with PROD 3 in the harbour (R271). -/
def State.bindRing (s : State) (b : Binding) : Option (Nat × Ring) :=
  ((List.range 8).map (· + 8 * b.island)).findSome? (fun c =>
    if (s.core c).resident = some b.ctx then
      match s.ring c b.handle with
      | some r => if r.prod = 3 ∧ r.harbour then some (c, r) else none
      | none => none
    else none)

/-- The island's harbour address of slot `i` of a ring. -/
def Ring.hbrSlot (r : Ring) (isl i : Nat) : Nat := hbrAddr isl (4096 * r.slotBase i)

/-- The slot at the reserve pointer reserved, where it is EMPTY. -/
def State.itkReserve (s : State) (b : Binding) : Option State :=
  match s.bindRing b with
  | none => none
  | some (c, r) => if r.at r.rsv == .e then some (s.setRing c b.handle r.doReserve) else none

/-- The oldest reserved slot committed. -/
def State.itkCommit (s : State) (b : Binding) : State :=
  match s.bindRing b with
  | none => s
  | some (c, _) => (s.ringCommit c b.handle).2

/-- Nothing written yet. -/
def SampleOut.start : SampleOut := ⟨0, 0, 0, false, false, 0, []⟩

/-- The sample's open slot committed; while its ring is not resolved the commit stands over, and the slot is full. -/
def State.outCommit (s : State) (b : Binding) (o : SampleOut) : State × SampleOut :=
  if (s.bindRing b).isNone then (s, { o with full := true })
  else (s.itkCommit b, { o with opened := false, full := false, slots := o.slots + 1, total := o.total + 1 })

/-- A slot reserved for a sample that has none open; a full one is committed first. -/
def State.outOpen (s : State) (b : Binding) (o : SampleOut) : Option (State × SampleOut) :=
  if o.opened && !o.full then some (s, o)
  else
    let p := if o.full then s.outCommit b o else (s, o)
    match p.1.bindRing b with
    | none => none
    | some (_, r) => (p.1.itkReserve b).map (fun t => (t, { p.2 with opened := true, full := false, base := r.hbrSlot b.island r.rsv }))

/-- A slot reserved and committed unwritten: its bytes are undefined (R270). -/
def State.outBlank (s : State) (b : Binding) (o : SampleOut) : Option (State × SampleOut) :=
  match s.bindRing b with
  | none => none
  | some (_, r) =>
    if r.at r.rsv == .e then
      (s.itkReserve b).map (fun t =>
        let (g, u) := t.draw
        { u with mem := u.mem.undef (r.hbrSlot b.island r.rsv) (4096 * r.sb) g }.outCommit b o)
    else none

/-- A slot that a sample owes: the one it has open, committed as it stands, or one reserved and committed unwritten. -/
def State.outPay (s : State) (b : Binding) (o : SampleOut) : Option (State × SampleOut) :=
  if o.opened then (if (s.bindRing b).isNone then none else some (s.outCommit b o)) else s.outBlank b o

/-- An output row written into the open slot at a byte offset. -/
def State.outRow (s : State) (o : SampleOut) (off : Nat) (bs : List Byte) : State × SampleOut :=
  ((s.writePhys 4 (o.base + off) bs).2, { o with rows := o.rows + 1, bytes := o.bytes ++ bs })

/-! ## Frame records (R273, Table 9.5) -/

/-- A sync object signalled with +1 by a shore source: only when the context's partition is granted it; else a log
record (R273). -/
def State.shoreSignal (s : State) (ctx obj src : Nat) : State :=
  if s.granted obj (s.fld (Reg.SCH_CTX_CFG ctx) 62 60) then s.signal obj false 1
  else s.fwLog 5 0 2 0x0206 (leBytes 1 src ++ leBytes 1 0 ++ leBytes 2 obj)

/-- The 64 bytes of a frame record. -/
def SampleRec.render (r : SampleRec) (seq : Nat) (noslots : Bool) : List Byte :=
  let dropped := bitOf r.flags 0
  leBytes 2 r.tag ++ leBytes 2 seq ++ leBytes 2 r.status ++ leBytes 1 (r.flags + if noslots then 128 else 0)
    ++ leBytes 1 r.source ++ timeBytes r.startS r.startNs ++ timeBytes r.endS r.endNs
    ++ (if dropped then leBytes 32 0 else r.digest)

/-- A frame record written in the record area of a binding. -/
def State.frameRecord (s : State) (b : Binding) (r : SampleRec) (seq : Nat) (noslots : Bool) : State :=
  (s.writePhys 4 (hbrAddr b.island (4096 * b.frecBase + 64 * (seq % (4 * 2 ^ b.frecN)))) (r.render seq noslots)).2

/-- A live stream. -/
def State.stream (s : State) (m : Nat) : LiveStream := tabGet ⟨leBytes 64 0, 0, none, []⟩ s.live m
def State.setLive (s : State) (m : Nat) (x : LiveStream) : State := { s with live := tabPut s.live m x }

/-- The job queue served next in the round robin of R261: the first after the one served last that has a job to run and
runs none. -/
def State.nextQueue (s : State) : Option Nat :=
  ((List.range 4).map (fun i => (s.jobLast + 1 + i) % 4)).find? (fun n =>
    (s.jqBind n).en && s.fld (Reg.ITK_JQ_PTR n) 15 0 != s.fld (Reg.ITK_JQ_PTR n) 31 16 && (tabGet ⟨0, none⟩ s.jobs n : JobQueue).job.isNone)

/-- A job queue. -/
def State.jobq (s : State) (n : Nat) : JobQueue := tabGet ⟨0, none⟩ s.jobs n
def State.setJobq (s : State) (n : Nat) (x : JobQueue) : State := { s with jobs := tabPut s.jobs n x }

/-- A live frame's record written and signalled: FRAMES rises, SEQ goes on. -/
def State.liveRecord (s : State) (m : Nat) (r : SampleRec) (noslots : Bool) : State :=
  let b := s.strBind m
  let x := s.stream m
  let s1 := (s.frameRecord b r x.seq noslots).bumpMod (Reg.ITK_STR_STAT m) 63 48
  let s2 := s1.setLive m { s1.stream m with seq := (x.seq + 1) % 65536 }
  if s2.flag (Reg.ITK_STR_CFG m) 17 then s2.shoreSignal b.ctx (s2.fld (Reg.ITK_STR_CFG m) 31 18) m else s2

/-- A job's descriptor, or, where it was never read, one whose TAG is not known. -/
def Job.descOf (j : Job) : SampDesc :=
  SampDesc.of (j.desc.getD (leBytes 62 0 ++ leBytes 2 (Config.undefBits 16 j.gen 0).toNat))

/-- A job's record written and signalled: HEAD rises, the queue is free for its next job. -/
def State.jobRecord (s : State) (n : Nat) (j : Job) (status flags : Nat) (noslots : Bool) : State :=
  let b := s.jqBind n
  let x := s.jobq n
  let d := j.descOf
  let r : SampleRec := ⟨d.tag, status, flags, 128 + n, j.startS, j.startNs, s.tbS, s.tbNs, shake256 j.out.bytes⟩
  let s1 := (s.frameRecord b r x.seq noslots).bumpMod (Reg.ITK_JQ_PTR n) 31 16
  let s2 := s1.setJobq n ⟨(x.seq + 1) % 65536, none⟩
  if d.syncEn then s2.shoreSignal b.ctx d.sync (128 + n) else s2

/-! ## RINGDEF and RINGFREE of a bound handle (R270, R271, R292) -/

/-- Is handle `h` of core `c` the ring that a binding names? -/
def State.bindsTo (s : State) (b : Binding) (c h : Nat) : Bool :=
  b.en && b.island == c / 8 && b.handle == h && (s.core c).resident == some b.ctx

/-- A live stream's debts end: the frames that owed them have committed nothing to the ring as now defined. A frame that is
not dropped commits its FSLOTS slots, from here on, to the ring as now defined (R270). -/
def State.clearDebts (s : State) (m : Nat) : State :=
  let x := s.stream m
  let s1 := s.setLive m { x with
    debts := [],
    frame := x.frame.map (fun f => { f with
      out := { f.out with slots := 0, total := 0, opened := false, full := false }, noRing := f.noRing || f.dropped }) }
  x.debts.foldl (fun t d => t.liveRecord m d.record true) s1

/-- What the intake does when handle `h` of core `c` is defined anew or freed: debts clear, and a RINGFREE stops the
running job of a bound queue, which completes with CANCELLED. -/
def State.itkRing (s : State) (c h : Nat) (free : Bool) : State :=
  let ms := (s.live.map (·.1)).filter (fun m => s.bindsTo (s.strBind m) c h)
  let s1 := ms.foldl (fun t m => t.clearDebts m) s
  let ns := (s1.jobs.map (·.1)).filter (fun n => s1.bindsTo (s1.jqBind n) c h)
  ns.foldl (fun t n =>
    match (t.jobq n).job with
    | none => t
    | some j =>
      if free then
        let t1 := { t with faults := t.faults.filter (fun f => some f.fid != j.fault) }
        t1.jobRecord n j 0x0010 j.flags true
      else t.setJobq n { t.jobq n with job := some { j with out := { j.out with slots := 0, total := 0, opened := false, full := false } } }) s1

end Sys2Proof.Machine
end

