-- ==== Sys2Proof/Machine/Intake.lean ====
section
/-! DEFINITION. The camera intake (R259 to R278, R290 to R292): live frames, slot debts, memory jobs, the JPEG decoder. -/
namespace Sys2Proof.Machine

/-! ## Live frames (R271, R272, R291) -/

/-- Is stream `m` enabled: its binding and its port? -/
def State.liveOn (s : State) (m : Nat) : Bool :=
  let l := s.fld (Reg.ITK_PORT_CFG (m / 4)) 2 0
  (s.strBind m).en && decide (1 ≤ l) && decide (l ≤ 4)

/-- The 64 bytes of a stream's shadow descriptor. -/
def State.shadow (s : State) (m : Nat) : List Byte :=
  (List.range 16).flatMap (fun i => leBytes 4 (s.reg (Reg.ITK_STR_DESC m i)).toNat)

/-- The checks on a live descriptor (R262, R263, R266, R267) for frames of `w` by `h`. -/
def liveDescOk (d : SampDesc) (w h : Nat) : Bool :=
  !d.reserved && d.src == 0 && d.ofmt != 3 && !d.vflip && d.rot == 0 && !d.affine && d.geomOk w h

/-- R269 for the ring as now resolved; an unresolved ring leaves it open. -/
def State.slotsFit (s : State) (b : Binding) (d : SampDesc) (w h : Nat) : Bool :=
  match s.bindRing b with
  | none => true
  | some (_, r) => d.slotsOk w h r.sb b.fslots

/-- A committed shadow descriptor is taken or kept; COMMIT clears (R291). Answers whether it was kept. -/
def State.takeDesc (s : State) (m : Nat) : Bool × State :=
  if !(s.flag (Reg.ITK_STR_CFG m) 16) then (false, s)
  else
    let w := s.fld (Reg.ITK_STR_CFG m) 47 32
    let h := s.fld (Reg.ITK_STR_CFG m) 63 48
    let d := SampDesc.of (s.shadow m)
    let s1 := s.setFlag (Reg.ITK_STR_CFG m) 16 false
    if liveDescOk d w h && s.slotsFit (s.strBind m) d w h then
      (false, s1.setLive m { s1.stream m with desc := s.shadow m })
    else (true, s1.setFlag (Reg.ITK_STR_STAT m) 4 true)

/-- A frame is dropped: a partly filled slot is committed as it stands, DROPS rises (R271). -/
def State.dropFrame (s : State) (m : Nat) (f : LiveFrame) : State × LiveFrame :=
  let b := s.strBind m
  let s1 := s.bumpSat (Reg.ITK_STR_STAT m) 47 32
  let f1 := { f with dropped := true, flags := f.flags ||| 1 }
  if f.out.opened then
    let p := s1.outCommit b f.out
    (p.1, { f1 with out := p.2 })
  else (s1, f1)

/-- The source frame of the lines so far, the missing ones of a finished frame standing as the last one received. -/
def LiveFrame.source (f : LiveFrame) (whole : Bool) : Frame :=
  let rows := match f.lines.getLast? with
    | some l => if whole then f.lines ++ List.replicate (f.h - f.lines.length) l else f.lines
    | none => []
  ⟨((packOfDt f.dt).map Packing.kind).getD .raw, f.w, f.h, rows, f.gen⟩

/-- Output rows written while their source rows are in: each in its slot, a slot committed once its rows are in it; a
slot that cannot be reserved drops the frame. -/
def liveRows (m : Nat) (src : Frame) (avail : Nat) : Nat → State → LiveFrame → State × LiveFrame
  | 0, s, f => (s, f)
  | k + 1, s, f =>
    let d := SampDesc.of f.desc
    if f.dropped ∨ d.outRows f.w f.h ≤ f.out.rows ∨ avail < d.needRows f.w f.h f.out.rows then (s, f)
    else
      let b := s.strBind m
      match s.outOpen b f.out with
      | some (s1, o) =>
        let i := f.out.rows
        let sb := match s1.bindRing b with
          | some (_, r) => r.sb
          | none => f.sb
        let p := s1.outRow o (d.rowAt f.w f.h sb i).2 (src.outRow d i)
        let last := i + 1 == d.outRows f.w f.h || (d.rowAt f.w f.h sb (i + 1)).1 != (d.rowAt f.w f.h sb i).1
        let q := if last then p.1.outCommit b p.2 else p
        liveRows m src avail k q.1 { f with out := q.2, sb := sb }
      | none => s.dropFrame m f

/-- The slots beyond a frame's rows reserved and committed unwritten, up to FSLOTS; a last one that is full waits for its
ring. -/
def liveBlanks (m : Nat) : Nat → State → LiveFrame → State × LiveFrame
  | 0, s, f => (s, f)
  | k + 1, s, f =>
    if f.dropped ∨ (s.strBind m).fslots ≤ f.out.total ∨ (f.out.full ∧ (s.strBind m).fslots ≤ f.out.total + 1) then (s, f)
    else match s.outPay (s.strBind m) f.out with
      | some (t, o) => liveBlanks m k t { f with out := o }
      | none => s.dropFrame m f

/-- A frame ends: its missing lines stand as the last one, its rows and slots complete, and its record is written, or
waits for the slots it owes (R271 to R273). -/
def State.endFrame (s : State) (m : Nat) : State :=
  match (s.stream m).frame with
  | none => s
  | some f0 =>
    let b := s.strBind m
    let f1 := if f0.lines.length < f0.h then { f0 with flags := f0.flags ||| 4 } else f0
    let d := SampDesc.of f1.desc
    let p := liveRows m (f1.source true) f1.h (d.outRows f1.w f1.h + 1) s f1
    let q := liveBlanks m (b.fslots + 1) p.1 p.2
    let f := q.2
    let r : SampleRec := ⟨d.tag, 0, f.flags, m, f.startS, f.startNs, q.1.tbS, q.1.tbNs, shake256 f.out.bytes⟩
    let s1 := q.1.setLive m { q.1.stream m with frame := none }
    let owed := if f.noRing then 0 else b.fslots - f.out.total
    if 0 < owed then s1.setLive m { s1.stream m with debts := (s1.stream m).debts ++ [⟨owed, f.out, r⟩] }
    else s1.liveRecord m r (f.out.slots == 0)

/-- FRAME_START (R272): the previous frame ends short, the shadow descriptor is taken, and the new frame is stamped; it
is dropped at once while debt remains, where its ring is unresolved, or where its rows cannot fit. -/
def execFrameStart (m : Fin 32) (s : State) : Res :=
  if !(s.liveOn m) then .next s
  else
    let s0 := match (s.stream m).frame with
      | some f => (s.setLive m { s.stream m with frame := some { f with flags := f.flags ||| 4 } }).endFrame m
      | none => s
    let (kept, s1) := s0.takeDesc m
    let (g, s2) := s1.draw
    let b := s2.strBind m
    let w := s2.fld (Reg.ITK_STR_CFG m) 47 32
    let h := s2.fld (Reg.ITK_STR_CFG m) 63 48
    let x := s2.stream m
    let noRing := (s2.bindRing b).isNone
    let f : LiveFrame := {
      desc := x.desc, w := w, h := h, dt := s2.fld (Reg.ITK_STR_CFG m) 15 8, startS := s2.tbS, startNs := s2.tbNs,
      lines := [], flags := if kept then 64 else 0, out := SampleOut.start, dropped := false, noRing := noRing, sb := 0, gen := g }
    let bad := noRing || !x.debts.isEmpty || !((SampDesc.of x.desc).geomOk w h) || !(s2.slotsFit b (SampDesc.of x.desc) w h)
    let p := if bad then s2.dropFrame m f else (s2, f)
    .next (p.1.setLive m { p.1.stream m with frame := some p.2 })

/-- A line of `w` pixels: pixels beyond are cut, missing ones stand as the last pixel received; where none was received
their codes are free. -/
def padLine (n w : Nat) (prev : Option (List Nat)) (gen y : Nat) (l : List Nat) : List Nat :=
  let row := l.take (n * w)
  let got := row.length / n
  let fill := if 0 < got then (row.take (n * got)).drop (n * (got - 1))
    else match prev with
      | some q => q.drop (q.length - n)
      | none => (List.range n).map (fun c => (Config.undefBits 16 gen (65536 * y + c)).toNat)
  row.take (n * got) ++ (List.replicate (w - got) fill).flatten

/-- LINE_PACKET (R272): a long packet of data type `dt` with its payload; `crcBad` marks a CRC failure, `hdrBad` an
uncorrectable header. -/
def execLinePacket (m : Fin 32) (dt : Byte) (crcBad hdrBad : Bool) (data : List Byte) (s : State) : Res :=
  if !(s.liveOn m) then .next s
  else if hdrBad then .next (s.bumpSat (Reg.ITK_STR_STAT m) 31 16)
  else
    let s1 := if crcBad then s.bumpSat (Reg.ITK_STR_STAT m) 31 16 else s
    match (s1.stream m).frame, packOfDt dt.toNat with
    | some f, some p =>
      if dt.toNat ≠ f.dt then .next s1
      else
        let f1 := if crcBad then { f with flags := f.flags ||| 2 } else f
        let put := fun (t : State) (f : LiveFrame) => t.setLive m { t.stream m with frame := some f }
        if f1.h ≤ f1.lines.length then .next (put s1 { f1 with flags := f1.flags ||| 8 })
        else
          let px := p.unpack (data.length + 1) data
          let n := p.kind.n
          let fl := if n * f1.w < px.length then 8 else if px.length < n * f1.w then 4 else 0
          let f2 := { f1 with
            flags := f1.flags ||| fl,
            lines := f1.lines ++ [padLine n f1.w f1.lines.getLast? f1.gen f1.lines.length px] }
          let q := liveRows m (f2.source false) f2.lines.length ((SampDesc.of f2.desc).outRows f2.w f2.h + 1) s1 f2
          .next (put q.1 q.2)
    | _, _ => .next s1

/-- FRAME_END (R272). -/
def execFrameEnd (m : Fin 32) (s : State) : Res := .next (s.endFrame m)

/-- SLOT_DEBT_PAY (R271): one owed slot is reserved and committed unwritten, a partly filled one first as it stands; the
frame's record follows its last. -/
def execSlotDebtPay (m : Fin 32) (s : State) : Res :=
  let b := s.strBind m
  let x := s.stream m
  match x.debts with
  | d :: ds =>
    (match s.outPay b d.out with
    | none => .next s
    | some (t, o) =>
      if d.owed ≤ 1 then .next ((t.setLive m { t.stream m with debts := ds }).liveRecord m d.record false)
      else .next (t.setLive m { t.stream m with debts := { d with owed := d.owed - 1, out := o } :: ds }))
  | [] =>
    match x.frame with
    | none => .next s
    | some f =>
      if !f.dropped ∨ f.noRing ∨ b.fslots ≤ f.out.total then .next s
      else match s.outPay b f.out with
        | none => .next s
        | some (t, o) => .next (t.setLive m { t.stream m with frame := some { f with out := o } })

/-! ## Memory jobs (R261, R275 to R277, R292) -/

/-- A job's field of its queue replaced. -/
def State.setJob (s : State) (n : Nat) (j : Job) : State := s.setJobq n { s.jobq n with job := some j }

/-- A job that a fault stops: held for the host, or, with a final cause, ended with CANCELLED (Table 11.6). -/
def State.jobFault (s : State) (n : Nat) (j : Job) (va : Nat) (f : TFault) (pos : Nat) : State :=
  let p := s.faultRaise ⟨.job n, (s.jqBind n).ctx, 16384 + n, 0, 0, pos⟩ va false f
  if causeHeld f.cause then p.2.setJob n { j with fault := some p.1 }
  else p.2.setJob n { j with ended := true, status := 0x0010 }

/-- JOB_START (R261): the next descriptor of the queue whose turn it is is read; after a repaired fault, again. -/
def execJobStart (n : Fin 4) (s : State) : Res :=
  let b := s.jqBind n
  let x := s.jobq n
  let head := s.fld (Reg.ITK_JQ_PTR n) 31 16
  let read := fun (t : State) (j : Job) =>
    match t.vread .intake b.ctx (s.fld (Reg.ITK_JQ_BASE n) 47 6 * 64 + 64 * (head % b.depth)) 64 with
    | (.ok d, u) => u.setJob n { j with desc := some d }
    | (.fault va _ f, u) => u.jobFault n j va f 0
    | (.ecc, u) => u.setJob n { j with ended := true, status := 0x0010 }
  match x.job with
  | some j => if j.desc.isNone ∧ j.fault.isNone ∧ !j.ended then .next (s.orWait (read s j)) else .next s
  | none =>
    if s.nextQueue ≠ some n.val then .next s
    else
      let (g, s0) := { s with jobLast := n.val }.draw
      let (t, s1) := s0.draw
      .next (s.orWait <| read s1 {
        desc := none, startS := s.tbS, startNs := s.tbNs, rows := [], jpeg := [], checked := false, ended := false,
        status := 0, flags := 0, overran := none, time := Config.choice t, fault := none, out := SampleOut.start, gen := g })

/-- The checks of a job's descriptor once its ring is there (R262, R266, R267, R269): the status that ends it. -/
def jobCheck (d : SampDesc) (w h sb fslots : Nat) : Option Nat :=
  if d.ofmt = 3 ∨ !(d.geomOk w h) ∨ !(d.slotsOk w h sb fslots) then some 0x0001 else none

/-- How the checks of a job came out: a status with flags ends it, or its source size. -/
inductive JobRes where
  | ends (status flags : Nat)
  | size (w h : Nat)
  deriving DecidableEq, Repr

/-- The checks of a JPEG job (R274, R275) on the bytes read. -/
def jpegCheck (d : SampDesc) (src : List Byte) (sb fslots : Nat) : JobRes :=
  match jpegHead src with
  | .unsupported => .ends 0x0305 32
  | .damaged => .ends 0x0305 0
  | .ok j =>
    let big := (d.ow == 0 || d.oh == 0) && d.geomOk j.w j.h && !(d.slotsOk j.w j.h sb fslots)
    if !(j.plausible src) || big then .ends 0x0303 0
    else match jobCheck d j.w j.h sb fslots with
      | some st => .ends st 0
      | none => .size j.w j.h

/-- The source frame of a job as read so far. -/
def Job.source (j : Job) : Frame :=
  let d := j.descOf
  if d.src = 2 then
    match jpegHead j.jpeg with
    | .ok h => h.frame j.jpeg j.overran
    | _ => ⟨.yuv, 0, 0, [], j.gen⟩
  else ⟨((packOfIn d.inFmt).map Packing.kind).getD .raw, d.sw, d.sh, j.rows, j.gen⟩

/-- A job's checks (R275): a JPEG's bytes are read first. -/
def jobBegin (n : Nat) (b : Binding) (r : Ring) (s : State) (j : Job) : State :=
  let d := j.descOf
  let ends := fun (t : State) (j : Job) (st fl : Nat) => t.setJob n { j with ended := true, status := st, flags := j.flags ||| fl }
  if d.reserved ∨ d.src = 0 ∨ d.src = 3 then ends s j 0x0001 0
  else if d.src = 1 then
    if (packOfIn d.inFmt).isNone ∨ d.sw = 0 ∨ 16384 < d.sw ∨ d.sh = 0 ∨ 16384 < d.sh then ends s j 0x0001 0
    else match jobCheck d d.sw d.sh r.sb b.fslots with
      | some st => ends s j st 0
      | none => s.setJob n { j with checked := true }
  else
    match s.vread .intake b.ctx d.va d.len with
    | (.fault va _ f, t) => t.jobFault n j va f 0
    | (.ecc, t) => ends t j 0x0010 0
    | (.ok src, t) =>
      match jpegCheck d src r.sb b.fslots with
      | .ends st fl => ends t j st fl
      | .size _ _ => t.setJob n { j with checked := true, jpeg := src }

/-- A job's next source row (SRC 1). -/
def jobReadRow (n : Nat) (b : Binding) (s : State) (j : Job) : State :=
  let d := j.descOf
  match packOfIn d.inFmt with
  | none => s
  | some p =>
    match s.vread .intake b.ctx (d.va + j.rows.length * d.len) (p.rowBytes d.sw) with
    | (.fault va _ f, t) => t.jobFault n j va f 0
    | (.ecc, t) => t.setJob n { j with ended := true, status := 0x0010 }
    | (.ok bs, t) => t.setJob n { j with rows := j.rows ++ [p.unpack d.sw bs] }

/-- The decode time per pixel at which a real-time job overruns, in 1/256 ns: K × AVG, K of 0 and 1 acting as 2 (R277). -/
def State.decodeLimit (s : State) : Nat := max 2 (s.fld Reg.ITK_DEC_CTRL 3 0) * s.fld Reg.ITK_DEC_CTRL 31 16

/-- Does a JPEG job of queue `n` pass its limit, by the decode time that is its own (a free value, Log 8)? -/
def State.tooSlow (s : State) (n : Nat) (j : Job) : Bool :=
  (s.jqBind n).rt && j.descOf.src == 2 && j.checked && !j.ended && decide (s.decodeLimit < j.time)

/-- The end of a job: status and flags of what its decoding met, AVG from a decode that did not overrun, then its record
(R273, R276, R277). -/
def State.jobFinish (s : State) (n : Nat) (j : Job) : State :=
  let d := j.descOf
  let decoded := d.src == 2 && j.checked
  let corrupt := decoded && (match jpegHead j.jpeg with
    | .ok h => h.corrupt j.jpeg
    | _ => false)
  let status := if j.status ≠ 0 then j.status else if j.overran.isSome then 0x0304 else if corrupt then 0x0305 else 0
  let flags := if decoded ∧ (j.overran.isSome ∨ corrupt) then j.flags ||| 16 else j.flags
  let avg : Int := s.fld Reg.ITK_DEC_CTRL 31 16
  let s1 := if decoded ∧ j.overran.isNone then
      s.setFld Reg.ITK_DEC_CTRL 31 16 (wrapOf 16 (avg + Int.fdiv ((j.time : Int) - avg) 16))
    else s
  s1.jobRecord n j status flags (j.out.slots == 0)

/-- A job goes on as far as it can: it waits at a slot that is not EMPTY, an unresolved ring or a fault, and one that will
pass its limit waits for that. -/
def jobRun (n : Nat) : Nat → State → State
  | 0, s => s
  | k + 1, s =>
    let b := s.jqBind n
    match (s.jobq n).job, s.bindRing b with
    | some j, some (_, r) =>
      if j.fault.isSome ∨ (j.desc.isNone ∧ !j.ended) ∨ (s.tooSlow n j ∧ j.overran.isNone) then s
      else
        let d := j.descOf
        let f := j.source
        if !j.checked ∧ !j.ended then jobRun n k (jobBegin n b r s j)
        else if j.ended ∨ d.outRows f.w f.h ≤ j.out.rows then
          if j.out.opened then
            let p := s.outCommit b j.out
            jobRun n k (p.1.setJob n { j with out := p.2 })
          else if b.fslots ≤ j.out.total then s.jobFinish n j
          else match s.outBlank b j.out with
            | some (t, o) => jobRun n k (t.setJob n { j with out := o })
            | none => s
        else if f.rows.length < d.needRows f.w f.h j.out.rows then jobRun n k (jobReadRow n b s j)
        else match s.outOpen b j.out with
          | none => s
          | some (s1, o) =>
            let i := j.out.rows
            let p := s1.outRow o (d.rowAt f.w f.h r.sb i).2 (f.outRow d i)
            let last := i + 1 == d.outRows f.w f.h || (d.rowAt f.w f.h r.sb (i + 1)).1 != (d.rowAt f.w f.h r.sb i).1
            let q := if last then p.1.outCommit b p.2 else p
            jobRun n k (q.1.setJob n { j with out := q.2 })
    | _, _ => s

/-- JOB_COMPLETE (R273): the running job writes its rows, commits its slots and completes once all are. -/
def execJobComplete (n : Fin 4) (s : State) : Res := .next (s.orWait (jobRun n 300000 s))

/-- DECODE_OVERRUN (R277): the running JPEG job of a real-time queue has passed its limit and stops decoding; how many MCUs
it had decoded is free (Log 8). -/
def execDecodeOverrun (n : Fin 4) (s : State) : Res :=
  match (s.jobq n).job with
  | some j =>
    if s.tooSlow n j ∧ j.overran.isNone ∧ j.out.rows < j.descOf.outRows j.source.w j.source.h then
      let (k, t) := s.draw
      .next (t.setJob n { j with overran := some (Config.choice k) })
    else .next s
  | none => .next s

/-! ## Register writes (R277, R291, R292) -/

/-- A write to ITK_JQn_PTR: TAIL, unless it would exceed the depth. -/
def State.jobTail (s : State) (n : Nat) (v : DWord) : State :=
  let tail := v.toNat % 65536
  if (s.jqBind n).depth < (tail + 65536 - s.fld (Reg.ITK_JQ_PTR n) 31 16) % 65536 then
    s.fwLog 5 0 2 0x0205 (leBytes 4 n ++ leBytes 2 tail)
  else s.setFld (Reg.ITK_JQ_PTR n) 15 0 tail

def execJobSubmit (fn : Fn) (n : Fin 4) (val : Word) (s : State) : Res :=
  .next (s.guardWrite fn (Reg.ITK_JQ_PTR n) 32 (BitVec.ofNat 64 val.toNat) (fun t => t.jobTail n (BitVec.ofNat 64 val.toNat)))

/-- A write to ITK_DEC_CTRL: K, and AVG_RESET returns AVG to 0x006B. -/
def State.decCtrl (s : State) (v : DWord) : State :=
  let s1 := s.hostSet Reg.ITK_DEC_CTRL v
  if bitOf v.toNat 4 then s1.setFld Reg.ITK_DEC_CTRL 31 16 0x6B else s1

def execAvgReset (fn : Fn) (val : Word) (s : State) : Res :=
  .next (s.guardWrite fn Reg.ITK_DEC_CTRL 32 (BitVec.ofNat 64 val.toNat) (fun t => t.decCtrl (BitVec.ofNat 64 val.toNat)))

/-- A write to a ring binding register: while EN is 1 only EN takes effect; setting EN restarts SEQ; clearing it ends what
the stream or the queue had open. -/
def State.bindWrite (s : State) (off : Nat) (v : DWord) (set clear : State → State) : State :=
  let was := s.flag off 0
  let now := bitOf v.toNat 0
  let s1 := if was then s.setFlag off 0 now else s.hostSet off v
  if !was && now then set s1 else if was && !now then clear s1 else s1

/-- ITK_STRm_RING. -/
def State.strRing (s : State) (m : Nat) (v : DWord) : State :=
  s.bindWrite (Reg.ITK_STR_RING m) v (fun t => t.setLive m { t.stream m with seq := 0 })
    (fun t => t.setLive m { t.stream m with frame := none, debts := [] })

/-- ITK_JQn_RING. -/
def State.jqRing (s : State) (n : Nat) (v : DWord) : State :=
  s.bindWrite (Reg.ITK_JQ_RING n) v (fun t => t.setJobq n { t.jobq n with seq := 0 })
    (fun t =>
      let f := match (t.jobq n).job with
        | some j => j.fault
        | none => none
      { t.setJobq n { t.jobq n with job := none } with faults := t.faults.filter (fun h => some h.fid != f) })

/-- STATE of ITK_STRm_STAT (Table 9.13). -/
def State.strState (s : State) (m : Nat) : Nat :=
  let x := s.stream m
  if !(s.liveOn m) then 0
  else match x.frame with
    | some f => if f.dropped && !f.noRing && decide (f.out.total < (s.strBind m).fslots) then 4 else 3
    | none => if !x.debts.isEmpty then 4 else if (s.bindRing (s.strBind m)).isNone then 1 else 2

end Sys2Proof.Machine
end

