-- ==== Sys2Proof/Machine/Conv.lean ====
section
/-! DEFINITION. Convolution descriptors (R280 to R285): the checks of Table 9.6, the output extent, stripes and tiles, the
window slots with tap elision, and the pixels a stripe stages. -/
namespace Sys2Proof.Machine

/-- A convolution descriptor (Table 9.6). -/
structure ConvDesc where
  inVa : Nat
  h : Nat
  w : Nat
  c : Nat
  cc : Nat
  pitch : Nat
  kh : Nat
  kw : Nat
  sh : Nat
  sw : Nat
  dh : Nat
  dw : Nat
  pt : Nat
  pb : Nat
  pl : Nat
  pr : Nat
  fmt : Nat
  padMode : Nat
  padValue : Nat
  zp : Int
  mt : Nat
  handle : Nat
  slots : Nat
  stripeRows : Nat
  stageBase : Nat
  stageUnits : Nat
  deriving DecidableEq, Repr

def ConvDesc.of (b : List Byte) : ConvDesc where
  inVa := recNat b 0 8
  h := recNat b 8 2
  w := recNat b 10 2
  c := recNat b 12 2
  cc := recNat b 14 2
  pitch := recNat b 16 4
  kh := recNat b 20 1
  kw := recNat b 21 1
  sh := recNat b 22 1
  sw := recNat b 23 1
  dh := recNat b 24 1
  dw := recNat b 25 1
  pt := recNat b 26 1
  pb := recNat b 27 1
  pl := recNat b 28 1
  pr := recNat b 29 1
  fmt := recNat b 30 1
  padMode := recNat b 31 1
  padValue := recNat b 32 2
  zp := signedOf 16 (recNat b 34 2)
  mt := recNat b 36 1 + 1
  handle := recNat b 37 1
  slots := recNat b 38 1
  stripeRows := recNat b 40 2
  stageBase := recNat b 42 2
  stageUnits := recNat b 44 2

/-- Bytes of an element; 0 where the format is not one of Table 9.6. -/
def ConvDesc.eb (d : ConvDesc) : Nat :=
  match Fmt.ofCode d.fmt with
  | some .int8 | some .uint8 | some .fp8e4m3 | some .fp8e5m2 => 1
  | some .bf16 | some .fp16 => 2
  | _ => 0

/-- Is the input an integer format? -/
def ConvDesc.isInt (d : ConvDesc) : Bool := d.fmt == 2 || d.fmt == 3

/-- Bytes of a row of a window slot. -/
def ConvDesc.rowBytes (d : ConvDesc) : Nat := d.cc * d.eb

/-- Berths of a window slot (R283). -/
def ConvDesc.sb (d : ConvDesc) : Nat := ceilDiv' (1 + d.mt * d.rowBytes / 16) 256

/-- Is every value of a list between bounds? -/
def allIn (lo hi : Nat) (l : List Nat) : Bool := l.all (fun x => decide (lo ≤ x) && decide (x ≤ hi))

/-- The field checks of R281 (Table 9.6, the K bound, and the ring bound of R167) on descriptor bytes. -/
def convFieldsOk (b : List Byte) : Bool :=
  let d := ConvDesc.of b
  d.inVa % 16 == 0 && allIn 1 16384 [d.h, d.w] && decide (1 ≤ d.c) && decide (1 ≤ d.cc) && d.c % d.cc == 0
    && d.eb != 0 && d.rowBytes % 16 == 0 && decide (64 ≤ d.rowBytes) && d.pitch % 16 == 0
    && allIn 1 16 [d.kh, d.kw] && allIn 1 64 [d.sh, d.sw, d.dh, d.dw] && decide (d.padMode < 3)
    && decide (d.mt ≤ 128) && decide (d.handle < 16) && allIn 3 32 [d.slots] && recZero b 39 1
    && decide (1 ≤ d.stripeRows) && recZero b 46 18
    && decide (d.stageBase + 2 * d.stageUnits ≤ 2048)
    && decide (d.kh * d.kw * d.c ≤ 65536)
    && decide (d.sb ≤ 16) && decide (d.slots * d.sb ≤ 128)

/-- An output extent (R281), floor toward minus infinity. -/
def convExtent (n p0 p1 dil k st : Nat) : Int :=
  Int.fdiv ((n : Int) + p0 + p1 - dil * ((k : Int) - 1) - 1) st + 1

def ConvDesc.oh (d : ConvDesc) : Int := convExtent d.h d.pt d.pb d.dh d.kh d.sh
def ConvDesc.ow (d : ConvDesc) : Int := convExtent d.w d.pl d.pr d.dw d.kw d.sw

/-- Stripes of the command (R282). -/
def ConvDesc.stripeCount (d : ConvDesc) : Nat := ceilDiv' d.oh.toNat d.stripeRows

/-- Positions of stripe `st`, row-major. -/
def ConvDesc.positions (d : ConvDesc) (st : Nat) : Nat :=
  min d.stripeRows (d.oh.toNat - st * d.stripeRows) * d.ow.toNat

/-- Tiles of a stripe. -/
def ConvDesc.tiles (d : ConvDesc) (st : Nat) : Nat := ceilDiv' (d.positions st) d.mt

/-- The index of the first tile of a stripe within the command. -/
def ConvDesc.tileBase (d : ConvDesc) (st : Nat) : Nat := ((List.range st).map d.tiles).foldl (· + ·) 0

/-- The output position of stripe position `i`. -/
def ConvDesc.outPos (d : ConvDesc) (st i : Nat) : Nat × Nat := (st * d.stripeRows + i / d.ow.toNat, i % d.ow.toNat)

/-- The input coordinates tap `t` reads for an output position. -/
def ConvDesc.tapAt (d : ConvDesc) (o : Nat × Nat) (t : Nat) : Int × Int :=
  ((o.1 : Int) * d.sh - d.pt + (t / d.kw : Nat) * d.dh, (o.2 : Int) * d.sw - d.pl + (t % d.kw : Nat) * d.dw)

/-- Is a coordinate inside the image? -/
def ConvDesc.inside (d : ConvDesc) (p : Int × Int) : Bool :=
  decide (0 ≤ p.1) && decide (p.1 < d.h) && decide (0 ≤ p.2) && decide (p.2 < d.w)

/-- The pixel read for a coordinate: itself, the clamped one with edge-replicate padding, or none (R283). -/
def ConvDesc.pixel (d : ConvDesc) (p : Int × Int) : Option (Nat × Nat) :=
  if d.inside p then some (p.1.toNat, p.2.toNat)
  else if d.padMode = 2 then some ((max 0 (min p.1 (d.h - 1))).toNat, (max 0 (min p.2 (d.w - 1))).toNat)
  else none

/-- The 16-bit fill pattern (R283). -/
def ConvDesc.fill (d : ConvDesc) : Nat :=
  if d.padMode = 1 then d.padValue else if d.isInt then wrapOf 8 d.zp * 257 else 0

/-- Stripe positions of tile `i` of a stripe. -/
def ConvDesc.tilePos (d : ConvDesc) (st i : Nat) : List Nat :=
  (List.range (min d.mt (d.positions st - i * d.mt))).map (· + i * d.mt)

/-- Taps delivered for a tile (R284). -/
def ConvDesc.taps (d : ConvDesc) (st i : Nat) : List Nat :=
  let all := List.range (d.kh * d.kw)
  if d.padMode = 0 ∧ d.fill = 0 then
    match all.filter (fun t => (d.tilePos st i).any (fun p => d.inside (d.tapAt (d.outPos st p) t))) with
    | [] => [0]
    | l => l
  else all

/-- A window slot: stripe, tile within the stripe, tap, first channel, whether first or last of its tile. -/
structure ConvSlot where
  st : Nat
  tile : Nat
  tap : Nat
  c0 : Nat
  first : Bool
  last : Bool
  deriving DecidableEq, Repr

/-- The slots of one tile in order: taps ascending, chunks ascending (R283). -/
def ConvDesc.tileSlots (d : ConvDesc) (st i : Nat) : List ConvSlot :=
  let l := (d.taps st i).flatMap (fun t => (List.range (d.c / d.cc)).map (fun k => (t, k * d.cc)))
  (l.zipIdx).map (fun p => ⟨st, i, p.1.1, p.1.2, p.2 == 0, p.2 + 1 == l.length⟩)

/-- The window slots of a slice's stripes. -/
def ConvDesc.slotsOf (d : ConvDesc) (stripes : List Nat) : List ConvSlot :=
  stripes.flatMap (fun st => (List.range (d.tiles st)).flatMap (d.tileSlots st))

/-- The lexicographic order of pixels. -/
def pixLe (a b : Nat × Nat) : Bool := decide (a.1 < b.1) || (a.1 == b.1 && decide (a.2 ≤ b.2))

/-- The pixels a stripe stages, ascending (R285): those some delivered tap reads. -/
def ConvDesc.pixels (d : ConvDesc) (st : Nat) : List (Nat × Nat) :=
  let all := (List.range (d.tiles st)).flatMap (fun i =>
    (d.taps st i).flatMap (fun t => (d.tilePos st i).filterMap (fun p => d.pixel (d.tapAt (d.outPos st p) t))))
  sortBy pixLe all.eraseDups

/-- Bytes of one staged pixel. -/
def ConvDesc.pixBytes (d : ConvDesc) : Nat := d.c * d.eb

/-- Does a stripe's staged input fit its buffer (R285)? -/
def ConvDesc.stageFits (d : ConvDesc) (st : Nat) : Bool := decide ((d.pixels st).length * d.pixBytes ≤ d.stageUnits * 4096)

/-- The virtual address of a pixel's channel `c` (R280). -/
def ConvDesc.pixVa (d : ConvDesc) (p : Nat × Nat) (c : Nat) : Nat := d.inVa + p.1 * d.pitch + (p.2 * d.c + c) * d.eb

/-- The runs of adjacent pixels of a row among some ascending pixels: the first pixel, how many, and how many pixels come
before it. -/
def pixRuns : (before : Nat) → List (Nat × Nat) → List ((Nat × Nat) × Nat × Nat)
  | _, [] => []
  | n, p :: t => match pixRuns (n + 1) t with
    | (q, k, m) :: l => if q = (p.1, p.2 + 1) ∧ m = n + 1 then (p, k + 1, n) :: l else (p, 1, n) :: (q, k, m) :: l
    | [] => [(p, 1, n)]

/-- The runs that stage a stripe (Log 71), each with its offset in the buffer, its virtual address and its bytes. -/
def ConvDesc.stageRuns (d : ConvDesc) (st : Nat) : List (Nat × Nat × Nat) :=
  (pixRuns 0 (d.pixels st)).map (fun r => (r.2.2 * d.pixBytes, d.pixVa r.1 0, r.2.1 * d.pixBytes))

/-- The header cell of a window slot (Table 9.7). -/
def ConvDesc.header (d : ConvDesc) (s : ConvSlot) : List Byte :=
  leBytes 2 (s.tap * d.c + s.c0) ++ leBytes 2 0 ++ leBytes 4 (d.tileBase s.st + s.tile)
    ++ leBytes 1 ((d.tilePos s.st s.tile).length - 1) ++ leBytes 1 (boolNat s.first + 2 * boolNat s.last) ++ leBytes 6 0

end Sys2Proof.Machine
end

