-- ==== Sys2Proof/Machine/Determ.lean ====
section
/-! DEFINITION. Determinism instructions (R191 to R193): STEP, RNG, DIGEST. -/
namespace Sys2Proof.Machine

/-- STEP: REG is MOD bit 49; the block counter restarts at 0. -/
def stepEnc (w : IWord) : Bool :=
  if w.mod 49 then Enc.ok ⟨.zero, .reg .s, .zero, 0, 2, .never⟩ w
  else Enc.ok ⟨.zero, .zero, .zero, 0xFFFFFF, 2, .never⟩ w

def stepBody (c : Nat) (w : IWord) (s : State) : IRes :=
  IRes.regs s c (fun r => { r with
    stream := if w.mod 49 then (r.getS w.src1).toNat % 2 ^ 24 else w.imm, block := 0 })

def execStep (c : CoreId) (s : State) : Res := .next (issue (rowOpc 0xD0) stepEnc (stepBody c) c s)

/-- The form DIST of a lane (R192): the 32 bits, or their upper 24 as an FP32 value in [0, 1). -/
def rngForm (dist : Nat) (u : Word) : Word := if dist = 0 then u else f32Quot false (u.toNat / 256) 1 (-24)

/-- RNG: E is MOD bit 49. With E the lanes come from the entropy source, drawn afresh. -/
def rngBody (c : Nat) (w : IWord) (s : State) : IRes :=
  let dist := w.immBits 1 0
  let sl := (s.core c).sl
  if w.mod 49 then
    let s1 := { s with free := s.free + 128 }
    IRes.regs (s1.ndRise sl.ctx sl.q) c (fun r => r.setLanes (regIdx w.dst) ((List.range 128).map (fun i =>
      rngForm dist (Config.entropy (s.free + i)))))
  else
    let seed0 := s.reg (Reg.SCH_CTX_SEED sl.ctx 0)
    let seed1 := s.reg (Reg.SCH_CTX_SEED sl.ctx 1)
    IRes.regs s c (fun r =>
      { r.setLanes (regIdx w.dst) ((List.range 128).map (fun i =>
          rngForm dist (gLane seed0 seed1 (BitVec.ofNat 64 sl.step) sl.idx r.stream r.block i))) with
        block := (r.block + 1) % 2 ^ 32 })

def execRng (c : CoreId) (s : State) : Res :=
  .next (issue (rowOpc 0xD1) (fun w => Enc.ok ⟨.reg .v, .zero, .zero, 3, 2, .never⟩ w && decide (w.immBits 1 0 ≤ 1)) (rngBody c) c s)

/-! ## DIGEST -/

/-- OP of DIGEST, MOD bits [50:49]. -/
def IWord.digestOp (w : IWord) : Nat := bitsOf w.w1 50 49

/-- Is the stream one whose bytes are digested (R530): on a bulk ferry, for a command with DIGEST set? -/
def State.digested (s : State) (f : Nat) (st : Stream) : Bool :=
  decide (128 ≤ f) && (match tabFind s.queues st.q with
    | some m => bitOf m.flags 1
    | none => false)

/-- Are the four hash units of core `c`'s island all busy with the digested streams of its bulk ferries (R193, R530)? -/
def State.hashFull (s : State) (c : Nat) : Bool :=
  (List.range 4).all (fun b =>
    let f := 128 + 4 * islandOf c + b
    match (s.ferry f).stream with
    | some st => s.digested f st
    | none => false)

/-- DIGEST words of operation `op`; the undefined OP 3 is every row's. -/
def digestRow (op : Nat) (w : IWord) : Bool := w.opc == 0xD2 && (w.digestOp == op || w.digestOp == 3)

def digestEnc (w : IWord) : Bool := Enc.ok ⟨.zero, .reg .s, .zero, 0xFFF, 7, .never⟩ w && w.digestOp != 3

def digestInitBody (c : Nat) (w : IWord) (s : State) : IRes :=
  if s.hashFull c then .wait s .hash
  else IRes.regs s c (fun r => { r with digests := tabDel r.digests (w.immBits 1 0) })

def digestAbsBody (c : Nat) (w : IWord) (s : State) : IRes :=
  let a := ((s.core c).regs.getS w.src1).toNat
  let n := w.immBits 11 2 + 1
  if 32768 < a + n then .fail s stInvalidProgram
  else if s.hashFull c then .wait s .hash
  else
    match s.readCells c (w.mod 48) ((List.range n).map (· + a)) with
    | .error e => e
    | .ok s1 =>
      let bs := (s1.core c).lgnBytes (16 * a) (16 * n)
      IRes.regs s1 c (fun r => { r with
        digests := tabPut r.digests (w.immBits 1 0) (tabGet [] r.digests (w.immBits 1 0) ++ bs) })

def digestFinBody (c : Nat) (w : IWord) (s : State) : IRes :=
  let r := (s.core c).regs
  let a := (r.getS w.src1).toNat
  if 32768 < a + 2 then .fail s stInvalidProgram
  else if s.hashFull c then .wait s .hash
  else
    match s.lgnGrant c (w.mod 48) true [a, a + 1] with
    | some e => e
    | none =>
      let s1 := s.setCore c ((s.core c).lgnPoke (16 * a) (shake256 (tabGet [] r.digests (w.immBits 1 0))))
      IRes.regs s1 c (fun r => { r with digests := tabDel r.digests (w.immBits 1 0) })

/-- The digest context and the cells of DIGEST (R104). -/
def digestTouch (k : Core) (w : IWord) : Touch :=
  let a := (k.regs.getS w.src1).toNat
  { wr := [0x100 + w.immBits 1 0],
    crd := if w.digestOp = 1 then [(a, w.immBits 11 2 + 1)] else [],
    cwr := if w.digestOp = 2 then [(a, 2)] else [] }

def execDigestInit (c : CoreId) (s : State) : Res :=
  .next (issueOn digestTouch (digestRow 0) digestEnc (digestInitBody c) c s)
def execDigestAbs (c : CoreId) (s : State) : Res :=
  .next (issueOn digestTouch (digestRow 1) digestEnc (digestAbsBody c) c s)
def execDigestFin (c : CoreId) (s : State) : Res :=
  .next (issueOn digestTouch (digestRow 2) digestEnc (digestFinBody c) c s)

end Sys2Proof.Machine
end

