-- ==== Sys2Proof/Machine/Epilogue.lean ====
section
/-! DEFINITION. ZPC and EPI (R139 to R146): zero-point correction, scales, bias, activation, residual and the narrowing
store of accumulator rows, row by row. -/
namespace Sys2Proof.Machine

/-- The operands of ZPC and EPI (R139, Table 5.7). -/
structure EpiOp where
  zpc : Bool
  td : TileDesc
  xs : TileDesc
  ws : TileDesc
  ro : Nat
  m : Nat
  nb : Nat
  ad : Nat
  csRef : Nat
  csEn : Bool
  biasRef : Nat
  biasEn : Bool
  act : Nat
  res : Option TileDesc
  nz : Bool
  rel : Bool
  u : Bool
  deriving DecidableEq, Repr

def EpiOp.of (r : CoreRegs) (w : IWord) (zpc : Bool) : EpiOp where
  zpc := zpc
  td := r.getT (regIdx w.dst)
  xs := r.getT (regIdx w.src1)
  ws := r.getT (regIdx w.src2)
  ro := w.immBits 23 17
  m := w.immBits 16 10 + 1
  nb := w.immBits 9 7 + 1
  ad := w.immBits 6 4
  csRef := w.w2Bits 14 0
  csEn := bitOf w.w2 15
  biasRef := w.w2Bits 30 16
  biasEn := !zpc && bitOf w.w2 31
  act := w.w2Bits 35 32
  res := if !zpc && bitOf w.w2 48 then some (r.getT (regIdx (w.w2Bits 47 40))) else none
  nz := !zpc && w.mod 49
  rel := !zpc && w.mod 50
  u := w.mod 48

/-- Output columns of the instruction. -/
def EpiOp.cols (o : EpiOp) : Nat := 64 * o.nb
/-- Columns stored (R143). -/
def EpiOp.ncol (o : EpiOp) : Nat := min o.td.cols o.cols
/-- Rows computed (R143). -/
def EpiOp.rows (o : EpiOp) : Nat := if o.zpc then o.m else min o.m o.td.rows

/-- The checks of R92, R139, R140 and R143 made before anything changes. Column sums and biases are held to the cells that
exist as scales and zero points are (DESIGN CHOICE, Log 77). -/
def EpiOp.ok (o : EpiOp) : Bool :=
  decide (o.ad + o.nb ≤ 8) && decide (o.ro + o.m ≤ 128) && sideOk o.xs && sideOk o.ws
    && (o.nz || (o.xs.zpOk o.rows && o.ws.zpOk o.cols && (!o.csEn || spanOk (16 * o.csRef) (4 * o.cols))))
    && (o.zpc || (o.xs.scOk o.rows && o.ws.scOk o.cols && tileOk o.td && o.td.mxOk o.rows 0 o.ncol
      && (!o.td.fmtIs Fmt.isInt || (o.td.scOk o.ncol && o.td.zpOk o.ncol))
      && (!o.td.fmtIs Fmt.isMx || o.ncol % 32 == 0)
      && (!o.biasEn || spanOk (16 * o.biasRef) (4 * o.cols))
      && (match o.res with
          | none => true
          | some t => tileOk t && t.mxOk o.rows 0 o.cols
              && (!t.fmtIs Fmt.isInt || (t.zpOk (min o.rows t.rows) && t.scOk (min o.rows t.rows))))))

/-- The cells a row reads (R144). -/
def EpiOp.readCells (o : EpiOp) (r : Nat) : List Nat :=
  (if o.nz then [] else o.xs.zpCells r 1 ++ o.ws.zpCells 0 o.cols ++
      (if o.csEn then byteCells (16 * o.csRef) (4 * o.cols) else []))
    ++ (if o.zpc then [] else
      o.xs.scCells r 1 ++ o.ws.scCells 0 o.cols ++ (if o.biasEn then byteCells (16 * o.biasRef) (4 * o.cols) else [])
        ++ (if o.td.fmtIs Fmt.isInt then o.td.scCells 0 o.ncol ++ o.td.zpCells 0 o.ncol else [])
        ++ (match o.res with
            | none => []
            | some t => t.blockCells r 0 o.cols ++
                (if t.rows ≤ r then [] else if t.fmtIs Fmt.isInt then t.zpCells r 1 ++ t.scCells r 1 else [])))

/-- The cells a row writes. -/
def EpiOp.writeCells (o : EpiOp) (r : Nat) : List Nat := if o.zpc then [] else o.td.blockCells r 0 o.ncol

/-- zp_correct of R71. -/
def zpCorrect (c : Word) (za zw rowsum colsum k : Int) : Word :=
  let c1 := if zw ≠ 0 then subR c (intR (zw * rowsum)) else c
  let c2 := if za ≠ 0 then subR c1 (intR (za * colsum)) else c1
  if za ≠ 0 ∧ zw ≠ 0 then addR c2 (intR (k * za * zw)) else c2

/-- The activation functions of Table 5.7. -/
def actApply (act : Nat) (c : Word) : Word :=
  match act with
  | 0 => c
  | 1 => if (f32Val c).isNan then f32Nan else if (FVal.fin false 0 0).lt (f32Val c) then c else 0
  | 2 => sfnApply .gelu c
  | 3 => sfnApply .geluTanh c
  | 4 => sfnApply .silu c
  | 5 => sfnApply .sigmoid c
  | _ => sfnApply .tanh c

/-- The residual element (R142). -/
def Core.residual (k : Core) (t : TileDesc) (r c : Nat) : Word :=
  match k.elem t r c with
  | none => 0
  | some v =>
    if t.fmtIs Fmt.isInt then f32Rne ((FVal.ofInt (k.elemInt t r c - k.zeroPoint t r)).mul (f32Val (k.scaleOf t r)))
    else f32Rne v

/-- The corrected value of column `col` in accumulator row `row` (R141). -/
def EpiOp.correct (o : EpiOp) (k : Core) (r col : Nat) : Word :=
  let a := o.ad + col / 64
  let row := o.ro + r
  let c := k.regs.getAcc a row (col % 64)
  if o.nz then c
  else
    let cs := if o.csEn then signedOf 32 (k.lgnW32 (16 * o.csRef + 4 * col)).toNat else 0
    zpCorrect c (k.zeroPoint o.xs r) (k.zeroPoint o.ws col) (k.regs.getSum a row).toInt cs (k.regs.getCnt a row).toNat

/-- The output element of column `col` (R141). -/
def EpiOp.out (o : EpiOp) (k : Core) (r col : Nat) : Word :=
  let c0 := o.correct k r col
  let c1 := mulR (mulR c0 (k.scaleOf o.xs r)) (k.scaleOf o.ws col)
  let c2 := if o.biasEn then addR c1 (k.lgnW32 (16 * o.biasRef + 4 * col)) else c1
  let c3 := actApply o.act c2
  match o.res with
  | none => c3
  | some t => addR c3 (k.residual t r col)

/-- Blocks of 32 elements of a list. -/
def blocks32 (fuel : Nat) (l : List FVal) : List (List FVal) :=
  match fuel with
  | 0 => []
  | k + 1 => if l = [] then [] else l.take 32 :: blocks32 k (l.drop 32)

/-- The codes, MX scale bytes and flags of a narrowed row (R143, R73 to R76). -/
def EpiOp.narrow (o : EpiOp) (k : Core) (f : Fmt) (ys : List Word) : List Nat × List Nat × NFlags :=
  let vs := ys.map f32Val
  let flags := fun (l : List (Nat × NFlags)) => l.foldl (fun a p => a.or p.2) NFlags.none
  if f.isMx then
    let bl := (blocks32 vs.length vs).map (mxBlock f.mxElem)
    let cs := bl.flatMap (·.2)
    (cs.map (·.1), bl.map (·.1), flags cs)
  else
    let cs := match f.grid with
      | some g => vs.map (g.narrow o.td.ovf)
      | none => (vs.zipIdx).map (fun p =>
          let q := narrowInt f.intRange.1 f.intRange.2 (f32Val (k.scaleOf o.td p.2)) (k.zeroPoint o.td p.2) p.1
          (wrapOf f.bits q.1, q.2))
    (cs.map (·.1), [], flags cs)

/-- The store of a row of outputs: MX scale bytes, then the packed codes; the flags are raised. -/
def EpiOp.store (o : EpiOp) (c r : Nat) (f : Fmt) (s : State) : State :=
  let k := s.core c
  let n := o.narrow k f ((List.range o.ncol).map (o.out k r))
  let k1 := (n.2.1.zipIdx).foldl (fun k p => k.lgnPoke (o.td.mxScaleByte r p.2) [BitVec.ofNat 8 p.1]) k
  (s.setCore c (k1.putRow o.td f.bits r n.1)).raiseFlags c n.2.2

/-- The partly covered lagoon words of a row's store. -/
def EpiOp.mergeWords (o : EpiOp) (f : Fmt) (r : Nat) : List Nat :=
  o.td.mergeWord r (o.ncol * f.bits) ++
    (if f.isMx then (List.range (o.ncol / 32)).map (fun b => o.td.mxScaleByte r b / 8) else [])

/-- ZPC of a row: c written back (R141). -/
def EpiOp.zpcRow (o : EpiOp) (k : Core) (r : Nat) : Core :=
  (List.range o.nb).foldl (fun a j =>
    a.putAccRow (o.ad + j) (o.ro + r) ((List.range 64).map (fun n => o.correct k r (64 * j + n)))) k

/-- Row `r` (R141, R143, R144). -/
def EpiOp.step (o : EpiOp) (c r : Nat) (s : State) : Except IRes State :=
  if !o.zpc && decide (o.td.rows ≤ r) then .ok s else
  let s0 := s.setResume c 0 r
  match s0.readCells c o.u (o.readCells r) with
  | .error e => .error e
  | .ok s1 =>
    match s1.lgnGrant c o.u true (o.writeCells r) with
    | some e => .error e
    | none =>
      if !o.nz && !o.csEn && decide ((s1.core c).zeroPoint o.xs r ≠ 0) then .error (.fail s1 stInvalidProgram)
      else
        match s1.accRead c ((List.range o.nb).flatMap (fun j => accWords (o.ad + j) (o.ro + r))) with
        | .error e => .error e
        | .ok s2 =>
          if o.zpc then .ok (s2.setCore c (o.zpcRow (s2.core c) r))
          else
            match o.td.fmt with
            | none => .ok s2
            | some f =>
              match s2.lgnMerge c (o.mergeWords f r) with
              | .error e => .error e
              | .ok s3 => .ok (o.store c r f s3)

/-- Rows `[r, r + n)`; between two rows a preemption may stop the instruction (R107). -/
def EpiOp.loop (o : EpiOp) (c : Nat) : (n r : Nat) → State → Except IRes State
  | 0, _, s => .ok s
  | n + 1, r, s =>
    match o.step c r s with
    | .error e => .error e
    | .ok s1 =>
      match (if n = 0 then (false, s1) else s1.rowStop c) with
      | (true, s2) => .error (.wait (s2.setResume c 0 (r + 1)) .row)
      | (false, s2) => o.loop c n (r + 1) s2

/-- Banks ad to ad + NB − 1 stop being live (R145); their contents are undefined from now on (R87). -/
def State.releaseBanks (s : State) (c ad nb : Nat) : State :=
  let k := s.core c
  s.setRegs c { k.regs with
    live := (List.range nb).foldl (fun l j => BitVec.ofNat 8 (bitsPut l.toNat (ad + j) (ad + j) 0)) k.regs.live }

def epiBody (zpc : Bool) (c : Nat) (w : IWord) (s : State) : IRes :=
  let r := (s.core c).regs
  let o := EpiOp.of r w zpc
  if !o.ok then .fail s stInvalidProgram
  else
    let r0 := match r.resume with
      | none => 0
      | some p => p.2
    match o.loop c (o.m - r0) r0 s with
    | .error e => e
    | .ok s1 => .done (if o.rel then s1.releaseBanks c o.ad o.nb else s1)

/-- ZPC's encoding: DST 0, CS_REF and CS_EN alone in the second word. -/
def zpcEnc (w : IWord) : Bool :=
  Enc.ok ⟨.zero, .reg .t, .reg .t, 0xFFFFF0, 1, .required⟩ w && w.w2Bits 63 16 == 0

/-- EPI's encoding (Table 5.7). -/
def epiEnc (w : IWord) : Bool :=
  Enc.ok ⟨.reg .t, .reg .t, .reg .t, 0xFFFFF0, 7, .required⟩ w
    && w.w2Bits 39 36 == 0 && w.w2Bits 63 49 == 0 && decide (w.w2Bits 35 32 ≤ 6)
    && (!(bitOf w.w2 48) || decide (regKind (w.w2Bits 47 40) = .t))

/-- The cells and accumulator groups of ZPC and EPI (R104). -/
def epiTouch (zpc : Bool) (k : Core) (w : IWord) : Touch :=
  let o := EpiOp.of k.regs w zpc
  if !o.ok then {}
  else
    let g := accGroups o.ad o.nb o.ro o.m
    { rd := (if zpc || o.rel then [] else g) ++ (if o.res.isSome then [w.w2Bits 47 40] else []),
      wr := if zpc || o.rel then g else [],
      crd := oneCells ((List.range o.rows).flatMap o.readCells), cwr := oneCells ((List.range o.rows).flatMap o.writeCells) }

def execZpc (c : CoreId) (s : State) : Res := .next (issueOn (epiTouch true) (rowOpc 0x23) zpcEnc (epiBody true c) c s)
def execEpi (c : CoreId) (s : State) : Res := .next (issueOn (epiTouch false) (rowOpc 0x24) epiEnc (epiBody false c) c s)

end Sys2Proof.Machine
end

