-- ==== Sys2Proof/Machine/Claims.lean ====
section
/-! DEFINITION. Claims on shared resources (R575 to R577) and the agents that write the shore's windows (Table 13.7). -/
namespace Sys2Proof.Machine

/-- The window of an agent (Tables 13.7 and 14.2). -/
def whoWin : Who → Nat
  | .host _ => 0
  | .sch => 1
  | .icc => 2
  | .lhs => 3

/-- Is an access of the natural width and alignment of the register it names (R13)? -/
def widthOk (off width : Nat) : Bool := match regAt off with
  | some (g, _) => g.width == width
  | none => false

/-- Can an agent act: the scheduler firmware not while it is halted or restarts, the Lighthouse not once it has halted? -/
def State.whoActs (s : State) (w : Who) : Bool :=
  match w with
  | .sch => !s.schPaused
  | .lhs => !(s.compHalted 4)
  | _ => true

/-- A register write by an agent: the host's passes what every access passes; the firmware's own acts where its width is the
register's, and is ignored otherwise (R13, Log 53); firmware that does not run writes nothing. -/
def State.whoWrite (s : State) (w : Who) (off width : Nat) (val : DWord) (eff : State → State) : State :=
  match w with
  | .host fn => s.guardWrite fn off width val eff
  | _ => if widthOk off width && s.whoActs w then eff s else s

/-- Is an agent the host or the scheduler firmware (R410)? -/
def hostOrSch : Who → Bool
  | .host _ => true
  | .sch => true
  | _ => false

/-- Writes that reach one register in one shore cycle act in window order, the host's first, and the last decides (R410,
R425): a write is followed by those that agents of later windows have already made in this cycle. `key` is the register's
place, `f` the effect of a window's write. -/
def State.ordered (s : State) (w : Who) (key : Nat) (v : DWord) (f : Nat → DWord → State → State) : State :=
  let n := whoWin w
  let later := sortBy (fun (a b : WinWrite) => decide (a.win ≤ b.win)) (s.winNow.filter (fun x => x.key == key && decide (n < x.win)))
  let s1 := later.foldl (fun (t : State) x => f x.win x.val t) (f n v s)
  if n = 0 then s1 else { s1 with winNow := s1.winNow ++ [⟨n, key, v⟩] }

/-! ## The timebase -/

/-- The whole timebase in units of 2^-32 ns. -/
def State.tbValue (s : State) : Nat := 2 ^ 32 * s.nowNs + s.tbFrac

/-- The value of the timebase `ns` nanoseconds ago, in its units: that of the tick then in force, through the steps and
changes of rate since (R430, R449). -/
def State.tbBack (s : State) (ns : Nat) : Nat :=
  let n := (ns + 3) / 4
  let c := s.cyc - 2 * n
  match s.tbPast.find? (fun a => decide (a.cyc ≤ c)) with
  | some a => a.val + a.incr * ((c - a.cyc) / 2)
  | none =>
    match s.tbPast.getLast? with
    | some a => a.val - a.incr * ((a.cyc - c) / 2)
    | none => s.tbValue - (s.reg Reg.TIM_INCR).toNat * n

/-! ## Claims -/

/-- Is a number a resource of Table 20.7? -/
def resValid (r : Nat) : Bool :=
  decide (r < 12) || (decide (0x10 ≤ r) && decide (r < 0x24)) || (decide (0x28 ≤ r) && decide (r < 0x2A))
    || (decide (0x400 ≤ r) && decide (r < 0x800))

/-- The resources that conflict with one (Table 20.7: shared balls). -/
def resConflicts : Nat → List Nat
  | 0x0A => [0x20, 0x21]
  | 0x0B => [0x22, 0x23]
  | 0x20 => [0x0A]
  | 0x21 => [0x0A]
  | 0x22 => [0x0B]
  | 0x23 => [0x0B]
  | _ => []

/-- The holder of a resource: 0 none, 1 host, 2 scheduler firmware, 3 ICC, 4 Lighthouse, 5 a Tideline channel; and the
channel. -/
def State.holder (s : State) (r : Nat) : Nat × Nat := tabGet (0, 0) s.claims r

/-- A sync object signalled by the shore without a grant check (R431, R447, R463). -/
def State.plainSignal (s : State) (obj : Nat) : State := s.signal obj false 1

end Sys2Proof.Machine
end

