-- ==== Sys2Proof/Machine/NetOps.lean ====
section
/-! DEFINITION. Shared operations of the sensor ports and the causeway (chapter 15): harbour rings named by a binding,
routes, packets, paths (R464), and what a RINGDEF or RINGFREE of a bound handle does (R467). -/
namespace Sys2Proof.Machine

/-- The ring that a binding names by island, context and handle (R396): on a core of the island where the context is
resident, in the harbour, PROD 3 for a producer, CONS 3 for a consumer. -/
def State.shoreRing (s : State) (isl ctx h : Nat) (prod : Bool) : Option (Nat × Ring) :=
  ((List.range 8).map (· + 8 * isl)).findSome? (fun c =>
    if (s.core c).resident = some ctx then
      match s.ring c h with
      | some x => if x.harbour ∧ (if prod then x.prod else x.cons) = 3 then some (c, x) else none
      | none => none
    else none)

/-- A slot's bytes. -/
def Ring.slotBytes (r : Ring) : Nat := 4096 * r.sb

/-- The least multiple of 64 not below `n`. -/
def up64 (n : Nat) : Nat := (n + 63) / 64 * 64

/-- The `n` big-endian bytes of `v`. -/
def beBytes (n v : Nat) : List Byte := (leBytes n v).reverse

/-- A value in 2^-16 ns as seconds, nanoseconds, fraction. -/
def stampOf (v : Int) : Nat × Nat × Nat :=
  let sec := (1000000000 * 65536 : Int)
  (wrapOf 64 (v / sec), (v % sec).toNat / 65536, (v % sec).toNat % 65536)

/-- The stamp of an event at an offset from now, in 2^-16 ns (R449). -/
def State.ethStamp (s : State) (off : Int) : Nat × Nat × Nat :=
  stampOf ((65536 * s.nowNs + s.tbFrac / 65536 : Nat) + off)

/-- The stamp of an event `ago` units of 2^-16 ns in the past, a correction added: the timebase as it ran then, interpolated
within its tick (R449). -/
def State.ethBack (s : State) (ago : Nat) (corr : Int) : Nat × Nat × Nat :=
  let ns := (ago + 65535) / 65536
  let n := (ns + 3) / 4
  let v := s.tbBack ns + (s.reg Reg.TIM_INCR).toNat * (262144 * n - ago) / 262144
  stampOf ((v / 65536 : Nat) + corr)

/-! ## Frames on the wire -/

/-- One step of the CRC of IEEE 802.3, and the four FCS bytes of a frame. -/
def crcBit (c : Nat) : Nat := if c % 2 = 1 then (c / 2) ^^^ 0xEDB88320 else c / 2
def crcByte (c : Nat) (b : Byte) : Nat := (List.range 8).foldl (fun x _ => crcBit x) (c ^^^ b.toNat)
def frameFcs (f : List Byte) : List Byte := leBytes 4 (f.foldl crcByte 0xFFFFFFFF ^^^ 0xFFFFFFFF)

/-- The UDP checksum over bytes: the complement of the one's-complement sum of their 16-bit words, never 0. -/
def netSum : List Byte → Nat
  | a :: b :: t => 256 * a.toNat + b.toNat + netSum t
  | [a] => 256 * a.toNat
  | [] => 0

def netCheck (l : List Byte) : Nat :=
  let v := (List.range 4).foldl (fun x _ => x / 65536 + x % 65536) (netSum l)
  if v = 65535 then 65535 else 65535 - v

/-! ## Routes and ports (R456 to R459) -/

/-- The ports of the configured mode (Table 15.3). -/
def State.cwPorts (s : State) : Nat := 2 * 2 ^ min 2 (s.fld Reg.NET_CW_CFG 62 61)
/-- DEVNUM and SYSTEM. -/
def State.devNum (s : State) : Nat := s.fld Reg.NET_CW_CFG 5 0
def State.cwSystem (s : State) : Nat := s.fld Reg.NET_CW_CFG 31 16

/-- Is port `q` enabled with link? -/
def State.portUp (s : State) (q : Nat) : Bool :=
  s.flag Reg.NET_CW_CFG 63 && decide (q < s.cwPorts) && s.flag (Reg.NET_CW_PORT_STAT q) 63

/-- May port `q` be used to reach device `d`: LEARNED and ALLOW and not DOWN? -/
def State.portUsable (s : State) (d q : Nat) : Bool :=
  let r := Reg.NET_ROUTE d
  s.portUp q && d != s.devNum && s.flag r (8 + q) && s.flag r q && !(s.flag r (16 + q))

/-- The ports that reach device `d`, ascending from the one after `last`. -/
def State.portsTo (s : State) (d last : Nat) : List Nat :=
  ((List.range 8).map (fun i => (last + 1 + i) % 8)).filter (s.portUsable d)

/-! ## Packets (Table 15.5) -/

/-- The bytes of a packet. -/
def cwBytes (m : CwPkt) (typ : Nat) : List Byte :=
  beBytes 1 (16 + typ) ++ beBytes 1 m.prio ++ beBytes 2 m.system ++ beBytes 1 m.src ++ beBytes 1 m.dst ++ beBytes 1 m.sport
    ++ beBytes 1 0 ++ beBytes 4 m.psn ++ beBytes 2 m.sch ++ beBytes 2 m.dch ++ beBytes 2 m.slot ++ beBytes 2 m.data.length
    ++ beBytes 4 m.offset ++ beBytes 4 m.arg ++ beBytes 4 m.arg2 ++ m.data

/-- A packet of this device on port `q` to device `d`, fields 0 but those given. -/
def State.pkt (s : State) (q d : Nat) : CwPkt :=
  ⟨true, 0, s.cwSystem, s.devNum, d, q, 0, 0, 0, 0, 0, 0, 0, []⟩

/-- The MAC and the IPv6 address of port `q` of device `d` of this system (R458). -/
def State.cwMac (s : State) (d q : Nat) : List Byte := beBytes 2 0x0247 ++ beBytes 2 s.cwSystem ++ beBytes 1 d ++ beBytes 1 q
def State.cwIp (s : State) (d q : Nat) : List Byte :=
  beBytes 8 (s.reg Reg.NET_CW_IP6).toNat ++ beBytes 2 0x0247 ++ beBytes 2 s.cwSystem ++ beBytes 2 d ++ beBytes 2 q

/-- A packet as UDP over IPv6 to UDP_PORT (ENCAP 1). -/
def State.cwUdp (s : State) (src dst pkt : List Byte) : List Byte :=
  let n := 8 + pkt.length
  let head := beBytes 2 Config.cwUdpSrc ++ beBytes 2 (s.fld Reg.NET_CW_CFG 47 32) ++ beBytes 2 n
  let sum := netCheck (src ++ dst ++ beBytes 4 n ++ beBytes 4 17 ++ head ++ beBytes 2 0 ++ pkt)
  beBytes 4 (6 * 2 ^ 28 + Config.cwFlow % 2 ^ 28) ++ beBytes 2 n ++ beBytes 1 17 ++ beBytes 1 Config.cwHop ++ src ++ dst
    ++ head ++ beBytes 2 sum ++ pkt

/-- The frame that carries a packet on port `q` (R458), with its FCS: a HELLO has a destination of its own (Log 70). -/
def State.cwFrame (s : State) (q typ : Nat) (m : CwPkt) : List Byte :=
  let pkt := cwBytes m typ
  let mac := if typ = 0 then (List.range 6).map Config.helloMac else s.cwMac m.dst q
  let ip := if typ = 0 then (List.range 16).map Config.helloIp else s.cwIp m.dst q
  let body := if s.flag Reg.NET_CW_CFG 60 then beBytes 2 0x86DD ++ s.cwUdp (s.cwIp s.devNum q) ip pkt else beBytes 2 0x88B5 ++ pkt
  let f := mac ++ s.cwMac s.devNum q ++ body
  f ++ frameFcs f

/-- A packet goes out on a port. -/
def State.emitPkt (s : State) (q typ : Nat) (m : CwPkt) : State := { s with out := s.out ++ [.packet q (s.cwFrame q typ m)] }

/-- The key of a path: a local port and a device. -/
def pathKey (q d : Nat) : Nat := 64 * q + d
def State.path (s : State) (q d : Nat) : CwPath := tabGet ⟨0, [], 0, [], 0, 0⟩ s.cwPath (pathKey q d)
def State.setPath (s : State) (q d : Nat) (p : CwPath) : State := { s with cwPath := tabPut s.cwPath (pathKey q d) p }

/-- A packet with a PSN sent on a path: it is kept until it is acknowledged. -/
def State.sendPath (s : State) (q d typ : Nat) (m : CwPkt) : State :=
  let p := s.path q d
  let x := { m with psn := p.psn, sport := q }
  (s.setPath q d { p with psn := (p.psn + 1) % 2 ^ 32, unacked := p.unacked ++ [CwUnack.mk typ x s.cyc 0 false] }).emitPkt q typ x

/-! ## Channels -/

def State.cwTxOf (s : State) (c : Nat) : CwTx := tabGet ⟨0, 0, 0, 7, none⟩ s.cwTx c
def State.setCwTx (s : State) (c : Nat) (x : CwTx) : State := { s with cwTx := tabPut s.cwTx c x }
def State.cwRxOf (s : State) (c : Nat) : CwRx := tabGet ⟨0, 0, [], 0⟩ s.cwRx c
def State.setCwRx (s : State) (c : Nat) (x : CwRx) : State := { s with cwRx := tabPut s.cwRx c x }

/-- The rings of a channel's sides (R460). -/
def State.sendRing (s : State) (c : Nat) : Option (Nat × Ring) :=
  let r := Reg.NET_CH_SEND c
  if s.flag r 63 then s.shoreRing (s.fld r 62 60) (s.fld r 59 52) (s.fld r 51 48) false else none
def State.recvRing (s : State) (c : Nat) : Option (Nat × Ring) :=
  let r := Reg.NET_CH_RECV c
  if s.flag r 63 then s.shoreRing (s.fld r 62 60) (s.fld r 59 52) (s.fld r 51 48) true else none

/-- Is a packet of channel `c`'s slot `n`? -/
def CwUnack.of (u : CwUnack) (c n : Nat) : Bool := !u.void && (u.typ == 1 || u.typ == 2) && u.pkt.sch == c && u.pkt.slot == n % 65536

/-- The packets that a test picks keep only their PSN: DATA of length 0. -/
def State.voidPkts (s : State) (pick : CwUnack → Bool) : State :=
  let go := fun (u : CwUnack) => if pick u then { u with typ := 1, void := true, pkt := { u.pkt with data := [], offset := 0 } } else u
  { s with cwPath := s.cwPath.map (fun (p : Nat × CwPath) => (p.1, { p.2 with unacked := p.2.unacked.map go })) }

/-- The slot in transit of send side `c` is abandoned: ABORT goes out, the next send slot takes its number (R467). -/
def State.cwAbort (s : State) (c : Nat) : State :=
  let x := s.cwTxOf c
  let r := Reg.NET_CH_SEND c
  let d := s.fld r 37 32
  match x.cur with
  | none => s
  | some (sent, _) =>
    let s1 := (s.setCwTx c { x with cur := none }).voidPkts (fun u => u.of c x.n)
    if !sent then s1
    else match s1.portsTo d x.port with
      | q :: _ => s1.emitPkt q 7 { s1.pkt q d with prio := s1.fld r 47 45, sch := c, dch := s1.fld r 7 0, slot := x.n % 65536 }
      | [] => s1

/-- Do a binding's island, context and handle name handle `h` of core `c`? -/
def State.named (s : State) (isl ctx hd c h : Nat) : Bool :=
  isl == islandOf c && (s.core c).resident == some ctx && hd == h

/-- What the shore's ring agents do when handle `h` of core `c` is defined anew or freed: Tideline's copy, a sensor port's
open slot and the causeway's slots of that ring are gone (R467). -/
def State.shoreRedef (s : State) (c h : Nat) : State :=
  let drop := fun (b : Nat) => let r := Reg.TDL_DROP b; s.named (s.fld r 62 60) (s.fld r 59 52) (s.fld r 51 48) c h
  let eth := fun (k : Nat) => let r := Reg.NET_SP_RX_RING (k / 8) (k % 8); s.named (s.fld r 63 61) (s.fld r 60 53) (s.fld r 52 49) c h
  let send := fun (k : Nat) => let r := Reg.NET_CH_SEND k; s.named (s.fld r 62 60) (s.fld r 59 52) (s.fld r 51 48) c h
  let recv := fun (k : Nat) => let r := Reg.NET_CH_RECV k; s.named (s.fld r 62 60) (s.fld r 59 52) (s.fld r 51 48) c h
  let s1 := { s with drops := s.drops.filter (fun p => !(drop p.1)), ethRx := s.ethRx.filter (fun p => !(eth p.1)),
                     cwRx := s.cwRx.map (fun (p : Nat × CwRx) =>
                       (p.1, if recv p.1 then { p.2 with granted := p.2.done, slots := [] } else p.2)) }
  ((s1.cwTx.map (·.1)).filter send).foldl (fun t k => t.cwAbort k) s1

end Sys2Proof.Machine
end

