-- ==== Sys2Proof/Machine/RingTag.lean ====
section
/-! DEFINITION. Ring and tag instructions (R166 to R170): RINGDEF, RINGFREE, RACQ, RELEASE, RRSV, RCOMMIT, TAGSET. -/
namespace Sys2Proof.Machine

/-- Does a ferry with an open stream use handle `h` of core `c` as its ring A or B? -/
def State.ringBusy (s : State) (c h : Nat) : Bool :=
  s.ferries.any (fun p => match p.2.stream with
    | some st => st.core == c && (st.ringA == some h || st.ringB == some h)
    | none => false)

/-- The berths of a lagoon ring. -/
def Ring.berths (r : Ring) : List Nat := if r.harbour then [] else (List.range (r.slots * r.sb)).map (· + r.base)

/-- The ring that a RINGDEF describes (Table 6.3). -/
def ringOf (r : CoreRegs) (w : IWord) : Ring :=
  let slots := w.immBits 4 0 + 1
  { base := (r.getS w.src1).toNat, slots := slots, sb := w.immBits 8 5 + 1, harbour := w.mod 49,
    prod := w.immBits 10 9, cons := w.immBits 12 11, lateNs := w.w2Bits 31 0,
    st := List.replicate slots .e, head := 0, rsv := 0, tail := 0, acq := 0 }

/-- The checks of R166 and R167 on a new ring `r` of handle `h`. -/
def State.ringDefOk (s : State) (c h : Nat) (r : Ring) : Bool :=
  decide (3 ≤ r.slots) && (r.cons != 3 || r.harbour)
    && decide (r.base + r.slots * r.sb ≤ if r.harbour then 2048 else 128)
    && (r.prod != r.cons || (r.prod == 3 && r.cons == 3))
    && (s.core c).regs.rings.all (fun p => p.1 == h || r.berths.all (fun b => !(p.2.berths.contains b)))
    && !(s.ringBusy c h)

/-- No stream and no ferry holds slots of the ring that handle `h` of core `c` named. -/
def State.forgetRing (s : State) (c h : Nat) : State :=
  let out := fun (l : List RingName) => l.filter (fun r => r != ⟨c, h⟩)
  { s with ferries := s.ferries.map (fun (p : Nat × Ferry) => (p.1, { p.2 with
      held := out p.2.held, acqd := out p.2.acqd,
      stream := p.2.stream.map (fun (st : Stream) => { st with held := out st.held, acqd := out st.acqd }) })) }

/-- Handle `h` of core `c` becomes undefined, as RINGFREE does where it is defined (R167, R292): whoever used its ring finds
none. -/
def State.ringGone (s : State) (c h : Nat) : State :=
  let s1 := ((s.itkRing c h (s.ring c h).isSome).shoreRedef c h).forgetRing c h
  let k := s1.core c
  s1.setCore c { k with regs := { k.regs with rings := tabDel k.regs.rings h } }

def ringdefBody (c : Nat) (w : IWord) (s : State) : IRes :=
  let h := regIdx w.dst
  let r := ringOf (s.core c).regs w
  if !(s.ringDefOk c h r) then .fail s stInvalidProgram
  else
    match (s.core c).touch r.berths with
    | .parity b => .fail (s.parityHit c b) stEcc
    | _ =>
      let s1 := s.ringGone c h
      let s2 := s1.setCore c (r.berths.foldl (fun k b => k.setBerth b false false) (s1.core c))
      .done (s2.setRing c h r)

/-- The berths of the ring that a RINGDEF defines (R104). -/
def ringdefTouch (k : Core) (w : IWord) : Touch :=
  let r := ringOf k.regs w
  { cwr := if r.harbour then [] else [(256 * r.base, 256 * (r.slots * r.sb))] }

def execRingdef (c : CoreId) (s : State) : Res :=
  .next (issueOn ringdefTouch (rowOpc 0x70)
    (fun w => Enc.ok ⟨.reg .g, .reg .s, .zero, 0x1FFF, 2, .required⟩ w && w.w2Bits 63 32 == 0) (ringdefBody c) c s)

def ringfreeBody (c : Nat) (w : IWord) (s : State) : IRes :=
  let h := regIdx w.src1
  if (s.ring c h).isNone then .done s
  else if s.ringBusy c h then .fail s stInvalidProgram
  else
    .done (s.ringGone c h)

def execRingfree (c : CoreId) (s : State) : Res :=
  .next (issue (rowOpc 0x71) (Enc.ok ⟨.zero, .reg .g, .zero, 0, 0, .never⟩) (ringfreeBody c) c s)

/-- The slot base a program reads: a first cell index, or a harbour byte offset (R166). -/
def Ring.baseVal (r : Ring) (i : Nat) : DWord := BitVec.ofNat 64 (r.slotBase i * if r.harbour then 4096 else 256)

/-- RACQ (R168); the wait of a program at RACQ ends here with cause 0 (R249). -/
def racqBody (c : Nat) (w : IWord) (s : State) : IRes :=
  let h := regIdx w.src1
  match s.ring c h with
  | none => .fail s stInvalidProgram
  | some r =>
    if r.cons ≠ 0 then .fail s stInvalidProgram
    else if r.at r.acq != .f then .wait s .slot
    else
      let k := s.core c
      let s1 := match k.regs.stall with
        | some .slot => s.lateData k.sl.q c k.sl.ctx h 0 r.acq 0 (s.upNs - k.regs.waitStart) r.lateNs k.sl.rt
        | _ => s
      IRes.regs (s1.setRing c h r.doAcquire) c (fun g => g.setS w.dst (r.baseVal r.acq))

/-- RRSV (R168). -/
def rrsvBody (c : Nat) (w : IWord) (s : State) : IRes :=
  let h := regIdx w.src1
  match s.ring c h with
  | none => .fail s stInvalidProgram
  | some r =>
    if r.prod ≠ 0 then .fail s stInvalidProgram
    else if r.at r.rsv != .e then .wait s .slot
    else IRes.regs (s.setRing c h r.doReserve) c (fun g => g.setS w.dst (r.baseVal r.rsv))

/-- RELEASE and RCOMMIT (R169). -/
def ringGiveBody (rel : Bool) (c : Nat) (w : IWord) (s : State) : IRes :=
  let h := regIdx w.src1
  match s.ring c h with
  | none => .fail s stInvalidProgram
  | some r =>
    if (if rel then r.cons else r.prod) ≠ 0 then .fail s stInvalidProgram
    else
      match s.slotParity c r (if rel then r.tail else r.head) with
      | some b => .fail (s.parityHit c b) stEcc
      | none =>
        match (if rel then s.ringRelease c h else s.ringCommit c h) with
        | (true, s1) => .done s1
        | (false, s1) => .fail s1 stInvalidProgram

/-- The cells of the slot that RELEASE or RCOMMIT gives (R104, R169). -/
def giveTouch (rel : Bool) (k : Core) (w : IWord) : Touch :=
  match tabFind k.regs.rings (regIdx w.src1) with
  | some r => { cwr := if r.harbour then [] else [(256 * r.slotBase (if rel then r.tail else r.head), 256 * r.sb)] }
  | none => {}

def execRacq (c : CoreId) (s : State) : Res :=
  .next (issue (rowOpc 0x72) (Enc.ok ⟨.reg .s, .reg .g, .zero, 0, 0, .never⟩) (racqBody c) c s)
def execReleaseSlot (c : CoreId) (s : State) : Res :=
  .next (issueOn (giveTouch true) (rowOpc 0x73) (Enc.ok ⟨.zero, .reg .g, .zero, 0, 0, .never⟩) (ringGiveBody true c) c s)
def execRrsv (c : CoreId) (s : State) : Res :=
  .next (issue (rowOpc 0x74) (Enc.ok ⟨.reg .s, .reg .g, .zero, 0, 0, .never⟩) (rrsvBody c) c s)
def execRcommit (c : CoreId) (s : State) : Res :=
  .next (issueOn (giveTouch false) (rowOpc 0x75) (Enc.ok ⟨.zero, .reg .g, .zero, 0, 0, .never⟩) (ringGiveBody false c) c s)

/-- TAGSET (R170): FIRST is IMM [6:0], CNT − 1 is IMM [13:7], F is MOD bit 49. -/
def tagsetBody (c : Nat) (w : IWord) (s : State) : IRes :=
  let k := s.core c
  let first := (k.regs.getS w.src1).toNat + w.immBits 6 0
  let n := w.immBits 13 7 + 1
  if 128 < first + n then .fail s stInvalidProgram
  else if k.regs.rings.any (fun p => p.2.berths.any (fun b => decide (first ≤ b) && decide (b < first + n))) then
    .fail s stInvalidProgram
  else match k.touch ((List.range n).map (· + first)) with
    | .parity b => .fail (s.parityHit c b) stEcc
    | _ => .done (s.setCore c (k.setBerths first n (w.mod 49)))

/-- The berths of TAGSET (R104, R170). -/
def tagsetTouch (k : Core) (w : IWord) : Touch :=
  { cwr := [(256 * ((k.regs.getS w.src1).toNat + w.immBits 6 0), 256 * (w.immBits 13 7 + 1))] }

def execTagset (c : CoreId) (s : State) : Res :=
  .next (issueOn tagsetTouch (rowOpc 0x76) (Enc.ok ⟨.zero, .reg .s, .zero, 0x3FFF, 2, .never⟩) (tagsetBody c) c s)

end Sys2Proof.Machine
end

