-- ==== Sys2Proof/Machine/FerryCtl.lean ====
section
/-! DEFINITION. Ferry handles and harbour atomics (R171 to R174): FBIND, FRUN, FWAIT, FFREE, HAADD. -/
namespace Sys2Proof.Machine

/-- Does a restore wait for ferry `f` ahead of an FBIND of core `c` (R240)? -/
def State.bindAhead (s : State) (c f : Nat) : Bool :=
  let arr := match (s.core c).regs.fly.find? (fun e => match e.wait with | .bind g _ => g == f | _ => false) with
    | some e => e.arr
    | none => s.seq
  (s.bindWaiters f).any (fun x => x.handle.isNone && x.le ⟨c, none, (s.core c).sl.prio, arr⟩)

def fbindBody (c : Nat) (w : IWord) (s : State) : IRes :=
  let kind := w.immBits 2 0
  let h := regIdx w.dst
  let f := ferryOf c kind
  if s.handle c h = some f then .done s
  else
    match (s.ferry f).bound with
    | some b =>
      if b.core = c then .fail s stInvalidProgram
      else
        match s.handle c h with
        | none => .wait s (.bind f h)
        | some g => if s.streamOpen g then .wait s (.ferry g) else .wait ((s.unbindFerry c h g).grantFerry g) (.bind f h)
    | none =>
      let take := fun (t : State) => if t.bindAhead c f then IRes.wait t (.bind f h) else .done (t.bindFerry c h f)
      match s.handle c h with
      | none => take s
      | some g => if s.streamOpen g then .wait s (.ferry g) else take ((s.unbindFerry c h g).grantFerry g)

def execFbind (c : CoreId) (s : State) : Res :=
  .next (issue (rowOpc 0x90) (fun w => Enc.ok ⟨.reg .f, .zero, .zero, 7, 0, .never⟩ w && decide (w.immBits 2 0 ≤ 5)) (fbindBody c) c s)

/-- A stream as FRUN or KVGATHER opens it for the slice on core `c`. -/
def State.newStream (s : State) (c : Nat) (load : Option Nat) (a b : Option Nat) (kv : Option KvGather) : Stream where
  load := load
  prog := []
  op := 0
  loops := []
  pend := []
  pad := 0
  ringA := a
  ringB := b
  mem := none
  pos := 0
  q := (s.core c).sl.q
  slice := (s.core c).sl.idx
  core := c
  wait := .none
  kv := kv
  conv := none
  held := []
  acqd := []
  absorbed := []
  seq := s.seq
  since := s.upNs
  waitRing := none

/-- Open a stream on ferry `f` for the slice on core `c`; FRY_STATUS.ERR and FRY_BYTES are cleared (R255, R256). -/
def State.openStream (s : State) (c f : Nat) (st : Stream) (xs : Tab XReg) : State :=
  let sl := (s.core c).sl
  let k := s.ferry f
  (s.setFerry f { k with
    stream := some { st with held := k.held, acqd := k.acqd }, held := [], acqd := [], xs := xs, ctx := sl.ctx, prio := sl.prio, op := 0, err := 0, bytes := 0 }).tick

/-- Mark that a stream has run on handle `h` since its FBIND (R173). -/
def State.markRan (s : State) (c h : Nat) : State :=
  let r := (s.core c).regs
  s.setRegs c { r with fran := BitVec.ofNat 8 (bitsPut r.fran.toNat h h 1) }

/-- FRUN (R172): RING_A [3:0], A_EN [4], RING_B [8:5], B_EN [9]. -/
def frunBody (c : Nat) (w : IWord) (s : State) : IRes :=
  let r := (s.core c).regs
  let h := regIdx w.dst
  let off := (r.getS w.src1).toNat
  let a := if bitOf w.imm 4 then some (w.immBits 3 0) else none
  let b := if bitOf w.imm 9 then some (w.immBits 8 5) else none
  let defd := fun (x : Option Nat) => match x with
    | none => true
    | some g => (s.ring c g).isSome
  match s.handle c h with
  | none => .fail s stInvalidProgram
  | some f =>
    if off % 4 ≠ 0 ∨ !(defd a) ∨ !(defd b) then .fail s stInvalidProgram
    else if s.streamOpen f ∨ (s.ferry f).drain then .wait s (.ferry f)
    else
      let xs : Tab XReg := (List.range 4).map (fun i => (i, ⟨r.getS (w.src2 + i), r.getS (w.src2 + i), .none⟩))
      .done ((s.openStream c f (s.newStream c (some off) a b none) xs).markRan c h)

/-- FRUN's encoding: SRC2 must not exceed 0x1C. -/
def frunEnc (w : IWord) : Bool := Enc.ok ⟨.reg .f, .reg .s, .reg .s, 0x3FF, 0, .never⟩ w && decide (w.src2 ≤ 0x1C)

def execFrun (c : CoreId) (s : State) : Res := .next (issue (rowOpc 0x91) frunEnc (frunBody c) c s)

/-- FWAIT (R173). -/
def fwaitBody (c : Nat) (w : IWord) (s : State) : IRes :=
  let h := regIdx w.src1
  match s.handle c h with
  | none => .fail s stInvalidProgram
  | some f =>
    if s.streamOpen f then .wait s (.ferry f)
    else
      let n := if bitOf (s.core c).regs.fran.toNat h then (s.ferry f).bytes else 0
      IRes.regs s c (fun r => r.setS w.dst (BitVec.ofNat 64 n))

def execFwait (c : CoreId) (s : State) : Res :=
  .next (issue (rowOpc 0x92) (Enc.ok ⟨.reg .s, .reg .f, .zero, 0, 0, .never⟩) (fwaitBody c) c s)

/-- FFREE (R171). -/
def ffreeBody (c : Nat) (w : IWord) (s : State) : IRes :=
  let h := regIdx w.src1
  match s.handle c h with
  | none => .fail s stInvalidProgram
  | some f => if s.streamOpen f then .wait s (.ferry f) else .done ((s.unbindFerry c h f).grantFerry f)

def execFfree (c : CoreId) (s : State) : Res :=
  .next (issue (rowOpc 0x93) (Enc.ok ⟨.zero, .reg .f, .zero, 0, 0, .never⟩) (ffreeBody c) c s)

/-- HAADD (R174): F is MOD bit 49. -/
def haaddBody (c : Nat) (w : IWord) (s : State) : IRes :=
  let r := (s.core c).regs
  let a := (r.getS w.src1 + w.simm).toNat
  let fp := w.mod 49
  let n := if fp then 4 else 8
  if a % n ≠ 0 ∨ 0x80_0000 ≤ a then .fail s stInvalidProgram
  else
    let p := hbrAddr (islandOf c) a
    match s.readPhys 0 p n with
    | (none, s1) => .fail s1 stEcc
    | (some bs, s1) =>
      let v := if fp then (addR (BitVec.ofNat 32 (leNat bs)) (BitVec.ofNat 32 (r.getS w.src2).toNat)).toNat
               else (BitVec.ofNat 64 (leNat bs) + r.getS w.src2).toNat
      match s1.writePhys 4 p (leBytes n v) with
      | (false, s2) => .fail s2 stEcc
      | (true, s2) => .done (if fp then s2.ndRise (s2.core c).sl.ctx (s2.core c).sl.q else s2)

def execHaadd (c : CoreId) (s : State) : Res :=
  .next (issue (rowOpc 0x98) (Enc.ok ⟨.zero, .reg .s, .reg .s, 0xFFFFFF, 2, .never⟩) (haaddBody c) c s)

end Sys2Proof.Machine
end

