-- ==== Sys2Proof/Machine/Sync.lean ====
section
/-! DEFINITION. SIGNAL, WAIT, BARRIER, REDUCE and what releases their waits (R175 to R183). -/
namespace Sys2Proof.Machine

/-- The checks of R175 on object number `v` for the slice on core `c`: the status that ends the command, if one does. -/
def State.syncBad (s : State) (c : Nat) (v : DWord) : Option Nat :=
  if 16384 ≤ v.toNat then some stInvalidProgram
  else if s.granted v.toNat (s.core c).sl.part then none else some stAccess

/-- SIGNAL (R176): MAX is MOD bit 49. -/
def signalBody (c : Nat) (w : IWord) (s : State) : IRes :=
  let r := (s.core c).regs
  match s.syncBad c (r.getS w.src1) with
  | some st => .fail s st
  | none => .done (s.signal (r.getS w.src1).toNat (w.mod 49) (r.getS w.src2))

def execSignal (c : CoreId) (s : State) : Res :=
  .next (issue (rowOpc 0xB0) (Enc.ok ⟨.zero, .reg .s, .reg .s, 0, 2, .never⟩) (signalBody c) c s)

/-- WAIT (R177). -/
def waitBody (c : Nat) (w : IWord) (s : State) : IRes :=
  let r := (s.core c).regs
  match s.syncBad c (r.getS w.src1) with
  | some st => .fail s st
  | none =>
    let i := (r.getS w.src1).toNat
    let v := (r.getS w.src2).toNat
    if v ≤ (s.reg (Reg.SYN_CNT i)).toNat then .done s else .wait s (.sync i v)

def execWait (c : CoreId) (s : State) : Res :=
  .next (issue (rowOpc 0xB1) (Enc.ok ⟨.zero, .reg .s, .reg .s, 0, 0, .never⟩) (waitBody c) c s)

/-- A slice held by WAIT continues once its counter has reached the threshold (R177). -/
def execSyncWaitRelease (c : CoreId) (s : State) : Res :=
  let k := s.core c
  match k.regs.stall with
  | some (.sync i v) =>
    if k.mode = .running ∧ v ≤ (s.reg (Reg.SYN_CNT i)).toNat then .next (s.setPc c (k.regs.pc + 8)) else .next s
  | _ => .next s

/-! ## BARRIER (R178, R179) -/

/-- BARRIER: the slice counts it and waits; the last slice's arrival releases all. -/
def barrierBody (c : Nat) (w : IWord) (s : State) : IRes :=
  let k := s.core c
  let id := w.immBits 3 0
  let r := { k.regs with barriers := tabPut k.regs.barriers id (tabGet 0 k.regs.barriers id + 1) }
  .wait (s.setRegs c r) (.barrier id)

def execBarrier (c : CoreId) (s : State) : Res :=
  .next (issueGang (fun _ _ => {}) (rowOpc 0xB2) (Enc.ok ⟨.zero, .zero, .zero, 0xF, 0, .never⟩) (barrierBody c) c s)

/-- The cores that run slices of queue `q`'s command. -/
def State.coresOf (s : State) (q : Nat) : List Nat :=
  (s.cores.filter (fun p => match p.2.slice with | some sl => sl.q == q | none => false)).map (·.1)

/-- The registers of the live slices of queue `q`'s command, running or saved. -/
def State.liveRegs (s : State) (q : Nat) : List CoreRegs :=
  ((s.coresOf q).map (fun c => (s.core c).regs)) ++
    (s.saved.filter (fun v => match v.slice with | some sl => sl.q == q | none => false)).map (·.regs)

/-- Has every slice of the gang executed as many barriers `id` as those that wait at it? -/
def State.barrierOpen (s : State) (q id : Nat) : Bool :=
  let l := s.liveRegs q
  let n := ((tabFind s.queues q).map (·.nslice)).getD 0
  let most := l.foldl (fun m r => max m (tabGet 0 r.barriers id)) 0
  l.length == n && l.all (fun r => tabGet 0 r.barriers id == most)

/-- A saved slice that waited is released in its saved state: its program counter moves, its stall ends. -/
def Saved.pass (v : Saved) (n : Nat) : Saved :=
  { v with regs := { v.regs with pc := v.regs.pc + n, stall := none, resume := none, tile := [] } }

/-- Every slice waiting at barrier `id` continues (R179). -/
def execBarrierRelease (q : QueueId) (id : Fin 16) (s : State) : Res :=
  if !(s.barrierOpen q id) then .next s
  else
    let go := (s.coresOf q).filter (fun c => (s.core c).regs.stall == some (.barrier id))
    let s1 := go.foldl (fun t c => t.setPc c ((t.core c).regs.pc + 8)) s
    .next { s1 with saved := s1.saved.map (fun v => match v.slice with
      | some sl => if sl.q = q ∧ v.regs.stall = some (.barrier id) then v.pass 8 else v
      | none => v) }

/-! ## REDUCE (R180 to R183, Table 6.4) -/

/-- The fields of REDUCE. -/
structure RedOp where
  ad : Nat
  ro : Nat
  m : Nat
  nb : Nat
  hold : Nat
  g : Nat
  first : Nat
  rid : Nat
  ord : Bool
  deriving DecidableEq, Repr

def RedOp.of (w : IWord) : RedOp where
  ad := regIdx w.dst
  ro := w.immBits 23 17
  m := w.immBits 16 10 + 1
  nb := w.immBits 9 7 + 1
  hold := w.w2Bits 5 0
  g := w.w2Bits 13 8 + 1
  first := w.w2Bits 21 16
  rid := w.w2Bits 27 24
  ord := w.mod 49

/-- Is slice `i` in the group? -/
def RedOp.has (o : RedOp) (i : Nat) : Bool := decide (o.first ≤ i) && decide (i < o.first + o.g)

/-- The checks of R180 for slice `i` of `n`. -/
def RedOp.ok (o : RedOp) (i n : Nat) : Bool :=
  decide (o.ro + o.m ≤ 128) && decide (o.ad + o.nb ≤ 8) && decide (2 ≤ o.g) && decide (o.first + o.g ≤ n)
    && o.has o.hold && o.has i

/-- The REDUCEs of core `c` that wait, oldest first. -/
def State.redsAt (s : State) (c : Nat) : List (Fly × RedOp) :=
  ((s.core c).regs.fly.filter (fun e => e.wait == .reduce)).map (fun e => (e, RedOp.of ⟨e.w1, e.w2⟩))

/-- Has slice `i` given all its rows to the reduction `o` that waits at its holder? -/
def State.redGiven (s : State) (q : Nat) (o : RedOp) (i : Nat) : Bool :=
  match s.coreOf q o.hold with
  | some h => (s.redsAt h).any (fun p => p.2 == o && p.1.red.row + 1 == o.m && p.1.red.order.contains i)
  | none => false

/-- Does another slice of the command wait in a REDUCE of the same RID with other fields (R180): each of the two slices is in
the other's group, and neither has given its part to the other's reduction already? -/
def State.redMismatch (s : State) (c : Nat) (o : RedOp) : Bool :=
  let sl := (s.core c).sl
  (s.coresOf sl.q).any (fun d =>
    let i := (s.core d).sl.idx
    d != c && (s.redsAt d).any (fun p => p.2.rid == o.rid && p.2 != o && p.2.has sl.idx && o.has i
      && !(s.redGiven sl.q p.2 sl.idx) && !(s.redGiven sl.q o i)))

/-- Does the sum form in ascending order: ORD 1, or load balancing off for the context (R181, R183)? -/
def State.redAscending (s : State) (c : Nat) (o : RedOp) : Bool :=
  o.ord || !(match tabFind s.queues (s.core c).sl.q with
    | some m => bitOf m.cfg.toNat 57
    | none => false)

/-- The keys of the reduced accumulator elements of row `r`. -/
def RedOp.keys (o : RedOp) (r : Nat) : List Nat :=
  (List.range o.nb).flatMap (fun j => (List.range 64).map (accKey (o.ad + j) (o.ro + r)))

/-- The accumulator words of row `r`. -/
def RedOp.words (o : RedOp) (r : Nat) : List Nat := ((o.keys r).map (· / 2)).eraseDups

/-- Slice `i`, held on registers `p`, joins the sum of the row. -/
def RedOp.join (o : RedOp) (red : RedSt) (i : Nat) (p : CoreRegs) : RedSt :=
  { red with
    order := red.order ++ [i],
    sums := (o.keys red.row).foldl (fun t k =>
      tabPut t k (if red.order = [] then p.acc.read k else addR (tabGet 0 red.sums k) (p.acc.read k))) red.sums }

/-- The holder's own partial joins when its turn comes: first in arrival order, the others being added into it, in its place in
ascending order (DESIGN CHOICE, Log 64). -/
def RedOp.own (o : RedOp) (asc : Bool) (red : RedSt) (p : CoreRegs) : RedSt :=
  if red.order.contains o.hold then red
  else if !asc || o.first + red.order.length == o.hold then o.join red o.hold p else red

/-- REDUCE: contributor and holder wait for the partials. -/
def reduceBody (c : Nat) (w : IWord) (s : State) : IRes :=
  let k := s.core c
  let o := RedOp.of w
  if !(o.ok k.sl.idx k.sl.nslice) || s.redMismatch c o then .fail s stInvalidProgram else .wait s .reduce

/-- REDUCE's encoding. -/
def reduceEnc (w : IWord) : Bool :=
  Enc.ok ⟨.reg .a, .zero, .zero, 0xFFFF80, 2, .required⟩ w && (w.w2 &&& 0x0F3F3F3F) == w.w2

/-- The accumulator groups of REDUCE (R104, R182). -/
def reduceTouch (_ : Core) (w : IWord) : Touch :=
  let o := RedOp.of w
  { wr := accGroups o.ad o.nb o.ro o.m }

def execReduce (c : CoreId) (s : State) : Res := .next (issueGang reduceTouch (rowOpc 0xB3) reduceEnc (reduceBody c) c s)

/-- A finished row is written to the holder's banks, row sums and counts unchanged (R181). -/
def RedSt.write (red : RedSt) (r : CoreRegs) : CoreRegs :=
  red.sums.foldl (fun r p => r.setAcc (p.1 / 8192) (p.1 / 64 % 128) (p.1 % 64) p.2) r

/-- Does an order of a row's arrivals, the holder's own partial apart, differ from ascending slice order (R183, Log 64)? -/
def RedOp.disorder (o : RedOp) (order : List Nat) : Bool :=
  order.filter (· != o.hold) != ((List.range o.g).map (· + o.first)).filter (· != o.hold)

/-- An instruction that waited on core `c` has completed: it leaves the list (R182). -/
def State.landFly (s : State) (c : Nat) (e : Fly) : State :=
  s.setRegs c { (s.core c).regs with fly := (s.core c).regs.fly.filter (fun y => y.pc != e.pc) }

/-- How far a REDUCE of core `c` has come: its row is its resume point (R165). -/
def State.setRed (s : State) (c : Nat) (e : Fly) (red : RedSt) : State :=
  let r := (s.core c).regs
  s.setRegs c { r with fly := r.fly.map (fun y => if y.pc = e.pc then { y with red := red, resume := some (0, red.row) } else y) }

/-- A row of the holder's sum is complete: it is written, and the next begins, or the REDUCE completes; NDCOUNT rises then when
the order of a row differed and G is at least 3 (R182, R183). -/
def State.redRow (s : State) (c : Nat) (e : Fly) (o : RedOp) (asc : Bool) (red : RedSt) : State :=
  let k := s.core c
  let differs := red.differs || (!asc && decide (3 ≤ o.g) && o.disorder red.order)
  let s1 := s.setRegs c (red.write k.regs)
  if red.row + 1 < o.m then s1.setRed c e ⟨red.row + 1, [], [], differs⟩
  else
    let s2 := s1.landFly c e
    if differs then s2.ndRise k.sl.ctx k.sl.q else s2

/-- A REDUCE of the holder on core `c` and the one of slice `k` on core `d` that matches it (R180), whose next row is the row
being summed, with slice `k`'s turn come. -/
def State.redPair (s : State) (c d k : Nat) : Option (Fly × Fly × RedOp) :=
  ((s.redsAt c).flatMap (fun h => (s.redsAt d).filterMap (fun p =>
    let red := h.2.own (s.redAscending c h.2) h.1.red (s.core c).regs
    if h.2.hold = (s.core c).sl.idx ∧ p.2 = h.2 ∧ h.2.has k ∧ p.1.red.row = red.row ∧ ¬ red.order.contains k
      ∧ (s.redAscending c h.2 = true → h.2.first + red.order.length = k) then some (h.1, p.1, h.2) else none))).head?

/-- An uncorrectable accumulator word ends the command of the slice that holds it. -/
def IRes.refail (x : IRes) (c : Nat) : State :=
  match x with
  | .fail s st => s.endSliceCmd c st
  | .done s => s
  | .jump s _ => s
  | .wait s _ => s
  | .stop s => s

/-- The partial of slice `k` reaches the holder on core `c` (R182): its row joins the sum if its turn has come, its slice's
REDUCE completes with its last row, and with the last slice the row is complete. -/
def execReducePartialArrival (c : CoreId) (k : Fin 64) (s : State) : Res :=
  let h := s.core c
  match s.coreOf h.sl.q k with
  | none => .next s
  | some d =>
    match s.redPair c d k with
    | none => .next s
    | some (e, f, o) =>
      if h.mode ≠ .running ∨ d = c.val ∨ (s.core d).mode ≠ .running then .next s
      else
        let asc := s.redAscending c o
        match s.accRead c (o.words e.red.row) with
        | .error x => .next (x.refail c)
        | .ok s1 =>
          match s1.accRead d (o.words e.red.row) with
          | .error x => .next (x.refail d)
          | .ok s2 =>
            let own := o.own asc e.red h.regs
            let red := o.own asc (o.join own k (s.core d).regs) h.regs
            let s3 := if own.row + 1 < o.m then s2.setRed d f { f.red with row := own.row + 1 } else s2.landFly d f
            if red.order.length = o.g then .next (s3.redRow c e o asc red) else .next (s3.setRed c e red)

end Sys2Proof.Machine
end

