-- ==== Sys2Proof/Machine/KvCache.lean ====
section
/-! DEFINITION. The key-value cache (R187 to R190, R301 to R314): KVAPPEND, KVEVICT and KVGATHER post their work, and the
island control core serves a request all or nothing: it reads, plans and translates every address before it writes. -/
namespace Sys2Proof.Machine

/-! ## The instructions -/

/-- Post a request to the island control core of core `c` and wait for its answer (R165). -/
def State.postKv (s : State) (r : KvReq) : IRes := .wait { s with kv := s.kv ++ [r] } .icc

/-- The cells of a KVAPPEND source: rows t and 64 + t of NT tokens (R309). -/
def kvSrcCells (t : TileDesc) (nt : Nat) : List Nat :=
  (List.range nt).flatMap (fun i => t.blockCells i 0 t.cols ++ t.blockCells (64 + i) 0 t.cols)

/-- The bytes of tile row `r`, its COLS BF16 elements. -/
def Core.rowBf16 (k : Core) (t : TileDesc) (r : Nat) : List Byte :=
  (List.range t.cols).flatMap (fun c => leBytes 2 (k.tileCode t .bf16 r c))

/-- A stored key: an element 0 of 0xFFFF becomes 0x7FC0 (R309). -/
def kvKey (b : List Byte) : List Byte := if leNat (b.take 2) = 0xFFFF then leBytes 2 0x7FC0 ++ b.drop 2 else b

def kvappendBody (c : Nat) (w : IWord) (s : State) : IRes :=
  let r := (s.core c).regs
  let t := r.getT (regIdx w.src2)
  let nt := w.immBits 5 0 + 1
  if !(tileOk t) || !(t.fmtIs (fun f => decide (f = .bf16))) || t.rows != 128 then .fail s stInvalidProgram
  else
    match s.readCells c (w.mod 48) (kvSrcCells t nt) with
    | .error e => e
    | .ok s1 =>
      let k := s1.core c
      let sl := k.sl
      s1.postKv {
                  island := islandOf c, q := sl.q, slice := sl.idx, ctx := sl.ctx, append := true,
                  entry := (r.getS w.src1).toNat, dim := t.cols,
                  toks := (List.range nt).map (fun i => (kvKey (k.rowBf16 t i), k.rowBf16 t (64 + i))),
                  target := 0, sink := 0, window := 0, dst := 0, fault := none, seq := sl.seq }

/-- The source cells of KVAPPEND (R104). -/
def kvappendTouch (k : Core) (w : IWord) : Touch :=
  { crd := oneCells (kvSrcCells (k.regs.getT (regIdx w.src2)) (w.immBits 5 0 + 1)) }

def execKvappend (c : CoreId) (s : State) : Res :=
  .next (issueOn kvappendTouch (rowOpc 0xC1) (Enc.ok ⟨.zero, .reg .s, .reg .t, 0x3F, 1, .never⟩) (kvappendBody c) c s)

def kvevictBody (c : Nat) (w : IWord) (s : State) : IRes :=
  let r := (s.core c).regs
  let sl := (s.core c).sl
  s.postKv {
             island := islandOf c, q := sl.q, slice := sl.idx, ctx := sl.ctx, append := false,
             entry := (r.getS w.src1).toNat, dim := 0, toks := [], target := (r.getS w.src2).toNat,
             sink := w.immBits 7 0, window := w.immBits 23 8, dst := w.dst, fault := none, seq := sl.seq }

def execKvevict (c : CoreId) (s : State) : Res :=
  .next (issue (rowOpc 0xC3) (Enc.ok ⟨.reg .s, .reg .s, .reg .s, 0xFFFFFF, 0, .never⟩) (kvevictBody c) c s)

/-- KVGATHER (R189): the ring's PROD must match the ferry; the stream counts as open until its end. -/
def kvgatherBody (c : Nat) (w : IWord) (s : State) : IRes :=
  let h := regIdx w.dst
  let g := regIdx w.src2
  match s.handle c h, s.ring c g with
  | some f, some r =>
    let bulk := decide (128 ≤ f)
    let match' := if bulk then r.prod == 3 else f % 2 == 0 && r.prod == 1 && !r.harbour
    if !match' then .fail s stInvalidProgram
    else if s.streamOpen f ∨ (s.ferry f).drain then .wait s (.ferry f)
    else
      let j0 := w.immBits 9 0
      let kv : KvGather := ⟨((s.core c).regs.getS w.src1).toNat, j0, j0 + w.immBits 19 10 + 1, none⟩
      .done ((s.openStream c f (s.newStream c none (some g) none (some kv)) []).markRan c h)
  | _, _ => .fail s stInvalidProgram

def execKvgather (c : CoreId) (s : State) : Res :=
  .next (issue (rowOpc 0xC2) (Enc.ok ⟨.reg .f, .reg .s, .reg .g, 0xFFFFF, 0, .never⟩) (kvgatherBody c) c s)

/-! ## The island control core's work: planned steps that stop at a fault or a status -/

/-- How a step of the plan ended: a value, a translation fault, or a status that ends the command. -/
inductive KRes (α : Type) where
  | ok (a : α)
  | fault (va : Nat) (write : Bool) (f : TFault)
  | stop (status : Nat)
  deriving Repr

/-- A planned step. -/
abbrev K (α : Type) := State → KRes α × State

def K.pure {α : Type} (a : α) : K α := fun s => (.ok a, s)
def K.stop {α : Type} (st : Nat) : K α := fun s => (.stop st, s)
def K.bind {α β : Type} (m : K α) (f : α → K β) : K β := fun s =>
  match m s with
  | (.ok a, t) => f a t
  | (.fault v w x, t) => (.fault v w x, t)
  | (.stop st, t) => (.stop st, t)

/-- A virtual read of the plan. -/
def kRead (ag : XAgent) (ctx va n : Nat) : K (List Byte) := fun s =>
  match s.vread ag ctx va n with
  | (.ok b, t) => (.ok b, t)
  | (.fault v w f, t) => (.fault v w f, t)
  | (.ecc, t) => (.stop stEcc, t)

/-- Translate for a write. -/
def kProbe (ag : XAgent) (ctx va n : Nat) : K (List (Xlat × Nat)) := fun s =>
  match s.probe ag ctx true (piecesOf va n) with
  | (.ok l, t) => (.ok l, t)
  | (.fault v w f, t) => (.fault v w f, t)
  | (.ecc, t) => (.stop stEcc, t)

/-- A step for each element. -/
def kEach {α β : Type} (f : α → K β) : List α → K (List β)
  | [] => K.pure []
  | a :: l => (f a).bind (fun b => (kEach f l).bind (fun bs => K.pure (b :: bs)))

/-- A pool descriptor (Table 10.3). -/
structure Pool where
  va : Nat
  page : Nat
  mdat : Nat
  free : Nat
  npages : Nat
  d : Nat
  pinIsland : Nat
  head : Nat
  tail : Nat
  pinBase : Nat
  deriving DecidableEq, Repr

/-- A page-table entry's fixed fields (Table 10.5). -/
structure KvEntry where
  va : Nat
  pool : Nat
  inbox : Nat
  len : Nat
  vcount : Nat
  sink : Nat
  window : Nat
  decay : Word
  evict : Bool
  pages : List Nat
  deriving DecidableEq, Repr

/-- No page. -/
def noPage : Nat := 0xFFFF_FFFF

/-- Bytes of a page (R302). -/
def Pool.psz (p : Pool) : Nat := 256 * p.d

/-- The pool and entry a request names, checked by R304. -/
def kEntry (ag : XAgent) (ctx va : Nat) : K (KvEntry × Pool) :=
  (kRead ag ctx va 4160).bind (fun b =>
    let e : KvEntry := {
      va := va, pool := recNat b 0 8, inbox := recNat b 8 8, len := recNat b 16 4,
      vcount := recNat b 20 4, sink := recNat b 24 2, window := recNat b 26 2,
      decay := BitVec.ofNat 32 (recNat b 28 4), evict := bitOf (recNat b 32 1) 0,
      pages := (List.range 1024).map (fun j => recNat b (64 + 4 * j) 4) }
    (kRead ag ctx e.pool 64).bind (fun p =>
      let pl : Pool := {
        va := e.pool, page := recNat p 0 8, mdat := recNat p 8 8, free := recNat p 16 8,
        npages := recNat p 24 4, d := recNat p 28 2, pinIsland := recNat p 30 1, head := recNat p 32 4,
        tail := recNat p 36 4, pinBase := recNat p 40 2 }
      let good := recZero b 33 31 && decide (recNat b 32 1 < 2) && decide (e.len ≤ 65536)
        && recZero p 31 1 && recZero p 42 22 && [64, 128, 192, 256].contains pl.d
        && e.pages.all (fun x => x == noPage || (bitsOf x 31 25 == 0 && decide (x % 2 ^ 24 < pl.npages)))
      if good then K.pure (e, pl) else K.stop stInvalidProgram))

/-- Page number and HPIN of a page-list value. -/
def pgNum (x : Nat) : Nat := x % 2 ^ 24
def pgPin (x : Nat) : Bool := bitOf x 24

/-- A page's metadata with its index and list value. -/
structure KvPage where
  j : Nat
  val : Nat
  valid : Nat
  score : List Nat
  pinSlot : Nat
  deriving DecidableEq, Repr

/-- Read the metadata of page index `j`. -/
def kMeta (ag : XAgent) (ctx : Nat) (p : Pool) (j val : Nat) : K KvPage :=
  (kRead ag ctx (p.mdat + 256 * pgNum val) 138).bind (fun b =>
    K.pure ⟨j, val, recNat b 0 8, (List.range 64).map (fun i => recNat b (8 + 2 * i) 2), recNat b 136 2⟩)

/-- The order of FP16 scores: NaN as +inf, −0 as +0 (R311, R314). -/
def scoreKey (c : Nat) : Int :=
  let mag : Int := min (c % 2 ^ 15) 0x7C00
  if 0x7C00 < c % 2 ^ 15 then 0x7C00 else if bitOf c 15 then -mag else mag

/-- The valid positions of a page. -/
def KvPage.positions (g : KvPage) : List Nat := (bitList 64 g.valid).map (· + 64 * g.j)

/-- The highest score among a page's valid positions; below every score where it has none. -/
def KvPage.top (g : KvPage) : Int :=
  (bitList 64 g.valid).foldl (fun m i => max m (scoreKey (g.score.getD i 0))) (-0x10000)

/-- Free pages of a pool. -/
def Pool.freeCount (p : Pool) : Nat := (p.tail + 2 ^ 32 - p.head) % 2 ^ 32

/-- The address of free-list slot `i`. -/
def Pool.slot (p : Pool) (i : Nat) : Nat := p.free + 4 * (i % 2 ^ 32 % p.npages)

/-- A planned write of virtual bytes. -/
abbrev KWrite := Nat × List Byte

/-- Translate every planned write, then make them through the translations held (R342). -/
def kCommit (ag : XAgent) (ctx : Nat) (ws : List KWrite) : K Unit :=
  (kEach (fun (w : KWrite) => (kProbe ag ctx w.1 w.2.length).bind (fun l => K.pure (l, w.2))) ws).bind (fun ls =>
    fun s => ls.foldl (fun (r : KRes Unit × State) w =>
      match r with
      | (.ok _, t) => match t.scatter ctx w.1 w.2 with
        | (true, u) => (.ok (), u)
        | (false, u) => (.stop stEcc, u)
      | e => e) (.ok (), s))

/-- Returning pages at FREE_TAIL: the writes, the new tail and how many were discarded (R305). -/
def Pool.giveBack (p : Pool) (head tail : Nat) : List Nat → List KWrite × Nat × Nat
  | [] => ([], tail, 0)
  | x :: t =>
    if p.npages ≤ (tail + 2 ^ 32 - head) % 2 ^ 32 then
      let r := p.giveBack head tail t
      (r.1, r.2.1, r.2.2 + 1)
    else
      let r := p.giveBack head ((tail + 1) % 2 ^ 32) t
      ((p.slot tail, leBytes 4 x) :: r.1, r.2.1, r.2.2)

/-- Pool pages discarded by a full free list are recorded (R305, Table 17.4). -/
def State.freeDiscard (s : State) (island n pool : Nat) : State :=
  (List.range n).foldl (fun t _ => t.fwLog 3 island 3 0x0301 (leBytes 4 0 ++ leBytes 8 pool)) s

/-! ## KVAPPEND (R309 to R311) -/

/-- The pages an append evicts: candidates in order until the shortfall is covered (R311). -/
def appendVictims (gs : List KvPage) (e : KvEntry) (nt lo hi short : Nat) : List KvPage :=
  let pinned := fun x => decide (x < e.sink) || decide (e.len + nt ≤ x + e.window)
  let cand := gs.filter (fun g => !(pgPin g.val) && !(decide (lo ≤ g.j) && decide (g.j ≤ hi)) && !(g.positions.any pinned))
  (sortBy (fun a b => decide (a.top < b.top) || (decide (a.top = b.top) && decide (a.j ≤ b.j))) cand).take short

/-- The writes of one token into page number `pg` (R302, R306). -/
def tokenWrites (p : Pool) (pg x : Nat) (kv : List Byte × List Byte) : List KWrite :=
  let b := p.page + pg * p.psz
  [(b + (x % 64) * 2 * p.d, kv.1), (b + (64 + x % 64) * 2 * p.d, kv.2)]

/-- The harbour copy of a pinned page (R306). -/
def pinWrites (p : Pool) (slot x : Nat) (kv : List Byte × List Byte) : List KWrite :=
  let b := hbrAddr (p.pinIsland % 8) ((p.pinBase + slot * (p.psz / 4096)) * 4096)
  [(b + (x % 64) * 2 * p.d, kv.1), (b + (64 + x % 64) * 2 * p.d, kv.2)]

/-- An append: plan, translate, commit. Answers the number of discarded returns with the pool. -/
def kAppend (r : KvReq) : K (Nat × Nat) :=
  (kEntry (.icc r.island) r.ctx r.entry).bind (fun ep =>
    let e := ep.1
    let p := ep.2
    let nt := r.toks.length
    if r.dim ≠ p.d then K.stop stInvalidProgram
    else if 65536 < e.len + nt then K.stop 0x0301
    else
      let lo := e.len / 64
      let hi := (e.len + nt - 1) / 64
      let idx := (List.range (hi - lo + 1)).map (· + lo)
      let need := idx.filter (fun j => e.pages.getD j noPage == noPage)
      let short := need.length - p.freeCount
      let have' := ((e.pages.zipIdx).filter (fun x => x.1 != noPage))
      (kEach (fun (x : Nat × Nat) => kMeta (.icc r.island) r.ctx p x.2 x.1) (if 0 < short ∧ e.evict then have' else
          have'.filter (fun x => idx.contains x.2))).bind (fun gs =>
        let vict := if 0 < short ∧ e.evict then appendVictims gs e nt lo hi short else []
        if vict.length < short then K.stop 0x0301
        else
          let back := p.giveBack p.head p.tail (vict.map (fun g => pgNum g.val))
          (kEach (fun i => if i < p.freeCount
              then (kRead (.icc r.island) r.ctx (p.slot (p.head + i)) 4).bind (fun b => K.pure (leNat b))
              else K.pure (pgNum ((vict.getD (i - p.freeCount) ⟨0, 0, 0, [], 0⟩).val))) (List.range need.length)).bind
            (fun taken =>
              if taken.any (fun x => decide (p.npages ≤ x)) then K.stop stInvalidProgram
              else
                let pageOf := fun j => match (need.zip taken).find? (fun q => q.1 == j) with
                  | some q => q.2
                  | none => pgNum (e.pages.getD j 0)
                let tokBits := fun j => (List.range nt).foldl (fun a t =>
                  if (e.len + t) / 64 = j then a + 2 ^ ((e.len + t) % 64) else a) 0
                let evictW := vict.flatMap (fun g =>
                  [(p.mdat + 256 * pgNum g.val, leBytes 8 0), (e.va + 64 + 4 * g.j, leBytes 4 noPage)])
                let tokW := ((r.toks.zipIdx)).flatMap (fun t => tokenWrites p (pageOf ((e.len + t.2) / 64)) (e.len + t.2) t.1)
                let newW := need.flatMap (fun j =>
                  [(p.mdat + 256 * pageOf j, leBytes 8 (tokBits j) ++ leBytes 128 0), (e.va + 64 + 4 * j, leBytes 4 (pageOf j))])
                let oldW := (idx.filter (fun j => !(need.contains j))).flatMap (fun j =>
                  let v := ((gs.find? (fun g => g.j == j)).map (·.valid)).getD 0
                  (p.mdat + 256 * pageOf j, leBytes 8 (v ||| tokBits j)) ::
                    ((List.range nt).filter (fun t => (e.len + t) / 64 == j)).map (fun t =>
                      (p.mdat + 256 * pageOf j + 8 + 2 * ((e.len + t) % 64), leBytes 2 0)))
                let gone := vict.foldl (fun a g => a + popCount 64 g.valid) 0
                let headW := [(p.va + 32, leBytes 4 (p.head + need.length)), (p.va + 36, leBytes 4 back.2.1),
                  (e.va + 20, leBytes 4 (e.vcount + 2 ^ 32 - gone + nt)), (e.va + 16, leBytes 4 (e.len + nt))]
                (kCommit (.icc r.island) r.ctx (evictW ++ back.1 ++ tokW ++ newW ++ oldW ++ headW)).bind (fun _ =>
                  let pins := (r.toks.zipIdx).flatMap (fun t =>
                    let j := (e.len + t.2) / 64
                    match gs.find? (fun g => g.j == j && pgPin g.val) with
                    | some g => pinWrites p g.pinSlot (e.len + t.2) t.1
                    | none => [])
                  fun s => (.ok (back.2.2, p.va), pins.foldl (fun s w => (s.writePhys 4 w.1 w.2).2) s)))))

/-! ## KVEVICT (R313, R314) -/

/-- A folded score (R313). -/
def foldScore (decay : Word) (score : Nat) (inb : Word) : Nat :=
  (gridFP16.narrow false (f32Val (addR (mulR decay (f32Rne (gridFP16.value score))) inb))).1

/-- A page with its scores folded from its inbox. -/
def KvPage.fold (g : KvPage) (decay : Word) (inbox : List Byte) : KvPage :=
  { g with score := (g.score.zipIdx).map (fun p => foldScore decay p.1 (BitVec.ofNat 32 (recNat inbox (4 * p.2) 4))) }

/-- The evictable positions with their score keys, ascending position. -/
def evictCand (gs : List KvPage) (len sink window : Nat) : List (Nat × Int) :=
  gs.flatMap (fun g =>
    if pgPin g.val then [] else
    ((bitList 64 g.valid).filter (fun i => decide (sink ≤ 64 * g.j + i) && decide (64 * g.j + i + window < len))).map
      (fun i => (64 * g.j + i, scoreKey (g.score.getD i 0))))

/-- The positions evicted: the lowest scores, ties to the lowest position, until VCOUNT is at most the target. -/
def evictPick (gs : List KvPage) (e : KvEntry) (r : KvReq) : List Nat :=
  ((sortBy (fun a b => decide (a.2 < b.2) || (decide (a.2 = b.2) && decide (a.1 ≤ b.1)))
    (evictCand gs e.len r.sink r.window)).take (e.vcount - r.target)).map (·.1)

/-- VALID of a page after positions are evicted. -/
def KvPage.drop (g : KvPage) (xs : List Nat) : Nat :=
  (bitList 64 g.valid).foldl (fun a i => if xs.contains (64 * g.j + i) then a else a + 2 ^ i) 0

/-- An eviction: fold, choose, translate, commit. Answers the positions evicted, the discarded returns and the pool. -/
def kEvict (r : KvReq) : K (Nat × Nat × Nat) :=
  (kEntry (.icc r.island) r.ctx r.entry).bind (fun ep =>
    let e := ep.1
    let p := ep.2
    (kEach (fun (x : Nat × Nat) => kMeta (.icc r.island) r.ctx p x.2 x.1) ((e.pages.zipIdx).filter (fun x => x.1 != noPage))).bind
      (fun gs0 =>
        (if e.inbox = 0 then K.pure gs0 else
          kEach (fun g => (kRead (.icc r.island) r.ctx (e.inbox + 256 * g.j) 256).bind (fun b => K.pure (KvPage.fold g e.decay b))) gs0).bind
          (fun gs =>
            let xs := evictPick gs e r
            let hit := gs.filter (fun g => g.positions.any (fun x => xs.contains x))
            let gone := hit.filter (fun g => g.drop xs == 0)
            let back := p.giveBack p.head p.tail (gone.map (fun g => pgNum g.val))
            let foldW := if e.inbox = 0 then [] else gs.flatMap (fun g =>
              [(p.mdat + 256 * pgNum g.val + 8, g.score.flatMap (leBytes 2)), (e.inbox + 256 * g.j, leBytes 256 0)])
            let hitW := hit.map (fun g => (p.mdat + 256 * pgNum g.val, leBytes 8 (g.drop xs)))
            let goneW := gone.map (fun g => (e.va + 64 + 4 * g.j, leBytes 4 noPage))
            let cntW := if xs = [] then [] else [(e.va + 20, leBytes 4 (e.vcount - xs.length))]
            let tailW := if back.1 = [] then [] else [(p.va + 36, leBytes 4 back.2.1)]
            (kCommit (.icc r.island) r.ctx (foldW ++ hitW ++ cntW ++ goneW ++ back.1 ++ tailW)).bind (fun _ =>
              K.pure (xs.length, back.2.2, p.va)))))

/-! ## Serving (R165, R312) -/

/-- The answer of a served request reaches its slice, running or saved: an eviction's count in its register. -/
def State.kvAnswer (s : State) (r : KvReq) (v : Option Nat) : State :=
  let put := fun (g : CoreRegs) => match v with
    | some n => g.setS r.dst (BitVec.ofNat 64 n)
    | none => g
  let done := fun (g : CoreRegs) =>
    if g.fly.any (fun e => e.wait == .icc) then { put g with fly := g.fly.filter (fun e => e.wait != .icc) } else g
  let s1 := match s.coreOf r.q r.slice with
    | some c => if (s.core c).sl.seq = r.seq then s.setRegs c (done (s.core c).regs) else s
    | none => s
  { s1 with saved := s1.saved.map (fun w => match w.slice with
      | some sl => if sl.seq = r.seq then { w with regs := done w.regs } else w
      | none => w) }

/-- Where a virtual address of a request's context lies. -/
def State.kvPlace (s : State) (r : KvReq) (va : Nat) : Option Nat :=
  match (s.translate (.icc r.island) r.ctx va 8 false).1 with
  | .ok x => some x.pa
  | .error _ => none

/-- Where the pool of a request's entry lies (Table 10.5). -/
def State.kvPool (s : State) (r : KvReq) : Option Nat :=
  match (s.vread (.icc r.island) r.ctx r.entry 8).1 with
  | .ok b => s.kvPlace r (leNat b)
  | _ => none

/-- Have two requests one entry: the same address of the same address space, or the same place? -/
def State.kvSameEntry (s : State) (a b : KvReq) : Bool :=
  let asid := fun (r : KvReq) => s.fld (Reg.MEM_AS r.ctx) 55 48
  (a.entry == b.entry && asid a == asid b) || ((s.kvPlace a a.entry).isSome && s.kvPlace a a.entry == s.kvPlace b b.entry)

/-- Have two requests one pool? -/
def State.kvSamePool (s : State) (a b : KvReq) : Bool := (s.kvPool a).isSome && s.kvPool a == s.kvPool b

/-- The request that island `n`'s control core serves next: the oldest of the kind that is not held at a fault and has
no older request on its entry (R312), nor on its pool, whichever island serves that (R305); none while that core restarts, and
before a restart only those in progress (Table 17.6). -/
def State.kvNext (s : State) (n : Nat) (append : Bool) : Option KvReq :=
  if s.restarting 3 n then none else
  let held := s.restartHold.any (fun x => x.island == n)
  (s.kv.zipIdx.find? (fun p => p.1.island == n && p.1.append == append && p.1.fault.isNone
    && (!held || s.restartHold.any (fun x => x.same p.1))
    && !((s.kv.take p.2).any (fun o => s.kvSameEntry o p.1 || s.kvSamePool o p.1)))).map (·.1)

/-- The request without its first occurrence. -/
def kvRemove (r : KvReq) (l : List KvReq) : List KvReq := l.erase r

/-- Does the slice that posted a request still wait for it, running or saved? -/
def State.kvOwned (s : State) (r : KvReq) : Bool :=
  let mine := fun (x : Option Slice) => match x with
    | some sl => sl.q == r.q && sl.idx == r.slice && sl.seq == r.seq
    | none => false
  s.cores.any (fun p => mine p.2.slice) || s.saved.any (fun v => mine v.slice)

/-- A served request that ended its command or met a fault (Table 11.4, R341). -/
def State.kvFail (s : State) (r : KvReq) (status : Nat) : State :=
  let s1 := s.setKv (kvRemove r s.kv)
  if s.kvOwned r then s1.endCommand r.q status 2 else s1

/-- A fault in the plan phase: held until the host answers, or final. -/
def State.kvFault (s : State) (r : KvReq) (va : Nat) (write : Bool) (f : TFault) : State :=
  let p := s.faultRaise ⟨.icc r.island, r.ctx, r.q, r.slice, 0, 0⟩ va write f
  if causeHeld f.cause then
    { p.2 with kv := p.2.kv.map (fun x => if x = r then { x with fault := some p.1 } else x) }
  else p.2.kvFail r (causeStatus f.cause)

/-- What serving a request answers, once: a result, a fault, or an end of its command. -/
def State.kvServe {α : Type} (s : State) (r : KvReq) (m : K α) (done : α → State → State) : State :=
  match m s with
  | (.ok a, t) => done a (t.setKv (kvRemove r t.kv))
  | (.fault va w f, t) => t.kvFault r va w f
  | (.stop st, t) => t.kvFail r st

/-- KV_APPEND_SERVICE (R310): nothing is served where no append waits at island `n`. -/
def execKvAppendService (n : IslandId) (s : State) : Res :=
  match s.kvNext n true with
  | none => .next s
  | some r => .next (s.orWait (s.kvServe r (kAppend r) (fun a t => (t.freeDiscard n a.1 a.2).kvAnswer r none)))

/-- KV_EVICT_SERVICE (R313, R314). -/
def execKvEvictService (n : IslandId) (s : State) : Res :=
  match s.kvNext n false with
  | none => .next s
  | some r => .next (s.orWait (s.kvServe r (kEvict r) (fun a t => (t.freeDiscard n a.2.1 a.2.2).kvAnswer r (some a.1))))

end Sys2Proof.Machine
end

