-- ==== Sys2Proof/Machine/SystemIns.lean ====
section
/-! DEFINITION. System instructions (R194, R195): WAITPWR, LAUNCH_AT. -/
namespace Sys2Proof.Machine

/-- The slice on core `c` ends as at END; the core sleeps if its island is selected for gating (R194, R559). -/
def State.waitpwrEnd (s : State) (c : Nat) : State :=
  let s1 := (s.beaconSeen c).sliceDone c
  if s.gateSel (islandOf c) then s1.setCore c { s1.core c with mode := .asleep } else s1

def waitpwrBody (c : Nat) (_ : IWord) (s : State) : IRes :=
  if !(s.core c).sl.pwr then .fail s stInvalidProgram
  else if s.sliceStreams c then .wait s .streams
  else .stop (s.waitpwrEnd c)

def execWaitpwr (c : CoreId) (s : State) : Res :=
  .next (issue (rowOpc 0xE0) (Enc.ok ⟨.zero, .zero, .zero, 0, 0, .never⟩) (waitpwrBody c) c s)

/-- A LAUNCH_LATE record of core `c`, `late` nanoseconds (Table 17.4). -/
def State.launchLate (s : State) (c late : Nat) : State :=
  s.fwLog 2 0 2 0x0202 (leBytes 1 c ++ leBytes 1 (s.core c).sl.ctx ++ leBytes 2 0 ++ leBytes 8 late)

/-- LAUNCH_AT: late when the time has passed, else the slice waits for a tick at or after it. -/
def launchBody (c : Nat) (w : IWord) (s : State) : IRes :=
  let r := (s.core c).regs
  let sec := (r.getS w.src1).toNat
  let ns := (r.getS w.src2).toNat
  let t := 1000000000 * sec + ns
  if 1000000000 ≤ ns then .fail s stInvalidProgram
  else if t < s.nowNs then .done (s.launchLate c (s.nowNs - t))
  else if t = s.nowNs then .done s
  else .wait s (.launch sec ns)

def execLaunchAt (c : CoreId) (s : State) : Res :=
  .next (issue (rowOpc 0xE1) (Enc.ok ⟨.zero, .reg .s, .reg .s, 0, 0, .never⟩) (launchBody c) c s)

/-- A slice held by LAUNCH_AT is released once its time is reached; late when a forward step of the timebase carried it
past (R195, R444). -/
def execLaunchRelease (c : CoreId) (s : State) : Res :=
  let k := s.core c
  match k.regs.stall with
  | some (.launch sec ns) =>
    let t := 1000000000 * sec + ns
    if k.mode ≠ .running ∨ s.nowNs < t then .next s
    else
      let late := match s.tbJump with
        | some before => decide (before < t) && decide (t < s.nowNs)
        | none => false
      .next ((if late then s.launchLate c (s.nowNs - t) else s).setPc c (k.regs.pc + 8))
  | _ => .next s

end Sys2Proof.Machine
end

