-- ==== Sys2Proof/Machine/Resume.lean ====
section
/-! DEFINITION. Stalled instructions continue (R108, R168, R205): the instruction at the program counter is evaluated
again from the point where it stalled. -/
namespace Sys2Proof.Machine

/-- The bodies of the instructions that stall and evaluate afresh, by opcode. -/
def waitBodyOf (o : Nat) : Option (Nat → IWord → State → IRes) :=
  match o with
  | 0x17 => some ldBody
  | 0x18 => some stBody
  | 0x1D => some endBody
  | 0x20 => some (mmaBody false (fun _ => false))
  | 0x21 => some (mmaBody false (fun _ => true))
  | 0x22 => some (mmaBody true (fun w => w.mod 50))
  | 0x23 => some (epiBody true)
  | 0x24 => some (epiBody false)
  | 0x40 => some vldBody
  | 0x41 => some vstBody
  | 0x72 => some racqBody
  | 0x74 => some rrsvBody
  | 0x90 => some fbindBody
  | 0x91 => some frunBody
  | 0x92 => some fwaitBody
  | 0x93 => some ffreeBody
  | 0xC0 => some atbBody
  | 0xC1 => some kvappendBody
  | 0xC2 => some kvgatherBody
  | 0xD2 => some (fun c w s => match w.digestOp with
    | 0 => digestInitBody c w s
    | 1 => digestAbsBody c w s
    | _ => digestFinBody c w s)
  | 0xE0 => some waitpwrBody
  | _ => none

/-- What an instruction touches beyond its register fields, by opcode. -/
def touchOf (o : Nat) : Core → IWord → Touch :=
  match o with
  | 0x17 => ldstTouch false
  | 0x18 => ldstTouch true
  | 0x20 => mmaTouch false
  | 0x21 => mmaTouch false
  | 0x22 => mmaTouch true
  | 0x23 => epiTouch true
  | 0x24 => epiTouch false
  | 0x40 => vecTouch false
  | 0x41 => vecTouch true
  | 0x42 => vaccTouch false
  | 0x43 => vaccTouch true
  | 0x70 => ringdefTouch
  | 0x73 => giveTouch true
  | 0x75 => giveTouch false
  | 0x76 => tagsetTouch
  | 0xB3 => reduceTouch
  | 0xC0 => atbTouch
  | 0xC1 => kvappendTouch
  | 0xD2 => digestTouch
  | _ => fun _ _ => {}

/-- Does the program of core `c` stand still: a wait holds the slice, or its next instruction waits for one that waits
(R104)? -/
def State.stuck (s : State) (c : Nat) : Bool :=
  let r := (s.core c).regs
  if r.stall.isSome || r.fly.any (fun e => e.wait.bars) then true
  else if r.fly = [] then false
  else
    match s.fetch c with
    | .word w => r.getP w.pred && r.clash (w.foot (touchOf w.opc (s.core c) w))
    | _ => false

/-- How an instruction that waited ended this time: it has completed and left the list, or waits on with its resume
point; the program counter and what else the core issues are as `r` has them. -/
def IRes.refly (x : IRes) (c : Nat) (e : Fly) (r : CoreRegs) : State :=
  let back := fun (s : State) (fly : List Fly) =>
    let g := (s.core c).regs
    s.setRegs c { g with pc := r.pc, resume := r.resume, tile := r.tile, stall := r.stall, waitStart := r.waitStart, fly := fly }
  match x with
  | .done s => back s ((s.core c).regs.fly.filter (fun y => y.pc != e.pc))
  | .jump s _ => back s ((s.core c).regs.fly.filter (fun y => y.pc != e.pc))
  | .wait s wt =>
    let g := (s.core c).regs
    back s.tick (g.fly.map (fun y => if y.pc = e.pc then
      { y with wait := wt, resume := g.resume, tile := g.tile, arr := if y.wait = wt then y.arr else s.seq } else y))
  | .fail s st => s.endSliceCmd c st
  | .stop s => s

/-- Evaluate again an instruction of core `c` that waits, from the point where it stalled. -/
def State.refly (s : State) (c : Nat) (e : Fly) : State :=
  let k := s.core c
  if k.mode ≠ .running ∨ k.slice.isNone ∨ !(k.regs.fly.contains e) then s
  else
    match waitBodyOf (bitsOf e.w1 63 56) with
    | none => s
    | some b =>
      let r := { k.regs with pc := e.pc, resume := e.resume, tile := e.tile, stall := some e.wait, waitStart := e.since }
      (b c ⟨e.w1, e.w2⟩ (s.setRegs c r)).refly c e k.regs

/-- Evaluate again, oldest first, the instructions of core `c` whose wait is as `p` says. -/
def State.reflyAll (s : State) (c : Nat) (p : Wait → Bool) : State :=
  ((s.core c).regs.fly.filter (fun e => p e.wait)).foldl (fun t e => t.refly c e) s

/-- A waiting RACQ or RRSV completes when its slot has the state it needs (R168). -/
def execRingSlotReady (c : CoreId) (s : State) : Res :=
  .next (s.reflyAll c (fun w => w == .slot))

/-- The programs that waited for a stream of ferry `f`, or at END for the streams of their slice, go on (R171 to R173,
R133). -/
def State.wakeFerry (s : State) (f : Nat) : State :=
  let on := fun (w : Wait) => w == .ferry f || w == .streams
  let cs := (s.cores.filter (fun p => p.2.regs.fly.any (fun e => on e.wait))).map (·.1)
  cs.foldl (fun t c => t.reflyAll c on) s

/-- A hash unit of island `n` is free: the DIGESTs that waited for one go on (R193). -/
def State.wakeHash (s : State) (n : Nat) : State :=
  let cs := (s.cores.filter (fun p => islandOf p.1 == n && p.2.regs.fly.any (fun e => e.wait == .hash))).map (·.1)
  cs.foldl (fun t c => t.reflyAll c (fun w => w == .hash)) s

end Sys2Proof.Machine
end

