-- ==== Sys2Proof/Machine/StreamOps.lean ====
section
/-! DEFINITION. Stream programs (R224 to R240): effective addresses, static checks, the two sides of an EMIT, and the
movement of a run flit by flit. -/
namespace Sys2Proof.Machine

/-! ## Ferry kinds and stream status -/

/-- The kinds of Table 8.1. -/
inductive FKind where
  | inb | outb | bulk
  deriving DecidableEq, Repr

/-- The kind of a ferry number (R14). -/
def fkindOf (f : Nat) : FKind := if 128 ≤ f then .bulk else if f % 2 = 0 then .inb else .outb

/-- The open stream of a ferry replaced; FRY_STATUS.OP follows its op index. -/
def State.setStream (s : State) (f : Nat) (st : Stream) : State :=
  s.setFerry f { s.ferry f with stream := some st, op := st.op }

/-- A stream goes on to its next op. -/
def Stream.advance (st : Stream) : Stream := { st with op := st.op + 1, pos := 0, wait := .none, waitRing := none }

/-- A ferry waits; the time of the wait starts when it begins. -/
def State.streamWait (s : State) (f : Nat) (st : Stream) (w : FWait) (rn : Option RingName) : State :=
  if st.wait = w ∧ st.waitRing = rn then s.setStream f st
  else s.setStream f { st with wait := w, waitRing := rn, since := s.upNs }

/-- Ferry `f` carries a digested stream no more: on a bulk ferry, a DIGEST may go on (R193). -/
def State.hashFreed (s : State) (f : Nat) : State := if 128 ≤ f then s.wakeHash (ferryIsland f) else s

/-- A stream ends with an error (R239): its slots are reset, FRY_STATUS keeps ERR and OP, and its command ends with a
status. -/
def State.streamFail (s : State) (f : Nat) (st : Stream) (err status : Nat) : State :=
  let s1 := s.streamAbort st
  let s2 := s1.setFerry f { s1.ferry f with stream := none, op := st.op, err := err }
  (s2.endBy st.q status 2 st.slice).hashFreed f

/-- Errors of R239 that are INVALID_PROGRAM. -/
def State.streamBad (s : State) (f : Nat) (st : Stream) (err : Nat) : State := s.streamFail f st err stInvalidProgram

/-- Bytes moved: FRY_BYTES (R256). -/
def State.moved (s : State) (f n : Nat) : State := s.setFerry f { s.ferry f with bytes := (s.ferry f).bytes + n }

/-- The stream with bytes absorbed by the ferry's hash unit. -/
def State.absorb (s : State) (f : Nat) (st : Stream) (bs : List Byte) : Stream :=
  if s.digested f st then { st with absorbed := st.absorbed ++ bs } else st

/-! ## Address registers (R229, R230) -/

/-- An x register of a ferry. -/
def State.xreg (s : State) (f i : Nat) : XReg := tabGet ⟨0, 0, .none⟩ (s.ferry f).xs i

def State.setXreg (s : State) (f i : Nat) (x : XReg) : State :=
  s.setFerry f { s.ferry f with xs := tabPut (s.ferry f).xs i x }

/-- The effective value of an x register; `none` is OUTSIDE. -/
def XReg.eff (r : XReg) : Option DWord :=
  let d : Int := (r.x - r.b).toInt
  match r.mode with
  | .none => some r.x
  | .wrap n => some (r.b + BitVec.ofInt 64 (Int.emod d n))
  | .clamp n => some (r.b + BitVec.ofInt 64 (min (max d 0) n))
  | .fence n => if d < 0 ∨ (n : Int) < d then none else some r.x

/-- Add an integer to an x register, modulo 2^64. -/
def State.addX (s : State) (f i : Nat) (d : Int) : State :=
  let r := s.xreg f i
  s.setXreg f i { r with x := r.x + BitVec.ofInt 64 d }

/-- The unit of an immediate (R228). -/
def streamUnit (u : Nat) : Int := match u with
  | 0 => 1
  | 1 => 16
  | 2 => 4096
  | _ => 65536

/-- The scaled immediate of STRIDE and ADD: bits [21:0] signed times the unit of [23:22]. -/
def opScaled (w : Nat) : Int := signedOf 22 (bitsOf w 21 0) * streamUnit (bitsOf w 23 22)

/-! ## Static checks (R227, Tables 8.3 to 8.5) -/

/-- The op code of a stream word. -/
def opCode (w : Nat) : Nat := bitsOf w 31 26

/-- May a ferry produce a ring through ring A or B (Table 8.3)? -/
def prodRole (k : FKind) (r : Ring) : Bool := match k with
  | .inb => r.prod == 1 && !r.harbour
  | .outb => false
  | .bulk => r.prod == 3

/-- May a ferry consume a ring through ring A or B (Table 8.3)? -/
def consRole (k : FKind) (r : Ring) : Bool := match k with
  | .inb => false
  | .outb => r.cons == 2 && !r.harbour
  | .bulk => r.cons == 3 && r.harbour

/-- The directions a ferry kind permits (Table 8.1). -/
def dirOk (k : FKind) (dir : Bool) : Bool := match k with
  | .inb => !dir
  | .outb => dir
  | .bulk => true

/-- The op's fields against Tables 8.4 and 8.5; `role p b`: is ring A (`b` false) or B enabled with the role produce
(`p`) or consume? -/
def opFieldsOk (k : FKind) (role : Bool → Bool → Bool) (w : Nat) : Bool :=
  match opCode w with
  | 0x00 => bitsOf w 25 0 == 0
  | 0x01 => decide (bitsOf w 25 23 ≤ 5) && bitsOf w 22 20 == 0
  | 0x02 => decide (bitsOf w 25 23 ≤ 5) && bitsOf w 22 0 == 0
  | 0x03 => true
  | 0x04 => true
  | 0x05 => true
  | 0x06 => true
  | 0x07 => bitsOf w 25 16 == 0
  | 0x08 => bitsOf w 16 0 == 0
  | 0x10 =>
    bitsOf w 13 12 == 0 && decide (3 ≤ bitsOf w 11 0) && dirOk k (bitOf w 16)
      && (if bitOf w 17 then !(bitOf w 18) else role (!(bitOf w 16)) (bitOf w 18))
  | 0x11 => bitsOf w 23 0 == 0 && (match bitsOf w 25 24 with
    | 0 => role true false
    | 1 => role true true
    | 2 => true
    | _ => false)
  | 0x12 => bitsOf w 23 0 == 0 && (match bitsOf w 25 24 with
    | 0 => role false false
    | 1 => role false true
    | 2 => true
    | _ => false)
  | 0x13 => bitsOf w 15 0 == 0
  | _ => false

/-- The nesting of loops and strides: open levels innermost first, registers of the pending strides. -/
def opNestOk : (lvls xs : List Nat) → List Nat → Bool
  | _, xs, [] => xs.isEmpty
  | lvls, xs, w :: t =>
    if opCode w = 0x03 then
      let x := bitsOf w 25 24
      !(xs.contains x) && opNestOk lvls (x :: xs) t
    else if opCode w = 0x01 then
      let l := bitsOf w 25 23
      lvls.all (fun m => decide (m < l)) && opNestOk (l :: lvls) [] t
    else if !xs.isEmpty then false
    else if opCode w = 0x02 then
      match lvls with
      | m :: rest => m == bitsOf w 25 23 && opNestOk rest [] t
      | [] => false
    else opNestOk lvls [] t

/-- The role test of a stream's ring A or B. -/
def State.streamRole (s : State) (k : FKind) (st : Stream) (prod b : Bool) : Bool :=
  match (if b then st.ringB else st.ringA) with
  | none => false
  | some h => match s.ring st.core h with
    | none => false
    | some r => if prod then prodRole k r else consRole k r

/-- The static checks on a program loaded up to its first END. -/
def State.progOk (s : State) (f : Nat) (st : Stream) (prog : List Nat) : Bool :=
  prog.getLast? == some 0 && prog.all (opFieldsOk (fkindOf f) (s.streamRole (fkindOf f) st)) && opNestOk [] [] prog

/-- How the load of a program ended. -/
inductive Load where
  | ok (prog : List Nat)
  | noEnd
  | edge
  | bad (p : Nat)
  deriving DecidableEq, Repr

/-- Load words from harbour offset `off` until the first END, at most `fuel` (R227). -/
def State.loadProg (s : State) (isl : Nat) : (fuel off : Nat) → (acc : List Nat) → Load
  | 0, _, _ => .noEnd
  | n + 1, off, acc =>
    if 0x80_0000 ≤ off then .edge
    else if s.hbrUe.contains (hbrAddr isl off / 8) then .bad (hbrAddr isl off)
    else
      let w := leNat (s.bytes (hbrAddr isl off) 4)
      if opCode w = 0 then .ok (acc ++ [w]) else s.loadProg isl n (off + 4) (acc ++ [w])

/-! ## Sides of an EMIT -/

/-- A side of a run, resolved: virtual bytes, physical bytes of a harbour, or lagoon cells of a core. -/
inductive Side where
  | va (a : Nat)
  | phys (p : Nat)
  | lgn (core byte : Nat) (col : Bool)
  deriving DecidableEq, Repr

/-- The lagoon byte of byte `i` of a run (R232). -/
def lgnByte (byte : Nat) (col : Bool) (i : Nat) : Nat := if col then byte + 512 * (i / 16) + i % 16 else byte + i

/-- The lagoon cells of bytes `[i, i + n)` of a run, `i` and `n` multiples of 16. -/
def lgnCells (byte : Nat) (col : Bool) (i n : Nat) : List Nat :=
  (List.range (n / 16)).map (fun k => lgnByte byte col (i + 16 * k) / 16)

/-- Does a run of `len` bytes in a column stay in its plane column (R91, R232)? -/
def columnOk (byte len : Nat) : Bool := decide (len ≤ 512) && decide (byte / 16 % 1024 / 32 + len / 16 ≤ 32)

/-- How resolving a side ended: a side with the state that holds its slot, an error, or a wait. -/
inductive SideRes where
  | ok (s : State) (st : Stream) (d : Side)
  | err (e : Nat)
  | wait (w : FWait) (rn : Option RingName)

/-- A produced ring's current slot: the reserved one at the head, else the one at the reserve pointer once EMPTY. -/
def Ring.slotToFill (r : Ring) : Option (Nat × Bool) :=
  if r.at r.head == .p then some (r.head, false) else if r.at r.rsv == .e then some (r.rsv, true) else none

/-- A consumed ring's current slot: the acquired one at the tail, else the one at the acquire pointer once FULL. -/
def Ring.slotToDrain (r : Ring) : Option (Nat × Bool) :=
  if r.at r.tail == .c then some (r.tail, false) else if r.at r.acq == .f then some (r.acq, true) else none

/-- The slot that a producer's or a consumer's run concerns now, whether or not it can have it yet. -/
def Ring.nowSlot (r : Ring) (prod : Bool) : Nat :=
  if prod then (if r.at r.head == .p then r.head else r.rsv) else if r.at r.tail == .c then r.tail else r.acq

/-- A ring name among some, once. -/
def addName (l : List RingName) (n : RingName) : List RingName := if l.contains n then l else l ++ [n]

/-- The place of byte `off` of slot `i` of a ring. -/
def Ring.slotSide (r : Ring) (core i off : Nat) (col : Bool) : Side :=
  if r.harbour then .phys (hbrAddr (islandOf core) (4096 * r.slotBase i + off)) else .lgn core (4096 * r.slotBase i + off) col

/-- Take the slot of a ring that a run of `len` bytes at slot offset `off` needs, as producer or consumer (R241). A
consumer's ended wait may be late (R249). A slot offset is held to a multiple of 16 as an address is (DESIGN CHOICE, Log
78). -/
def State.takeSlot (s : State) (f : Nat) (st : Stream) (rn : RingName) (r : Ring) (prod : Bool) (off len : Nat)
    (col : Bool) : SideRes :=
  let run := if col then 512 * (len / 16 - 1) + 16 else len
  if off % 16 ≠ 0 ∨ 4096 * r.sb < off + run then .err 2
  else if col ∧ (r.harbour ∨ !(columnOk (4096 * r.slotBase (r.nowSlot prod) + off) len)) then .err 2
  else if prod then
    match r.slotToFill with
    | none => .wait .slotE (some rn)
    | some (i, new) =>
      .ok (if new then s.setRing rn.core rn.handle r.doReserve else s)
        { st with held := addName st.held rn } (r.slotSide rn.core i off col)
  else
    match r.slotToDrain with
    | none => .wait .slotF (some rn)
    | some (i, new) =>
      let s1 := if new then s.setRing rn.core rn.handle r.doAcquire else s
      let s2 := match st.wait, tabFind s1.queues st.q with
        | .slotF, some m =>
          if st.waitRing = some rn then
            s1.lateData st.q st.core (s1.ferry f).ctx rn.handle (ferryKind f) i 0 (s1.upNs - st.since) r.lateNs m.rt
          else s1
        | _, _ => s1
      .ok s2 { st with acqd := addName st.acqd rn } (r.slotSide rn.core i off col)

/-- The ring side through ring A or B (NR = 0). -/
def State.ringSide (s : State) (f : Nat) (st : Stream) (w : Nat) (len : Nat) (xd : DWord) : SideRes :=
  match (if bitOf w 18 then st.ringB else st.ringA) with
  | none => .err 3
  | some h => match s.ring st.core h with
    | none => .err 3
    | some r => s.takeSlot f st ⟨st.core, h⟩ r (!(bitOf w 16)) xd.toNat len (bitOf w 15)

/-- The ring side as an address (NR = 1): own lagoon, and for a bulk ferry also the harbour (Table 8.3). -/
def State.nrSide (s : State) (f : Nat) (st : Stream) (w : Nat) (len : Nat) (xd : DWord) : SideRes :=
  let a := xd.toNat
  let col := bitOf w 15
  if a % 16 ≠ 0 then .err 2
  else if bitsOf a 63 62 = 2 then
    let b := bitsOf a 18 0
    if bitsOf a 61 19 ≠ 0 then .err 2
    else if col then
      if columnOk b len then .ok s st (.lgn st.core b true) else .err 2
    else if 0x80000 < b + len then .err 2
    else .ok s st (.lgn st.core b false)
  else if bitsOf a 63 62 = 1 ∧ fkindOf f = .bulk then
    if bitsOf a 61 23 ≠ 0 ∨ 0x80_0000 < bitsOf a 22 0 + len ∨ col then .err 2
    else .ok s st (.phys (hbrAddr (ferryIsland f) (bitsOf a 22 0)))
  else .err 2

/-- The slice that a space 0b11 name means (R225): its index in the command; `none` outside what is permitted. -/
def Cmd.nameSlice (m : Cmd) (st : Stream) (stage i : Nat) : Option Nat :=
  match m.stages with
  | [] => if stage = 0 ∧ (i = st.slice ∨ (m.kind = 2 ∧ i < m.nslice)) then some i else none
  | l => if i < l.getD stage 0 then some ((l.take stage).foldl (· + ·) 0 + i) else none

/-- The memory side's ring role (Table 8.3): `own` says the ring is of the ferry's own slice. -/
def memRole (k : FKind) (dir own : Bool) (r : Ring) : Bool :=
  match k, dir with
  | .inb, false => own && r.harbour && r.cons == 1
  | .outb, true => if own then r.prod == 2 else r.prod == 3
  | .bulk, false => r.harbour && r.cons == 3
  | .bulk, true => r.prod == 3
  | _, _ => false

/-- The ring a space 0b11 address names (R225, R245): its name and ring; or an error; or, while it cannot be reached, a
wait. An inbound ferry may name its own slice's rings alone (Table 8.3). -/
def State.nameRing (s : State) (f : Nat) (st : Stream) (dir : Bool) (a : Nat) : Except (Option Nat) (RingName × Ring) :=
  match tabFind s.queues st.q with
  | none => .error (some 4)
  | some m =>
    match m.nameSlice st (bitsOf a 61 59) (bitsOf a 58 53) with
    | none => .error (some 4)
    | some i =>
      let h := bitsOf a 52 49
      if i = st.slice then
        match s.ring st.core h with
        | none => .error (some 3)
        | some r => if memRole (fkindOf f) dir true r then .ok (⟨st.core, h⟩, r) else .error (some 3)
      else if fkindOf f = .inb then .error (some 3)
      else
        match s.reach st.q i with
        | none => .error none
        | some c => match s.ring c h with
          | none => .error none
          | some r => if memRole (fkindOf f) dir false r then .ok (⟨c, h⟩, r) else .error (some 3)

/-- The memory side of a run of `len` bytes at address `a` (R224, R226, R232). -/
def State.memSide (s : State) (f : Nat) (st : Stream) (dir : Bool) (a len : Nat) : SideRes :=
  if a % 16 ≠ 0 then .err 2
  else match bitsOf a 63 62 with
    | 0 => if bitsOf a 61 48 ≠ 0 ∨ 2 ^ 48 < a + len then .err 2 else .ok s st (.va a)
    | 1 =>
      if bitsOf a 61 23 ≠ 0 ∨ 0x80_0000 < bitsOf a 22 0 + len then .err 2
      else .ok s st (.phys (hbrAddr (ferryIsland f) (bitsOf a 22 0)))
    | 2 => .err 2
    | _ =>
      if bitsOf a 48 20 ≠ 0 then .err 2
      else match s.nameRing f st dir a with
        | .error (some e) => .err e
        | .error none => .wait .remote none
        | .ok (rn, r) => s.takeSlot f { st with mem := some rn } rn r dir (bitsOf a 19 0) len false

/-! ## Moving a run -/

/-- How a flit's access ended. -/
inductive FRes (α : Type) where
  | ok (a : α)
  | fault (va : Nat) (write : Bool) (f : TFault)
  | ecc
  | frc
  deriving Repr

/-- The next flit of a run of `len` virtual bytes at `a`, from byte `pos`: 64 bytes, or a 128-byte block of an FRC page,
translated (R286, R342). -/
def State.vaFlit (s : State) (f ctx a len pos : Nat) (write : Bool) : FRes (Nat × List (Xlat × Nat)) × State :=
  let n := min 64 (len - pos)
  match s.probe (.ferry f) ctx write (piecesOf (a + pos) n) with
  | (.fault v w x, t) => (.fault v w x, t)
  | (.ecc, t) => (.ecc, t)
  | (.ok l, t) =>
    if l.all (fun x => x.1.frc == 0) then (.ok (n, l), t)
    else if a % 128 ≠ 0 ∨ len % 128 ≠ 0 then (.frc, t)
    else
      match t.translate (.ferry f) ctx (a + pos) 128 write with
      | (.error x, u) => (.fault (a + pos) write x, u)
      | (.ok x, u) => (.ok (128, [(x, 128)]), u)

/-- The size of the next flit on a side, with the translation it uses. -/
def State.sideFlit (s : State) (f ctx : Nat) (d : Side) (len pos : Nat) (write : Bool) :
    FRes (Nat × List (Xlat × Nat)) × State :=
  match d with
  | .va a => s.vaFlit f ctx a len pos write
  | _ => (.ok (min 64 (len - pos), []), s)

/-- Read a flit of `n` bytes at byte `pos` of a side; a lagoon access reads its berths' state bits too (R217). -/
def State.flitIn (s : State) (ctx : Nat) (d : Side) (xl : List (Xlat × Nat)) (pos n : Nat) : FRes (List Byte) × State :=
  match d with
  | .va _ => match s.gather ctx xl with
    | (.ok b, t) => (.ok b, t)
    | (_, t) => (.ecc, t)
  | .phys p => match s.readPhys 0 (p + pos) n with
    | (some b, t) => (.ok b, t)
    | (none, t) => (.ecc, t)
  | .lgn c byte col =>
    let cs := lgnCells byte col pos n
    let ws := cellWords cs
    match (s.core c).touch (berthsOf cs), (s.core c).lgnBad ws with
    | .parity b, _ => (.ecc, s.parityHit c b)
    | _, some w => (.ecc, s.eccLagoon c w)
    | _, none =>
      let t := s.lgnCorrect c ws
      (.ok (cs.flatMap (fun i => (t.core c).lgnBytes (16 * i) 16)), t)

/-- Write bytes to some cells, 16 to a cell. -/
def Core.pokeCells (k : Core) : List Nat → List Byte → Core
  | [], _ => k
  | i :: t, bs => (k.lgnPoke (16 * i) (bs.take 16)).pokeCells t (bs.drop 16)

/-- Write a flit at byte `pos` of a side; false where a merge met an uncorrectable word, or a berth's state bits had a parity
error (R217). -/
def State.flitOut (s : State) (ctx : Nat) (d : Side) (xl : List (Xlat × Nat)) (pos : Nat) (bs : List Byte) : Bool × State :=
  match d with
  | .va _ => s.scatter ctx xl bs
  | .phys p => s.writePhys 4 (p + pos) bs
  | .lgn c byte col =>
    let cs := lgnCells byte col pos bs.length
    match (s.core c).touch (berthsOf cs) with
    | .parity b => (false, s.parityHit c b)
    | _ => (true, s.setCore c ((s.core c).pokeCells cs bs))

/-- How the movement of a run ended: all of it, or stopped at a byte. -/
inductive Moved where
  | all (s : State) (st : Stream)
  | fault (s : State) (st : Stream) (va : Nat) (write : Bool) (f : TFault)
  | ecc (s : State) (st : Stream)
  | frc (s : State) (st : Stream)

/-- Move a run of `len` bytes from `src` to `dst`, flit by flit from `st.pos`; `tf` changes the bytes of a flit at its
byte position; `mem` says which side is the memory side (its flits decide the size). -/
def State.moveRun (f : Nat) (tf : Nat → List Byte → List Byte) (src dst : Side) (memSrc : Bool) (len : Nat) :
    Nat → State → Stream → Moved
  | 0, s, st => .all s st
  | fuel + 1, s, st =>
    if len ≤ st.pos then .all s st
    else
      let ctx := (s.ferry f).ctx
      match s.sideFlit f ctx (if memSrc then src else dst) len st.pos (!memSrc) with
      | (.fault v w x, t) => .fault t st v w x
      | (.ecc, t) => .ecc t st
      | (.frc, t) => .frc t st
      | (.ok (n, xl), t) =>
        match t.flitIn ctx src xl st.pos n with
        | (.ok b, t1) =>
          let bs := tf st.pos b
          match t1.flitOut ctx dst xl st.pos bs with
          | (true, t2) =>
            let st1 := if memSrc then t2.absorb f st bs else st
            State.moveRun f tf src dst memSrc len fuel (t2.moved f n) { st1 with pos := st.pos + n }
          | (false, t2) => .ecc t2 st
        | (_, t1) => .ecc t1 st

/-- Write generated bytes over the rest of a run from `st.pos`, counted and absorbed as one. -/
def State.fillRun (s : State) (f : Nat) (st : Stream) (dst : Side) (bs : List Byte) : Bool × State × Stream :=
  match s.flitOut (s.ferry f).ctx dst [] st.pos bs with
  | (true, t) => (true, t.moved f bs.length, { t.absorb f st bs with pos := st.pos + bs.length })
  | (false, t) => (false, t, st)

/-- The end of a movement that stopped (Tables 11.4, 11.6): a held fault holds the ferry at its byte, a final cause and
an uncorrectable read end the stream. -/
def Moved.stopped (m : Moved) (f : Nat) : State :=
  match m with
  | .all s st => s.setStream f st
  | .ecc s st => s.streamFail f st 5 stEcc
  | .frc s st => s.streamBad f st 2
  | .fault s st va write x =>
    let p := s.faultRaise ⟨.ferry f, (s.ferry f).ctx, st.q, st.slice, st.op, st.pos / 64 * 64⟩ va write x
    if causeHeld x.cause then p.2.setStream f { st with wait := .fault p.1, waitRing := none }
    else p.2.streamFail f st (if x.cause = 0xA then 5 else 2) (causeStatus x.cause)

/-- The stream and op word of a ferry whose stream runs its program: loaded, not cancelling, not held at a fault. -/
def State.curOp (s : State) (f : Nat) : Option (Stream × Nat) :=
  let k := s.ferry f
  match k.stream, k.cancelling with
  | some st, none =>
    if st.load.isNone && st.kv.isNone && st.conv.isNone && (match st.wait with | .fault _ => false | _ => true) then
      (st.prog[st.op]?).map (fun w => (st, w))
    else none
  | _, _ => none

/-- Execute ferry `f`'s current op when it is `code`. -/
def State.streamOp (s : State) (f code : Nat) (body : Stream → Nat → State) : State :=
  match s.curOp f with
  | some (st, w) => if opCode w = code then body st w else s
  | none => s

end Sys2Proof.Machine
end

