-- ==== Sys2Proof/Machine/Stream.lean ====
section
/-! DEFINITION. The ops of a ferry's stream (R227 to R240), the built-in streams of KVGATHER (R307) and of convolution
(R283 to R285), cancellation (R251, R252) and the end of tag waits (R205). -/
namespace Sys2Proof.Machine

/-! ## Start and end -/

/-- STREAM_START: the program is loaded and checked (R227). -/
def execStreamStart (f : FerryId) (s : State) : Res :=
  let k := s.ferry f
  match k.stream, k.cancelling with
  | some st, none =>
    match st.load with
    | none => .next s
    | some off =>
      let st1 := { st with load := none }
      match s.loadProg (ferryIsland f) 64 off [] with
      | .edge => .next (s.streamBad f st1 2)
      | .noEnd => .next (s.streamBad f st1 1)
      | .bad p => .next ((s.eccReport 0 p (p / 8)).streamFail f st1 5 stEcc)
      | .ok prog =>
        if s.progOk f st prog then .next (s.setStream f { st1 with prog := prog }) else .next (s.streamBad f st1 1)
  | _, _ => .next s

/-- The stream of ferry `f` has ended: the slots it leaves reserved are kept for the next (R241), its input digest joins its command's (R530), its waiters go on. -/
def State.streamEnd (s : State) (f : Nat) (st : Stream) : State :=
  let s1 := s.setFerry f { s.ferry f with stream := none, op := st.op, held := st.held, acqd := st.acqd }
  let s2 := match tabFind s1.queues st.q with
    | some m =>
      if s.digested f st then
        { s1 with queues := tabPut s1.queues st.q { m with
          digests := m.digests ++ [(st.slice, st.seq, shake256 st.absorbed)] } }
      else s1
    | none => s1
  (s2.wakeFerry f).hashFreed f

/-- The window slots of a convolution stream. -/
def ConvRun.slots (r : ConvRun) : List ConvSlot := (ConvDesc.of r.desc).slotsOf r.stripes

/-- The window stream of a convolution slice on core `c`, while it is open. -/
def State.convWin (s : State) (c q slice : Nat) : Option ConvRun :=
  match (s.ferry (2 * c)).stream with
  | some st => if st.q = q ∧ st.slice = slice then st.conv.filter (fun r => !r.staging) else none
  | none => none

/-- The stripe, by its place in the slice's list, that a window stream works on. -/
def ConvRun.at (r : ConvRun) : Nat := match r.slots[r.next]? with
  | some x => r.stripes.idxOf x.st
  | none => r.stripes.length

/-- Has a built-in stream delivered everything? A staging stream stays while its window stream has stripes to take (R283). -/
def State.builtInDone (s : State) (st : Stream) : Bool :=
  match st.kv, st.conv with
  | some g, _ => g.next == g.stop && st.pos == 0
  | none, some r =>
    if r.staging then r.next == r.stripes.length && (s.convWin st.core st.q st.slice).all (fun w => w.at == w.stripes.length)
    else r.next == r.slots.length && st.pos == 0
  | none, none => false

/-- STREAM_END: the END op of a program, or the end of a built-in stream. -/
def execStreamEnd (f : FerryId) (s : State) : Res :=
  let k := s.ferry f
  match k.stream, k.cancelling with
  | some st, none =>
    if s.builtInDone st then .next (s.streamEnd f st)
    else .next (s.streamOp f 0x00 (fun st _ => s.streamEnd f st))
  | _, _ => .next s

/-! ## Loops and registers (R228, R229) -/

def execStreamStride (f : FerryId) (s : State) : Res :=
  .next (s.streamOp f 0x03 (fun st w =>
    s.setStream f { st.advance with pend := st.pend ++ [(bitsOf w 25 24, opScaled w)] }))

def execStreamLoop (f : FerryId) (s : State) : Res :=
  .next (s.streamOp f 0x01 (fun st w =>
    s.setStream f { st.advance with
      loops := tabPut st.loops (bitsOf w 25 23) ⟨bitsOf w 19 0 + 1, 0, st.op + 1, st.pend⟩, pend := [] }))

/-- ENDL: the strides apply and the loop repeats, or they are undone and it exits. -/
def execStreamEndl (f : FerryId) (s : State) : Res :=
  .next (s.streamOp f 0x02 (fun st w =>
    let l := bitsOf w 25 23
    let p := tabGet ⟨1, 0, 0, []⟩ st.loops l
    if p.it + 1 < p.cnt then
      (p.strides.foldl (fun t x => t.addX f x.1 x.2) s).setStream f { st.advance with
        op := p.top, loops := tabPut st.loops l { p with it := p.it + 1 } }
    else
      (p.strides.foldl (fun t x => t.addX f x.1 (-(x.2 * ((p.cnt : Int) - 1)))) s).setStream f { st.advance with
        loops := tabDel st.loops l }))

def execStreamAdd (f : FerryId) (s : State) : Res :=
  .next (s.streamOp f 0x04 (fun st w => (s.addX f (bitsOf w 25 24) (opScaled w)).setStream f st.advance))

/-- Give an x register a mode. -/
def State.setMode (s : State) (f i : Nat) (m : XMode) : State := s.setXreg f i { s.xreg f i with mode := m }

def execStreamWrap (f : FerryId) (s : State) : Res :=
  .next (s.streamOp f 0x05 (fun st w =>
    let n := bitsOf w 23 0
    (s.setMode f (bitsOf w 25 24) (if n = 0 then .none else .wrap (64 * n))).setStream f st.advance))

def execStreamClamp (f : FerryId) (s : State) : Res :=
  .next (s.streamOp f 0x06 (fun st w =>
    let n := 16 * bitsOf w 22 0
    (s.setMode f (bitsOf w 25 24) (if bitOf w 23 then .fence n else .clamp n)).setStream f st.advance))

def execStreamPad (f : FerryId) (s : State) : Res :=
  .next (s.streamOp f 0x07 (fun st w => s.setStream f { st.advance with pad := bitsOf w 15 0 }))

/-- GATHER (R235): the index is read through XI, in space 0b00 or 0b01. -/
def gatherBody (f : Nat) (s : State) (st : Stream) (w : Nat) : State :=
  let x := bitsOf w 25 24
  let xi := bitsOf w 23 22
  match (s.xreg f xi).eff with
  | none => s.streamBad f st 2
  | some e =>
    let a := e.toNat
    let put := fun (t : State) (b : List Byte) =>
      let r := t.xreg f x
      let t1 := t.setXreg f x { r with x := r.b + BitVec.ofNat 64 (leNat b * 2 ^ bitsOf w 21 17) }
      (t1.addX f xi 4).setStream f st.advance
    if a % 4 ≠ 0 then s.streamBad f st 2
    else if bitsOf a 63 62 = 0 ∧ bitsOf a 61 48 = 0 then
      match s.vread (.ferry f) (s.ferry f).ctx a 4 with
      | (.ok b, t) => put t b
      | (.fault v wr y, t) => (Moved.fault t st v wr y).stopped f
      | (.ecc, t) => t.streamFail f st 5 stEcc
    else if bitsOf a 63 62 = 1 ∧ bitsOf a 61 23 = 0 then
      match s.readPhys 0 (hbrAddr (ferryIsland f) (bitsOf a 22 0)) 4 with
      | (some b, t) => put t b
      | (none, t) => t.streamFail f st 5 stEcc
    else s.streamBad f st 2

def execStreamGather (f : FerryId) (s : State) : Res := .next (s.orWait (s.streamOp f 0x08 (gatherBody f s)))

/-! ## EMIT (R231 to R234) -/

/-- The fill pattern over `len` bytes, low byte first (R233). -/
def fillBytes (pad len : Nat) : List Byte := (List.replicate (len / 2) (leBytes 2 pad)).flatten

/-- The tag evaluation of an NR lagoon access before any byte moves (R234). -/
def State.nrGrant (s : State) (d : Side) (u write : Bool) (len : Nat) : Option (Nat × Grant) :=
  match d with
  | .lgn c byte col =>
    let bs := berthsOf (lgnCells byte col 0 len)
    some (c, if u then (s.core c).touch bs else (s.core c).grant write bs)
  | _ => none

/-- The run moves, or the pattern is written, once both sides are there and the tags allow it. `m` is `none` where the
memory side is OUTSIDE. -/
def emitMove (f : Nat) (s : State) (st : Stream) (w len : Nat) (d : Side) (m : Option Side) : State :=
  let dir := bitOf w 16
  let chk := if bitOf w 17 && st.pos == 0 && (m.isSome || !dir) then s.nrGrant d (bitOf w 14) (!dir) len else none
  match chk with
  | some (c, .wait wr bs) => s.streamWait f st (.tags c wr bs) none
  | some (c, .parity b) => (s.parityHit c b).streamFail f st 5 stEcc
  | _ =>
    match m with
    | none =>
      if dir then s.setStream f st.advance
      else
        match s.fillRun f st d ((fillBytes st.pad len).drop st.pos) with
        | (true, t, st1) => t.setStream f st1.advance
        | (false, t, st1) => t.streamFail f st1 5 stEcc
    | some m =>
      let r := State.moveRun f (fun _ b => b) (if dir then d else m) (if dir then m else d) (!dir) len (len / 16 + 1) s st
      match r with
      | .all t st1 => t.setStream f st1.advance
      | r => r.stopped f

/-- EMIT of a program. -/
def emitBody (f : Nat) (s : State) (st : Stream) (w : Nat) : State :=
  let len := 16 * (bitsOf w 11 0 + 1)
  let dir := bitOf w 16
  let off := if bitOf w 21 then (s.xreg f (bitsOf w 23 22)).eff else some 0
  let addr := match (s.xreg f (bitsOf w 25 24)).eff, off with
    | some a, some o => some (a + o)
    | _, _ => none
  match (s.xreg f (bitsOf w 20 19)).eff with
  | none => s.streamBad f st 2
  | some xd =>
    match (if bitOf w 17 then s.nrSide f st w len xd else s.ringSide f st w len xd) with
    | .err e => s.streamBad f st e
    | .wait x rn => s.streamWait f st x rn
    | .ok s1 st1 d =>
      match addr with
      | none => emitMove f s1 st1 w len d none
      | some a =>
        match s1.memSide f st1 dir a.toNat len with
        | .err e => s1.streamBad f st1 e
        | .wait x rn => s1.streamWait f st1 x rn
        | .ok s2 st2 m => emitMove f s2 st2 w len d (some m)

/-! ### KVGATHER's pages (R307) -/

/-- PAGE[J] and VALID, read as the slot is reserved. -/
def kvPage (ag : XAgent) (ctx isl : Nat) (g : KvGather) : K KvPageRun :=
  (kEntry ag ctx g.entry).bind (fun ep =>
    let p := ep.2
    let v := ep.1.pages.getD g.next noPage
    if v = noPage then K.pure ⟨none, false, 0, p.psz⟩
    else (kMeta ag ctx p g.next v).bind (fun md =>
      if pgPin v ∧ isl = p.pinIsland then
        K.pure ⟨some (hbrAddr isl ((p.pinBase + md.pinSlot * (p.psz / 4096)) * 4096)), true, md.valid, p.psz⟩
      else K.pure ⟨some (p.page + pgNum v * p.psz), false, md.valid, p.psz⟩))

/-- The bytes of a page from byte `pos` as they are delivered: rows of positions that are not valid are masked. -/
def kvMask (run : KvPageRun) (pos : Nat) (bs : List Byte) : List Byte :=
  (bs.zipIdx).map (fun p =>
    let row := (pos + p.2) / (run.size / 128)
    if bitOf run.valid (row % 64) then p.1 else if row < 64 then 0xFF else 0)

/-- One page delivered into the slot at the head of ring A, from the byte where a fault held it. -/
def kvDeliver (f : Nat) (s : State) (st : Stream) (g : KvGather) (run : KvPageRun) (rn : RingName) (r : Ring) : State :=
  match s.takeSlot f st rn r true 0 run.size false with
  | .err e => s.streamBad f st e
  | .wait x n => s.streamWait f st x n
  | .ok s1 st1 d =>
    let st2 := { st1 with kv := some { g with cur := some run }, wait := .none }
    match run.src with
    | none =>
      match s1.fillRun f st2 d ((kvMask run 0 (List.replicate run.size 0)).drop st.pos) with
      | (true, t, st3) => t.setStream f st3
      | (false, t, st3) => t.streamFail f st3 5 stEcc
    | some a =>
      let src := if run.hbr then Side.phys a else .va a
      (State.moveRun f (kvMask run) src d true run.size (run.size / 16 + 1) s1 st2).stopped f

/-- An EMIT of KVGATHER's stream. -/
def kvEmit (f : Nat) (s : State) (st : Stream) (g : KvGather) : State :=
  match st.ringA with
  | none => s
  | some h => match s.ring st.core h with
    | none => s.streamBad f st 3
    | some r =>
      let rn : RingName := ⟨st.core, h⟩
      match g.cur with
      | some run => if st.pos = run.size then s else kvDeliver f s st g run rn r
      | none =>
        if g.next = g.stop then s
        else match s.takeSlot f st rn r true 0 16 false with
          | .err e => s.streamBad f st e
          | .wait x n => s.streamWait f st x n
          | .ok s1 st1 _ =>
            match kvPage (.ferry f) (s1.ferry f).ctx (ferryIsland f) g s1 with
            | (.ok run, t) => match t.ring st.core h with
              | some r1 => kvDeliver f t st1 g run rn r1
              | none => t
            | (.fault v w x, t) => (Moved.fault t st1 v w x).stopped f
            | (.stop c, t) => t.streamFail f st1 (if c = stEcc then 5 else 2) c

/-! ### Convolution (R283 to R285) -/

/-- The harbour address of a staging buffer, 0 or 1. -/
def ConvDesc.stageAddr (d : ConvDesc) (isl buf : Nat) : Nat := hbrAddr isl (4096 * (d.stageBase + buf * d.stageUnits))

/-- The row of a window slot for one stripe position: staged bytes, or the fill pattern. -/
def convRow (isl : Nat) (d : ConvDesc) (buf : Nat) (x : ConvSlot) (pix : List (Nat × Nat)) (i : Nat) (s : State) :
    Option (List Byte) × State :=
  match d.pixel (d.tapAt (d.outPos x.st i) x.tap) with
  | none => (some (fillBytes d.fill d.rowBytes), s)
  | some p => s.readPhys 0 (d.stageAddr isl buf + pix.idxOf p * d.pixBytes + x.c0 * d.eb) d.rowBytes

/-- The rows of a window slot. -/
def convRows (isl : Nat) (d : ConvDesc) (buf : Nat) (x : ConvSlot) (pix : List (Nat × Nat)) :
    List Nat → State → Option (List Byte) × State
  | [], s => (some [], s)
  | i :: t, s =>
    match convRow isl d buf x pix i s with
    | (none, s1) => (none, s1)
    | (some b, s1) => match convRows isl d buf x pix t s1 with
      | (some l, s2) => (some (b ++ l), s2)
      | r => r

/-- An EMIT of the window stream: one slot, once its stripe is staged. -/
def convWindow (f : Nat) (s : State) (st : Stream) (r : ConvRun) : State :=
  let d := ConvDesc.of r.desc
  match r.slots[r.next]?, st.ringA, r.bufs[r.at]? with
  | some x, some h, some buf =>
    if st.pos ≠ 0 then s
    else match s.ring st.core h with
      | none => s.streamBad f st 3
      | some g =>
        let pos := d.tilePos x.st x.tile
        let len := 16 + pos.length * d.rowBytes
        match s.takeSlot f st ⟨st.core, h⟩ g true 0 len false with
        | .err e => s.streamBad f st e
        | .wait w n => s.streamWait f st w n
        | .ok s1 st1 side =>
          match convRows (ferryIsland f) d buf x (d.pixels x.st) pos s1 with
          | (none, t) => t.streamFail f st1 5 stEcc
          | (some rows, t) =>
            match t.fillRun f { st1 with wait := .none } side (d.header x ++ rows) with
            | (true, t1, st2) => t1.setStream f st2
            | (false, t1, st2) => t1.streamFail f st2 5 stEcc
  | _, _, _ => s

/-- The window stream of a convolution slice learns the buffers of the staged stripes. -/
def State.convStaged (s : State) (c q slice : Nat) (bufs : List Nat) : State :=
  match s.convWin c q slice with
  | some r => s.setFerry (2 * c) { s.ferry (2 * c) with
      stream := (s.ferry (2 * c)).stream.map (fun (st : Stream) => { st with conv := some { r with bufs := bufs } }) }
  | none => s

/-- The staging buffers of a command on an island that its slices there hold: those whose stripes windows are still cut
from, and those being filled (R283). -/
def State.stageBusy (s : State) (isl q : Nat) : List Nat :=
  (List.range 8).flatMap (fun i => match (s.ferry (2 * (8 * isl + i))).stream with
    | some st => if st.q = q then (st.conv.toList.filter (fun r => !r.staging)).flatMap (fun r => r.bufs.drop r.at) else []
    | none => [])
  ++ (List.range 4).flatMap (fun b => match (s.ferry (128 + 4 * isl + b)).stream with
    | some st => if st.q = q then (st.conv.toList.filter (·.staging)).flatMap (fun r => r.bufs.drop r.next) else []
    | none => [])

/-- The buffer of the stripe that a staging stream is at: the one it has, else the first that no slice holds. -/
def State.stageBuf (s : State) (f : Nat) (st : Stream) (r : ConvRun) : Option Nat :=
  (r.bufs[r.next]?).or ([0, 1].find? (fun b => !((s.stageBusy (ferryIsland f) st.q).contains b)))

/-- An EMIT of the staging stream: one run of the stripe that it stages, once there is a buffer for it. -/
def convStage (f : Nat) (s : State) (st : Stream) (r : ConvRun) : State :=
  let d := ConvDesc.of r.desc
  match r.stripes[r.next]?, s.stageBuf f st r with
  | some x, some buf =>
    let r1 := { r with bufs := r.bufs.take r.next ++ [buf] }
    let done := fun (t : State) (st1 : Stream) =>
      (t.setStream f { st1 with conv := some { r1 with next := r.next + 1, run := 0 }, pos := 0, wait := .none }).convStaged
        st.core st.q st.slice r1.bufs
    match (d.stageRuns x)[r.run]? with
    | none => done s st
    | some (off, va, len) =>
      match State.moveRun f (fun _ b => b) (.va va) (.phys (d.stageAddr (ferryIsland f) buf + off)) true len (len / 16 + 1) s
          { st with conv := some r1 } with
      | .all t st1 =>
        if r.run + 1 < (d.stageRuns x).length then
          t.setStream f { st1 with conv := some { r1 with run := r.run + 1 }, pos := 0, wait := .none }
        else done t st1
      | m => m.stopped f
  | _, _ => s

/-- Is a ferry's stream held at a fault? -/
def Stream.faulted (st : Stream) : Bool := match st.wait with
  | .fault _ => true
  | _ => false

/-- EMIT: of a stream program, or of a built-in stream; it waits with its memory (R329, R584). -/
def execEmit (f : FerryId) (s : State) : Res :=
  let k := s.ferry f
  match k.stream, k.cancelling with
  | some st, none =>
    if st.faulted then .next s
    else match st.kv, st.conv with
      | some g, _ => .next (s.orWait (kvEmit f s st g))
      | none, some r => .next (s.orWait (if r.staging then convStage f s st r else convWindow f s st r))
      | none, none => .next (s.orWait (s.streamOp f 0x10 (emitBody f s)))
  | _, _ => .next s

/-! ## COMMIT, RELEASE, WAITTAG (R228, R236, R241) -/

/-- The ring that RS selects, with whether it is the memory-side ring. -/
def Stream.rs (st : Stream) (w : Nat) : Option RingName :=
  match bitsOf w 25 24 with
  | 0 => st.ringA.map (fun h => ⟨st.core, h⟩)
  | 1 => st.ringB.map (fun h => ⟨st.core, h⟩)
  | _ => st.mem

/-- COMMIT or RELEASE of a program: held at the sender while the ring's context is off its core (R214, R245). -/
def slotBody (rel : Bool) (f : Nat) (s : State) (st : Stream) (w : Nat) : State :=
  match st.rs w with
  | none => s.streamBad f st 3
  | some rn =>
    if 1000 ≤ rn.core ∨ (s.core rn.core).away then s.streamWait f st .remote none
    else match s.ring rn.core rn.handle with
    | none => s.streamBad f st 3
    | some r =>
      if bitsOf w 25 24 = 2 ∧ !(memRole (fkindOf f) (!rel) (decide (rn.core = st.core)) r) then s.streamBad f st 3
      else match s.slotParity rn.core r (if rel then r.tail else r.head) with
      | some b => (s.parityHit rn.core b).streamFail f st 5 stEcc
      | none =>
        match (if rel then s.ringRelease rn.core rn.handle else s.ringCommit rn.core rn.handle) with
        | (false, t) => t.streamBad f st 3
        | (true, t) =>
          t.setStream f (if rel then { st.advance with acqd := st.acqd.erase rn }
                         else { st.advance with held := st.held.erase rn })

/-- A built-in stream completes the slot it has filled. -/
def builtInCommit (f : Nat) (s : State) (st : Stream) : State :=
  let go := fun (full : Bool) (st1 : Stream) =>
    match full, st.ringA with
    | true, some h =>
      match (s.ring st.core h).bind (fun r => s.slotParity st.core r r.head) with
      | some b => (s.parityHit st.core b).streamFail f st 5 stEcc
      | none => match s.ringCommit st.core h with
      | (true, t) => t.setStream f { st1 with pos := 0, wait := .none, held := st.held.erase ⟨st.core, h⟩ }
      | (false, t) => t.streamBad f st 3
    | _, _ => s
  match st.kv, st.conv with
  | some g, _ => match g.cur with
    | some run => go (st.pos == run.size) { st with kv := some { g with next := g.next + 1, cur := none } }
    | none => s
  | none, some r => go (!r.staging && st.pos != 0) { st with conv := some { r with next := r.next + 1 } }
  | none, none => s

/-- STREAM_COMMIT. -/
def execStreamCommit (f : FerryId) (s : State) : Res :=
  let k := s.ferry f
  match k.stream, k.cancelling with
  | some st, none =>
    if st.kv.isSome || st.conv.isSome then .next (if st.faulted then s else builtInCommit f s st)
    else .next (s.streamOp f 0x11 (slotBody false f s))
  | _, _ => .next s

/-- STREAM_RELEASE. -/
def execStreamRelease (f : FerryId) (s : State) : Res := .next (s.streamOp f 0x12 (slotBody true f s))

/-- WAITTAG: berths from the one holding eff(X), in space 0b10. -/
def waittagBody (f : Nat) (s : State) (st : Stream) (w : Nat) : State :=
  match (s.xreg f (bitsOf w 25 24)).eff with
  | none => s.streamBad f st 2
  | some e =>
    let a := e.toNat
    let n := bitsOf w 22 16 + 1
    let b := bitsOf a 18 12
    if bitsOf a 63 62 ≠ 2 ∨ bitsOf a 61 19 ≠ 0 ∨ a % 16 ≠ 0 ∨ 128 < b + n then s.streamBad f st 2
    else
      let bs := (List.range n).map (· + b)
      match (s.core st.core).grant (!(bitOf w 23)) bs with
      | .ok => s.setStream f st.advance
      | .wait wr bs => s.streamWait f st (.tags st.core wr bs) none
      | .parity x => (s.parityHit st.core x).streamFail f st 5 stEcc

def execWaittag (f : FerryId) (s : State) : Res := .next (s.streamOp f 0x13 (waittagBody f s))

/-! ## Cancellation (R251, R252) -/

/-- Berths that an unfinished NR lagoon write of the current op has touched, FULL ones apart, become E0. -/
def State.nrUndo (s : State) (f : Nat) (st : Stream) : State :=
  match st.prog[st.op]? with
  | none => s
  | some w =>
    if opCode w = 0x10 ∧ bitOf w 17 ∧ !(bitOf w 16) ∧ 0 < st.pos then
      match (s.xreg f (bitsOf w 20 19)).eff with
      | some xd =>
        if bitsOf xd.toNat 63 62 = 2 then
          let k := s.core st.core
          let bs := (berthsOf (lgnCells (bitsOf xd.toNat 18 0) (bitOf w 15) 0 st.pos)).filter (fun b => !(k.tag b))
          s.setCore st.core (bs.foldl (fun k b => k.setBerth b false false) k)
        else s
      | none => s
    else s

/-- FERRY_CANCEL_ACK: the slots the stream held are reset, it is discarded, and the ferry acknowledges. Whether reads
were outstanding, so that it drains, and how many bytes they bring, is free (Log 8); without a drain an FRUN that waits for
the ferry goes on. -/
def execFerryCancelAck (f : FerryId) (s : State) : Res :=
  let k := s.ferry f
  match k.stream, k.cancelling with
  | some st, some _ =>
    let s1 := (s.streamAbort st).nrUndo f st
    let (n, s2) := s1.choose 2
    let (m, s3) := s2.draw
    let s4 := if n = 1 then s3.setReg (Reg.SCH_CTX_ACCT k.ctx 2)
        (s3.reg (Reg.SCH_CTX_ACCT k.ctx 2) + BitVec.ofNat 64 (Config.choice m)) else s3
    let s5 := s4.setFerry f { s4.ferry f with stream := none, cancelling := none, op := st.op, drain := n == 1 }
    let s6 : State := match tabFind s5.queues st.q with
      | some c => { s5 with queues := tabPut s5.queues st.q { c with acks := setDel c.acks f } }
      | none => s5
    .next ((if n = 1 then s6 else s6.wakeFerry f).hashFreed f)
  | _, _ => .next s

/-- DRAIN_COMPLETE: an FRUN that waited for the ferry goes on. -/
def execDrainComplete (f : FerryId) (s : State) : Res :=
  if (s.ferry f).drain then .next ((s.setFerry f { s.ferry f with drain := false }).wakeFerry f) else .next s

/-! ## Tag waits (R205) -/

/-- TAG_WAIT_RESUME: a waiting access of a core or of a ferry is evaluated afresh. -/
def execTagWaitResume (a : TagAgent) (s : State) : Res :=
  match a with
  | .core c => .next (s.reflyAll c (fun w => match w with
    | .tags _ _ => true
    | _ => false))
  | .ferry f =>
    match s.curOp f with
    | some (st, w) =>
      if !st.wait.onTags then .next s
      else if opCode w = 0x10 then .next (s.orWait (emitBody f s st w))
      else if opCode w = 0x13 then .next (waittagBody f s st w)
      else .next s
    | none => .next s

end Sys2Proof.Machine
end

