-- ==== Sys2Proof/Machine/Xts.lean ====
section
/-! DEFINITION. Memory encryption as the DRAM interface shows it (R328, R329): AES-256 (FIPS 197), its XTS mode (IEEE 1619)
on 64-byte sectors, and the bytes of a sector as they are stored. Reads, merges and FRC images work on the decrypted bytes,
which memory holds. -/
namespace Sys2Proof.Machine

/-- The substitution box of FIPS 197, sixteen entries to a number, the first in its most significant byte. -/
def aesBox : List Nat :=
  [0x637c777bf26b6fc53001672bfed7ab76, 0xca82c97dfa5947f0add4a2af9ca472c0,
   0xb7fd9326363ff7cc34a5e5f171d83115, 0x04c723c31896059a071280e2eb27b275,
   0x09832c1a1b6e5aa0523bd6b329e32f84, 0x53d100ed20fcb15b6acbbe394a4c58cf,
   0xd0efaafb434d338545f9027f503c9fa8, 0x51a3408f929d38f5bcb6da2110fff3d2,
   0xcd0c13ec5f974417c4a77e3d645d1973, 0x60814fdc222a908846eeb814de5e0bdb,
   0xe0323a0a4906245cc2d3ac629195e479, 0xe7c8376d8dd54ea96c56f4ea657aae08,
   0xba78252e1ca6b4c6e8dd741f4bbd8b8a, 0x703eb5664803f60e613557b986c11d9e,
   0xe1f8981169d98e949b1e87e9ce5528df, 0x8ca1890dbfe6426841992d0fb054bb16]

def aesSub (b : Byte) : Byte := BitVec.ofNat 8 (aesBox.getD (b.toNat / 16) 0 / 2 ^ (8 * (15 - b.toNat % 16)))

/-- Multiplication by x modulo x^8 + x^4 + x^3 + x + 1. -/
def aesX (b : Byte) : Byte := if b.msb then b <<< 1 ^^^ 0x1B#8 else b <<< 1

/-- Bytes added, place by place. -/
def xorBytes (a b : List Byte) : List Byte := List.zipWith (· ^^^ ·) a b

/-- The key schedule of AES-256 from word `i` on: `w` holds the last eight words, `rc` the next round constant. -/
def aesWords : (left i : Nat) → (rc : Byte) → (w : List (List Byte)) → List (List Byte)
  | 0, _, _, _ => []
  | n + 1, i, rc, w =>
    let last := w.getD 7 []
    let t :=
      if i % 8 = 0 then xorBytes ((last.drop 1 ++ last.take 1).map aesSub) [rc, 0, 0, 0]
      else if i % 8 = 4 then last.map aesSub
      else last
    let x := xorBytes (w.getD 0 []) t
    x :: aesWords n (i + 1) (if i % 8 = 0 then aesX rc else rc) (w.drop 1 ++ [x])

/-- The fifteen round keys of a 32-byte key. -/
def aesRoundKeys (key : List Byte) : List (List Byte) :=
  let w := (List.range 8).map (fun i => (key.drop (4 * i)).take 4)
  let l := w ++ aesWords 52 8 1 w
  (List.range 15).map (fun r => ((l.drop (4 * r)).take 4).flatten)

/-- SubBytes and ShiftRows: byte `i` of the result, in column `i / 4` and row `i % 4`. -/
def aesShift (b : List Byte) : List Byte :=
  (List.range 16).map (fun i => aesSub (b.getD ((i + 4 * (i % 4)) % 16) 0))

/-- MixColumns. -/
def aesMix (b : List Byte) : List Byte :=
  (List.range 16).map (fun i =>
    let at_ := fun (k : Nat) => b.getD (i / 4 * 4 + (i + k) % 4) 0
    aesX (at_ 0) ^^^ (aesX (at_ 1) ^^^ at_ 1) ^^^ at_ 2 ^^^ at_ 3)

/-- The rounds after the first key addition; the last has no MixColumns. -/
def aesRounds : List (List Byte) → List Byte → List Byte
  | [], b => b
  | [k], b => xorBytes (aesShift b) k
  | k :: t, b => aesRounds t (xorBytes (aesMix (aesShift b)) k)

/-- AES-256 of a 16-byte block. -/
def aes256 (key b : List Byte) : List Byte :=
  match aesRoundKeys key with
  | [] => b
  | k :: t => aesRounds t (xorBytes b k)

/-- The next block's tweak: multiplied by the primitive element, the number read low byte first. -/
def xtsNext (t : List Byte) : List Byte :=
  let n := leNat t
  leBytes 16 (if 2 ^ 127 ≤ n then 2 * n % 2 ^ 128 ^^^ 0x87 else 2 * n)

/-- XTS of some blocks under the data key and the running tweak. -/
def xtsBlocks (key : List Byte) : (blocks : Nat) → (tweak data : List Byte) → List Byte
  | 0, _, _ => []
  | n + 1, t, d => xorBytes (aes256 key (xorBytes (d.take 16) t)) t ++ xtsBlocks key n (xtsNext t) (d.drop 16)

/-- AES-256-XTS of a 64-byte sector under a 64-byte key, data key first; the tweak is the sector number (R328). -/
def xtsSector (key : List Byte) (sector : Nat) (data : List Byte) : List Byte :=
  xtsBlocks (key.take 32) 4 (aes256 (key.drop 32) (leBytes 16 sector)) data

/-- The 64 bytes of an LPDDR5X sector as stored, which its check bits cover: encrypted under the key of the partition that
owns its granule, where that has one (R328, R329). -/
def State.dram (s : State) (sector : Nat) : List Byte :=
  let plain := s.bytes (64 * sector) 64
  match (s.partOfAddr (64 * sector)).bind (tabFind s.xtsKeys) with
  | some key => xtsSector key sector plain
  | none => plain

end Sys2Proof.Machine
end

