-- ==== Sys2Proof/Machine/MemCtl.lean ====
section
/-! DEFINITION. The memory path's commands: fault responses (R339, R341, R343), delayed records (R340), invalidations
(R335), address spaces (R330), encryption keys (R329), patrol scrub (R327), initialisation (R584). -/
namespace Sys2Proof.Machine

/-! ## Fault responses -/

/-- The saved streams held at a fault go on when their context is restored (R343). -/
def Saved.clearFault (v : Saved) (fid : Nat) : Saved :=
  { v with ferries := v.ferries.map (fun (p : Nat × Ferry) => (p.1, { p.2 with stream := p.2.stream.map (fun (st : Stream) =>
      if st.wait = FWait.fault fid then { st with wait := .none } else st) })) }

/-- The ferry that is held at a fault now, with its stream: a restore may have moved the stream since (R240, R343). -/
def State.ferryAt (s : State) (fid : Nat) : Option (Nat × Stream) :=
  s.ferries.findSome? (fun p => match p.2.stream with
    | some st => if st.wait = FWait.fault fid then some (p.1, st) else none
    | none => none)

/-- A saved ferry whose stream is held at a fault that is aborted reads ERR 0x6 from then on (Table 8.11). -/
def Saved.abortFault (v : Saved) (fid : Nat) : Saved :=
  { v with ferries := v.ferries.map (fun (p : Nat × Ferry) => (p.1, match p.2.stream with
      | some st => if st.wait = FWait.fault fid then { p.2 with err := 6 } else p.2
      | none => p.2)) }

/-- RESUME: the agent translates again from where it is held. -/
def State.faultResume (s : State) (h : HeldFault) : State :=
  let s1 := s.faultClose h.fid
  match h.agent with
  | .ferry _ =>
    let s2 : State := match s1.ferryAt h.fid with
      | some (f, st) => s1.setStream f { st with wait := .none }
      | none => s1
    { s2 with saved := s2.saved.map (fun (v : Saved) => v.clearFault h.fid) }
  | .job n =>
    (match (s1.jobq n).job with
    | some j => if j.fault = some h.fid then s1.setJob n { j with fault := none } else s1
    | none => s1)
  | .icc _ => { s1 with kv := s1.kv.map (fun r => if r.fault = some h.fid then { r with fault := none } else r) }

/-- ABORT or timeout (Table 11.6): the stream ends with ERR 0x6 and its command with TRANSLATION_FAULT, running or saved;
a job completes with CANCELLED; an append or eviction ends its command and changes nothing. -/
def State.faultAbort (s : State) (h : HeldFault) : State :=
  let s1 := s.faultClose h.fid
  match h.agent with
  | .ferry _ =>
    (match s1.ferryAt h.fid with
    | some (f, st) => s1.streamFail f st 6 0x0201
    | none => ({ s1 with saved := s1.saved.map (fun v => v.abortFault h.fid) } : State).endBy h.q 0x0201 2 h.slice)
  | .job n =>
    (match (s1.jobq n).job with
    | some j =>
      if j.fault = some h.fid then s1.setJob n { j with fault := none, ended := true, status := 0x0010 } else s1
    | none => s1)
  | .icc _ =>
    match s1.kv.find? (fun r => r.fault == some h.fid) with
    | some r => s1.kvFail r 0x0201
    | none => s1

/-- A write to MEM_FAULT_RESP: a response to an FID that is not open is stale. -/
def State.faultResp (s : State) (v : DWord) : State :=
  let act := bitsOf v.toNat 33 32
  if act = 0 ∨ act = 3 then s
  else match s.faults.find? (fun h => h.fid == bitsOf v.toNat 31 0) with
    | none => s.setFlag Reg.MEM_FAULT_STAT 1 true
    | some h => if act = 1 then s.faultResume h else s.faultAbort h

/-- The word of a response. -/
def respWord (act : Nat) (fid : Word) : DWord := BitVec.ofNat 64 (fid.toNat + 2 ^ 32 * act)

def execFaultResume (fn : Fn) (fid : Word) (s : State) : Res :=
  .next (s.guardWrite fn Reg.MEM_FAULT_RESP 64 (respWord 1 fid) (fun t => t.faultResp (respWord 1 fid)))

def execFaultAbort (fn : Fn) (fid : Word) (s : State) : Res :=
  .next (s.guardWrite fn Reg.MEM_FAULT_RESP 64 (respWord 2 fid) (fun t => t.faultResp (respWord 2 fid)))

/-- FAULT_TIMEOUT: an open fault that has been open for TMO_MS milliseconds of the shore is aborted (R339). -/
def execFaultTimeout (fid : Word) (s : State) : Res :=
  match s.faults.find? (fun h => h.fid == fid.toNat) with
  | some h =>
    let ms := s.fld Reg.MEM_FRING 63 48
    if ms = 0 ∨ s.cyc < h.cyc + 500000 * ms then .next s else .next (s.faultAbort h)
  | none => .next s

/-- A record with DELAYED set (Table 11.5). -/
def delayedRecord (r : List Byte) : List Byte := (r.take 45) ++ leBytes 1 (recNat r 45 1 ||| 16) ++ r.drop 46

/-- FAULT_RECORD_DELAYED (R340): the oldest waiting record is written once the ring can take it. -/
def execFaultRecordDelayed (s : State) : Res :=
  match s.frecs with
  | r :: t =>
    if s.fringReady then .next { (({ s with frecs := t } : State).fringPut (delayedRecord r)) with fnow := [] } else .next s
  | [] => .next s

/-! ## Invalidation (R335) -/

/-- A write to MEM_INV: queued, unless 16 are outstanding. -/
def State.invWrite (s : State) (v : DWord) : State :=
  let x := v.toNat
  if bitsOf x 63 62 = 3 then s
  else if 16 ≤ s.invq.length then s.setFlag Reg.MEM_INV_STAT 31 true
  else ({ s with invq := s.invq ++ [(⟨bitsOf x 63 62, bitsOf x 61 54, bitsOf x 47 16, bitsOf x 15 0 + 1⟩ : Inval)] } : State).bumpMod
    Reg.MEM_INV_STAT 27 16

def execInvalidateAll (fn : Fn) (s : State) : Res := .next (s.guardWrite fn Reg.MEM_INV 64 0 (fun t => t.invWrite 0))

/-- The word of MEM_INV for a scope. -/
def invWord (scope asid page pages : Nat) : DWord :=
  BitVec.ofNat 64 (pages + 2 ^ 16 * page + 2 ^ 54 * asid + 2 ^ 62 * scope)

def execInvalidateAsid (fn : Fn) (asid : Byte) (s : State) : Res :=
  let v := invWord 1 asid.toNat 0 0
  .next (s.guardWrite fn Reg.MEM_INV 64 v (fun t => t.invWrite v))

def execInvalidateRange (fn : Fn) (asid : Byte) (page : Word) (pagesM1 : BitVec 16) (s : State) : Res :=
  let v := invWord 2 asid.toNat page.toNat pagesM1.toNat
  .next (s.guardWrite fn Reg.MEM_INV 64 v (fun t => t.invWrite v))

/-- Does an invalidation's scope cover a cached entry? -/
def Inval.covers (i : Inval) (e : TlbEntry) : Bool :=
  let lo := e.va * levelSize e.level
  i.scope == 0 || (e.asid == i.asid && (i.scope == 1 ||
    (decide (lo < 2 ^ 16 * (i.page + i.pages)) && decide (2 ^ 16 * i.page < lo + levelSize e.level))))

/-- INVALIDATION_COMPLETE: the oldest queued invalidation's entries are gone, DONE advances. -/
def execInvalidationComplete (s : State) : Res :=
  match s.invq with
  | i :: t => .next (({ s with invq := t, tlb := s.tlb.filter (fun e => !(i.covers e)) } : State).bumpMod Reg.MEM_INV_STAT 11 0)
  | [] => .next s

/-! ## Address spaces (R330) -/

/-- A write to MEM_ASn: refused, with EN reading 0, where another enabled context has the ASID with a different ROOT or
PART. -/
def State.asWrite (s : State) (n : Nat) (v : DWord) : State :=
  let x := v.toNat
  let clash := (List.range 256).any (fun m =>
    let y := (s.reg (Reg.MEM_AS m)).toNat
    m != n && bitOf y 63 && bitsOf y 55 48 == bitsOf x 55 48
      && (bitsOf y 43 9 != bitsOf x 43 9 || bitsOf y 58 56 != bitsOf x 58 56))
  let s1 := s.hostSet (Reg.MEM_AS n) v
  if bitOf x 63 && clash then s1.setFlag (Reg.MEM_AS n) 63 false else s1

def execMemAsWrite (fn : Fn) (n : CtxId) (val : DWord) (s : State) : Res :=
  .next (s.guardWrite fn (Reg.MEM_AS n) 64 val (fun t => t.asWrite n val))

/-! ## Encryption (R329) -/

/-- The granules whose data was last written for partition `k` become undefined. -/
def State.loseGranules (s : State) (k : Nat) : State :=
  (s.granOwner.filter (fun p => p.2 == k + 1)).foldl (fun t p =>
    let (g, u) := t.draw
    { u with mem := u.mem.undef (2 ^ 29 * p.1) (2 ^ 29) g }) s

/-- A fresh key for partition `k` from the entropy source: 64 bytes. -/
def State.xtsKey (s : State) (k : Nat) : State :=
  { s with free := s.free + 16,
           xtsKeys := tabPut s.xtsKeys k ((List.range 16).flatMap (fun i => leBytes 4 (Config.entropy (s.free + i)).toNat)) }

/-- A write to MEM_XTS.EN: a key is generated for each bit set, destroyed for each bit cleared; either way data written
before reads as undefined bytes. -/
def State.xtsWrite (s : State) (v : DWord) : State :=
  let old := s.fld Reg.MEM_XTS 7 0
  let new := bitsOf v.toNat 7 0
  let s1 := s.setFld Reg.MEM_XTS 7 0 new
  (List.range 8).foldl (fun t k =>
    if bitOf old k = bitOf new k then t
    else
      let l := t.loseGranules k
      let u := if bitOf new k then l.xtsKey k else { l with xtsKeys := tabDel l.xtsKeys k }
      u.setFlag Reg.MEM_XTS (16 + k) (bitOf new k)) s1

def execXtsEnable (fn : Fn) (en : Byte) (s : State) : Res :=
  let v := BitVec.ofNat 64 en.toNat
  .next (s.guardWrite fn Reg.MEM_XTS 32 v (fun t => t.xtsWrite v))

/-- XTS_KEY_READY: BUSY clears and the accesses that waited go on; a halted SEC makes no key (R499). -/
def execXtsKeyReady (k : PartId) (s : State) : Res :=
  if s.compHalted 0 then .next s else .next (s.setFlag Reg.MEM_XTS (16 + k) false).bar4Drain

/-! ## Patrol scrub and initialisation -/

/-- PERIOD_H as it acts (Table 11.10): 0 stops patrol scrub, and acts as 24 in the safety configuration. -/
def State.patrolHours (s : State) : Nat :=
  let h := s.fld Reg.MEM_SCRUB 31 24
  if h = 0 ∧ s.flag Reg.MEM_CFG 1 then 24 else h

/-- Is a patrol pass due (R327, R584): the first once INIT is 1, each after PERIOD_H hours of the shore? -/
def State.patrolDue (s : State) : Bool :=
  match s.patrolAt with
  | none => true
  | some t => decide (t + 3600 * 500000000 * s.patrolHours ≤ s.cyc)

/-- PATROL_SCRUB (R327): one pass over every visible sector, when it is due. It does not run with ECC off, before INIT, or where
PERIOD_H stops it. -/
def execPatrolScrub (s : State) : Res :=
  if !s.eccOn || !(s.flag Reg.MEM_CFG 2) || s.patrolHours == 0 || !s.patrolDue then .next s
  else
    let vis := fun (x : Nat) => decide (x * 64 < s.visible)
    let s1 := (s.ceSec.filter vis).foldl (fun t x => (t.bumpSat Reg.MEM_ECC 63 48).sectorsGood (· == x)) s
    let s2 := (s1.ueSec.filter vis).foldl (fun t x => t.eccSector 1 x) s1
    .next { s2.bumpMod Reg.MEM_SCRUB 15 0 with patrolAt := some s.cyc }

/-- LPDDR_INIT_COMPLETE (R584): from BOOT_STAGE 0x3 on; the accesses that waited go on. -/
def execLpddrInitComplete (s : State) : Res :=
  let st := s.fld Reg.GLB_STATE 3 0
  if 3 ≤ st ∧ st ≤ 5 then .next (s.setFlag Reg.MEM_CFG 2 true).bar4Drain else .next s

end Sys2Proof.Machine
end

