-- ==== Sys2Proof/Machine/SchedOps.lean ====
section
/-! DEFINITION. Shared operations of the scheduler (chapter 12): command records (Tables 12.4 to 12.6), disabling a queue
(R347), withheld cores (R48), ready slices, preemption requests (R369), marking of units (R381). -/
namespace Sys2Proof.Machine

/-! ## Queues -/

/-- The ring depth of queue `q` (Table 12.1). -/
def State.qDepth (s : State) (q : Nat) : Nat := 2 ^ max 4 (min 16 (s.fld (Reg.SCH_QRING q) 4 0))
/-- TAIL and DONE of queue `q` (Table 12.3). -/
def State.qTail (s : State) (q : Nat) : Nat := s.fld (Reg.SCH_QPTR q) 31 0
def State.qDone (s : State) (q : Nat) : Nat := s.fld (Reg.SCH_QPTR q) 63 32
/-- The context of queue `q`. -/
def State.qCtx (s : State) (q : Nat) : Nat := s.fld (Reg.SCH_QCFG q) 39 32
/-- The partition of context `n` (Table 12.12). -/
def State.ctxPart (s : State) (n : Nat) : Nat := s.fld (Reg.SCH_CTX_CFG n) 62 60
/-- The command of queue `q`. -/
def State.cmd (s : State) (q : Nat) : Option Cmd := tabFind s.queues q
def State.setCmd (s : State) (q : Nat) (m : Cmd) : State := { s with queues := tabPut s.queues q m }

/-- Queue `q` is stopped by the device (R347): EN clears, QUEUE_DISABLED is logged, a notice of KIND 4 is written. -/
def State.queueDisable (s : State) (q reason : Nat) : State :=
  let k := s.ctxPart (s.qCtx q)
  let s1 := s.setFlag (Reg.SCH_QCFG q) 15 false
  let s2 := s1.fwLog 2 0 3 0x0203 (leBytes 2 q ++ leBytes 1 reason)
  ({ s2 with queues := tabDel s2.queues q, flush := tabDel s2.flush q, cplOwed := setDel s2.cplOwed q } : State).notice k 4 q reason

/-! ## Command records -/

/-- WAIT entry `w` of a record. -/
def recWait (r : List Byte) (w : Nat) : Nat := recNat r (16 + 8 * w) 8
/-- SIG entry `i` of a record. -/
def recSig (r : List Byte) (i : Nat) : Nat := recNat r (48 + 4 * i) 4

/-- Enabled waits: object and threshold (Table 12.5). -/
def recWaits (r : List Byte) : List (Nat × Nat) :=
  (((List.range 4).map (recWait r)).filter (fun w => bitOf w 63)).map (fun w => (bitsOf w 61 48, bitsOf w 47 0))

/-- Enabled signals: object, MAX, INC. -/
def recSigs (r : List Byte) : List (Nat × Bool × Nat) :=
  (((List.range 4).map (recSig r)).filter (fun w => bitOf w 15)).map (fun w => (bitsOf w 13 0, bitOf w 14, bitsOf w 31 16))

/-- Do NSLICE, ENTRY and ARGP fit the kind (Table 12.6)? -/
def kindFits (kind nslice entry argp : Nat) : Bool :=
  match kind with
  | 0 => nslice == 0 && entry == 0 && argp == 0
  | 1 => decide (1 ≤ nslice)
  | 2 => decide (1 ≤ nslice) && decide (nslice ≤ 64)
  | 3 => nslice == 0 && entry == 0
  | 4 => decide (1 ≤ nslice)
  | 5 => nslice == 0
  | _ => false

/-- The checks of R353 in order, then the core count of R372: the status of the first that fails. -/
def State.recordCheck (s : State) (r : List Byte) (part : Nat) (pwr : Bool) : Option Nat :=
  let b0 := recNat r 0 1
  let fl := recNat r 1 1
  let kind := bitsOf b0 3 0
  let nsl := recNat r 2 2
  let objs := (recWaits r).map (·.1) ++ (recSigs r).map (·.1)
  if bitsOf b0 7 4 ≠ 0 ∨ bitsOf fl 7 5 ≠ 0 ∨ (List.range 4).any (fun w => bitOf (recWait r w) 62)
      ∨ !(kindFits kind nsl (recNat r 14 2) (recNat r 8 6)) then some 0x0001
  else if (recSigs r).any (fun x => if x.2.1 then x.2.2 != 0 else x.2.2 == 0) ∨ (kind = 0 ∧ bitOf fl 4) then some 0x0001
  else if pwr ∧ 3 ≤ kind then some 0x0001
  else if objs.any (fun o => !(s.granted o part)) then some 0x0202
  else if kind = 2 ∧ !pwr ∧ (s.coresUsable part).length < nsl then some 0x0001
  else none

/-! ## Withheld cores (R48) -/

/-- SHARE of partition `k`; above 100 acts as 100. -/
def State.share (s : State) (k : Nat) : Nat := min 100 (s.fld (Reg.SCH_PART_W0 k) 15 8)

/-- The cores left over go one at a time to partitions below their cap, in the order given. -/
def spread (cap : Nat → Nat) (order : List Nat) : (fuel left : Nat) → Tab Nat → Tab Nat
  | 0, _, t => t
  | fuel + 1, left, t =>
    let r := order.foldl (fun (a : Nat × Tab Nat) k =>
      if 0 < a.1 ∧ tabGet 0 a.2 k < cap k then (a.1 - 1, tabPut a.2 k (tabGet 0 a.2 k + 1)) else a) (left, t)
    spread cap order fuel r.1 r.2

/-- How many cores the budget allots to each enabled partition. -/
def State.allot (s : State) : Tab Nat :=
  let ks := (List.range 8).filter (fun k => s.partEn k && decide (0 < s.share k))
  let sum := (ks.map s.share).foldl (· + ·) 0
  let cap := fun k => (s.coresUsable k).length
  let t := ks.map (fun k => (k, min (cap k) (s.thrBudget * s.share k / sum)))
  let used := (t.map (·.2)).foldl (· + ·) 0
  spread cap (sortBy (fun a b => decide (s.share b ≤ s.share a)) ks) 64 (s.thrBudget - used) t

/-- Does throttling withhold core `c` from slices of priority 2 to 7? -/
def State.withheld (s : State) (k c : Nat) : Bool :=
  s.flag Reg.PWR_FLOOR_STAT 16 &&
    (let u := s.coresUsable k
     let n := tabGet 0 s.allot k
     !((List.range n).any (fun i => u[(s.thrRot + i) % u.length]? == some c)))

/-- May a slice of priority `p` be started on core `c` of partition `k` as far as throttling goes? -/
def State.mayStart (s : State) (k c p : Nat) : Bool := decide (p < 2) || !(s.withheld k c)

/-! ## Ready slices (R367 to R371) -/

/-- May a slice run on core `c`: a power-control slice on its own core, unmarked (R28, R560), any other on a usable core of
its partition, its own core where it has one that is still usable (R371, R381)? -/
def State.fits (s : State) (sl : Slice) (c : Nat) : Bool :=
  if sl.pwr then sl.place == some c && s.unmarked c && s.islandOn (islandOf c)
  else s.partHas sl.part (islandOf c) && s.usable c &&
    (match sl.place with
     | some d => d == c || !(s.usable d)
     | none => true)

/-- The first undispatched slice of a command that may run on core `c`. -/
def State.slotFor (s : State) (m : Cmd) (c : Nat) : Option Slice := m.todo.find? (fun sl => s.fits sl c)

/-! ## Gangs that wait for cores (R178, R372) -/

/-- The slices of queue `q`'s gang that wait to be dispatched together, ascending: undispatched or saved, none of the gang
being on a core or in an engine queue. -/
def State.gangSlices (s : State) (q : Nat) (m : Cmd) : List Slice :=
  if s.cores.any (fun p => (match p.2.slice with | some sl => sl.q == q | none => false) || p.2.queue.any (fun x => x.q == q)) then []
  else sortBy (fun (a b : Slice) => decide (a.idx ≤ b.idx))
    (m.todo.filter (·.gang) ++ (s.saved.filterMap (·.slice)).filter (fun sl => sl.q == q && sl.gang))

/-- The level of a gang for which core `c` is kept free: a gang that waits for its last cores keeps those it has emptied, so
that slices which are not more urgent do not delay it (R372). -/
def State.keptFor (s : State) (c : Nat) : Option (Nat × Nat) :=
  match tabFind s.gangRes c with
  | none => none
  | some q =>
    match s.cmd q with
    | none => none
    | some m => if (m.phase = .ready ∨ m.phase = .running) ∧ s.gangSlices q m ≠ [] then some (q, m.prio) else none

/-- May a slice of level `p` go to core `c` as far as a waiting gang goes? -/
def State.openTo (s : State) (c p : Nat) : Bool :=
  match s.keptFor c with
  | none => true
  | some g => decide (p < g.2)

/-- The levels of the slices of partition `k` that are ready and may run on core `c`; throttling bars new slices alone
(R48). -/
def State.readyLevels (s : State) (k c : Nat) : List Nat :=
  (((s.returned k).filter (fun sl => s.fits sl c)).map (·.prio) ++
    ((s.readyCmds k).filter (fun p => (s.slotFor p.2 c).isSome && s.mayStart k c p.2.prio)).map (fun p => p.2.prio)).filter
    (s.openTo c)

/-- The least of a list. -/
def leastOf : List Nat → Option Nat
  | [] => none
  | a :: t => some (t.foldl min a)

/-- Commands fetched while their partition had no usable core count the cores at the moment that it has one (R371); a CHAIN
is held to the count at its fetch (R372). -/
def State.countCores (s : State) : State :=
  { s with queues := s.queues.map (fun (p : Nat × Cmd) => (p.1,
      if p.2.phase = .waiting ∧ p.2.cores = [] ∧ p.2.kind ≠ 3 then { p.2 with cores := s.coresUsable p.2.part } else p.2)) }

/-- The generation of island `n`, which rises as it returns from sleep or quarantine (R380). -/
def State.islGenOf (s : State) (n : Nat) : Nat := tabGet 0 s.islGen n
def State.islGenRise (s : State) (n : Nat) : State := { s with islGen := tabPut s.islGen n ((s.islGenOf n + 1) % 2 ^ 16) }

/-! ## Preemption requests (R369) -/

/-- Is a core idle: nothing runs and nothing waits on it? -/
def Core.isIdle (k : Core) : Bool := decide (k.mode = .idle) && k.slice.isNone && k.queue.isEmpty

/-- The order in which running slices are chosen: least urgent, then started last. -/
def victimLe (a b : Nat × Core) : Bool :=
  decide (b.2.sl.prio < a.2.sl.prio) || (a.2.sl.prio == b.2.sl.prio && decide (b.2.started ≤ a.2.started))

/-- Slices taken out of an engine queue become ready again: saved ones stay saved, others return to their command, free
of a place. -/
def State.giveBack (s : State) (l : List Slice) : State :=
  l.reverse.foldl (fun t sl =>
    match t.cmd sl.q with
    | none => t
    | some m =>
      if (t.savedSlice sl).isSome then t
      else t.setCmd sl.q { m with
        todo := { sl with place := if sl.pwr then sl.place else none } :: m.todo, live := m.live - 1, homes := tabDel m.homes sl.idx }) s

/-- The slices of queue `q`'s command leave the engine queues (R369: a gang is preempted as a whole). -/
def State.unqueue (s : State) (q : Nat) : State :=
  let l := s.cores.flatMap (fun p => p.2.queue.filter (fun x => x.q == q))
  ({ s with cores := s.cores.map (fun (p : Nat × Core) => (p.1, { p.2 with queue := p.2.queue.filter (fun x => x.q != q) })) } : State).giveBack l

/-- Ask the slice on core `c` to stop, its whole gang with it: those that run are asked, those that wait in engine queues
come out (R178, R369). -/
def State.askPreempt (s : State) (c : Nat) : State :=
  match (s.core c).slice with
  | none => s
  | some sl =>
    let cs := if sl.gang then s.coresOf sl.q else [c]
    cs.foldl (fun t d => t.setCore d { t.core d with preempt := true }) (if sl.gang then s.unqueue sl.q else s)

/-- Is the slice at the head of a core's engine queue more urgent than the one that runs? -/
def Core.headUrgent (k : Core) : Bool :=
  match k.queue, k.slice with
  | h :: _, some sl => !h.pwr && decide (h.prio < sl.prio)
  | _, _ => false

/-- The preemption requests of partition `k`: none while a usable core is idle, else one for the most urgent ready level
unless as many cores as it has slices are stopping already; and one for each core whose queue's head is more urgent. -/
def State.preemptCheck (s : State) (k : Nat) : State :=
  let us := s.coresUsable k
  let s1 : State :=
    if s.schPaused || us.any (fun c => (s.core c).isIdle) then s
    else
      let lv := us.flatMap (s.readyLevels k)
      match leastOf lv with
      | none => s
      | some p =>
        let stopping := (us.filter (fun c => (s.core c).preempt || (s.core c).slice.isNone)).length
        let n := ((s.returned k).filter (fun sl => sl.prio == p)).length
          + (((s.readyCmds k).filter (fun x => x.2.prio == p && !x.2.pwr)).map (fun x => x.2.todo.length)).foldl (· + ·) 0
        let vs := (us.filter (fun c => !((s.core c).preempt) && (s.readyLevels k c).contains p &&
          (match (s.core c).slice with | some sl => decide (p < sl.prio) | none => false))).map (fun c => (c, s.core c))
        if n ≤ stopping then s
        else match sortBy victimLe vs with
          | v :: _ => s.askPreempt v.1
          | [] => s
  (us.filter (fun c => !s.schPaused && !((s1.core c).preempt) && (s1.core c).headUrgent)).foldl (fun t c => t.askPreempt c) s1

/-! ## Returning queued slices, marking units (R372, R381) -/

/-- Empty core `c`'s engine queue. -/
def State.drainQueue (s : State) (c : Nat) : State :=
  let l := (s.core c).queue
  (s.setCore c { s.core c with queue := [] }).giveBack l

/-- The ferries of core `c`'s handles, unbound; waiting FBINDs are granted. -/
def State.unbindAll (s : State) (c : Nat) : State :=
  (s.core c).regs.fh.foldl (fun t p => (t.unbindFerry c p.1 p.2).grantFerry p.2) s

/-- Residence on core `c` ends without a save (R212): handles read 0, every berth is E0. -/
def State.release (s : State) (c : Nat) : State :=
  let s1 := s.unbindAll c
  let k := s1.core c
  s1.setCore c { k with resident := none, tags := 0, blive := 0,
                        regs := { k.regs with rings := [], fh := [], fran := 0 } }

/-- Core `c` stops for good (R381): the command of the slice on it ends with CHECKER_FAULT, the slices of its engine
queue are placed anew, its residence is lost. -/
def State.dropCore (s : State) (c : Nat) : State :=
  let s1 := match (s.core c).slice with
    | some sl => s.endBy sl.q 0x0103 2 sl.idx
    | none => s
  (s1.drainQueue c).release c

/-- Core `c` is marked (R29, R381). -/
def State.markCore (s : State) (c : Nat) : State :=
  if s.flag Reg.GLB_TC_MARKED c then s
  else (((s.beaconSeen c).setFlag Reg.GLB_TC_MARKED c true).dropCore c).pgenRise (islandOf c) c

/-- Island `n` is marked. -/
def State.markIsland (s : State) (n : Nat) : State :=
  if s.flag Reg.GLB_STATE (8 + n) then s
  else
    let s0 := (List.range 8).foldl (fun t j => t.beaconSeen (8 * n + j)) s
    let s1 := s0.setFlag Reg.GLB_STATE (8 + n) true
    ((List.range 8).foldl (fun t j => t.dropCore (8 * n + j)) s1).pgenRise n (64 + n)

/-- The WATCHDOG event (Table 18.1). -/
def State.watchdogEvent (s : State) (kind unit group status : Nat) : State :=
  s.event 0x02 kind unit (leBytes 1 group ++ leBytes 1 0 ++ leBytes 2 status)

/-- Has core `c` held a token for 100 µs outside an architectural wait (R41)? It runs a slice or a beacon, or is being saved,
restored or scrubbed, and neither waits nor is held for preemption. -/
def State.coreToken (s : State) (c : Nat) : Bool :=
  let k := s.core c
  !k.preempt && decide (k.started + 100000 ≤ s.upNs) &&
    (match k.mode with
     | .idle | .asleep => false
     | .running => k.slice.isSome && !(s.stuck c)
     | .restoring => (s.restoreFrom c).all (fun v => v.1.ferries.all (fun p => (s.ferry (ferryOf c p.1)).bound.isNone))
     | _ => true)

/-- Has ferry `f` held a token for 100 µs outside an architectural wait? -/
def State.ferryToken (s : State) (f : Nat) : Bool :=
  match (s.ferry f).stream with
  | some st => decide (st.since + 100000 ≤ s.upNs) && (match st.wait with
      | .none | .landing => true
      | _ => false)
  | none => false

/-- HANDSHAKE_WATCHDOG_EXPIRY (R41, R42): the command on the unit completes with CHECKER_FAULT, an event names the unit and
the stage group, the unit is marked. It acts only where the unit, for a harbour a unit of its island, has held a token for
100 µs outside an architectural wait; a marked or unpowered unit holds none. -/
def execHandshakeWatchdogExpiry (u : WatchUnit) (group : Nat) (s : State) : Res :=
  let core := fun (c : Nat) =>
    if s.flag Reg.GLB_TC_MARKED c ∨ !(s.islandOn (islandOf c)) then s
    else
      let st := if (s.core c).slice.isSome then 0x0103 else 0
      (s.watchdogEvent 1 c group st).markCore c
  let island := fun (n : Nat) (q : Option (Nat × Nat)) =>
    if s.flag Reg.GLB_STATE (8 + n) ∨ !(s.islandOn n) then s
    else
      let s1 := match q with
        | some q => s.endBy q.1 0x0103 2 q.2
        | none => s
      let st := if q.isSome ∨ (List.range 8).any (fun j => (s.core (8 * n + j)).slice.isSome) then 0x0103 else 0
      (s1.watchdogEvent 2 n group st).markIsland n
  match u with
  | .core c => .next (if s.coreToken c then core c else s)
  | .ferry f =>
    if !(s.ferryToken f) then .next s
    else if f.val < 128 then .next (core (f / 2))
    else .next (island (ferryIsland f) ((s.ferry f).stream.map (fun st => (st.q, st.slice))))
  | .harbour n =>
    let busy := (List.range 8).any (fun j => s.coreToken (8 * n + j))
      || s.ferries.any (fun p => ferryIsland p.1 == n.val && s.ferryToken p.1)
    .next (if busy then island n none else s)

end Sys2Proof.Machine
end

