-- ==== Sys2Proof/Machine/SchedFetch.lean ====
section
/-! DEFINITION. Fetching a command (R347, R348, R353, R371, R372): CMD_NOP to CMD_RAGGED. -/
namespace Sys2Proof.Machine

/-- May queue `q`'s next record be fetched: enabled, submitted, none fetched, the scheduler fetching (R348, R563, R568)? -/
def State.canFetch (s : State) (q : Nat) : Bool :=
  s.flag (Reg.SCH_QCFG q) 15 && s.qTail q != s.qDone q && (s.cmd q).isNone && s.flag Reg.GLB_STATE 4 && !s.schPaused

/-- The physical address of queue `q`'s next record. -/
def State.recordAddr (s : State) (q : Nat) : Nat :=
  1024 * s.fld (Reg.SCH_QRING q) 43 10 + 64 * (s.qDone q % s.qDepth q)

/-- The provenance digests of a context (Table 18.7). -/
def State.provOf (s : State) (n : Nat) : List Byte :=
  (List.range 8).flatMap (fun i => leBytes 8 (s.reg (Reg.LHS_PROV n i)).toNat)

/-- A fetched command as its record and its queue give it. -/
def State.mkCmd (s : State) (q : Nat) (r : List Byte) : Cmd where
  idx := s.qDone q
  kind := bitsOf (recNat r 0 1) 3 0
  flags := recNat r 1 1
  nslice := recNat r 2 2
  tag := recNat r 4 4
  argp := recNat r 8 6
  entry := recNat r 14 2
  waits := recWaits r
  sigs := recSigs r
  ctx := s.qCtx q
  part := s.ctxPart (s.qCtx q)
  prio := s.fld (Reg.SCH_QCFG q) 14 12
  rt := s.flag (Reg.SCH_QCFG q) 11
  pwr := s.flag (Reg.SCH_QCFG q) 9
  cfg := s.reg (Reg.SCH_CTX_CFG (s.qCtx q))
  prov := s.provOf (s.qCtx q)
  cores := s.coresUsable (s.ctxPart (s.qCtx q))
  step := (s.reg (Reg.SCH_CTX_STEP (s.qCtx q))).toNat
  phase := .waiting
  since := s.upNs
  begun := false
  todo := []
  live := 0
  status := 0
  prop := false
  dl := false
  late := false
  pre := false
  bcn := false
  ndc := 0
  engine := 0
  endS := 0
  endNs := 0
  endCyc := 0
  endKey := 0
  ranOn := []
  digests := []
  acks := []
  stages := []
  conv := []
  homes := []

/-- A command that ends with a status before any of its slices is dispatched. -/
def Cmd.fail (m : Cmd) (status : Nat) : Cmd := { m with phase := .ended, status := status, todo := [] }

/-- The status that a flush gives the command at index `i` of a queue (R376, R487). -/
def State.flushFor (s : State) (q i : Nat) : Option Nat :=
  match tabFind s.flush q with
  | none => none
  | some f => if (f.stop + 2 ^ 32 - i) % 2 ^ 32 ≠ 0 ∧ (f.stop + 2 ^ 32 - i) % 2 ^ 32 ≤ 65536 then some f.status else none

/-- Fetch queue `q`'s next record. A record that cannot be read stops the queue (R347). The first check of R353 that
fails decides the outcome; a command that is being flushed completes without waiting or running. `kind` says which
records are this row's. -/
def State.fetchCmd (s : State) (q : Nat) (kind : Nat → Bool) : State :=
  if !(s.canFetch q) then s
  else
    let a := s.recordAddr q
    let part := s.ctxPart (s.qCtx q)
    if s.partCheck part a 64 ≠ 0 then s.queueDisable q 0
    else match s.readPhys 0 a 64 with
      | (none, s1) => s1.queueDisable q 1
      | (some r, s1) =>
        if !(kind (recNat r 0 1)) then s
        else
          let m := s1.mkCmd q r
          match s1.recordCheck r part m.pwr, s1.flushFor q m.idx with
          | some st, _ => s1.setCmd q (m.fail st)
          | none, some st => s1.setCmd q (m.fail st)
          | none, none => s1.setCmd q m

/-- Records of a row: its kind, and records whose KIND byte is reserved, which every row rejects alike. -/
def rowKind (k : Nat) (b0 : Nat) : Bool := b0 == k || decide (6 ≤ b0)

def execCmdNop (q : QueueId) (s : State) : Res := .next (s.orWait (s.fetchCmd q (rowKind 0)))
def execCmdSlices (q : QueueId) (s : State) : Res := .next (s.orWait (s.fetchCmd q (rowKind 1)))
def execCmdGang (q : QueueId) (s : State) : Res := .next (s.orWait (s.fetchCmd q (rowKind 2)))
def execCmdChain (q : QueueId) (s : State) : Res := .next (s.orWait (s.fetchCmd q (rowKind 3)))
def execCmdConv (q : QueueId) (s : State) : Res := .next (s.orWait (s.fetchCmd q (rowKind 4)))
def execCmdRagged (q : QueueId) (s : State) : Res := .next (s.orWait (s.fetchCmd q (rowKind 5)))

end Sys2Proof.Machine
end

