-- ==== Sys2Proof/Machine/SchedReady.lean ====
section
/-! DEFINITION. A command whose waits are satisfied becomes ready (R354, R356): ERRSKIP, the argument tables of CHAIN
(R246, R247), CONV (R280 to R282, R285) and RAGGED (R315 to R318), and its slices. -/
namespace Sys2Proof.Machine

/-- What a command's arguments give: its slices' (index, argument pointer, entry offset, stage, index within it, stripes),
an ending status, or nothing yet. -/
inductive Args where
  | slices (l : List Slice) (stages : List Nat) (conv : List Byte)
  | fail (status : Nat)
  | hold

/-- A slice of a command, to be numbered. -/
def Cmd.slice (m : Cmd) (q i n : Nat) : Slice where
  q := q
  idx := i
  nslice := n
  argp := m.argp
  entry := 128 * m.entry
  ctx := m.ctx
  part := m.part
  prio := m.prio
  step := m.step
  gang := m.kind == 2 || m.kind == 3
  stage := 0
  sidx := i
  rt := m.rt
  pwr := m.pwr
  digest := bitOf m.flags 1
  place := none
  stripes := []
  seq := 0

/-- Load balancing of a command (R371). -/
def Cmd.lb (m : Cmd) : Bool := bitOf m.cfg.toNat 57

/-- The cores of the power-control slices of a partition: unmarked cores of its selected islands (R560). -/
def State.pwrCores (s : State) (k : Nat) : List Nat :=
  (List.range 64).filter (fun c => s.partHas k (islandOf c) && s.gateSel (islandOf c) && s.unmarked c)

/-- The usable cores a command is spread over: those at fetch, or now where there were none (R371). -/
def State.spreadCores (s : State) (m : Cmd) : List Nat := if m.cores = [] then s.coresUsable m.part else m.cores

/-- Where slice `i` is placed: the (i mod C)-th usable core with LB clear, anywhere with LB set (R371). -/
def placeOf (lb : Bool) (us : List Nat) (i : Nat) : Option Nat := if lb then none else us[i % us.length]?

/-- The slices of SLICES, GANG and CONV. -/
def State.plainArgs (s : State) (q : Nat) (m : Cmd) (stripes : Nat → List Nat) (conv : List Byte) : Args :=
  let us := s.spreadCores m
  let pc := s.pwrCores m.part
  if m.pwr then
    if pc.length ≠ m.nslice then .fail 0x0001
    else .slices ((List.range m.nslice).map (fun i => { m.slice q i m.nslice with place := pc[i]? })) [] conv
  else if m.kind ≠ 2 ∧ us = [] then .hold
  else .slices ((List.range m.nslice).map (fun i => { m.slice q i m.nslice with
      place := if m.kind = 2 then none else placeOf m.lb us i, stripes := stripes i })) [] conv

/-- An argument table read through the context's translation: bytes, or how the command ends, or nothing yet. -/
def State.argRead (s : State) (ctx va n : Nat) : Except Args (List Byte) × State :=
  match s.vread .sch ctx va n with
  | (.ok b, s1) => (.ok b, s1)
  | (.fault _ _ f, s1) => (.error (if causeHeld f.cause then .hold else .fail (causeStatus f.cause)), s1)
  | (.ecc, s1) => (.error (.fail 0x0204), s1)

/-- The slices of a CHAIN's stages (R247). -/
def chainSlices (m : Cmd) (q total : Nat) (t : List Byte) : (stage first : Nat) → List Nat → List Slice
  | _, _, [] => []
  | st, first, n :: rest =>
    (List.range n).map (fun i => { m.slice q (first + i) total with
      argp := recNat t (24 + 32 * st) 8, entry := recNat t (16 + 32 * st) 4, stage := st, sidx := i }) ++
      chainSlices m q total t (st + 1) (first + n) rest

/-- CHAIN: the stage table (Table 8.9). -/
def State.chainArgs (s : State) (q : Nat) (m : Cmd) : Args × State :=
  if m.argp % 16 ≠ 0 then (.fail 0x0001, s)
  else match s.argRead m.ctx m.argp 16 with
    | (.error e, s1) => (e, s1)
    | (.ok h, s1) =>
      let n := recNat h 0 1
      if n = 0 ∨ 8 < n ∨ !(recZero h 1 15) then (.fail 0x0001, s1)
      else match s1.argRead m.ctx m.argp (16 + 32 * n) with
        | (.error e, s2) => (e, s2)
        | (.ok t, s2) =>
          let ns := (List.range n).map (fun i => recNat t (20 + 32 * i) 1)
          let total := ns.foldl (· + ·) 0
          let okStage := fun (i : Nat) => recZero t (21 + 32 * i) 3 && recZero t (32 + 32 * i) 16
            && decide (1 ≤ recNat t (20 + 32 * i) 1) && recNat t (16 + 32 * i) 4 % 8 == 0
          if !((List.range n).all okStage) ∨ 64 < total ∨ m.cores.length < total then (.fail 0x0001, s2)
          else (.slices (chainSlices m q total t 0 0 ns) ns [], s2)

/-- CONV: the convolution descriptor (Table 9.6). -/
def State.convArgs (s : State) (q : Nat) (m : Cmd) : Args × State :=
  match s.argRead m.ctx m.argp 64 with
  | (.error e, s1) => (e, s1)
  | (.ok b, s1) =>
    let d := ConvDesc.of b
    if !(convFieldsOk b) then (.fail 0x0001, s1)
    else if d.oh < 1 ∨ d.ow < 1 then (.fail 0x0302, s1)
    else if !((List.range d.stripeCount).all d.stageFits) then (.fail 0x0001, s1)
    else (s1.plainArgs q m (fun i => (List.range d.stripeCount).filter (fun x => x % m.nslice == i)) b, s1)

/-! ## RAGGED -/

/-- A sequence of a ragged descriptor. -/
structure RagSeq where
  va : Nat
  start : Nat
  len : Nat
  deriving DecidableEq, Repr

/-- The smallest power of two from 64 that is at least `n`. -/
def bucketOf (n : Nat) : Nat := ((List.range 8).map (fun i => 64 * 2 ^ i)).find? (fun b => decide (n ≤ b)) |>.getD 8192

/-- The tiles of a sequence: each its number and its real rows (R317). -/
def RagSeq.tiles (x : RagSeq) (bucket : Bool) (mt : Nat) : List (Nat × Nat) :=
  if x.len = 0 then []
  else (List.range (ceilDiv' (if bucket then bucketOf x.len else x.len) mt)).map (fun k => (k, min mt (x.len - k * mt)))

/-- A tile record (Table 10.7). -/
def tileRecord (x : RagSeq) (bucket : Bool) (mt user : Nat) (t : Nat × Nat) : List Byte :=
  leBytes 8 x.va ++ leBytes 4 (x.start + t.1 * mt) ++ leBytes 2 t.1 ++ leBytes 1 t.2
    ++ leBytes 1 (boolNat (bucket && decide (t.2 < mt))) ++ leBytes 8 user ++ leBytes 8 0

/-- RAGGED: the ragged descriptor (Table 10.6), its tiles and their records. -/
def State.raggedArgs (s : State) (q : Nat) (m : Cmd) : Args × State :=
  if m.argp % 16 ≠ 0 then (.fail 0x0001, s)
  else match s.argRead m.ctx m.argp 32 with
    | (.error e, s1) => (e, s1)
    | (.ok h, s1) =>
      let n := recNat h 0 2
      let mt := recNat h 2 1 + 1
      let bucket := decide (m.prio < 2)
      let va := recNat h 8 8
      if n = 0 ∨ 256 < n ∨ !(recZero h 3 1) ∨ !(recZero h 24 8) ∨ 128 < mt ∨ va % 32 ≠ 0 then (.fail 0x0001, s1)
      else match s1.argRead m.ctx (m.argp + 32) (16 * n) with
        | (.error e, s2) => (e, s2)
        | (.ok t, s2) =>
          let xs := (List.range n).map (fun i =>
            (⟨recNat t (16 * i) 8, recNat t (16 * i + 8) 4, recNat t (16 * i + 12) 4⟩ : RagSeq))
          let ys := if bucket then sortBy (fun (a b : RagSeq) => decide (bucketOf a.len ≤ bucketOf b.len)) xs else xs
          let count := (ys.map (fun x => (if x.len = 0 then 0
            else ceilDiv' (if bucket then bucketOf x.len else x.len) mt))).foldl (· + ·) 0
          if xs.any (fun x => decide ((if bucket then 8192 else 65536) < x.len)) ∨ recNat h 4 4 < count ∨ 65536 < count then
            (.fail 0x0001, s2)
          else if count = 0 then (.fail 0, s2)
          else
            let recs := ys.flatMap (fun x => (x.tiles bucket mt).map (tileRecord x bucket mt (recNat h 16 8)))
            match s2.vwrite .sch m.ctx va recs.flatten with
            | (.ok _, s3) =>
              (if s3.coresUsable m.part = [] then .hold
               else .slices ((List.range count).map (fun i => { m.slice q i count with argp := va + 32 * i })) [] [], s3)
            | (.fault _ _ f, s3) => (if causeHeld f.cause then .hold else .fail (causeStatus f.cause), s3)
            | (.ecc, s3) => (.fail 0x0204, s3)

/-! ## Ready -/

/-- Is a command stale (R380): PGEN_CHK set and PGEN not the partition's? -/
def State.stale (s : State) (q : Nat) (m : Cmd) : Bool :=
  s.flag (Reg.SCH_QCFG q) 47 && s.fld (Reg.SCH_QCFG q) 63 48 != s.fld (Reg.SCH_PART_W2 m.part) 15 0

/-- The arguments of a command by kind. -/
def State.argsOf (s : State) (q : Nat) (m : Cmd) : Args × State :=
  match m.kind with
  | 3 => s.chainArgs q m
  | 4 => s.convArgs q m
  | 5 => s.raggedArgs q m
  | _ => (s.plainArgs q m (fun _ => []) [], s)

/-- The slices numbered, each with a number of its own. -/
def numberSlices (from_ : Nat) (l : List Slice) : List Slice := l.zipIdx.map (fun p => { p.1 with seq := from_ + p.2 })

/-- The first non-zero ERR among the waited objects (R356). -/
def State.waitErr (s : State) (m : Cmd) : Option Nat :=
  (m.waits.map (fun w => s.fld (Reg.SYN_CTL w.1) 31 16)).find? (fun e => e != 0)

/-- COMMAND_WAITS_SATISFIED: nothing while a wait is open; its argument reads wait with their memory (R329, R584). -/
def execCommandWaitsSatisfied (q : QueueId) (s : State) : Res :=
  match s.cmd q with
  | none => .next s
  | some m =>
    if m.phase ≠ .waiting ∨ s.schPaused ∨ !(m.waits.all (fun w => decide (w.2 ≤ (s.reg (Reg.SYN_CNT w.1)).toNat))) then .next s
    else
      match (if bitOf m.flags 2 then s.waitErr m else none) with
      | some e => .next (s.setCmd q { m.fail e with prop := true })
      | none =>
        if m.kind = 0 then .next (s.setCmd q (m.fail (if s.stale q m then 0x0203 else 0)))
        else
          match s.argsOf q m with
          | (.hold, s1) => .next (s.orWait s1)
          | (.fail st, s1) => .next (s.orWait (s1.setCmd q (m.fail st)))
          | (.slices l stages conv, s1) =>
            let s2 := s1.setCmd q { m with
              phase := .ready, since := s1.upNs, nslice := l.length, todo := numberSlices s1.seq l,
              stages := stages, conv := conv }
            .next (s.orWait (({ s2 with seq := s2.seq + l.length } : State).preemptCheck m.part))

end Sys2Proof.Machine
end

