-- ==== Sys2Proof/Machine/SchedPlace.lean ====
section
/-! DEFINITION. Placing slices (R367 to R372, R560): SLICE_DISPATCH, GANG_DISPATCH, LB_STEAL. -/
namespace Sys2Proof.Machine

/-- A slice enters an engine queue, ahead of every less urgent one (R367). -/
def Core.enqueue (k : Core) (sl : Slice) : Core :=
  { k with queue := insBy (fun (a b : Slice) => decide (a.prio ≤ b.prio)) sl k.queue }

/-- The first dispatch of a command: LEGACY0 gains its wait (R379). -/
def State.beginCmd (s : State) (q : Nat) (m : Cmd) : State :=
  if m.begun then s
  else
    let r := Reg.SCH_CTX_LEGACY m.ctx 0
    (s.setReg r (s.reg r + BitVec.ofNat 64 (s.upNs - m.since))).setCmd q { m with begun := true }

/-- A slice not dispatched before goes to core `c`'s engine queue. -/
def State.placeSlice (s : State) (c : Nat) (sl : Slice) : State :=
  match s.cmd sl.q with
  | none => s
  | some m =>
    let s1 := s.beginCmd sl.q m
    let s2 := s1.setCmd sl.q { m with
      begun := true, phase := .running, todo := m.todo.filter (fun x => x.seq != sl.seq), live := m.live + 1,
      homes := tabPut m.homes sl.idx c }
    (s2.setCore c ((s2.core c).enqueue sl)).drrTidy

/-! ## Deficit round robin (R368) -/

/-- The quantum of a command's context, in beats. -/
def Cmd.quantum (m : Cmd) : Nat := max 1 (bitsOf m.cfg.toNat 55 48) * 65536

/-- Rounds a deficit needs to become positive. -/
def rounds (d : Int) (q : Nat) : Nat := if 0 < d then 0 else (-d).toNat / q + 1

/-- The ready command of a context at a level: waits satisfied first, lowest queue on a tie. -/
def State.ctxCmd (s : State) (k c p ctx : Nat) : Option (Nat × Cmd) :=
  let l := (s.readyCmds k).filter (fun x => x.2.prio == p && x.2.ctx == ctx && (s.slotFor x.2 c).isSome)
  (sortBy (fun (a b : Nat × Cmd) => decide (a.2.since < b.2.since) || (a.2.since == b.2.since && decide (a.1 ≤ b.1))) l).head?

/-- The choice of R368 at a level: the pseudocode's loop in closed form. A context is visited again and again in
ascending order from the one after `cur`; the winner is the first found with a positive deficit. -/
def State.drrPick (s : State) (k c p : Nat) : Option (Nat × Cmd) × State :=
  let s1 := s.drrTidy
  let cur := tabGet 255 s1.drrCur (8 * k + p)
  let xs := sortBy (fun a b => decide ((a + 255 - cur) % 256 ≤ (b + 255 - cur) % 256))
    ((List.range 256).filter (fun x => (s1.ctxCmd k c p x).isSome))
  let quant := fun x => match s1.ctxCmd k c p x with
    | some m => m.2.quantum
    | none => 65536
  let need := fun x => rounds (tabGet 0 s1.drr (drrKey x p)) (quant x)
  match leastOf (xs.map need) with
  | none => (none, s1)
  | some r =>
    match xs.find? (fun x => need x == r) with
    | none => (none, s1)
    | some w =>
      let pos := xs.idxOf w
      let drr := xs.zipIdx.foldl (fun d e =>
        let add := (r + (if e.2 < pos then 1 else 0)) * quant e.1
        tabSet 0 d (drrKey e.1 p) (tabGet 0 d (drrKey e.1 p) + (add : Int))) s1.drr
      (s1.ctxCmd k c p w, { s1 with drr := drr, drrCur := tabPut s1.drrCur (8 * k + p) w })

/-- SLICE_DISPATCH: the engine queue of core `c` has room; the slice of the lowest level that may run there is added, a
returned one first; a stale command ends instead (R380). Power-control slices start on their own free core (R560). -/
def execSliceDispatch (c : CoreId) (s : State) : Res :=
  match s.partOfIsland (islandOf c) with
  | none => .next s
  | some k =>
    if 4 ≤ (s.core c).queue.length ∨ s.schPaused then .next s
    else match leastOf (s.readyLevels k c) with
      | none => .next (s.preemptCheck k)
      | some p =>
        match (s.returned k).find? (fun sl => sl.prio == p && s.fits sl c) with
        | some sl => .next (((s.setCore c ((s.core c).enqueue sl)).drrTidy).preemptCheck k)
        | none =>
          match s.drrPick k c p with
          | (some (q, m), s1) =>
            if !m.begun && s1.stale q m then .next (s1.setCmd q (m.fail 0x0203))
            else match s1.slotFor m c with
              | some sl => .next ((s1.placeSlice c sl).preemptCheck k)
              | none => .next s1
          | (none, s1) => .next s1

/-! ## Gangs (R178, R372) -/

/-- May a gang of priority `p` take core `c` at once: nothing runs there, and whatever waits there is less urgent? -/
def State.gangFree (s : State) (c p : Nat) : Bool :=
  let k := s.core c
  decide (k.mode = .idle) && k.slice.isNone && k.queue.all (fun x => decide (p < x.prio))

/-- Place gang slices on cores, ascending on ascending. -/
def State.placeGang (s : State) (q : Nat) : List (Slice × Nat) → State
  | [] => s
  | (sl, c) :: t =>
    let s1 := s.drainQueue c
    let s2 := if (s1.savedSlice sl).isSome then s1.setCore c ((s1.core c).enqueue sl) else s1.placeSlice c sl
    s2.placeGang q t

/-- Ascending. -/
def ascending (l : List Nat) : List Nat := sortBy (fun a b => decide (a ≤ b)) l

/-- No core is kept for queue `q`'s gang any more. -/
def State.unkeep (s : State) (q : Nat) : State := { s with gangRes := s.gangRes.filter (fun p => p.2 != q) }

/-- GANG_DISPATCH: as many usable cores as the gang has slices take it at once, idle ones first. Where there are too few,
cores that run less urgent slices are asked to stop, the slices waiting on them are placed anew, and these cores and the
free ones are kept for the gang until it has all it needs (R372). Throttling bars a gang with new slices alone (R48). -/
def execGangDispatch (q : QueueId) (s : State) : Res :=
  match s.cmd q with
  | none => .next s
  | some m =>
    let sls := s.gangSlices q m
    let n := sls.length
    if n = 0 ∨ s.schPaused ∨ s.refHeld q m ∨ !(m.phase = .ready ∨ m.phase = .running) then .next s
    else if !m.begun && s.stale q m then .next (s.setCmd q (m.fail 0x0203))
    else if m.pwr then
      if sls.all (fun sl => match sl.place with
          | some c => s.unmarked c && s.islandOn (islandOf c) && (s.core c).isIdle
          | none => false) then .next (s.placeGang q (sls.filterMap (fun sl => sl.place.map (fun c => (sl, c)))))
      else .next s
    else
      let us := (s.coresUsable m.part).filter (fun c => (m.todo.isEmpty || s.mayStart m.part c m.prio) &&
        (match s.keptFor c with
         | some g => g.1 == q.val || decide (m.prio < g.2)
         | none => true))
      let free := us.filter (fun c => s.gangFree c m.prio)
      if n ≤ free.length then .next ((s.unkeep q).placeGang q (sls.zip (ascending (free.take n))))
      else
        let vs := sortBy victimLe ((us.filter (fun c => match (s.core c).slice with
          | some sl => decide (m.prio < sl.prio) && (s.core c).queue.all (fun x => decide (m.prio < x.prio))
          | none => false)).map (fun c => (c, s.core c)))
        if free.length + vs.length < n then .next s
        else
          let take := vs.take (n - free.length)
          let s1 := take.foldl (fun t v => (t.drainQueue v.1).askPreempt v.1) (s.unkeep q)
          .next { s1 with gangRes := (free ++ take.map (·.1)).foldl (fun t c => tabPut t c q) s1.gangRes }

/-! ## Load balancing (R371) -/

/-- The slices in the engine queues of a partition's other cores that load balancing may move to core `c`. -/
def State.movable (s : State) (k c : Nat) : List (Nat × Slice) :=
  (s.coresUsable k).flatMap (fun d => if d = c then [] else
    ((s.core d).queue.filter (fun sl => !sl.gang && !sl.pwr && s.openTo c sl.prio
      && ((s.savedSlice sl).isSome || s.mayStart k c sl.prio) && (match s.cmd sl.q with
      | some m => m.lb
      | none => false))).map (fun sl => (d, sl)))

/-- The staging stream of the convolution slice on core `c`, with its ferry, while its window stream is open too. -/
def State.convStaging (s : State) (c q : Nat) : Option (Nat × ConvRun) :=
  ((List.range 4).map (fun b => 128 + 4 * islandOf c + b)).findSome? (fun f => match (s.ferry f).stream with
    | some st => match st.conv with
      | some r => if r.staging ∧ st.core = c ∧ st.q = q ∧ (s.convWin c q st.slice).isSome then some (f, r) else none
      | none => none
    | none => none)

/-- The stripes of a ferry's convolution stream replaced. -/
def State.setStripes (s : State) (f : Nat) (l : List Nat) : State :=
  s.setFerry f { s.ferry f with
    stream := (s.ferry f).stream.map (fun (st : Stream) => { st with
      conv := st.conv.map (fun (r : ConvRun) => { r with stripes := l }) }) }

/-- With load balancing, a convolution slice that has staged all its stripes takes over the last stripe that another
running slice of its command has not begun to stage, of the lowest core that has one (R282, R371; which and when: Log 71). -/
def State.stripeMove (s : State) (k c : Nat) : State :=
  match (s.core c).slice with
  | none => s
  | some sl => match s.cmd sl.q, s.convStaging c sl.q with
    | some m, some (f, r) =>
      if !m.lb ∨ r.next < r.stripes.length then s
      else
        let gives := fun d => if d = c then none else
          (s.convStaging d sl.q).bind (fun x => if x.2.bufs.length < x.2.stripes.length then some (d, x) else none)
        match (s.coresUsable k).findSome? gives with
        | none => s
        | some (d, g, x) =>
          let give := x.stripes.dropLast
          let take := r.stripes ++ x.stripes.getLast?.toList
          (((s.setStripes g give).setStripes (2 * d) give).setStripes f take).setStripes (2 * c) take
    | _, _ => s

/-- LB_STEAL: an idle usable core takes an unstarted slice, lowest level first, oldest first; a request made for it is
withdrawn (R369). A core whose convolution slice has no stripe left to stage takes one from another slice (R282). -/
def execLbSteal (c : CoreId) (s : State) : Res :=
  match s.partOfIsland (islandOf c) with
  | none => .next s
  | some k =>
    if !(s.usable c) ∨ s.schPaused then .next s
    else if !((s.core c).isIdle) then .next (s.stripeMove k c)
    else
      let le := fun (a b : Nat × Slice) => decide (a.2.prio < b.2.prio) || (a.2.prio == b.2.prio && decide (a.2.seq ≤ b.2.seq))
      match sortBy le (s.movable k c) with
      | [] => .next s
      | (d, sl) :: _ =>
        let kd := s.core d
        let kd1 := { kd with queue := kd.queue.filter (fun x => x.seq != sl.seq) }
        let own := kd.headUrgent && !kd1.headUrgent && !kd.sl.gang
        let s1 := s.setCore d { kd1 with preempt := kd1.preempt && !own }
        .next (s1.setCore c ((s1.core c).enqueue sl))

end Sys2Proof.Machine
end

