-- ==== Sys2Proof/Machine/SchedRun.lean ====
section
/-! DEFINITION. Running slices on a core: SLICE_START (R86, R210, R215, R283, R370), CONTEXT_SAVE (R107 to R109, R213,
R217, R240), CONTEXT_RESTORE (R213, R240, R344). -/
namespace Sys2Proof.Machine

/-! ## Scrub and initialisation (R215, R216, R221) -/

/-- The lagoon of a core as a scrub leaves it: zero, E0, accumulators zero. -/
def Core.scrubbed (k : Core) : Core :=
  { k with lgn := Store.empty 8, tags := 0, blive := 0, parity := [], lgnUe := [], lgnCe := [], accUe := [], accCe := [],
           regs := { k.regs with acc := Store.empty 32, rowsum := [], poscnt := [], live := 0 } }

/-- LGN_SCRUB after a scrub or initialisation: SCRUBS rises, PART, DONE. -/
def State.scrubDone (s : State) (c part : Nat) : State :=
  let r := Reg.LGN_SCRUB (c / 8) (c % 8)
  ((s.bumpMod r 31 16).setFld r 4 2 part).setFlag r 1 true

/-- Core `c` is scrubbed for partition `part`, to which it moves: its instruction cache is invalidated (R98). -/
def State.scrub (s : State) (c part : Nat) : State :=
  (s.setCore c { (s.core c).scrubbed with icUe := [], icCe := [] }).scrubDone c part

/-- Core `c` initialises (R216), its generation rises, its ferries' translations and its residence are gone (R380). -/
def State.initCore (s : State) (c : Nat) : State :=
  let s1 := s.release c
  let k := s1.core c
  ((s1.setCore c { k.scrubbed with mode := .idle, slice := none, preempt := false, icUe := [], icCe := [],
                                   gen := (k.gen + 1) % 2 ^ 16 }).tlbDrop (fun u => decide (u = .ferry (2 * c) ∨ u = .ferry (2 * c + 1)))).scrubDone c 0

/-! ## Saving (R109, R213, R217, R240, R370) -/

/-- The ferries of core `c`: bound to it, or carrying a stream of its slice. -/
def State.coreFerries (s : State) (c : Nat) : List Nat :=
  (s.ferries.filter (fun p =>
    (match p.2.bound with | some b => b.core == c | none => false) ||
    (match p.2.stream with | some st => st.core == c | none => false))).map (·.1)

/-- Ring names of a command's slices while they are off their cores: 1000 plus the slice index. -/
def RingName.move (frm dst : Nat) (r : RingName) : RingName := if r.core = frm then { r with core := dst } else r

/-- A stream's ring names moved. -/
def Stream.rename (st : Stream) (frm dst : Nat) : Stream :=
  { st with mem := st.mem.map (RingName.move frm dst), held := st.held.map (RingName.move frm dst),
            acqd := st.acqd.map (RingName.move frm dst), waitRing := st.waitRing.map (RingName.move frm dst) }

/-- The ring names of queue `q`'s streams, open or saved, moved, and those that ferries of its context keep. -/
def State.rename (s : State) (q frm dst : Nat) : State :=
  let ctx := (tabFind s.queues q).map (·.ctx)
  let go := fun (k : Ferry) => { k with
    stream := k.stream.map (fun (st : Stream) => if st.q = q then st.rename frm dst else st),
    held := if ctx = some k.ctx then k.held.map (RingName.move frm dst) else k.held,
    acqd := if ctx = some k.ctx then k.acqd.map (RingName.move frm dst) else k.acqd }
  { s with ferries := s.ferries.map (fun (p : Nat × Ferry) => (p.1, go p.2)),
           saved := s.saved.map (fun (v : Saved) => { v with ferries := v.ferries.map (fun (p : Nat × Ferry) => (p.1, go p.2)) }) }

/-- The slices that are at home on core `c` with context `ctx`: queue and index. -/
def State.homesOn (s : State) (ctx c : Nat) : List (Nat × Nat) :=
  s.queues.flatMap (fun p => if p.2.ctx = ctx then (p.2.homes.filter (fun h => h.2 == c)).map (fun h => (p.1, h.1)) else [])

/-- Their ring names while the context is off the core, and back. -/
def State.namesOff (s : State) (ctx c : Nat) : State := (s.homesOn ctx c).foldl (fun t h => t.rename h.1 c (1000 + h.2)) s
def State.namesBack (s : State) (ctx c : Nat) : State := (s.homesOn ctx c).foldl (fun t h => t.rename h.1 (1000 + h.2) c) s

/-- A slice is at home nowhere while it is saved (R225). -/
def State.homeGone (s : State) (sl : Slice) : State :=
  match s.cmd sl.q with
  | some m => s.setCmd sl.q { m with homes := tabDel m.homes sl.idx }
  | none => s

/-- A time of waiting kept as its length while off the core, and back (R249). -/
def turnWait (now t : Nat) : Nat := now - t

/-- A stream stopped for a save: a fault stays open (R343), any other wait is entered anew. -/
def Stream.stopped (st : Stream) (now : Nat) : Stream :=
  { st with wait := (match st.wait with
      | .fault f => .fault f
      | .slotF => .slotF
      | _ => .none),
            since := turnWait now st.since }

/-- Words of live berths. -/
def Core.liveWord (k : Core) (w : Nat) : Bool := k.blive.getLsbD (w / 512)

/-- The first parity error of the state bits, which a save reads (R217). -/
def Core.badParity (k : Core) : Option Nat := k.parity.head?

/-- The registers as saved: the waits keep their length, a stationary tile is loaded anew (R108). -/
def CoreRegs.stopped (r : CoreRegs) (now : Nat) : CoreRegs :=
  { r with waitStart := turnWait now r.waitStart, tile := [],
           fly := r.fly.map (fun e => { e with since := turnWait now e.since, tile := [] }) }

/-- The slot of core `c` in a context's save area (R365): its index among the cores of the partition's islands. -/
def State.saveSlot (s : State) (ctx c : Nat) : Nat :=
  let k := s.ctxPart ctx
  let i := ((List.range c).filter (fun d => s.partHas k (islandOf d))).length
  2 ^ 20 * s.fld (Reg.SCH_CTX_CFG ctx) 43 20 + 2 ^ 20 * i

/-- A save has written its slot of the save area: whether it covered a sector that was bad there is free, since the slot's
layout is the device's own (Log 6, R326). -/
def State.rewritten (s : State) (a : Nat) : State :=
  let inSlot := fun (x : Nat) => decide (a ≤ 64 * x) && decide (64 * x < a + 2 ^ 20)
  if (s.ueSec ++ s.ceSec).any inSlot then
    match s.choose 2 with
    | (0, t) => t
    | (_, t) => t.sectorsGood inSlot
  else s

/-- Save what is resident on core `c`, with the slice in progress if one is. Bad words are copied and reported (R217), the
layout in the save area is the device's own: its bytes are undefined to a reader (Log 6). -/
def State.saveCore (s : State) (c : Nat) : State :=
  let k := s.core c
  match k.resident with
  | none => s
  | some ctx =>
    let fs := s.coreFerries c
    let bad := k.lgnUe.filter k.liveWord
    let badA := k.accUe.filter (fun w => k.regs.live.getLsbD (w / 4096))
    let v : Saved :=
      { ctx := ctx, core := c, slice := k.slice, regs := k.regs.stopped s.upNs, tags := k.tags, blive := k.blive,
        lgn := k.lgn, badWords := bad, badAcc := badA,
        ferries := fs.foldl (fun (t : Tab Ferry) f =>
          let x := s.ferry f
          tabPut t (ferryKindOf f) { x with stream := x.stream.map (fun (st : Stream) => st.stopped s.upNs) }) [] }
    let s1 := bad.foldl (fun t w => t.eccLagoon c w) s
    let s2 := badA.foldl (fun t w => t.eccAcc c w 0) s1
    let s3 := (s2.lgnCorrect c ((s2.core c).lgnCe.filter k.liveWord)).accCorrect c
      (k.accCe.filter (fun w => k.regs.live.getLsbD (w / 4096)))
    let (g, s4) := s3.draw
    let s5 := { s4 with saved := v :: s4.saved, mem := s4.mem.undef (s4.saveSlot ctx c) (2 ^ 20) g }.rewritten (s4.saveSlot ctx c)
    let s6 := (fs.foldl (fun t f => t.setFerry f { t.ferry f with stream := none, bound := none, held := [], acqd := [] }) s5).namesOff ctx c
    let s7 := match k.slice with
      | some sl => s6.homeGone sl
      | none => s6
    let k7 := s7.core c
    let s8 := s7.setCore c { k7 with
      resident := none, slice := none, mode := .idle, preempt := false, tags := 0, blive := 0,
      regs := { k7.regs with rings := [], fh := [], fran := 0, stall := none, fly := [], resume := none,
                             live := 0 } }
    (fs.filter (fun f => decide (128 ≤ f))).foldl (fun t f => (t.grantFerry f).hashFreed f) s8

/-- A save reads the state bits: an error sets the berth E0, is reported, and ends the running command; nothing is saved
then (R217). -/
def State.saveParity (s : State) (c b : Nat) : State :=
  let s1 := s.parityHit c b
  match (s.core c).slice with
  | some sl => s1.endBy sl.q stEcc 2 sl.idx
  | none => s1

/-- Parity errors met by a save between commands end no command: each berth is set E0 and the save goes on. -/
def State.clearParity (s : State) (c : Nat) : State := (s.core c).parity.foldl (fun t b => t.parityHit c b) s

/-! ## SLICE_START -/

/-- Residence on core `c` ends before a slice of context `ctx` starts (R370): by a save with SI set, else by release. -/
def State.endResidence (s : State) (c ctx : Nat) : State :=
  match (s.core c).resident with
  | none => s
  | some r =>
    if r = ctx then s
    else if s.flag (Reg.SCH_CTX_CFG r) 56 then (s.clearParity c).saveCore c
    else s.release c

/-- The registers at the start of a slice (R86): accumulator contents are undefined. -/
def CoreRegs.start (r : CoreRegs) (entry g : Nat) : CoreRegs :=
  { CoreRegs.init with rings := r.rings, fh := r.fh, fran := r.fran, pc := entry,
                       acc := (Store.empty 32).undef 0 65536 g }

/-- The bulk ferry that a convolution slice's staging stream takes: the first free one of its island. -/
def State.freeBulk (s : State) (n : Nat) : Option Nat :=
  ((List.range 4).map (fun b => 128 + 4 * n + b)).find? (fun f =>
    let k := s.ferry f
    k.bound.isNone && k.stream.isNone && !k.drain)

/-- A built-in stream of a convolution slice. -/
def State.convStream (s : State) (c : Nat) (ring : Option Nat) (run : ConvRun) : Stream :=
  { s.newStream c none ring none none with conv := some run }

/-- The window ring and the two built-in streams of a convolution slice (R283, R285). -/
def State.startConv (s : State) (c f : Nat) (desc : List Byte) (stripes : List Nat) : State :=
  let d := ConvDesc.of desc
  let r : Ring := { base := 0, slots := d.slots, sb := d.sb, harbour := false, prod := 1, cons := 0, lateNs := 0,
                    st := List.replicate d.slots .e, head := 0, rsv := 0, tail := 0, acq := 0 }
  let s1 := s.ringGone c d.handle
  let s2 := (s1.setCore c (r.berths.foldl (fun k b => k.setBerth b false false) (s1.core c))).setRing c d.handle r
  let s3 := s2.openStream c (2 * c) (s2.convStream c (some d.handle) ⟨desc, stripes, 0, 0, [], false⟩) []
  s3.openStream c f (s3.convStream c none ⟨desc, stripes, 0, 0, [], true⟩) []

/-- The command learns that its slice `i` runs on core `c`, which its name means from now on (R225). -/
def State.ranOn (s : State) (q i c : Nat) : State :=
  match s.cmd q with
  | some m => s.setCmd q { m with ranOn := setIns m.ranOn c, homes := tabPut m.homes i c }
  | none => s

/-- Slice `sl` starts on core `c`: it is restored if it or its context was saved, else its context becomes or stays
resident. `bulk` is the staging stream's ferry of a convolution slice. -/
def State.startSlice (s : State) (c : Nat) (sl : Slice) (bulk : Option Nat) : State :=
  let s1 := s.endResidence c sl.ctx
  let s2 := match s1.core c |>.lastPart with
    | some p => if p = sl.part then s1 else s1.scrub c sl.part
    | none => s1
  let k := s2.core c
  let k1 := { k with slice := some sl, queue := k.queue.filter (fun x => x.seq != sl.seq), lastPart := some sl.part,
                     lastCtx := sl.ctx, lastPrio := sl.prio, started := s2.upNs, preempt := false, restArr := s2.seq }
  let s3 := (s2.ranOn sl.q sl.idx c).tick
  if (s3.savedSlice sl).isSome then s3.setCore c { k1 with mode := .restoring }
  else
    let (g, s4) := s3.draw
    let fresh := k1.resident != some sl.ctx
    let r := if fresh then { k1.regs with rings := [], fh := [], fran := 0 } else k1.regs
    let k2 := { k1 with regs := r.start sl.entry g }
    if fresh && (s4.savedFrom sl.ctx c).isSome then s4.setCore c { k2 with mode := .restoring, resident := none }
    else
      let k3 := { k2 with mode := .running, resident := some sl.ctx,
                          tags := if fresh then 0 else k2.tags, blive := if fresh then 0 else k2.blive,
                          parity := if fresh then [] else k2.parity }
      let s5 := s4.setCore c k3
      match s5.cmd sl.q, bulk with
      | some m, some f => if m.kind = 4 then s5.startConv c f m.conv sl.stripes else s5
      | _, _ => s5

/-- Does a ferry of core `c` still stop for the end of its command (R251)? Until it has acknowledged, the slots it held are
reset, so the core's next slice waits (Log 61). -/
def State.cancelling (s : State) (c : Nat) : Bool := (s.coreFerries c).any (fun f => (s.ferry f).cancelling.isSome)

/-- SLICE_START: the slice at the head of core `c`'s engine queue starts when the core is idle, unmarked and powered, every
ferry of it has acknowledged, throttling permits a new slice (R48) and no waiting gang keeps the core (R372), and a
convolution slice finds its ferries free. -/
def execSliceStart (c : CoreId) (s : State) : Res :=
  let k := s.core c
  match k.queue with
  | [] => .next s
  | sl :: _ =>
    let conv := match s.cmd sl.q with
      | some m => m.kind == 4 && (s.savedSlice sl).isNone
      | none => false
    let bulk := s.freeBulk (islandOf c)
    let new := (s.savedSlice sl).isNone
    if k.mode ≠ .idle ∨ k.slice.isSome ∨ !(s.islandOn (islandOf c)) ∨ !(s.unmarked c) ∨ (new ∧ !(s.mayStart sl.part c sl.prio))
      ∨ !(s.openTo c sl.prio) ∨ s.restarting 3 (islandOf c) ∨ s.cancelling c then .next s
    else if conv && (bulk.isNone || (s.ferry (2 * c)).drain || (s.ferry (2 * c)).stream.isSome) then .next s
    else .next (s.startSlice c sl bulk)

/-! ## CONTEXT_SAVE -/

/-- Is a core that stands still at an instruction that waits at a preemption point at every level (R108, R133, R165)? -/
def State.alwaysPoint (s : State) (c : Nat) : Bool := s.stuck c

/-- May the slice on core `c` be saved now: it is asked to stop and stands at a preemption point of its level (R107)? -/
def State.canSave (s : State) (c : Nat) : Bool :=
  let k := s.core c
  k.preempt && decide (k.mode = .running) && k.resident.isSome && (match k.slice with
    | none => false
    | some sl => match s.cmd sl.q with
      | none => false
      | some m => decide (0 < bitsOf m.cfg.toNat 59 58) || s.alwaysPoint c)

/-- The slice on core `c` is saved: PREEMPTS and PRE (R357, R379), its engine time charged. -/
def State.saveSlice (s : State) (c : Nat) : State :=
  match (s.core c).parity, (s.core c).slice with
  | b :: _, some _ => s.saveParity c b
  | [], some sl =>
    let s1 := s.charge c
    let r := Reg.SCH_CTX_LEGACY sl.ctx 1
    let s2 := s1.setFld r 31 0 (s1.fld r 31 0 + 1)
    let s3 := match s2.cmd sl.q with
      | some m => s2.setCmd sl.q { m with pre := true }
      | none => s2
    (s3.saveCore c).drrTidy
  | _, none => s

/-- CONTEXT_SAVE: a slice is saved alone, a gang's slices together once every one can be (R178). -/
def execContextSave (c : CoreId) (s : State) : Res :=
  match (s.core c).slice with
  | none => .next s
  | some sl =>
    if sl.gang then
      let cs := s.coresOf sl.q
      if cs.all s.canSave then .next ((cs.reverse.foldl (fun t d => t.saveSlice d) s).unqueue sl.q) else .next s
    else if s.canSave c then .next (s.saveSlice c)
    else .next s

/-! ## CONTEXT_RESTORE -/

/-- The ranges of a lagoon that are not live become undefined after a restore (R213). -/
def Store.dropBerths (m : Store 8) (blive : BitVec 128) (g : Nat) : Store 8 :=
  ((List.range 128).filter (fun b => !(blive.getLsbD b))).foldl (fun m b => m.undef (4096 * b) 4096 g) m

/-- Banks that are not live hold undefined contents, sums and counts after a restore (R109). -/
def CoreRegs.dropBanks (r : CoreRegs) (g : Nat) : CoreRegs :=
  ((List.range 8).filter (fun a => !(r.live.getLsbD a))).foldl (fun r a =>
    { r with acc := r.acc.undef (8192 * a) 8192 g,
             rowsum := (List.range 128).foldl (fun t i => tabPut t (128 * a + i) (Config.undefBits 32 g (65536 + 128 * a + i))) r.rowsum,
             poscnt := (List.range 128).foldl (fun t i => tabPut t (128 * a + i) (Config.undefBits 32 g (131072 + 128 * a + i))) r.poscnt }) r

/-- The ferries that a restore onto core `c` takes, with their saved states; none while one of them is held by another
slice, or another waits for it ahead of this restore (R171, R240). -/
def State.takeFerries (s : State) (c : Nat) (v : Saved) : Option (List (Nat × Ferry)) :=
  let l := v.ferries.map (fun p => (ferryOf c p.1, p.2))
  if l.all (fun p =>
      let k := s.ferry p.1
      k.bound.isNone && k.stream.isNone && !k.drain && ((s.bindWaiters p.1).head?.all (fun x => x.core == c && x.handle.isNone)))
  then some l else none

/-- A saved ferry as it goes on at core `c`: its handle and its stream are of this core, a staging stream starts again
with the stripe in progress. -/
def Ferry.resumed (k : Ferry) (c now : Nat) (at_ : Option Nat) : Ferry :=
  { k with bound := k.bound.map (fun b => { b with core := c }), drain := false, cancelling := none,
           stream := k.stream.map (fun (st : Stream) => { st with
             core := c, since := now - st.since,
             pos := (match st.conv with | some r => if r.staging then 0 else st.pos | none => st.pos),
             conv := st.conv.map (fun (r : ConvRun) =>
               let n := at_.elim r.next (min (if r.staging then r.next else r.bufs.length))
               { r with next := if r.staging then n else r.next, run := 0, bufs := r.bufs.take n }) }) }

/-- The stripe that a saved convolution slice's window stream works on, by its place in the list, while it has one. -/
def Saved.convAt (v : Saved) : Option Nat :=
  (((tabFind v.ferries 0).bind (·.stream)).bind (·.conv)).bind (fun r => if r.staging then none else some r.at)

/-- Handle numbers to ferries of core `c`. -/
def moveHandles (c : Nat) (fh : Tab Nat) : Tab Nat := fh.map (fun p => (p.1, ferryOf c (ferryKindOf p.2)))

/-- Saved state goes back to core `c`: lagoon, tags, registers, ferries. `whole` says the registers too, not the
residence alone. -/
def State.putBack (s : State) (c : Nat) (v : Saved) (fs : List (Nat × Ferry)) (whole : Bool) : State :=
  let (g, s1) := s.draw
  let k := s1.core c
  let r0 : CoreRegs := { v.regs with
    fh := moveHandles c v.regs.fh, waitStart := s.upNs - v.regs.waitStart,
    fly := v.regs.fly.map (fun (e : Fly) => { e with since := s.upNs - e.since }) }
  let r := if whole then r0.dropBanks g else { k.regs with rings := r0.rings, fh := r0.fh, fran := r0.fran }
  let s2 := s1.setCore c { k with
    mode := .running, resident := some v.ctx, started := s.upNs, regs := r, tags := v.tags, blive := v.blive, parity := [],
    lgn := v.lgn.dropBerths v.blive g, lgnUe := v.badWords, lgnCe := [],
    accUe := if whole then v.badAcc else [], accCe := [] }
  let s3 := (fs.foldl (fun t p => t.setFerry p.1 (p.2.resumed c s.upNs v.convAt)) s2).namesBack v.ctx c
  if v.slice.isSome then s3.reflyAll c (fun w => w != .icc && w != .reduce) else s3

/-- A restore read of the save area met an uncorrectable sector (R344): the context's commands in flight end with
ECC_UNCORRECTABLE and its next slice starts as on first residence. -/
def State.restoreBad (s : State) (ctx sec : Nat) : State :=
  let s1 := s.eccSector 5 sec
  let qs := (s1.queues.filter (fun p => p.2.ctx == ctx && decide (p.2.phase ≠ .ended))).map (·.1)
  let s2 := qs.foldl (fun t q => t.endCommand q stEcc 2) s1
  { s2 with saved := s2.saved.filter (fun v => v.ctx != ctx) }

/-- The uncorrectable sector that a restore of a slot meets: whether its reads reach one is free (Log 8). -/
def State.restoreSector (s : State) (a : Nat) : Option Nat × State :=
  match s.ueSec.find? (fun x => s.eccOn && decide (a ≤ 64 * x) && decide (64 * x < a + 2 ^ 20)) with
  | none => (none, s)
  | some x => match s.choose 2 with
    | (0, t) => (none, t)
    | (_, t) => (some x, t)

/-- CONTEXT_RESTORE: the core that is restoring gets its slice's state, or its context's residence, back; it waits for a
bulk ferry that another slice holds (R240). -/
def execContextRestore (c : CoreId) (s : State) : Res :=
  let k := s.core c
  match k.mode, k.slice with
  | .restoring, some sl =>
    match s.restoreFrom c with
    | none => .next (s.setCore c { k with mode := .running, resident := some sl.ctx, tags := 0, blive := 0 })
    | some (v, whole) =>
      let conv := !whole && (match s.cmd sl.q with | some m => m.kind == 4 | none => false)
      match (if conv && (s.freeBulk (islandOf c)).isNone then none else s.takeFerries c v) with
      | none => .next s
      | some fs =>
        match s.restoreSector (s.saveSlot v.ctx v.core) with
        | (some x, s1) => .next (s1.restoreBad v.ctx x)
        | (none, s1) =>
          let s2 := { s1 with saved := s1.saved.filter (fun u => u != v && !(whole && u.ctx == v.ctx && u.core == c.val && u.slice.isNone)) }
          let s3 := s2.putBack c v fs whole
          let k3 := s3.core c
          let s4 := s3.setCore c { k3 with slice := some sl }
          if whole then .next s4
          else
            match s4.cmd sl.q, s4.freeBulk (islandOf c) with
            | some m, some f => .next (if m.kind = 4 then s4.startConv c f m.conv sl.stripes else s4)
            | _, _ => .next s4
  | _, _ => .next s

end Sys2Proof.Machine
end

