-- ==== Sys2Proof/Machine/SchedEnd.lean ====
section
/-! DEFINITION. Completing and cancelling commands: COMMAND_COMPLETE (R355, R357 to R359, R377, R379, R531), CANCEL_OLDEST
and CANCEL_ALL (R376), stopping a queue on host loss (R487). -/
namespace Sys2Proof.Machine

/-! ## Completion -/

/-- Deadline entries that mark this completion (R527): those with PEND not 0 whose END_OBJ it signals. -/
def State.dlMarks (s : State) (m : Cmd) : List Nat :=
  s.dlEntries.filter (fun n => decide (0 < s.fld (Reg.LHS_DL_STAT n) 6 3)
    && m.sigs.any (fun x => x.1 == s.fld (Reg.LHS_DL_CFG n) 45 32))

/-- The status of a completion (R358). -/
def Cmd.final (m : Cmd) (dl : Bool) : Nat :=
  if m.status ≠ 0 then m.status else if dl then 0x0101 else if m.bcn then 0x0102 else 0

/-- Is a status OK or a report (R355, R531)? -/
def statusMild (st : Nat) : Bool := st == 0 || st == 0x0101 || st == 0x0102

/-- Apply a command's signals; an error status enters each signalled object (R355). -/
def State.applySignals (s : State) (m : Cmd) (st : Nat) : State :=
  m.sigs.foldl (fun t x =>
    let t1 := if x.2.1 then t.signal x.1 true (t.reg (Reg.SCH_CTX_STEP m.ctx)) else t.signal x.1 false (BitVec.ofNat 64 x.2.2)
    if statusMild st then t1 else t1.syncErr x.1 st m.tag) s

/-- ENGINE: engine time in units of 16 ns, saturating (R357). -/
def Cmd.engineUnits (m : Cmd) : Nat := satNat 0xFFFF_FFFF (m.engine / 16)

/-- The provenance digest of a command (R531, Table 18.7), or zeros. -/
def State.provDigest (s : State) (m : Cmd) (st : Nat) : List Byte :=
  if !(statusMild st) then leBytes 32 0
  else
    let ds := sortBy (fun (a b : Nat × Nat × List Byte) => decide (a.1 < b.1) || (a.1 == b.1 && decide (a.2.1 ≤ b.2.1))) m.digests
    let seeds := leBytes 8 (s.reg (Reg.SCH_CTX_SEED m.ctx 0)).toNat ++ leBytes 8 (s.reg (Reg.SCH_CTX_SEED m.ctx 1)).toNat
    shake256 ([0x50, 0x52, 0x56, 0x01] ++ m.prov ++ leBytes 8 m.step ++ seeds ++ leBytes 4 ds.length
      ++ ds.flatMap (fun d => d.2.2))

/-- The address of command `i`'s completion record and of its digest slot in queue `q`'s completion area (R347). -/
def State.cplAddr (s : State) (q i : Nat) : Nat := 1024 * s.fld (Reg.SCH_QCPL q) 43 10 + 32 * (i % s.qDepth q)
def State.digestAddr (s : State) (q i : Nat) : Nat :=
  1024 * s.fld (Reg.SCH_QCPL q) 43 10 + 32 * s.qDepth q + 32 * (i % s.qDepth q)

/-- The completion record (Table 12.7). -/
def State.cplRecord (s : State) (m : Cmd) (st : Nat) (dl : Bool) (digestPa : Nat) : List Byte :=
  let e := if m.begun then (m.endS, m.endNs) else (s.tbS, s.tbNs)
  let fl := boolNat m.prop + 2 * boolNat m.bcn + 4 * boolNat dl + 8 * boolNat m.late + 16 * boolNat m.pre
    + 32 * boolNat (decide (m.ndc ≠ 0))
  leBytes 2 st ++ leBytes 1 fl ++ leBytes 1 m.ctx ++ leBytes 4 m.tag ++ timeBytes e.1 e.2 ++ leBytes 4 m.engineUnits
    ++ leBytes 2 (satNat 0xFFFF m.ndc) ++ leBytes 6 digestPa

/-- Why 32 bytes cannot be written for partition `k` (R347): 0 the address check, 2 an uncorrectable sector; and where. -/
def State.cplBad (s : State) (k a : Nat) : Option (Nat × Nat) :=
  if s.partCheck k a 32 ≠ 0 then some (0, a)
  else if (s.writePhys 4 a (leBytes 32 0)).1 then none else some (2, a)

/-- PERF after a command (R377). -/
def State.perf (s : State) (m : Cmd) : State :=
  let r := Reg.SCH_CTX_PERF m.ctx
  if bitOf m.flags 4 then s.setFld r 63 32 m.engineUnits
  else if bitOf m.flags 3 ∧ s.fld r 63 32 ≠ 0 then
    let last := satNat 0xFFFF (256 * m.engineUnits / s.fld r 63 32)
    let avg := s.fld r 31 16
    (s.setFld r 15 0 last).setFld r 31 16 (wrapOf 16 ((avg : Int) + Int.fdiv ((last : Int) - avg) 16))
  else s

/-- DONE advances; a flush that has reached its end is over, and closes its queue where it must (R376, R487). -/
def State.doneCmd (s : State) (q : Nat) : State :=
  let s1 := ({ s with queues := tabDel s.queues q, cplOwed := setDel s.cplOwed q } : State).setFld (Reg.SCH_QPTR q) 63 32 (s.qDone q + 1)
  match tabFind s1.flush q with
  | some f =>
    if f.stop = s1.qDone q then
      let s2 := { s1 with flush := tabDel s1.flush q }
      if f.close then s2.setFlag (Reg.SCH_QCFG q) 15 false else s2
    else s1
  | none => s1

/-- The vector of queue `q`'s completions (R482). -/
def State.qVector (s : State) (q fn : Nat) : Nat :=
  let v := s.fld (Reg.GLB_QVEC q) 7 0
  if v < 16 ∨ vecCount fn ≤ v then 16 else v

/-- Is a command's record left unwritten although it completes: HOST_LOST into the host window (R487)? -/
def State.cplSkipped (s : State) (q : Nat) (m : Cmd) : Bool :=
  m.status == 0x0601 && (match s.phys (s.cplAddr q m.idx) with | .host => true | _ => false)

/-- Is the completion of a lower queue owed since the restart of the scheduler (Table 17.6)? -/
def State.cplWaits (s : State) (q : Nat) : Bool :=
  s.cplOwed.contains q && s.cplOwed.any (fun p => decide (p < q) && (match s.cmd p with
    | some m => decide (m.phase = .ended) && m.acks.isEmpty
    | none => false))

/-- COMMAND_COMPLETE, once the command has ended and every ferry has acknowledged (R251, R359): the step rises, the
signals apply, digest and record are written, DONE advances, the interrupt is raised. While the completion area is not to be
written yet it waits (R329, R584). -/
def execCommandComplete (q : QueueId) (s : State) : Res :=
  match s.cmd q with
  | none => .next s
  | some m =>
    if m.phase ≠ .ended ∨ m.acks ≠ [] ∨ s.schPaused ∨ s.cplWaits q then .next s
    else
      let marks := s.dlMarks m
      let dl := m.dl || !(marks.isEmpty)
      let st := m.final dl
      let a := s.cplAddr q m.idx
      let da := s.digestAddr q m.idx
      let dig := bitOf m.flags 1
      let skip := s.cplSkipped q m
      if !skip && (s.memBusy a 32 || (dig && s.memBusy da 32)) then .next s else
      let s1 := marks.foldl (fun t n => t.setFld (Reg.LHS_DL_STAT n) 6 3 (t.fld (Reg.LHS_DL_STAT n) 6 3 - 1)) s
      let s2 := s1.setReg (Reg.SCH_CTX_STEP m.ctx) (s1.reg (Reg.SCH_CTX_STEP m.ctx) + 1)
      let r := Reg.SCH_CTX_LEGACY m.ctx 1
      let s3 := s2.setFld r 63 32 (s2.fld r 63 32 + 1)
      match (if skip then none else match s.cplBad m.part a with
          | some x => some x
          | none => if dig then s.cplBad m.part da else none) with
      | some (why, bad) =>
        let s4 := if why = 2 then (s3.writePhys 4 bad (leBytes 32 0)).2 else s3
        .next ((s4.applySignals m (if why = 0 then stAccess else stEcc)).queueDisable q why)
      | none =>
        let s4 := (s3.applySignals m st).perf m
        let s5 := if skip then s4 else
          let t := if dig then (s4.writePhys 4 da (s.provDigest m st)).2 else s4
          (t.writePhys 4 a (t.cplRecord m st dl (if dig then da else 0))).2
        let s6 := s5.doneCmd q
        let fn := s6.partFn m.part
        .next (if bitOf m.flags 0 then s6.raise fn (s6.qVector q fn) else s6)

/-! ## Cancellation -/

/-- Fetch the next record of a queue whatever its kind (R376); one whose memory is not to be read yet is fetched later. -/
def State.fetchAny (s : State) (q : Nat) : State := s.orWait (s.fetchCmd q (fun _ => true))

/-- SCH_CANCEL (R376): the oldest command submitted and not completed ends with CANCELLED; one not yet fetched is fetched
and checked first; with ALL, those behind it too. A flush that reaches further already goes on. -/
def State.cancel (s : State) (q : Nat) (all : Bool) : State :=
  if s.qTail q = s.qDone q then s
  else
    let ahead := fun (n : Nat) => (n + 2 ^ 32 - s.qDone q) % 2 ^ 32
    let fl := fun (t : State) (n : Nat) => match tabFind t.flush q with
      | some f => if ahead n ≤ ahead f.stop then t else { t with flush := tabPut t.flush q { f with stop := n } }
      | none => { t with flush := tabPut t.flush q ⟨n, 0x0010, false⟩ }
    match s.cmd q with
    | some _ =>
      let s1 := s.endCommand q 0x0010 1
      if all then fl s1 (s.qTail q) else s1
    | none => (fl s (if all then s.qTail q else (s.qDone q + 1) % 2 ^ 32)).fetchAny q

/-- The word of a cancellation. -/
def cancelWord (q : Nat) (all : Bool) : DWord := BitVec.ofNat 64 (q + 2 ^ 15 * boolNat all)

/-- The effect of a write to SCH_CANCEL. -/
def State.cancelWrite (s : State) (v : DWord) : State := s.cancel (bitsOf v.toNat 13 0) (bitOf v.toNat 15)

def execCancelOldest (fn : Fn) (q : QueueId) (s : State) : Res :=
  .next (s.guardWrite fn Reg.SCH_CANCEL 32 (cancelWord q false) (fun t => t.cancelWrite (cancelWord q false)))

def execCancelAll (fn : Fn) (q : QueueId) (s : State) : Res :=
  .next (s.guardWrite fn Reg.SCH_CANCEL 32 (cancelWord q true) (fun t => t.cancelWrite (cancelWord q true)))

/-- Queue `q` is stopped on host loss (R487): every submitted command ends with HOST_LOST, then EN is cleared. -/
def State.hostStop (s : State) (q : Nat) : State :=
  if !(s.flag (Reg.SCH_QCFG q) 15) || s.flag (Reg.SCH_QCFG q) 10 then s
  else
    let s1 := s.endCommand q 0x0601 1
    if s1.qTail q = s1.qDone q then s1.setFlag (Reg.SCH_QCFG q) 15 false
    else { s1 with flush := tabPut s1.flush q ⟨s1.qTail q, 0x0601, true⟩ }

/-- The enabled queues of the block, by the registers that differ from reset. -/
def State.enabledQueues (s : State) : List Nat :=
  ((s.listed 0x100000 0x180000).filter (fun p => p.1 % 0x20 = 0x10 && bitOf p.2.toNat 15)).map (fun p => (p.1 - 0x100000) / 0x20)

end Sys2Proof.Machine
end

