-- ==== Sys2Proof/Machine/SchedCfg.lean ====
section
/-! DEFINITION. The scheduler's configuration registers: queues (R350), sync objects (R360, R361), partitions (R362, R363),
contexts (R364, R365), readmission (R380, R382). -/
namespace Sys2Proof.Machine

/-! ## Queues -/

/-- May queue `q` of context `n` be enabled (R350)? -/
def State.queueOk (s : State) (q n : Nat) : Bool :=
  let k := s.ctxPart n
  s.flag (Reg.SCH_CTX_CFG n) 63 && s.partEn k && s.qIn k q && s.ctxIn k n

/-- A write to SCH_QCFGq. -/
def State.qcfgWrite (s : State) (q : Nat) (v : DWord) : State :=
  let x := v.toNat
  let r := Reg.SCH_QCFG q
  if s.flag r 15 then (s.setFld r 63 48 (bitsOf x 63 48)).setFlag r 15 (bitOf x 15)
  else
    let s1 := s.hostSet r v
    if bitOf x 15 && !(s1.queueOk q (bitsOf x 39 32)) then s1.setFlag r 15 false else s1

def execQueueConfigWrite (fn : Fn) (q : QueueId) (val : DWord) (s : State) : Res :=
  .next (s.guardWrite fn (Reg.SCH_QCFG q) 64 val (fun t => t.qcfgWrite q val))

/-! ## Sync objects -/

def execSyncCountWrite (fn : Fn) (i : SyncId) (val : DWord) (s : State) : Res :=
  .next (s.guardWrite fn (Reg.SYN_CNT i) 64 val (fun t => t.syncSet i val))

/-- A write to SYN_CTLi: GRANT is read-only to a virtual function (R478). -/
def State.synCtlWrite (s : State) (fn : Fn) (i : Nat) (v : DWord) : State :=
  let r := Reg.SYN_CTL i
  let s1 := match fn with
    | .vf _ => s
    | _ => s.setFld r 7 0 (bitsOf v.toNat 7 0)
  if bitOf v.toNat 15 then s1.syncErrClear i else s1

/-- The word that clears ERR. -/
def errClrWord (grant : Byte) : DWord := BitVec.ofNat 64 (grant.toNat + 2 ^ 15)

def execSyncErrClear (fn : Fn) (i : SyncId) (grant : Byte) (s : State) : Res :=
  .next (s.guardWrite fn (Reg.SYN_CTL i) 64 (errClrWord grant) (fun t => t.synCtlWrite fn i (errClrWord grant)))

/-! ## Partitions -/

/-- Do `[a, a + n)` and `[b, b + m)` share an element? -/
def overlap (a n b m : Nat) : Bool := decide (0 < n) && decide (0 < m) && decide (a < b + m) && decide (b < a + n)

/-- The fields of a partition descriptor (Table 12.10). -/
structure PartDesc where
  islands : Nat
  gran : Nat × Nat
  q : Nat × Nat
  ctx : Nat × Nat
  deriving DecidableEq, Repr

def State.partDesc (s : State) (k : Nat) : PartDesc where
  islands := s.fld (Reg.SCH_PART_W0 k) 7 0
  gran := (s.fld (Reg.SCH_PART_W0 k) 25 16, s.fld (Reg.SCH_PART_W0 k) 35 26)
  q := (s.fld (Reg.SCH_PART_W1 k) 14 0, s.fld (Reg.SCH_PART_W1 k) 30 16)
  ctx := (s.fld (Reg.SCH_PART_W1 k) 39 32, s.fld (Reg.SCH_PART_W1 k) 48 40)

/-- Why partition `k` may not be enabled, the lowest code first; 0 where it may (R363). -/
def State.partErr (s : State) (k : Nat) : Nat :=
  let d := s.partDesc k
  let os := ((List.range 8).filter (fun j => j != k && s.partEn j)).map s.partDesc
  let range := fun (x : Nat × Nat) (top : Nat) (o : PartDesc → Nat × Nat) =>
    decide (top < x.1 + x.2) || os.any (fun e => overlap x.1 x.2 (o e).1 (o e).2)
  if os.any (fun e => decide (e.islands &&& d.islands ≠ 0)) then 1
  else if range d.gran (s.fld Reg.MEM_CFG 25 16) (·.gran) then 2
  else if range d.q 16384 (·.q) then 3
  else if range d.ctx 256 (·.ctx) then 4
  else if d.gran.2 = 0 ∨ d.q.2 = 0 ∨ d.ctx.2 = 0 then 5
  else 0

/-- Granules that pass to partition `k` from another while either was encrypted hold undefined bytes (R329). -/
def State.takeGranules (s : State) (k : Nat) : State :=
  let d := s.partDesc k
  (List.range d.gran.2).foldl (fun t i =>
    let g := d.gran.1 + i
    let old := tabGet 0 t.granOwner g
    let lost := old ≠ 0 ∧ old ≠ k + 1 ∧ (t.flag Reg.MEM_XTS (old - 1) ∨ t.flag Reg.MEM_XTS k)
    let (n, u) := t.draw
    let u1 : State := if lost then { u with mem := u.mem.undef (2 ^ 29 * g) (2 ^ 29) n } else t
    { u1 with granOwner := tabPut u1.granOwner g (k + 1) }) s

/-- The main log ring is given up where an enabled partition overlaps it (R504). -/
def State.logOverlap (s : State) : State :=
  let b := 2 ^ 20 * s.fld Reg.FWM_LOG_BASE 43 20
  let hit := (List.range 8).any (fun k => s.partEn k &&
    overlap b (2 ^ 20) (2 ^ 29 * s.fld (Reg.SCH_PART_W0 k) 25 16) (2 ^ 29 * s.fld (Reg.SCH_PART_W0 k) 35 26))
  if s.flag Reg.FWM_LOG_BASE 0 && hit then s.setFlag Reg.FWM_LOG_BASE 0 false else s

/-- The offset of word 0 or 1 of partition `k`. -/
def partOff (k w : Nat) : Nat := if w = 0 then Reg.SCH_PART_W0 k else Reg.SCH_PART_W1 k

/-- A write to W0 or W1 of partition `k` (R363). -/
def State.partWrite (s : State) (k w : Nat) (v : DWord) : State :=
  if s.partEn k then
    if w = 0 ∧ !(bitOf v.toNat 63) ∧ !(s.enabledQueues.any (s.qIn k)) then s.setFlag (Reg.SCH_PART_W0 k) 63 false else s
  else
    let s1 := s.hostSet (partOff k w) v
    if w = 0 ∧ bitOf v.toNat 63 then
      let e := (s1.setFlag (Reg.SCH_PART_W0 k) 63 false).partErr k
      let s2 := s1.setFld (Reg.SCH_PART_W2 k) 23 16 e
      if e = 0 then (s2.takeGranules k).logOverlap else s2.setFlag (Reg.SCH_PART_W0 k) 63 false
    else s1

def execPartitionWrite (fn : Fn) (k : PartId) (w : Fin 2) (val : DWord) (s : State) : Res :=
  .next (s.guardWrite fn (partOff k w) 64 val (fun t => t.partWrite k w val))

/-! ## Contexts -/

/-- Has context `n` a command fetched? -/
def State.ctxBusy (s : State) (n : Nat) : Bool := s.queues.any (fun p => p.2.ctx == n)

/-- May context `n` be enabled (R365)? -/
def State.ctxOk (s : State) (n : Nat) : Bool :=
  let k := s.ctxPart n
  let size := 2 ^ 20 * 8 * popCount 8 (s.fld (Reg.SCH_PART_W0 k) 7 0)
  s.partEn k && s.ctxIn k n && s.asPart n == k && s.inCarve k (2 ^ 20 * s.fld (Reg.SCH_CTX_CFG n) 43 20) size

/-- Context `n` is created: NDCOUNT, PERF.REF, accounting, ASTAT and the measurement register are 0 (R364, Table 4.2,
R551). -/
def State.ctxClear (s : State) (n : Nat) : State :=
  let s1 := (s.setReg (Reg.SCH_CTX_NDCOUNT n) 0).setFld (Reg.SCH_CTX_PERF n) 63 32 0
  let s2 := (List.range 7).foldl (fun t i => t.setReg (Reg.SCH_CTX_ACCT n i) 0) s1
  let s3 := (s2.setReg (Reg.SCH_CTX_LEGACY n 0) 0).setReg (Reg.SCH_CTX_LEGACY n 1) 0
  { s3 with astat := tabDel s3.astat n, mr := tabDel s3.mr n, mrCnt := tabDel s3.mrCnt n }

/-- Every residence of context `n` ends without a save, its saved ones are discarded (R365). -/
def State.ctxDrop (s : State) (n : Nat) : State :=
  let cs := (s.cores.filter (fun p => p.2.resident == some n)).map (·.1)
  let s1 := cs.foldl (fun t c => t.release c) s
  { s1 with saved := s1.saved.filter (fun v => v.ctx != n) }

/-- A write to SCH_CTXn_CFG (R365). -/
def State.ctxWrite (s : State) (n : Nat) (v : DWord) : State :=
  let x := v.toNat
  let r := Reg.SCH_CTX_CFG n
  if s.flag r 63 then
    let s1 := s.setFld r 59 48 (bitsOf x 59 48)
    if bitOf x 63 then s1
    else if s1.ctxBusy n ∨ s1.enabledQueues.any (fun q => s1.qCtx q == n) then s1
    else (s1.setFlag r 63 false).ctxDrop n
  else
    let s1 := (s.hostSet r v).setFlag r 63 false
    if bitOf x 63 && s1.ctxOk n then (s1.setFlag r 63 true).ctxClear n else s1

def execContextConfigWrite (fn : Fn) (n : CtxId) (val : DWord) (s : State) : Res :=
  .next (s.guardWrite fn (Reg.SCH_CTX_CFG n) 64 val (fun t => t.ctxWrite n val))

/-- The offset of SEED0, SEED1 or STEP. -/
def stepOff (n w : Nat) : Nat := if w = 2 then Reg.SCH_CTX_STEP n else Reg.SCH_CTX_SEED n w

/-- A write to SEED0, SEED1 or STEP: ignored while a command of the context is fetched (R364). -/
def State.stepWrite (s : State) (n w : Nat) (v : DWord) : State :=
  if s.ctxBusy n then s else s.setReg (stepOff n w) v

def execContextStepWrite (fn : Fn) (n : CtxId) (w : Fin 3) (val : DWord) (s : State) : Res :=
  .next (s.guardWrite fn (stepOff n w) 64 val (fun t => t.stepWrite n w val))

/-! ## Readmission (R382) -/

/-- Is a unit marked: KIND 0 a core, 1 an island? -/
def State.unitMarked (s : State) (kind unit : Nat) : Bool :=
  if kind = 0 then s.flag Reg.GLB_TC_MARKED unit
  else kind == 1 && decide (unit < 8) && s.flag Reg.GLB_STATE (8 + unit)

/-- A write to SCH_READMIT. -/
def State.readmitWrite (s : State) (v : DWord) : State :=
  let kind := bitsOf v.toNat 7 6
  let unit := bitsOf v.toNat 5 0
  if s.flag Reg.SCH_READMIT_STAT 15 || !(s.unitMarked kind unit) then s
  else (s.setFld Reg.SCH_READMIT_STAT 7 0 (bitsOf v.toNat 7 0)).setFlag Reg.SCH_READMIT_STAT 15 true

def execReadmitCore (fn : Fn) (c : CoreId) (s : State) : Res :=
  .next (s.guardWrite fn Reg.SCH_READMIT 32 (BitVec.ofNat 64 c) (fun t => t.readmitWrite (BitVec.ofNat 64 c)))

def execReadmitIsland (fn : Fn) (n : IslandId) (s : State) : Res :=
  .next (s.guardWrite fn Reg.SCH_READMIT 32 (BitVec.ofNat 64 (64 + n))
    (fun t => t.readmitWrite (BitVec.ofNat 64 (64 + n))))

/-- A unit comes back: initialised, its translation caches empty, its generation risen, its mark cleared (R380). -/
def State.readmit (s : State) (kind unit : Nat) : State :=
  (if kind = 0 then (s.initCore unit).setFlag Reg.GLB_TC_MARKED unit false
   else ((((List.range 8).foldl (fun t j => t.initCore (8 * unit + j)) s).tlbDrop (fun u => u.isle == some unit)).setFlag
      Reg.GLB_STATE (8 + unit) false).islGenRise unit).countCores

/-- The generation a READMIT event names: the core's or the island's. -/
def State.unitGen (s : State) (kind unit : Nat) : Nat := if kind = 0 then (s.core unit).gen else s.islGenOf unit

/-- READMIT_COMPLETE: the injection of the unit's own checkers has ended, `failed` naming the classes that failed
(Table 18.4). -/
def execReadmitComplete (failed : Byte) (s : State) : Res :=
  if !(s.flag Reg.SCH_READMIT_STAT 15) then .next s
  else
    let kind := s.fld Reg.SCH_READMIT_STAT 7 6
    let unit := s.fld Reg.SCH_READMIT_STAT 5 0
    let bad := failed.toNat % (if kind = 0 then 128 else 32)
    let s1 := (s.setFlag Reg.SCH_READMIT_STAT 15 false).setFlag Reg.SCH_READMIT_STAT 13 true
    let s2 := if bad = 0 then s1.readmit kind unit else s1.setFlag Reg.SCH_READMIT_STAT 14 true
    let s4 := s2.event 0x0C (kind + 1) unit
      (leBytes 1 (boolNat (bad == 0)) ++ leBytes 1 bad ++ leBytes 2 0 ++ leBytes 2 (s2.unitGen kind unit))
    .next (if bad = 0 then s4.pgenRise (if kind = 0 then islandOf unit else unit) (64 * kind + unit) else s4)

end Sys2Proof.Machine
end

