-- ==== Sys2Proof/Machine/Lighthouse.lean ====
section
/-! DEFINITION. The Lighthouse (chapter 18): lockstep (R512), pins (R514 to R517), error injection (R518, R519), beacon
passes (R520 to R524), the deadline watch (R525 to R527, R534). -/
namespace Sys2Proof.Machine

/-! ## Lockstep and pins -/

/-- LOCKSTEP_DIFF: both cores halt until PORST; `pc0` and `pc1` are their program counters (Table 18.1). -/
def execLockstepDiff (pc0 pc1 : Word) (s : State) : Res :=
  if s.compHalted 4 then .next s
  else .next ({ s.setFlag (Reg.FWM_COMP 4) 0 false with lockstep := true, halted := setIns s.halted 4 } |>.event 0x0B 0 0 (leBytes 4 0 ++ leBytes 4 pc0.toNat ++ leBytes 4 pc1.toNat))

/-- A write to LHS_PINS: CLR takes FAULT to HEALTHY unless LOCK is 1 or a pin event comes in the same shore cycle (R516). -/
def State.pinsWrite (s : State) (v : DWord) : State :=
  if bitOf v.toNat 31 && s.fld Reg.LHS_PINS 1 0 == 2 && !(s.flag Reg.LHS_PINS 2) && s.enow.all (fun e => e.eff == 0) then s.setPins 1
  else s

def execPinsClear (fn : Fn) (s : State) : Res :=
  .next (s.guardWrite fn Reg.LHS_PINS 32 0x80000000 (fun t => t.pinsWrite 0x80000000))

/-! ## Error injection -/

/-- The checker classes of a unit kind (Table 18.4); a shared checker's number is its class. -/
def checkerClasses (kind unit : Nat) : Nat :=
  if kind = 1 ∧ unit < 64 then 7 else if kind = 2 ∧ unit < 8 then 5 else if kind = 3 ∧ unit < 23 then 23 else 0

/-- An injection pass begins (R518): the failures of the latest start are those of this one; the duration stays that of the
latest pass. -/
def State.injStart (s : State) : State :=
  let s1 := ((s.setFld Reg.LHS_INJ 39 32 0).setFld Reg.LHS_INJ 22 0 0).setReg Reg.LHS_INJ_CORE 0
  { s1.setFlag Reg.LHS_INJ 63 true with injAt := s.cyc }

/-- PWR_STAT.STATE while no wake is in progress: 5 with a device-level entry asked for, 2 with an island gated, else 0. -/
def State.pwrRest (s : State) : State :=
  let dev := s.fld Reg.PWR_MODE 2 0
  s.setFld Reg.PWR_STAT 2 0 (if dev = 3 ∨ dev = 4 then 5 else if s.fld Reg.PWR_STAT 15 8 ≠ 255 then 2 else 0)

/-- A checker fails at a start (R519): CHECKER_FAIL, its unit's bit, its mark. `how`: 1 an injected fault undetected, 2 a
detection without one. -/
def State.checkerFail (s : State) (f : CheckerFail) : State :=
  let kind := f.kind
  let unit := f.unit
  let cls := if kind = 3 then unit else f.cls
  if checkerClasses kind unit ≤ cls then s
  else
    let s1 := s.event 0x01 kind unit (leBytes 1 cls ++ leBytes 1 (if f.spurious then 2 else 1))
    if kind = 1 then (s1.setFlag Reg.LHS_INJ_CORE unit true).markCore unit
    else if kind = 2 then (s1.setFlag Reg.LHS_INJ (32 + unit) true).markIsland unit
    else s1.setFlag Reg.LHS_INJ unit true

/-- INJECTION_COMPLETE: a pass in progress ends with the checkers that failed; INJ_DONE is set, the boot or wake that
waited for it ends, and the pins leave RESET (R518, R519, R540, R568). TIME_US is the time of the pass. -/
def execInjectionComplete (fails : List CheckerFail) (s : State) : Res :=
  if !(s.flag Reg.LHS_INJ 63) then .next s
  else
    let s1 := fails.foldl (fun t f => t.checkerFail f) s
    let s3 := (s1.setFld Reg.LHS_INJ 55 40 (satNat 0xFFFF ((s.cyc - s.injAt) / 500))).setFlag Reg.LHS_INJ 63 false
    let s3a := if s3.fld Reg.GLB_STATE 3 0 = 4 then s3.setFld Reg.GLB_STATE 3 0 5 else s3
    let s3b := if s3a.fld Reg.PWR_STAT 2 0 = 6 ∧ s3a.wake = [] then s3a.pwrRest else s3a
    let s4 := (s3b.setFlag Reg.LHS_PINS 2 (decide (s3b.fld Reg.LHS_INJ 22 0 ≠ 0))).setFlag Reg.GLB_STATE 4 true
    if s4.fld Reg.LHS_PINS 1 0 = 0 then
      .next { (s4.setPins s4.pinPend).setFld Reg.LHS_PINS 15 8 s4.pinCause with pinPend := 1, pinCause := 0 }
    else .next s4

/-! ## Beacons -/

/-- SAFE_PRIO, and GAP_LIMIT, MM_WIN and FRAME_MS as they act (Table 18.8). -/
def State.safePrio (s : State) : Nat := s.fld Reg.LHS_CFG 46 44
def State.gapLimit (s : State) : Nat := max 1 (s.fld Reg.LHS_CFG 43 36)
def State.mmWin (s : State) : Nat := max 1 (min 64 (s.fld Reg.LHS_CFG 35 28))
def State.frameLen (s : State) : Nat := max 1 (min 1000 (s.fld Reg.LHS_CFG 57 48))

/-- The start of reserved window `k`, in nanoseconds. -/
def State.winStart (s : State) (k : Nat) : Nat :=
  1000000000 * (s.reg (Reg.LHS_WIN_S k)).toNat + s.fld (Reg.LHS_WIN_NS k) 29 0

/-- Does reserved window `k` contain any part of `[a, b]` (R521)? Its starts are PERIOD_NS apart, one for 0. -/
def State.winHits (s : State) (k a b : Nat) : Bool :=
  let st := s.winStart k
  let p := s.fld (Reg.LHS_WIN_NS k) 63 32
  let len := s.fld (Reg.LHS_WIN_CTL k) 31 0
  if b < st then false
  else
    let last := if p = 0 then st else st + (b - st) / p * p
    decide (0 < len) && decide (a < last + len)

/-- Does a reserved window of island `n` contain any part of `[a, b]`? -/
def State.reserved (s : State) (n a b : Nat) : Bool :=
  (List.range 16).any (fun k => s.flag (Reg.LHS_WIN_CTL k) 63 && s.flag (Reg.LHS_WIN_CTL k) (48 + n) && s.winHits k a b)

/-- TB of island `n` in nanoseconds: 30,000 beats at its latest REPLICA_RATE, and 1 µs (R521). -/
def State.beaconTime (s : State) (n : Nat) : Nat :=
  let r := s.fld (Reg.PWR_BEAT_ISL n) 47 32
  if r = 0 then 10 ^ 18 else ceilDiv' 30000000 r + 1000

/-- Is a slice of priority SAFE_PRIO or less ready for core `c` (R522)? -/
def State.urgentFor (s : State) (c : Nat) : Bool :=
  let p := s.safePrio
  (s.core c).queue.any (fun sl => decide (sl.prio ≤ p)) ||
    (match s.partOfIsland (islandOf c) with
      | none => false
      | some k => (s.readyLevels k c).any (fun q => decide (q ≤ p)) ||
          s.queues.any (fun m => m.2.part == k && decide (m.2.prio ≤ p) && !(s.gangSlices m.1 m.2).isEmpty))

/-- May core `c`'s beacon start now (R521)? -/
def State.beaconMay (s : State) (c : Nat) : Bool :=
  let k := s.core c
  let now := s.nowNs
  s.flag Reg.LHS_CFG 63 && !(s.compHalted 4) && s.flag Reg.GLB_STATE 4 && s.usable c && !(s.bcnDone.getLsbD c)
    && decide (s.beaconDue c ≤ now) && decide (now < s.frameStart + 1000000 * s.frameMs)
    && (decide (k.mode = .idle) || decide (k.mode = .running)) && !(s.urgentFor c)
    && (match k.slice with | some sl => !sl.gang && decide (s.safePrio < sl.prio) | none => true)
    && !(s.reserved (islandOf c) now (now + s.beaconTime (islandOf c)))

/-- BEACON_START: a running slice is saved at its preemption point; one that has none now keeps running, the request
withdrawn. The residence of the core ends (R520). -/
def execBeaconStart (c : CoreId) (s : State) : Res :=
  if !(s.beaconMay c) then .next s
  else
    let go := fun (t : State) =>
      let u := t.endResidence c 256
      u.setCore c { u.core c with mode := .beacon }
    match (s.core c).slice with
    | none => .next (go s)
    | some _ =>
      let s1 := s.setCore c { s.core c with preempt := true }
      if s1.canSave c && (s1.core c).parity.isEmpty then .next (go (s1.saveSlice c)) else .next s

/-- A beacon leaves core `c`: its lagoon and accumulators hold what the beacon left, undefined to the next context. -/
def State.beaconLeave (s : State) (c : Nat) : State :=
  let (g, s1) := s.draw
  let k := s1.core c
  s1.setCore c { k with mode := .idle, lgn := (Store.empty 8).undef 0 524288 g, tags := 0, blive := 0, parity := [] }

/-- Mismatches of core `c` within the last MM_WIN frames. -/
def State.mmCount (s : State) (c : Nat) : Nat :=
  ((tabGet [] s.mmHist c).filter (fun f => decide (s.frameNo < f + s.mmWin))).length

/-- The first 8 or last 8 of 16 digest bytes as a register. -/
def digestWord (d : List Byte) (i : Nat) : DWord := BitVec.ofNat 64 (recNat d (8 * i) 8)

/-- A mismatch is recorded (R524): event, captured digests, counts, the commands that ran on the core marked BCN. -/
def State.mismatch (s : State) (c var : Nat) (exp obs : List Byte) : State :=
  let s1 := { s with mmHist := tabPut s.mmHist c (s.frameNo :: (tabGet [] s.mmHist c).filter (fun f => decide (s.frameNo < f + 64))),
                     queues := s.queues.map (fun (p : Nat × Cmd) =>
                       (p.1, if p.2.ranOn.contains c then { p.2 with bcn := true } else p.2)) }
  let s2 := (((s1.setReg (Reg.LHS_MM_DIGEST 0) (digestWord exp 0)).setReg (Reg.LHS_MM_DIGEST 1) (digestWord exp 1)).setReg
    (Reg.LHS_MM_DIGEST 2) (digestWord obs 0)).setReg (Reg.LHS_MM_DIGEST 3) (digestWord obs 1)
  let s3 := ((s2.bumpSat Reg.LHS_MM_INFO 47 32).setFld Reg.LHS_MM_INFO 63 58 c).setFld Reg.LHS_MM_INFO 57 54 var
  let n := satNat 255 (s3.mmCount c)
  (s3.setFld (Reg.LHS_BCN c) 55 48 n).event 0x03 1 c (leBytes 1 var ++ leBytes 1 n ++ leBytes 2 0 ++ (obs ++ leBytes 8 0).take 8)

/-- BEACON_COMPLETE: the digest observed is compared with the expected one. -/
def execBeaconComplete (c : CoreId) (obs : List Byte) (s : State) : Res :=
  if (s.core c).mode ≠ .beacon then .next s
  else
    let var := Config.beaconVariant s.frameNo % 16
    let exp := (Config.beaconExpected var ++ leBytes 16 0).take 16
    let o := (obs ++ leBytes 16 0).take 16
    let r := Reg.LHS_BCN c
    let s1 := ((s.beaconLeave c).bumpMod r 31 0).setFld r 63 56 0
    let s2 := ((s1.setFlag r 47 false).setFld r 46 45 (if o = exp then 1 else 2)).setFld r 44 41 var
    let s3 := { s2 with bcnDone := BitVec.ofNat 64 (bitsPut s2.bcnDone.toNat c c 1) }
    let s4 := if o = exp || s3.compHalted 4 then s3 else s3.mismatch c var exp o
    .next { s4 with queues := s4.queues.map (fun (p : Nat × Cmd) => (p.1, { p.2 with ranOn := setDel p.2.ranOn c })) }

/-- BEACON_ABANDON: for an urgent slice or a reserved window (R522); the beacon has no result and may start again. -/
def execBeaconAbandon (c : CoreId) (s : State) : Res :=
  if (s.core c).mode ≠ .beacon then .next s
  else if s.urgentFor c || s.reserved (islandOf c) s.nowNs s.nowNs then
    .next ((s.beaconLeave c).setFld (Reg.LHS_BCN c) 46 45 3)
  else .next s

/-- Core `c` at the end of a safety frame (R523): a deferral, and COVERAGE_GAP when DEFER first exceeds GAP_LIMIT. -/
def State.frameCore (s : State) (c : Nat) : State :=
  let r := Reg.LHS_BCN c
  if !(s.usable c || s.bcnSeen.getLsbD c) || s.bcnDone.getLsbD c then s
  else
    let s1 := s.bumpSat r 63 56
    let d := s1.fld r 63 56
    if s1.gapLimit < d ∧ !(s1.flag r 47) ∧ !(s1.compHalted 4) then (s1.setFlag r 47 true).event 0x04 1 c (leBytes 1 d)
    else s1

/-- SAFETY_FRAME_END: the timebase has left the frame; deferrals are counted while beacon passes are on, and the next
frame takes FRAME_MS (R523, R534). -/
def execSafetyFrameEnd (s : State) : Res :=
  let len := 1000000 * s.frameMs
  if s.nowNs / len * len = s.frameStart then .next s
  else
    let s1 := if s.flag Reg.LHS_CFG 63 then (List.range 64).foldl (fun t c => t.frameCore c) s else s
    let s2 := { s1 with frameMs := s1.frameLen, frameStart := s1.nowNs / (1000000 * s1.frameLen) * (1000000 * s1.frameLen),
                        frameNo := s1.frameNo + 1, bcnDone := 0, bcnSeen := 0 }
    .next (s2.mmHist.foldl (fun t p => t.setFld (Reg.LHS_BCN p.1) 55 48 (satNat 255 (t.mmCount p.1))) s2)

/-! ## The deadline watch -/

/-- The deadline of a periodic entry. -/
def State.dlTime (s : State) (n : Nat) : Nat :=
  1000000000 * (s.reg (Reg.LHS_DL_TS n)).toNat + s.fld (Reg.LHS_DL_TNS n) 29 0

/-- DEADLINE_PERIODIC_OPEN: at the deadline set by TS and TNS an instance opens and the deadline advances; PERIOD_NS 0
opens one (R525). The instance is judged at that tick (R526). -/
def execDeadlinePeriodicOpen (n : Fin 256) (s : State) : Res :=
  let t := s.dlTime n
  if !(s.flag (Reg.LHS_DL_CFG n) 63) ∨ !(s.flag (Reg.LHS_DL_CFG n) 62) ∨ s.nowNs < t ∨ s.dlOnce.contains n then .next s
  else
    let p := s.fld (Reg.LHS_DL_TNS n) 63 32
    let s1 := s.dlOpen n (t / 1000000000) (t % 1000000000)
    let s2 := if p = 0 then { s1 with dlOnce := setIns s1.dlOnce n } else
      (s1.setReg (Reg.LHS_DL_TS n) (BitVec.ofNat 64 ((t + p) / 1000000000))).setFld (Reg.LHS_DL_TNS n) 29 0 ((t + p) % 1000000000)
    .next (s2.dlJudge n)

/-- DEADLINE_EXPIRY: the open instances of entry `n` are judged in order of opening; a signal of the deadline tick's own
shore cycle is in time, so an instance is missed once that cycle is over. -/
def execDeadlineExpiry (n : Fin 256) (s : State) : Res := .next ((s.dlJudge n).dlLate n)

/-- A write to LHS_DLn_CFG (R534): with EN 1, only the clearing of EN takes effect and closes every open instance. -/
def State.dlCfgWrite (s : State) (n : Nat) (v : DWord) : State :=
  let r := Reg.LHS_DL_CFG n
  if s.flag r 63 then
    if bitOf v.toNat 63 then s else ((s.setFlag r 63 false).setDl n []).setFld (Reg.LHS_DL_STAT n) 6 3 0
  else s.hostSet r v

/-- A write to THR, TS or TNS of entry `n`: ignored while EN is 1; a written deadline may open again (R525). -/
def State.dlSetWrite (s : State) (n off : Nat) (v : DWord) : State :=
  if s.flag (Reg.LHS_DL_CFG n) 63 then s
  else
    let s1 := s.hostSet off v
    if off = Reg.LHS_DL_THR n then s1 else { s1 with dlOnce := setDel s1.dlOnce n }

def execDeadlineEntryDisable (fn : Fn) (n : Fin 256) (s : State) : Res :=
  .next (s.guardWrite fn (Reg.LHS_DL_CFG n) 64 0 (fun t => t.dlCfgWrite n 0))

/-- A write to LHS_CFG: in the safety configuration EN cannot be cleared (R534). -/
def State.lhsCfgWrite (s : State) (v : DWord) : State :=
  if s.flag Reg.MEM_CFG 1 && !(bitOf v.toNat 63) then s else s.hostSet Reg.LHS_CFG v

end Sys2Proof.Machine
end

