-- ==== Sys2Proof/Machine/Mail.lean ====
section
/-! DEFINITION. The memory regions of the firmware components (R498) and the mailbox pairs between them (R500). -/
namespace Sys2Proof.Machine

/-! ## Regions -/

/-- The processors: component and instance, in the numbering of `Mail`. -/
def processors : List (Nat × Nat) := [(0, 0), (1, 0), (2, 0)] ++ (List.range 8).map (fun n => (3, n)) ++ [(4, 0)]

/-- A region with a base and a size that the SEC chose: the spec gives none, so both are free choices (Log 67). -/
def State.newRegion (s : State) (p : Nat × Nat) (kind : Nat) : FwRegion :=
  ⟨p.1, p.2, kind, Config.choice (s.free + 6 * (3 * p.1 + p.2) + 2 * kind), Config.choice (s.free + 6 * (3 * p.1 + p.2) + 2 * kind + 1)⟩

/-- At boot the SEC assigns each processor its code, data and mailbox regions and locks them; locked ones stay until PORST. -/
def State.assignRegions (s : State) : State :=
  if s.mpLock then s
  else { s with mpLock := true, free := s.free + 128,
                regions := processors.flatMap (fun p => (List.range 3).map (fun k => s.newRegion p k)) }

/-! ## Mailboxes between components -/

/-- Messages a mailbox holds. -/
def mailDepth : Nat := 16

/-- The processor of a mailbox's end. -/
def mailEnd (k : Nat) : Nat × Nat := processors.getD k (0, 0)

/-- Does component `c` run: not halted, not restarting (the SEC never restarts at run time), RUN set? The ICC of island `n` runs from the release of the processors
on (BOOT_STAGE 0x4 and 0x5), while its island is powered. -/
def State.compUp (s : State) (c n : Nat) : Bool :=
  let st := s.fld Reg.GLB_STATE 3 0
  !(s.compHalted c) && (c == 0 || !(s.restarting c n)) &&
    (if c = 3 then decide (st = 4 ∨ st = 5) && s.islandOn n else s.flag (Reg.FWM_COMP c) 0)

/-- Does the processor at a mailbox's end run? -/
def State.fwRuns (s : State) (k : Nat) : Bool := let p := mailEnd k; s.compUp p.1 p.2

/-- The messages of one mailbox, in the order sent. -/
def State.mailbox (s : State) (src dst : Nat) : List Mail := s.mail.filter (fun m => m.src == src && m.dst == dst)

/-- Does a component wait on a full mailbox? -/
def State.mailWaits (s : State) (k : Nat) : Bool := s.mailWait.any (fun m => m.src == k)

/-- A message sent: into its mailbox, or, when that is full, its sender waits. -/
def State.mailSend (s : State) (m : Mail) : State :=
  if (s.mailbox m.src m.dst).length < mailDepth then { s with mail := s.mail ++ [m] }
  else { s with mailWait := s.mailWait ++ [m] }

/-- The first element of a list that a test picks, and the list without it. -/
def takeFirst {α : Type} (p : α → Bool) (l : List α) : Option (α × List α) :=
  match l.findIdx? p with
  | none => none
  | some i => match l[i]? with
    | some x => some (x, l.eraseIdx i)
    | none => none

/-- A component takes the oldest message of a mailbox; a sender that waited on it goes on. -/
def State.mailTake (s : State) (src dst : Nat) : State :=
  match takeFirst (fun m : Mail => m.src == src && m.dst == dst) s.mail with
  | none => s
  | some (_, l) =>
    match takeFirst (fun m : Mail => m.src == src && m.dst == dst) s.mailWait with
    | none => { s with mail := l }
    | some (w, r) => { s with mail := l ++ [w], mailWait := r }

/-- What the components send and take in a shore cycle: which, when and with what contents is the firmware's, so it is a free
choice (Log 67). A component that does not run neither sends nor takes, so its messages stay; one that waits sends nothing. -/
def State.mailStep (s : State) : State :=
  if !((List.range 12).any (fun k => s.fwRuns k)) then s
  else
    let (g, s1) := s.draw
    let (a, s2) := s1.choose 12
    let (b, s3) := s2.choose 12
    let (x, s4) := s3.choose 4
    if a = b then s4
    else
      let s5 := if x % 2 = 1 && s4.fwRuns a && !(s4.mailWaits a)
        then s4.mailSend ⟨a, b, (List.range 32).map (fun i => Config.undefBits 8 g i)⟩ else s4
      if x / 2 = 1 && s5.fwRuns b then s5.mailTake a b else s5

end Sys2Proof.Machine
end

