-- ==== Sys2Proof/Machine/HostLink.lean ====
section
/-! DEFINITION. The host link (chapter 16): doorbells (R349, R489), heartbeat and host loss (R484 to R491),
function resets and link changes (R491, R494, R573). -/
namespace Sys2Proof.Machine

/-! ## Doorbells -/

/-- A doorbell that would overfill its ring is ignored and logged (R349). -/
def State.bellIgnored (s : State) (q : Nat) (v : Word) : State :=
  s.fwLog 2 0 2 0x0204 (leBytes 2 q ++ leBytes 2 0 ++ leBytes 4 v.toNat)

/-- The effect of a 32-bit write to queue `q`'s doorbell; before the device is ready it is discarded (R27). -/
def State.bell (s : State) (q : Nat) (v : Word) : State :=
  if s.fld Reg.GLB_STATE 3 0 ≠ 5 then s
  else if s.qDepth q < (v.toNat + 2 ^ 32 - s.qDone q) % 2 ^ 32 then s.bellIgnored q v
  else s.setFld (Reg.SCH_QPTR q) 31 0 v.toNat

/-- DOORBELL: a write at an offset of BAR2. Other widths (R13) and bytes other than 0 to 3 (R349, unused as R25 has it) are
ignored and recorded; a virtual function reaches its own queues (R478); nothing takes effect while the host is lost
(R489). -/
def execDoorbell (fn : Fn) (off width : Nat) (val : Word) (s : State) : Res :=
  let q := off / 64
  if width ≠ 32 ∨ off % 4 ≠ 0 then .next (s.accErr fn 0 true off)
  else if 2 ^ 20 ≤ off ∨ off % 64 ≠ 0 then .next (s.accErr fn 1 true off)
  else if (match fn with | .vf k => !(s.qIn k q) | _ => false) then .next (s.accErr fn 2 true off)
  else if s.flag Reg.GLB_HOST 0 then .next (s.accErr fn 3 true off)
  else .next (s.bell q val)

/-! ## Host loss -/

/-- LOSS_MS as it acts (Table 16.5). -/
def State.lossMs (s : State) : Nat := max 20 (min 1000 (s.fld Reg.GLB_HOST 31 16))

/-- Steps 4 and 5 of R486: the non-autonomous queues stop, a record and an event. -/
def State.lossRest (s : State) : State :=
  let s1 := s.enabledQueues.foldl (fun t q => t.hostStop q) s
  let args := leBytes 1 (s.fld Reg.GLB_HOST 2 1) ++ leBytes 3 0 ++ leBytes 4 (s.fld Reg.GLB_HOST 63 32)
  (s1.fwLog 2 0 3 0x0207 args).event 0x09 0 0 args

/-- The non-autonomous queues of partition `k` stop (R491). -/
def State.vfQueues (s : State) (k : Nat) : State := (s.enabledQueues.filter (s.qIn k)).foldl (fun t q => t.hostStop q) s

/-- What of a host loss, or of the reset of a virtual function, waited for the scheduler's restart (Table 17.6). -/
def State.lossResume (s : State) : State :=
  let s1 := if s.lossDue then { s with lossDue := false }.lossRest else s
  s1.vfDue.foldl (fun t k => t.vfQueues k) { s1 with vfDue := [] }

/-- Host loss is declared (R485 to R488): nothing while LOST is 1. -/
def State.hostLoss (s : State) (cause : Nat) : State :=
  if s.flag Reg.GLB_HOST 0 then s
  else
    let epoch := (s.fld Reg.GLB_HOST 63 32 + 1) % 2 ^ 32
    let s1 := ((s.setFld Reg.GLB_HOST 63 32 epoch).setFlag Reg.GLB_HOST 0 true).setFld Reg.GLB_HOST 2 1 cause
    if s1.schPaused then { s1 with lossDue := true } else s1.lossRest

/-- A heartbeat; the one before this shore cycle is remembered, since one that comes in the cycle of the declaration is
ignored (R485). -/
def State.heartbeat (s : State) : State :=
  if s.flag Reg.GLB_HOST 0 then s else { s with hbAt := s.cyc, hbOld := if s.hbAt = s.cyc then s.hbOld else s.hbAt }

/-- A write to GLB_HOSTCTL: REARM, then HB, then UNLOAD (R490, R493). -/
def State.hostCtl (s : State) (fn : Fn) (v : DWord) : State :=
  let x := v.toNat
  let s1 :=
    if !(bitOf x 2) then s
    else if bitsOf x 63 32 = s.fld Reg.GLB_HOST 63 32 then { s.setFlag Reg.GLB_HOST 0 false with hbAt := s.cyc, hbOld := s.cyc }
    else s.accErr fn 3 true Reg.GLB_HOSTCTL
  let s2 := if bitOf x 0 then s1.heartbeat else s1
  if bitOf x 1 then s2.hostLoss 2 else s2

/-- A host write to GLB_HOSTCTL. -/
def State.hostCtlCmd (s : State) (fn : Fn) (v : DWord) : State :=
  s.guardWrite fn Reg.GLB_HOSTCTL 64 v (fun t => t.hostCtl fn v)

def execHeartbeat (fn : Fn) (s : State) : Res := .next (s.hostCtlCmd fn 1)
def execUnload (fn : Fn) (s : State) : Res := .next (s.hostCtlCmd fn 2)
def execRearm (fn : Fn) (epoch : Word) (s : State) : Res :=
  .next (s.hostCtlCmd fn (BitVec.ofNat 64 (4 + 2 ^ 32 * epoch.toNat)))

/-- The last heartbeat before this shore cycle. -/
def State.lastBeat (s : State) : Nat := if s.hbAt = s.cyc then s.hbOld else s.hbAt

/-- HEARTBEAT_TIMEOUT: no heartbeat for LOSS_MS; CAUSE 3 with the tunnel down (R485). -/
def execHeartbeatTimeout (s : State) : Res :=
  if s.cyc < s.lastBeat + 500000 * s.lossMs then .next s
  else .next (s.hostLoss (if s.flag Reg.GLB_LINK 3 then 1 else 3))

/-! ## Functions and the link -/

/-- Function `n`'s MSI-X table and pending bits at reset. -/
def State.msixReset (s : State) (n : Nat) : State :=
  { s with regs := s.regs.filter (fun p => !(decide (0xF0000 + 0x4000000 * n ≤ p.1) && decide (p.1 < 0x100000 + 0x4000000 * n))) }

/-- Every function as a reset of the link leaves it: no bus mastering, no MSI-X, no virtual functions (Log 15). -/
def State.linkReset (s : State) : State :=
  let s1 := (List.range 9).foldl (fun t n => t.msixReset n) s
  ({ s1 with msixEn := 0, bme := 0 } : State).setFld Reg.GLB_LINK 7 4 0

/-- PF_FLR: host loss, CAUSE 2 (R485); the functions are reset. -/
def execPfFlr (s : State) : Res := .next (s.hostLoss 2).linkReset

/-- PCIE_HOT_RESET: the host link alone (Table 20.6). -/
def execPcieHotReset (s : State) : Res := .next s.linkReset

/-- Partition `k`'s non-autonomous queues stop, once the scheduler runs, and its function masters no more (R491). -/
def State.vfStop (s : State) (k : Nat) : State :=
  let s1 := if s.schPaused then { s with vfDue := setIns s.vfDue k } else s.vfQueues k
  { s1 with bme := BitVec.ofNat 9 (bitsPut s1.bme.toNat (k + 1) (k + 1) 0) }

/-- VF_FLR: a function-level reset of an enabled VFk, or, with `flr` false, the clearing of its Bus Master Enable. -/
def execVfFlr (k : PartId) (flr : Bool) (s : State) : Res :=
  if s.fld Reg.GLB_LINK 7 4 ≤ k.val then .next s
  else
    let s1 := s.vfStop k
    if flr then .next { s1.msixReset (k + 1) with msixEn := BitVec.ofNat 9 (bitsPut s1.msixEn.toNat (k + 1) (k + 1) 0) }
    else .next s1

/-- BUS_MASTER_ENABLE_SET: the host sets a function's Bus Master Enable, and its MSI-X Enable as `msix` says (R482, R491). -/
def execBusMasterEnableSet (fn : Fn) (msix : Bool) (s : State) : Res :=
  let go := fun (n : Nat) => { s with
    bme := BitVec.ofNat 9 (bitsPut s.bme.toNat n n 1), msixEn := BitVec.ofNat 9 (bitsPut s.msixEn.toNat n n (boolNat msix)) }
  match fn with
  | .pf => .next (go 0)
  | .vf k => if k.val < s.fld Reg.GLB_LINK 7 4 then .next (go (k + 1)) else .next s
  | .proxy => .next s

/-- USB4_LINK_CHANGE: the link's generation, the tunnel and the virtual functions enabled (R476, R494). -/
def execUsb4LinkChange (gen : Fin 4) (tun : Bool) (numVf : Fin 9) (s : State) : Res :=
  let g := s.fld Reg.GLB_LINK 1 0
  let t := s.flag Reg.GLB_LINK 3
  let g1 := if gen.val = 1 then g else gen.val
  let s1 := ((s.setFld Reg.GLB_LINK 1 0 g1).setFlag Reg.GLB_LINK 3 tun).setFld Reg.GLB_LINK 7 4 numVf
  let s2 := if (g ≠ 0 ∧ g1 = 0) ∨ (t ∧ !tun) then s1.bumpSat Reg.GLB_LINK 15 8 else s1
  .next (if g ≠ g1 ∨ t ≠ tun then s2.raise 0 0 else s2)

end Sys2Proof.Machine
end

