-- ==== Sys2Proof/Machine/Secure.lean ====
section
/-! DEFINITION. The checks of the security core (chapter 19): signatures, images, the flash directory, certificates,
manifests, rollback floors (R535 to R547). -/
namespace Sys2Proof.Machine

/-! ## Signatures (R535) -/

/-- The bytes of a context string. -/
def strBytes (x : String) : List Byte := x.toList.map (fun c => BitVec.ofNat 8 c.toNat)

/-- The message that pure ML-DSA signs: 0, the length of the context string, the context string, the message. -/
def mldsaMsg (ctx : String) (msg : List Byte) : List Byte := leBytes 1 0 ++ leBytes 1 ctx.length ++ strBytes ctx ++ msg

/-- Does a signature over stated bytes with a context string verify under a key? -/
def sigOk (key : List Byte) (ctx : String) (msg sig : List Byte) : Bool := Config.mldsaVerify key (mldsaMsg ctx msg) sig

/-- `n` bytes of a record from an offset. -/
def part (r : List Byte) (off n : Nat) : List Byte := (r.drop off).take n

/-! ## Images (R538, R539) -/

/-- The flash offset of image slot `sl` of component `c`, and of a manifest slot (Table 19.2). -/
def imgBase (c sl : Nat) : Nat := 0x100000 + 0x400000 * (2 * c + sl)
def manBase (sl : Nat) : Nat := 0x2900000 + 0x10000 * sl

/-- The header fields of Table 19.3. -/
def imgComp (hd : List Byte) : Nat := recNat hd 4 1
def imgVersion (hd : List Byte) : Nat := recNat hd 6 2
def imgSvn (hd : List Byte) : Nat := recNat hd 8 2
def imgFloor (hd : List Byte) : Nat := recNat hd 10 2
def imgLength (hd : List Byte) : Nat := recNat hd 12 4

/-- The reason of Table 19.4 for which an image of component `c` is not valid, 0 for a valid one. -/
def imgCheck (hd pay : List Byte) (c floor : Nat) : Nat :=
  let shape := recNat hd 0 4 == 0x4753494D && imgComp hd == c && recZero hd 5 1 && decide (imgFloor hd ≤ imgSvn hd)
    && decide (8192 + imgLength hd ≤ 0x400000) && recZero hd 2040 8 && recZero hd 5357 2835
    && decide (pay.length = imgLength hd)
  if !shape then 0x0010
  else if digest64 (part hd 88 1952) ≠ Config.rootDigest then 0x0011
  else if !(sigOk (part hd 88 1952) "GSN8640-IMAGE" (hd.take 2048) (part hd 2048 3309)) then 0x0012
  else if digest64 pay ≠ part hd 24 64 then 0x0013
  else if imgSvn hd < floor then 0x0014
  else 0

/-- The image in a slot: header and payload. -/
def State.imgRead (s : State) (c sl : Nat) : List Byte × List Byte :=
  let hd := s.flash.readN (imgBase c sl) 8192
  (hd, s.flash.readN (imgBase c sl + 8192) (min (imgLength hd) (0x400000 - 8192)))

/-! ## The secure element (R546) -/

/-- The pairing key (R548). -/
def pairKey : List Byte := shake256 (strBytes "GSN8640-SE" ++ Config.pufSecret)

/-- A 56-byte request to the secure element: command, counter and value, a fresh nonce, the tag; PAIR carries the key. -/
def State.seSend (s : State) (cmd c value : Nat) : State :=
  let nonce := (List.range 4).flatMap (fun i => leBytes 4 (Config.entropy (s.free + i)).toNat)
  let m := leBytes 1 cmd ++ leBytes 1 c ++ leBytes 2 0 ++ nonce ++ leBytes 4 value
  let tag := if cmd = 0x10 then pairKey else kmac256 pairKey m (strBytes "GSN8640-SE")
  { s with free := s.free + 4, out := s.out ++ [.secure (m ++ tag)] }

/-- A request that stays without a good answer is sent three times. -/
def State.seTry (s : State) (ok : Bool) (cmd c value : Nat) : State :=
  (List.range (if ok then 1 else 3)).foldl (fun t _ => t.seSend cmd c value) s

/-- Counters read, one message at a time. -/
def State.seRead (s : State) (cs : List Nat) : State := cs.foldl (fun t c => t.seSend 1 c 0) s

/-- The rollback floor of counter `c`: 0 while the secure element is unpaired (R546). -/
def State.floorOf (s : State) (c : Nat) : Nat := if s.sePaired then tabGet 0 s.seCnt c else 0

/-- The reason for which a component's slot is not valid, 0 for a valid one. -/
def State.slotCheck (s : State) (c sl : Nat) : Nat := let i := s.imgRead c sl; imgCheck i.1 i.2 c (s.floorOf c)

/-! ## The directory (R537) -/

/-- A directory copy, and whether it is valid. -/
def State.dirCopy (s : State) (i : Nat) : List Byte := s.flash.readN (0x1000 * i) 4096
def dirValid (d : List Byte) : Bool :=
  recNat d 0 4 == 0x47534446 && recZero d 9 4023 && digest64 (d.take 4032) == part d 4032 64

/-- Is copy 1 the active one: valid, and copy 0 not or older? -/
def State.dirSecond (s : State) : Bool :=
  let a := s.dirCopy 0
  let b := s.dirCopy 1
  dirValid b && (!(dirValid a) || decide (0 < signedOf 32 (recNat b 4 4 + 2 ^ 32 - recNat a 4 4)))

/-- The active slots: byte 8 of the active copy; with no valid copy a free choice. -/
def State.dirByte (s : State) : Nat × State :=
  if !(dirValid (s.dirCopy 0)) && !(dirValid (s.dirCopy 1)) then s.choose 64
  else (recNat (s.dirCopy (boolNat s.dirSecond)) 8 1, s)

/-- The one atomic write: the other copy, with GEN + 1. -/
def State.dirWrite (s : State) (v : Nat) : State :=
  let i := boolNat s.dirSecond
  let gen := (recNat (s.dirCopy i) 4 4 + 1) % 2 ^ 32
  let d := leBytes 4 0x47534446 ++ leBytes 4 gen ++ leBytes 1 v ++ leBytes 4023 0
  { s with flash := s.flash.writeN (0x1000 * (1 - i)) (d ++ digest64 d) }

/-! ## Components (Table 17.10) -/

/-- The slot a component runs from. -/
def State.slotOf (s : State) (c : Nat) : Nat := s.fld (Reg.FWM_COMP c) 1 1

/-- VER_STG and STG of a component: the image in its other slot, where it is valid. -/
def State.compOther (s : State) (c : Nat) : State :=
  let o := 1 - s.slotOf c
  let ok := s.slotCheck c o == 0
  (s.setFld (Reg.FWM_COMP c) 47 32 (if ok then imgVersion (s.imgRead c o).1 else 0)).setFlag (Reg.FWM_COMP c) 2 ok

/-- A component runs the image of a slot. -/
def State.compLoad (s : State) (c sl : Nat) : State :=
  let i := s.imgRead c sl
  let s1 := { s with images := tabPut s.images c ⟨digest64 (i.1 ++ i.2), imgSvn i.1, imgFloor i.1⟩ }
  ((s1.setFld (Reg.FWM_COMP c) 63 48 (imgVersion i.1)).setFld (Reg.FWM_COMP c) 1 1 sl).compOther c

/-- A BOOT_FAIL record (R540). -/
def State.bootFail (s : State) (stage c reason : Nat) : State :=
  s.fwLog 0 0 3 0x0001 (leBytes 1 stage ++ leBytes 1 c ++ leBytes 2 reason)

/-- A component starts from a slot, or, when that slot is not valid, from its other one, setting FB (R509); false when
neither is valid. -/
def State.compStart (s : State) (c sl stage : Nat) : Bool × State :=
  let e := s.slotCheck c sl
  if e = 0 then (true, s.compLoad c sl)
  else
    let s1 := s.bootFail stage c e
    let e2 := s1.slotCheck c (1 - sl)
    if e2 = 0 then (true, { (s1.compLoad c (1 - sl)).setFlag (Reg.FWM_COMP c) 4 true with fbEver := true })
    else (false, s1.bootFail stage c e2)

/-! ## Certificates and manifests (R536, R541 to R544) -/

/-- The Henhorn root key, from the SEC image that runs. -/
def State.rootKey (s : State) : List Byte := s.flash.readN (imgBase 0 (s.slotOf 0) + 88) 1952

/-- A list of bytes of a fixed length. -/
def fixLen (n : Nat) (l : List Byte) : List Byte := (l ++ List.replicate n 0).take n

/-- The identity public key, 1,952 bytes. -/
def State.idKey (s : State) : List Byte := fixLen 1952 (Config.mldsaPublic s.seed)

/-- DEVICE_ID: the first 16 bytes of SHAKE256 of the identity public key. -/
def State.deviceId (s : State) : List Byte := (shake256 s.idKey).take 16

/-- Is an owner certificate well formed and signed by the root? -/
def State.certOk (s : State) (cert : List Byte) : Bool :=
  recZero cert 1969 15 && recZero cert 2000 48 && recZero cert 5357 19 && decide (recNat cert 1968 1 ≤ 1)
    && sigOk s.rootKey "GSN8640-OWNER" (cert.take 2048) (part cert 2048 3309)

/-- Does a certificate's SCOPE allow this device? -/
def State.certScope (s : State) (cert : List Byte) : Bool :=
  recNat cert 1968 1 == 0 || part cert 1984 16 == s.deviceId

/-- Does TIME_PORT name a port: a sensor port, or a causeway port of some mode, as a manifest gives none (R544)? -/
def timePortOk (p : Nat) : Bool := decide (p < 4) || (decide (8 ≤ p) && decide (p < 16))

/-- The reason of Table 19.4 for which a manifest is not in force, 0 for a good one. -/
def State.manCheck (s : State) (m : List Byte) : Nat :=
  let cert := part m 64 5376
  let shape := recNat m 0 4 == 0x47534D46 && recNat m 4 2 == 1 && recNat m 12 4 == 8768
    && part m 16 16 == part cert 1952 16 && recNat m 32 1 / 64 == 0 && recNat m 33 1 / 4 == 0
    && recNat m 38 1 / 64 == 0 && recZero m 39 25 && recZero m 8749 19 && !(recNat m 32 1 % 4 == 3)
    && timePortOk (recNat m 34 1) && decide (recNat m 8 2 ≤ recNat m 6 2)
  if !(s.certOk cert) then 0x0020
  else if !(s.certScope cert) then 0x0021
  else if !(sigOk (cert.take 1952) "GSN8640-MANIFEST" (m.take 5440) (part m 5440 3309)) then 0x0022
  else if !shape then 0x0023
  else if recNat m 6 2 < s.floorOf 5 then 0x0024
  else 0

/-- CONFIG of the manifest in force (Table 19.6): a bit, and DEBUG. -/
def State.manBit (s : State) (i : Nat) : Bool := bitOf (recNat s.manifest 32 1) i
def State.manDebug (s : State) : Nat := recNat s.manifest 32 1 / 16 % 4

/-- Is a byte range in the visible LPDDR5X? -/
def State.inLpddr (s : State) (p n : Nat) : Bool := decide (p + n ≤ s.visible)

end Sys2Proof.Machine
end

