-- ==== Sys2Proof/Machine/Firmware.lean ====
section
/-! DEFINITION. Firmware components (chapter 17): host mailboxes (R501, R502), updates and restarts (R508 to R511),
component faults (R499), the log ring and partition mailboxes (R503, R504). -/
namespace Sys2Proof.Machine

/-! ## Mailboxes -/

/-- The registers of mailbox `k`: 0 SEC, 1 PMC, 2 SCH, 3 + n the ICC of island n. -/
def mbxReq (k i : Nat) : Nat := if k < 3 then Reg.MBX_REQ k i else Reg.IMBX_REQ (k - 3) i
def mbxResp (k i : Nat) : Nat := if k < 3 then Reg.MBX_RESP k i else Reg.IMBX_RESP (k - 3) i
def mbxCtl (k : Nat) : Nat := if k < 3 then Reg.MBX_CTL k else Reg.IMBX_CTL (k - 3)

/-- The component a mailbox reaches, and its instance. -/
def mbxComp (k : Nat) : Nat := min k 3
def mbxInst (k : Nat) : Nat := k - 3

/-- Does the component of a mailbox serve requests now? -/
def State.mbxServes (s : State) (k : Nat) : Bool := s.compUp (mbxComp k) (mbxInst k)

/-- Is the component of a mailbox halted by a fault? -/
def State.mbxHalted (s : State) (k : Nat) : Bool := s.compHalted (mbxComp k) || s.down.contains (mbxComp k, mbxInst k)

/-- Word `i` of a request. -/
def State.reqWord (s : State) (k i : Nat) : Nat := s.fld (mbxReq k i) 31 0

/-- Two words of a SEC request as an address or length. -/
def State.reqPair (s : State) (i : Nat) : Nat := s.reqWord 0 i + 2 ^ 32 * s.reqWord 0 (i + 1)

/-- Bytes of SEC request words. -/
def State.reqBytes (s : State) (i n : Nat) : List Byte := (List.range n).flatMap (fun j => leBytes 4 (s.reqWord 0 (i + j)))

/-- Is a request open whose word 0 gives an OP, and not answered yet? -/
def State.mbxOpen (s : State) (k op : Nat) : Bool :=
  s.flag (mbxCtl k) 30 && s.mbxServes k && s.reqWord k 0 == op && (tabFind s.mbxAns k).isNone

/-- Are the request words not listed zero? -/
def State.reqZero (s : State) (k : Nat) (used : List Nat) : Bool :=
  ((List.range 16).drop 1).all (fun i => used.contains i || s.reqWord k i == 0)

/-- The answer of a request: its status, and the words from 1 on. -/
def State.answer (s : State) (k status : Nat) (ws : List Nat) : State :=
  { s with mbxAns := tabPut s.mbxAns k (status, ws) }

/-- A write to MBX_CTL: DONE and REJ clear by 1s; GO submits, or is refused with REJ (R501). -/
def State.mbxWrite (s : State) (k : Nat) (v : DWord) : State :=
  let r := mbxCtl k
  let s1 := (s.hostSet r v).setFlag r 31 false
  if !(bitOf v.toNat 31) then s1
  else if s1.flag r 30 || s1.mbxHalted k then s1.setFlag r 28 true
  else s1.setFlag r 30 true

/-- The operations a mailbox's component knows (R502, Tables 17.5 and 19.7). -/
def mbxOps (k : Nat) : List Nat :=
  if k = 0 then [0x0001, 0x0101, 0x0102, 0x0103, 0x0104, 0x0201, 0x0202, 0x0203, 0x0301, 0x0302, 0x0303] else [0x0001]

/-- A response: the words, STATUS, BUSY clear, DONE, vector 3. -/
def State.respond (s : State) (k status : Nat) (ws : List Nat) : State :=
  let r := mbxCtl k
  let s1 := (List.range 16).foldl (fun t i =>
    t.setReg (mbxResp k i) (BitVec.ofNat 64 ((status :: ws).getD i 0))) { s with mbxAns := tabDel s.mbxAns k }
  (((s1.setFld r 15 0 status).setFlag r 30 false).setFlag r 29 true).raise 0 3

/-- MAILBOX_RESPONSE: the answer formed, or INVALID_COMMAND for an unknown OP. -/
def execMailboxResponse (k : Fin 11) (s : State) : Res :=
  if !(s.flag (mbxCtl k) 30) || !(s.mbxServes k) then .next s
  else match tabFind s.mbxAns k with
    | some a => .next (s.respond k a.1 a.2)
    | none => if (mbxOps k).contains (s.reqWord k 0) then .next s else .next (s.respond k 0x0001 [])

/-- VERSION: the active version and slot. -/
def execVersion (k : Fin 11) (s : State) : Res :=
  let r := Reg.FWM_COMP (mbxComp k)
  if !(s.mbxOpen k 0x0001) then .next s
  else if !(s.reqZero k []) then .next (s.answer k 0x0001 [])
  else .next (s.answer k 0 [s.fld r 63 48, s.fld r 1 1])

/-! ## Updates (R508 to R511) -/

/-- PHASE of an update. -/
def State.phase (s : State) : Nat := s.fld Reg.FWM_UPD_STAT 47 44

/-- A phase is entered: PHASE and an UPDATE record. -/
def State.setPhase (s : State) (p : Nat) (bad : Bool) : State :=
  let s1 := s.setFld Reg.FWM_UPD_STAT 47 44 p
  s1.fwLog 0 0 (if bad then 2 else 1) 0x0010 (leBytes 1 p ++ leBytes 1 0 ++ leBytes 2 (s1.fld Reg.FWM_UPD_STAT 63 48)
    ++ leBytes 2 (s1.fld (Reg.FWM_COMP 2) 47 32) ++ leBytes 1 (s1.fld Reg.FWM_UPD_STAT 32 32))

/-- The images of a bundle, one after the other. -/
def bundleImages (b : List Byte) : Nat → List (List Byte × List Byte)
  | 0 => []
  | fuel + 1 =>
    if b = [] then []
    else (b.take 8192, part b 8192 (imgLength b)) :: bundleImages (b.drop (8192 + imgLength b)) fuel

/-- Does a bundle verify: each image valid for the component it names, no component twice? -/
def State.bundleOk (s : State) (l : List (List Byte × List Byte)) : Bool :=
  !l.isEmpty && l.all (fun (i : List Byte × List Byte) => decide (imgComp i.1 < 5) && imgCheck i.1 i.2 (imgComp i.1) (s.floorOf (imgComp i.1)) == 0)
    && decide ((l.map (fun (i : List Byte × List Byte) => imgComp i.1)).Nodup)

/-- An image written into the inactive slot of its component. -/
def State.stageImage (s : State) (i : List Byte × List Byte) : State :=
  let c := imgComp i.1
  { s with flash := s.flash.writeN (imgBase c (1 - s.slotOf c)) (i.1 ++ i.2) }.compOther c

/-- A STAGE that is refused: STATUS is its outcome, and so is the answer. -/
def State.stageNo (s : State) (st : Nat) : State := (s.setFld Reg.FWM_UPD_STAT 63 48 st).answer 0 st []

/-- STAGE of a bundle at a physical address. -/
def State.stageRun (s : State) (p n : Nat) : State :=
  let s1 := s.setPhase 1 false
  let (got, s2) := s1.readPhys 0 p n
  let l := bundleImages (got.getD []) 6
  if got.isNone || !(s2.bundleOk l) then
    ((s2.setFld Reg.FWM_UPD_STAT 63 48 0x0001).setPhase (if s2.bundle = [] then 0 else 3) true).answer 0 0x0001 []
  else
    let s3 := l.foldl (fun t i => t.stageImage i) (s2.setPhase 2 false)
    let s4 := { s3.setFld Reg.FWM_UPD_STAT 63 48 0 with bundle := l.map (fun (i : List Byte × List Byte) => imgComp i.1) }
    (s4.setPhase 3 false).answer 0 0 []

/-- STAGE; one during a deferral first ends the deferral (R508), one during an activation is refused (Log 50). -/
def execStage (s : State) : Res :=
  if !(s.mbxOpen 0 0x0101) then .next s
  else
    let p := s.reqPair 1
    let n := s.reqWord 0 3
    if !(s.reqZero 0 [1, 2, 3]) || s.phase == 5 || s.phase == 6 then .next (s.answer 0 0x0001 [])
    else
      let s0 := if s.phase = 4 then s.setPhase 3 false else s
      if 0x800000 < n then .next (s0.stageNo 0x0001)
      else if !(s.inLpddr p n) then .next (s0.stageNo 0x0202)
      else .next (s.orWait (s0.stageRun p n))

/-- An emergency: thermal, or throttling (R511). -/
def State.emergency (s : State) : Bool := s.flag Reg.PWR_THERM 20 || s.flag Reg.PWR_FLOOR_STAT 16

/-- The restarts of a set of components in the order of R509. -/
def restartOrder (l : List Nat) (reason : Nat) : List Restart :=
  (if l.contains 1 then [Restart.mk 1 0 reason] else [])
    ++ (if l.contains 3 then (List.range 8).map (fun n => Restart.mk 3 n reason) else [])
    ++ (if l.contains 2 then [Restart.mk 2 0 reason] else [])

/-- The list of restarts replaced; its first begins where it was not the first before. -/
def State.setRestarts (s : State) (l : List Restart) : State :=
  if l.head? = s.restarts.head? then { s with restarts := l } else ({ s with restarts := l, restartHold := [] } : State).restartBegin

/-- Restarts join those that stand; the first begins at once when none stood. -/
def State.addRestarts (s : State) (l : List Restart) : State := s.setRestarts (s.restarts ++ l)

/-- The directory's slot bits of components replaced by those of a choice. -/
def slotBits (v : Nat) (cs : List Nat) (pick : Nat → Nat) : Nat := cs.foldl (fun a c => bitsPut a c c (pick c)) v

/-- An update ends: PHASE 0 when no restart is left of an activation or a reversion. -/
def State.updateEnd (s : State) : State :=
  if s.restarts.any (fun r => r.reason != 1) then s
  else if s.phase = 5 then { (s.setFld Reg.FWM_UPD_STAT 63 48 0).setPhase 0 false with actEnd := s.cyc + 500000000 }
  else if s.phase = 6 then s.setPhase 0 true
  else s

/-- An activation starts: the slot choice by one atomic write, then the restarts (R509). -/
def State.activateNow (s : State) : State :=
  let (v, s1) := s.dirByte
  let s2 := s1.dirWrite (slotBits v s.bundle (fun c => 1 - s.slotOf c))
  let late := s.bundle.filter (fun c => c == 0 || c == 4)
  let s3 := late.foldl (fun t c => t.setFlag (Reg.FWM_COMP c) 3 true) s2
  let s4 := { s3 with active := s.bundle, bundle := [], revert := false }
  ((s4.setPhase 5 false).addRestarts (restartOrder s.bundle 0)).updateEnd

/-- ACTIVATE. -/
def execActivate (s : State) : Res :=
  if !(s.mbxOpen 0 0x0102) then .next s
  else if !(s.reqZero 0 []) then .next (s.answer 0 0x0001 [])
  else if s.phase = 4 then .next (s.answer 0 0x0501 [])
  else if s.phase ≠ 3 then .next (s.answer 0 0x0001 [])
  else if s.emergency then .next (({ s with deferAt := s.cyc + 5000000000 }.setPhase 4 false).answer 0 0x0501 [])
  else .next (s.activateNow.answer 0 0 [])

/-- ABANDON. -/
def execAbandon (s : State) : Res :=
  if !(s.mbxOpen 0 0x0103) then .next s
  else if !(s.reqZero 0 []) ∨ s.phase ≠ 4 then .next (s.answer 0 0x0001 [])
  else .next ((s.setPhase 3 false).answer 0 0 [])

/-- DEFERRED_ACTIVATION_START: 100 ms without an emergency. -/
def execDeferredActivationStart (s : State) : Res :=
  if s.phase ≠ 4 ∨ s.emergency ∨ s.cyc < s.emgEnd + 50000000 ∨ s.deferAt < s.cyc ∨ s.compHalted 0 then .next s
  else .next s.activateNow

/-- DEFERRAL_EXPIRY: 10 s after the answer. -/
def execDeferralExpiry (s : State) : Res :=
  if s.phase ≠ 4 ∨ s.cyc < s.deferAt ∨ s.compHalted 0 then .next s
  else .next ((s.setFlag Reg.FWM_UPD_STAT 32 true).setPhase 3 true)

/-- The scheduler runs again: what waited for it goes on, and the completions that stand open are owed in the order of their
queues (Table 17.6, Log 85). -/
def State.schBack (s : State) : State :=
  let open' := s.queues.filter (fun p => decide (p.2.phase = .ended) && p.2.acks.isEmpty)
  ({ s with cplOwed := open'.map (·.1) } : State).lossResume

/-- RESTART_COMPLETE: the component runs from its active slot and reports itself running, and the next one restarts. While
the SEC is halted no update goes on (R499); a restart that waits, or whose component has faulted in it, does not end. -/
def execRestartComplete (s : State) : Res :=
  match s.restarts with
  | [] => .next s
  | r :: rest =>
    if (s.compHalted 0 && r.reason != 1) || !(s.restartHold.isEmpty) || s.down.contains (r.comp, r.inst) then .next s else
    let c := r.comp
    let sl := if r.reason = 0 then 1 - s.slotOf c else s.slotOf c
    let first := !(c == 3) || r.inst == 0 || r.reason == 1
    let (ok, s1) := if first then s.compStart c sl (s.fld Reg.GLB_STATE 3 0) else (true, s)
    if !ok then .next { s1 with revert := s1.revert || r.reason == 0 }
    else
      let last := !(rest.any (fun x => x.comp == c))
      let s2 := (s1.setFlag (Reg.FWM_COMP c) 0 last).bumpMod (Reg.FWM_COMP c) 31 16
      let s3 := s2.fwLog 0 0 1 0x0003 (leBytes 1 c ++ leBytes 1 r.inst ++ leBytes 1 r.reason ++ leBytes 1 0
        ++ leBytes 2 (s2.fld (Reg.FWM_COMP c) 63 48))
      let s4 := s3.partsOn.foldl (fun t k => t.notice k 3 c 0) s3
      let s5 := { s4 with restarts := rest, ranSince := if last then tabPut s4.ranSince c s4.cyc else s4.ranSince }
      .next (if c = 2 then s5.schBack else s5).restartBegin.updateEnd

/-- ACTIVATION_REVERT: a component of an activation not running within 1 s, or one that faulted: the previous slots are
active again and what has restarted restarts (R510). -/
def execActivationRevert (s : State) : Res :=
  let slow := match s.restarts with
    | r :: _ => r.reason == 0 && s.restartHold.isEmpty && decide (s.restartAt + 500000000 ≤ s.cyc)
    | [] => false
  if !(s.revert || slow) || s.compHalted 0 then .next s
  else
    let left := (s.restarts.drop 1).filter (fun r => r.reason == 0)
    let redo := (restartOrder s.active 2).filter (fun r => !(left.any (fun x => x.comp == r.comp && x.inst == r.inst)))
    let switched := s.active.filter (fun c =>
      c != 0 && c != 4 && !(s.restarts.any (fun r => r.comp == c && r.reason == 0 && (r.inst == 0))))
    let (v, s1) := s.dirByte
    let s2 := s1.dirWrite (slotBits v s.active (fun c => if switched.contains c then 1 - s.slotOf c else s.slotOf c))
    let s3 := s.active.foldl (fun t c => (t.setFlag (Reg.FWM_COMP c) 4 true).setFlag (Reg.FWM_COMP c) 3 false) s2
    let s4 := switched.foldl (fun t c => t.setFld (Reg.FWM_COMP c) 1 1 (1 - s.slotOf c)) s3
    let (n, s5) := s4.draw
    let s6 := { s5.setFld Reg.FWM_UPD_STAT 63 48 (Config.choice n) with active := [], revert := false, fbEver := true }
    let l := s.restarts.filter (fun r => r.reason == 1) ++ redo
    let lone := s.down.filter (fun p => !(l.any (fun r => r.comp == p.1 && r.inst == p.2)))
    .next ((s6.setPhase 6 true).setRestarts (l ++ lone.map (fun p => Restart.mk p.1 p.2 1))).updateEnd

/-! ## Component faults (R499) -/

/-- COMP_FAULT: an access outside the regions that the SEC locked (cause 0, which no processor can have before), an illegal
instruction or the watchdog. The processor halts; a record and an event; a run-time component restarts, unless the fault reverts an
activation or a restart of it stands already, which one that waits for KV requests then waits for no more. -/
def execCompFault (c : Fin 5) (inst : IslandId) (cause : Fin 3) (pc : DWord) (s : State) : Res :=
  let n := if c.val = 3 then inst.val else 0
  if s.compHalted c || s.down.contains (c.val, n) || (cause.val == 0 && !s.mpLock) then .next s
  else
    let args := leBytes 1 c ++ leBytes 1 n ++ leBytes 1 cause
    let s1 := (s.fwLog 5 0 3 0x0002 (args ++ leBytes 1 0 ++ leBytes 8 pc.toNat)).event 0x0A 4 c args
    let due := s.restarts.any (fun r => r.comp == c.val && r.inst == n)
    let fresh := s.active.contains c.val && (s.restarting c n || (!due && decide (s.cyc < tabGet 0 s.ranSince c + 500000000)))
    let s2 := { s1.setFlag (Reg.FWM_COMP c) 0 false with ranSince := tabDel s1.ranSince c }
    let s3 := { s2 with down := (c.val, n) :: s2.down }
    if c.val = 0 ∨ c.val = 4 then .next { s2 with halted := setIns s2.halted c }
    else if fresh then .next { s3 with revert := true }
    else if s.restarting c n then .next s2
    else if due then .next (match s.restarts with
      | r :: _ => if r.comp = c.val ∧ r.inst = n then s3.restartGo else s3
      | [] => s3)
    else .next ({ s3 with active := setDel s3.active c }.addRestarts [Restart.mk c n 1])

/-! ## Log ring and partition mailboxes -/

/-- A write to FWM_LOG_BASE (R504). -/
def State.logBaseWrite (s : State) (v : DWord) : State :=
  let r := Reg.FWM_LOG_BASE
  if s.flag r 0 then s.setFlag r 0 (bitOf v.toNat 0)
  else
    let s1 := (s.hostSet r v).setFlag r 0 false
    let b := 2 ^ 20 * s1.fld r 43 20
    let hit := s1.partsOn.any (fun k =>
      let lo := 2 ^ 29 * s1.fld (Reg.SCH_PART_W0 k) 25 16
      decide (b < lo + 2 ^ 29 * s1.fld (Reg.SCH_PART_W0 k) 35 26) && decide (lo < b + 2 ^ 20))
    if bitOf v.toNat 0 && s1.inLpddr b (2 ^ 20) && !hit then s1.setFlag r 0 true else s1

/-- LOG_ENABLE_WRITE. -/
def execLogEnableWrite (fn : Fn) (val : DWord) (s : State) : Res :=
  .next (s.guardWrite fn Reg.FWM_LOG_BASE 64 val (fun t => t.logBaseWrite val))

/-- A write to FWM_PMBk: EN is refused unless the area lies in partition k's carve-out (Table 17.9). -/
def State.pmbWrite (s : State) (k : Nat) (v : DWord) : State :=
  let r := Reg.FWM_PMB k
  let s1 := s.hostSet r v
  if s1.flag r 63 && !(s1.partEn k && s1.inCarve k (4096 * s1.fld r 43 12) 4096) then s1.setFlag r 63 false else s1

end Sys2Proof.Machine
end

