-- ==== Sys2Proof/Machine/Security.lean ====
section
/-! DEFINITION. The SEC's services (chapter 19): staging a manifest (R544), identity, measurement, attestation (R550 to
R553), debug unlock (R554 to R556), raising floors (R547). -/
namespace Sys2Proof.Machine

/-- A result written to the buffer of words 1 and 2, and OK; outside the LPDDR5X ACCESS_VIOLATION (R550). `s0` is the state the
command began at, in which it stays where the memory makes it wait. -/
def State.secResult (s s0 : State) (bs : List Byte) : State :=
  let p := s.reqPair 1
  if s.inLpddr p bs.length then s0.orWait (((s.markBusy p bs.length).writePhys 4 p bs).2.answer 0 0 []) else s.answer 0 0x0202 []

/-! ## The manifest -/

/-- STAGE_MANIFEST. -/
def execStageManifest (s : State) : Res :=
  if !(s.mbxOpen 0 0x0104) then .next s
  else if !(s.reqZero 0 [1, 2]) || s.phase == 5 || s.phase == 6 then .next (s.answer 0 0x0001 [])
  else if !(s.inLpddr (s.reqPair 1) 8768) then .next (s.answer 0 0x0202 [])
  else
    let (got, s1) := s.readPhys 0 (s.reqPair 1) 8768
    let m := got.getD []
    .next (s.orWait (if got.isNone || s1.manCheck m != 0 then s1.answer 0 0x0001 []
    else
      let sl := 1 - s1.fld Reg.FWM_SEC_STAT 16 16
      let s2 := { s1 with flash := s1.flash.writeN (manBase sl) m }
      let (v, s3) := s2.dirByte
      ((s3.dirWrite (bitsPut v 5 5 sl)).setFlag Reg.FWM_SEC_STAT 17 true).answer 0 0 []))

/-! ## Identity, measurement, attestation -/

/-- IDENTITY: the public key, then the device certificate of the flash. -/
def execIdentity (s : State) : Res :=
  if !(s.mbxOpen 0 0x0201) then .next s
  else if !(s.reqZero 0 [1, 2]) then .next (s.answer 0 0x0001 [])
  else .next (s.secResult s (s.idKey ++ s.flash.readN 0x4000 5376))

/-- MR[n]. -/
def State.mrOf (s : State) (n : Nat) : List Byte := tabGet (leBytes 64 0) s.mr n

/-- MEASURE: MR of a context extended with a range's digest (R551). -/
def execMeasure (s : State) : Res :=
  if !(s.mbxOpen 0 0x0202) then .next s
  else
    let p := s.reqPair 3
    let n := s.reqPair 5
    let w := s.reqWord 0 7
    let c := w % 256
    let kind := w / 256
    if !(s.reqZero 0 [1, 2, 3, 4, 5, 6, 7]) ∨ 2 ^ 40 < n ∨ 2 < kind then .next (s.answer 0 0x0001 [])
    else if !(s.inCarve (s.fld (Reg.SCH_CTX_CFG c) 62 60) p n) then .next (s.answer 0 0x0202 [])
    else match s.readPhys 0 p n with
      | (none, s1) => .next (s.orWait (s1.answer 0 0x0204 []))
      | (some bs, s1) =>
        let mr := digest64 (s1.mrOf c ++ leBytes 1 kind ++ leBytes 8 n ++ digest64 bs)
        let s2 := { s1 with mr := tabPut s1.mr c mr, mrCnt := tabPut s1.mrCnt c ((tabGet 0 s1.mrCnt c + 1) % 2 ^ 32) }
        .next (s.orWait (s2.answer 0 0 []))

/-- The digest and SVN of a running image, or of the manifest in force for 5. -/
def State.image (s : State) (c : Nat) : ImageInfo := tabGet ⟨leBytes 64 0, 0, 0⟩ s.images c

/-- The attestation report of R552, signature apart. -/
def State.report (s : State) (nonce mask : List Byte) : List Byte :=
  let cs := bitList 256 (leNat mask)
  let flags := boolNat (s.manBit 0) + 2 * boolNat s.eccOn + 4 * boolNat s.seAtBoot + 8 * boolNat s.fbEver + 16 * (s.dbgEver % 16)
  leBytes 4 0x47534154 ++ leBytes 2 1 ++ leBytes 2 cs.length ++ s.deviceId ++ nonce ++ timeBytes s.tbS s.tbNs
    ++ leBytes 1 flags ++ leBytes 3 0 ++ (List.range 6).flatMap (fun c => (s.image c).digest)
    ++ (List.range 6).flatMap (fun c => leBytes 2 (s.image c).svn)
    ++ (List.range 6).flatMap (fun c => leBytes 2 (s.floors.getD c 0)) ++ part s.manifest 16 16 ++ leBytes 16 0
    ++ cs.flatMap (fun c => leBytes 1 c ++ leBytes 3 0 ++ leBytes 4 (tabGet 0 s.mrCnt c) ++ s.mrOf c ++ leBytes 8 0)

/-- ATTEST: the report and the identity's signature over it. -/
def execAttest (s : State) : Res :=
  if !(s.mbxOpen 0 0x0203) then .next s
  else if !(s.inLpddr (s.reqPair 1) (512 + 80 * popCount 256 (leNat (s.reqBytes 11 5)) + 3309)) then
    .next (s.answer 0 0x0202 [])
  else
    let (n, s1) := s.draw
    let r := s.report (s.reqBytes 3 8) (s.reqBytes 11 5)
    .next (s1.secResult s (r ++ fixLen 3309 (Config.mldsaSign s.seed (mldsaMsg "GSN8640-ATTEST" r) n)))

/-! ## Debug -/

/-- A new challenge replaces the one outstanding: DEVICE_ID and 32 bytes of entropy. -/
def State.newChallenge (s : State) : List Byte × State :=
  let c := (List.range 8).flatMap (fun i => leBytes 4 (Config.entropy (s.free + i)).toNat)
  (s.deviceId ++ c, { s with free := s.free + 8, chal := some c }.setFlag Reg.FWM_SEC_STAT 19 true)

/-- DBG_CHALLENGE. -/
def execDbgChallenge (s : State) : Res :=
  if !(s.mbxOpen 0 0x0301) then .next s
  else if !(s.reqZero 0 [1, 2]) then .next (s.answer 0 0x0001 [])
  else if !(s.inLpddr (s.reqPair 1) 48) then .next (s.answer 0 0x0202 [])
  else let (bs, s1) := s.newChallenge; .next (s1.secResult s bs)

/-- TAP_DBG_CHAL: the 48 bytes shifted out. -/
def execTapDbgChal (s : State) : Res :=
  if !(s.mbxServes 0) then .next s
  else let (bs, s1) := s.newChallenge; .next { s1 with tapOut := bs, out := s1.out ++ [.tap bs] }

/-- Is a token accepted (R555)? -/
def State.tokenOk (s : State) (t : List Byte) : Bool :=
  let scope := recNat t 4 1
  let signer := recNat t 5 1
  let key := if signer = 0 then s.rootKey else part s.manifest 64 1952
  decide (t.length = 3392) && recNat t 0 4 == 0x47534454 && decide (scope < 16) && decide (signer < 2) && recZero t 6 2
    && recZero t 56 8 && recZero t 3373 19 && part t 8 16 == s.deviceId && some (part t 24 32) == s.chal
    && (if signer = 0 then decide (2 ≤ s.manDebug) else s.manDebug % 2 == 1)
    && sigOk key "GSN8640-DEBUG" (t.take 64) (part t 64 3309)
    && (!(s.manBit 0) || (!(bitOf scope 0) && (!(bitOf scope 2) || signer == 0)))

/-- A token presented: it consumes the challenge, and its scopes join those unlocked (R554, R556). -/
def State.present (s : State) (t : List Byte) : Bool × State :=
  let ok := s.tokenOk t
  let s1 := { s with chal := none }.setFlag Reg.FWM_SEC_STAT 19 false
  let scope := recNat t 4 1
  if ok then
    (true, { s1.setFld Reg.FWM_SEC_STAT 23 20 (s1.fld Reg.FWM_SEC_STAT 23 20 ||| scope) with dbgEver := s1.dbgEver ||| scope })
  else (false, s1)

/-- A token from the TAP, and what its next capture returns. -/
def State.tapPresent (s : State) (t : List Byte) : State :=
  let (ok, s1) := s.present t
  { s1 with tapOut := leBytes 1 (if ok then 1 else 2) }

/-- The SEC serves the tokens that are pending at the TAP, in arrival order (R554, R555). -/
def State.tapServe (s : State) : State :=
  if s.mbxServes 0 then s.tapPend.foldl (fun t k => t.tapPresent k) { s with tapPend := [] } else s

/-- DBG_UNLOCK; the status that refuses a token is not stated: a free choice of two. -/
def execDbgUnlock (s : State) : Res :=
  if !(s.mbxOpen 0 0x0302) then .next s
  else
    let n := s.reqWord 0 3
    if !(s.reqZero 0 [1, 2, 3]) then .next (s.answer 0 0x0001 [])
    else if !(s.inLpddr (s.reqPair 1) n) then .next (s.answer 0 0x0202 [])
    else
      let (got, s1) := s.readPhys 0 (s.reqPair 1) n
      let (ok, s2) := s1.present (got.getD [])
      if ok then .next (s.orWait (s2.answer 0 0 []))
      else let (i, s3) := s2.choose 2; .next (s.orWait (s3.answer 0 (if i = 0 then 0x0001 else 0x0202) []))

/-- DBG_LOCK: every scope locked. -/
def execDbgLock (s : State) : Res :=
  if !(s.mbxOpen 0 0x0303) then .next s
  else if !(s.reqZero 0 []) then .next (s.answer 0 0x0001 [])
  else .next ((s.setFld Reg.FWM_SEC_STAT 23 20 0).answer 0 0 [])

/-- TAP_DBG_TOKEN: the next capture returns 0x01 accepted or 0x02 refused; 0x03 while the SEC does not serve, and the token
waits for it. -/
def execTapDbgToken (tok : List Byte) (s : State) : Res :=
  if !(s.mbxServes 0) then .next { s with tapOut := leBytes 1 3, tapPend := s.tapPend ++ [tok] }
  else .next (s.tapPresent tok)

/-! ## Floors (R547) -/

/-- FLOOR_RAISE: a second after new code or a manifest came into force, its floor is raised; `ok` says whether the secure
element answered, else it is tried again in 10 s. With SE_PAIR it is paired first (R546). -/
def execFloorRaise (c : Fin 6) (ok : Bool) (s : State) : Res :=
  match tabFind s.ranSince c with
  | none => .next s
  | some t =>
    if s.cyc < t + 500000000 ∨ s.cyc < tabGet 0 s.raiseAt c ∨ s.compHalted 0 then .next s
    else if !ok then .next { s.seTry false 2 c (s.image c).floor with raiseAt := tabPut s.raiseAt c (s.cyc + 5000000000) }
    else
      let s0 := if s.sePaired || !(s.manBit 3) then s
        else { s.seSend 0x10 0 0 with sePaired := true }.setFlag Reg.FWM_SEC_STAT 7 true
      let s1 := s0.seSend 2 c (s.image c).floor
      let s2 := { s1 with ranSince := tabDel s1.ranSince c, raiseAt := tabDel s1.raiseAt c }
      .next (if s2.sePaired then { s2 with seCnt := tabPut s2.seCnt c (max (tabGet 0 s2.seCnt c) (s.image c).floor) }
        else { s2 with raiseAt := tabPut s2.raiseAt c (s.cyc + 5000000000), ranSince := s.ranSince })

end Sys2Proof.Machine
end

