-- ==== Sys2Proof/Machine/Boot.lean ====
section
/-! DEFINITION. Boot (R539, R540, R542, R548, R584): the stages from the mask ROM, or from stage 0x1 after SYSRST_N,
PWR_RESET or P4. -/
namespace Sys2Proof.Machine

/-- Boot stops at 0xF. -/
def State.bootStop (s : State) : State := s.setFld Reg.GLB_STATE 3 0 0xF

/-- A stage that ends the boot or hands the state on. -/
abbrev BootStep := Bool × State

/-- A stage after those before it. -/
def bootThen (x : BootStep) (f : State → BootStep) : BootStep := if x.1 then f x.2 else x

/-- Components started from slots that a choice names. -/
def bootComps (pick : Nat → Nat) (stage : Nat) : List Nat → State → BootStep
  | [], s => (true, s)
  | c :: t, s => bootThen (s.compStart c (pick c) stage) (bootComps pick stage t)

/-- The identity derived from the PUF (R548): the seed, DEVICE_ID, ID_OK; a failed reconstruction stops boot. -/
def bootIdentity (puf : Bool) (s : State) : BootStep :=
  if !puf then (false, s.bootFail 1 0 0x0003)
  else
    let s1 := { s with seed := shake256 (strBytes "GSN8640-ID" ++ Config.pufSecret) }
    let s2 := (List.range 2).foldl (fun t w =>
      t.setReg (Reg.FWM_DEVID w) (BitVec.ofNat 64 (recNat s1.deviceId (8 * w) 8))) s1
    (true, (s2.setFld Reg.GLB_STATE 3 0 1).setFlag Reg.FWM_SEC_STAT 6 true)

/-- Granules of 512 MiB that are visible: 7/8 of the part's memory with inline ECC on, all of it with ECC off (R1, R324,
Table 11.8). -/
def State.granulesOf (s : State) (ecc : Bool) : Nat := (if ecc then 224 else 256) * s.fld Reg.GLB_IDENT 15 8

/-- The settings of the manifest in force (R542), the capacity that ECC leaves visible with them (R324); with ECC off INIT
reads 1 (R584). -/
def State.manApply (s : State) : State :=
  let ecc := !(s.manBit 1)
  let s1 := ((s.setFlag Reg.MEM_CFG 1 (s.manBit 0)).setFlag Reg.MEM_CFG 0 ecc).setFld Reg.MEM_CFG 25 16 (s.granulesOf ecc)
  let s2 := if ecc then s1 else (s1.setFlag Reg.MEM_CFG 2 true).bar4Drain
  let s3 := s2.setFlag Reg.TDL_CTRL 3 (s.manBit 2)
  (s3.setFld Reg.NET_CW_CFG 31 16 (recNat s.manifest 36 2)).setFld Reg.NET_CW_CFG 5 0 (recNat s.manifest 38 1)

/-- A manifest slot put in force. -/
def State.manLoad (s : State) (sl : Nat) (fb : Bool) : State :=
  let m := s.flash.readN (manBase sl) 8768
  let s1 := { s with manifest := m, images := tabPut s.images 5 ⟨digest64 m, recNat m 6 2, recNat m 8 2⟩, fbEver := s.fbEver || fb }
  let s2 := ((s1.setFld Reg.FWM_SEC_STAT 63 48 (recNat m 6 2)).setFld Reg.FWM_SEC_STAT 47 32 (recNat m 10 2)).setFlag
    Reg.FWM_SEC_STAT 18 fb
  s2.setFld Reg.FWM_SEC_STAT 17 16 sl

/-- The manifest of the directory's choice, or of the other slot (R540, R543). -/
def bootManifest (sl : Nat) (s : State) : BootStep :=
  let s0 := s.setFld Reg.GLB_STATE 3 0 3
  let e := s0.manCheck (s0.flash.readN (manBase sl) 8768)
  if e = 0 then (true, (s0.manLoad sl false).manApply)
  else
    let s1 := s0.bootFail 3 5 e
    let e2 := s1.manCheck (s1.flash.readN (manBase (1 - sl)) 8768)
    if e2 = 0 then (true, (s1.manLoad (1 - sl) true).manApply) else (false, s1.bootFail 3 5 e2)

/-- The processors are released: RUN, BOOT_STAGE 0x4, the injection pass; the second of R547 begins for what is new. -/
def State.bootRelease (s : State) (new : List Nat) : State :=
  let s1 := (List.range 5).foldl (fun t c => if t.compHalted c then t else t.setFlag (Reg.FWM_COMP c) 0 true) s
  let s2 := { s1 with ranSince := new.foldl (fun t c => tabPut t c s1.cyc) s1.ranSince }
  ((s2.setFld Reg.GLB_STATE 3 0 4).injStart).tapServe

/-- Boot from the mask ROM: `se` 0 when the secure element answers, else the reason of Table 19.4. -/
def bootCold (puf : Bool) (se : Nat) (s : State) : State :=
  let rom : BootStep :=
    if se ≠ 0 then let t := s.seTry false 1 0 0; (false, (t.bootFail 0 0 se).bootFail 0 0 se)
    else let (v, s1) := (s.seRead [0]).dirByte; s1.compStart 0 (bitsOf v 0 0) 0
  let pick := fun (t : State) => t.dirByte.1
  let r1 := bootThen rom (bootIdentity puf)
  let r2 := bootThen r1 (fun t =>
    let t1 := { (t.setFlag Reg.FWM_SEC_STAT 7 t.sePaired).setFld Reg.GLB_STATE 3 0 2 with
      seAtBoot := t.sePaired, floors := (List.range 6).map t.floorOf }
    bootComps (fun c => bitsOf (pick t1) c c) 2 [1, 2, 3, 4] (t1.seRead [1, 2, 3, 4]))
  let r3 := bootThen r2 (fun t => bootManifest (bitsOf (pick t) 5 5) (t.seRead [5]))
  let r3 := bootThen r3 (fun t => (true, t.assignRegions))
  if r3.1 then r3.2.bootRelease [0, 1, 2, 3, 4, 5] else r3.2.bootStop

/-- Boot from stage 0x1 with the manifest in force: SEC and PMC run on. -/
def bootWarm (puf : Bool) (se : Nat) (s : State) : State :=
  let s0 := (List.range 3).foldl (fun t c => t.seTry (se == 0) 1 (c + 2) 0) s
  let r1 := bootIdentity puf (s0.setFlag Reg.FWM_SEC_STAT 7 (s.sePaired && se == 0))
  let r2 := bootThen r1 (fun t => bootComps t.slotOf 2 [2, 3, 4] (t.setFld Reg.GLB_STATE 3 0 2))
  if r2.1 then r2.2.manApply.bootRelease [2, 3] else r2.2.bootStop

/-- BOOT: once every domain of the wake order is released. -/
def execBoot (puf : Bool) (se : Fin 3) (s : State) : Res :=
  let st := s.fld Reg.GLB_STATE 3 0
  if s.wake ≠ [] ∨ s.standby ∨ 1 < st ∨ s.compHalted 0 then .next s
  else .next (if st = 0 then bootCold puf se s else bootWarm puf se s)

end Sys2Proof.Machine
end

