-- ==== Sys2Proof/Machine/Can.lean ====
section
/-! DEFINITION. The CAN FD controllers (chapter 14): bit timing (R426), receive buffers (R428 to R432), the transmit queue
(R433 to R436), errors and bus-off (R437, R438), INIT (R439). Controller `k`'s registers are held at window 0's offsets
plus 64 MiB times k; a window shows those of the controller its CHSEL names (R424). -/
namespace Sys2Proof.Machine

/-- Where controller `k`'s copy of a window register is held. -/
def canBank (k off : Nat) : Nat := off + 0x4000000 * k

/-- The controller a window selects. -/
def State.canSel (s : State) (w : Nat) : Nat := s.fld (Reg.CAN_CHSEL w) 2 0

def canCtrl (k : Nat) : Nat := canBank k (Reg.CAN_CTRL 0)
def canStat (k : Nat) : Nat := canBank k (Reg.CAN_STAT 0)

/-- STATE of a controller: 0 error-active, 1 error-passive, 2 bus-off, 3 INIT. -/
def State.canState (s : State) (k : Nat) : Nat := s.fld (canStat k) 47 46

/-- A bit of a window's WSTAT is set. -/
def State.canWstat (s : State) (w bit : Nat) : State := s.setFlag (Reg.CAN_WSTAT w) bit true

/-- A change of STATE (R437, R438): EPASS and BOFF on entry, the log record, recovery with ARECOV, the signal of ES_EN. -/
def State.canSetState (s : State) (k st : Nat) : State :=
  if s.canState k = st then s
  else
    let r := canStat k
    let s1 := s.setFld r 47 46 st
    let s2 :=
      if st = 1 then s1.setFlag r 1 true
      else if st = 2 then
        let t := ((s1.setFlag r 2 true).bumpSat r 15 8).fwLog 2 0 2 0x0501 (leBytes 1 k ++ leBytes 1 (s1.fld r 63 56))
        if t.flag (canCtrl k) 5 then (t.setFlag r 45 true).setFlag (canCtrl k) 6 false else t
      else s1
    if s2.flag (canCtrl k) 31 then s2.plainSignal (s2.fld (canCtrl k) 29 16) else s2

/-- TEC and REC take new values, and STATE follows them (R437): error-passive above 127, bus-off with TEC above 255. EWARN
is set when either counter reaches 96. -/
def State.canCount (s : State) (k tec rec : Nat) : State :=
  let r := canStat k
  let s1 := (s.setFld r 63 56 (satNat 255 tec)).setFld r 55 48 (satNat 255 rec)
  let s2 := if (s.fld r 63 56 < 96 ∧ 96 ≤ tec) ∨ (s.fld r 55 48 < 96 ∧ 96 ≤ rec) then s1.setFlag r 0 true else s1
  s2.canSetState k (if 255 < tec then 2 else if 127 < max tec rec then 1 else 0)

/-- INIT takes effect (R439): the controller leaves the bus; a recovery ends. -/
def State.canEnterInit (s : State) (k : Nat) : State := (s.canSetState k 3).setFlag (canStat k) 45 false

/-- The end of a frame on the bus: a pending INIT takes effect. -/
def State.canFrameEnd (s : State) (k : Nat) : State :=
  if s.flag (canCtrl k) 0 && s.canState k != 3 then s.canEnterInit k else s

/-! ## Control -/

/-- Does the bit timing permit the clearing of INIT (R426)? -/
def State.canTimingOk (s : State) (k : Nat) : Bool :=
  let nbt := (s.reg (canBank k (Reg.CAN_NBT 0))).toNat
  let dbt := (s.reg (canBank k (Reg.CAN_DBT 0))).toNat
  let tdce := s.flag (canBank k (Reg.CAN_TDC 0)) 31
  let nsjw := bitsOf nbt 31 25 + 1
  let nseg1 := bitsOf nbt 24 17 + 1
  let nseg2 := bitsOf nbt 16 10 + 1
  let nbrp := bitsOf nbt 7 0 + 1
  let dsjw := bitsOf dbt 31 28 + 1
  let dseg1 := bitsOf dbt 27 23 + 1
  let dseg2 := bitsOf dbt 22 19 + 1
  let dbrp := bitsOf dbt 4 0 + 1
  let nq := 1 + nseg1 + nseg2
  let dq := 1 + dseg1 + dseg2
  decide (8 ≤ nq) && decide (5 ≤ dq) && decide (nsjw ≤ nseg2) && decide (dsjw ≤ dseg2)
    && decide (160 ≤ nq * nbrp) && decide (20 ≤ dq * dbrp) && !(tdce && decide (2 < dbrp))

/-- A write to CAN_CTRL of controller `k` through window `w` (R426, R438, R439); `busy`: a frame is on the bus. Clearing an
INIT that has not yet taken effect sets TEC and REC to 0 as well, and STATE follows them; the frame in progress ends with 11
recessive bits. -/
def State.canCtrlWrite (s : State) (w k : Nat) (busy : Bool) (v : DWord) : State :=
  let r := canCtrl k
  let init := s.flag r 0
  let s1 := (s.hostSet r v).setFlag r 0 init
  let s2 :=
    if bitOf v.toNat 6 && s1.canState k == 2 && !(s1.flag (canStat k) 45) then
      (s1.setFlag (canStat k) 45 true).setFlag r 6 false
    else s1
  if bitOf v.toNat 0 then
    let s3 := s2.setFlag r 0 true
    if init then s3
    else if (busy || (tabFind s3.canTx k).isSome) && decide (s3.canState k < 2) then s3 else s3.canEnterInit k
  else if !init then s2
  else if !(s2.canTimingOk k) then s2.canWstat w 4
  else
    let s3 := s2.setFlag r 0 false
    if s3.canState k < 2 then s3.canCount k 0 0 else (s3.setFld (canStat k) 63 56 0).setFld (canStat k) 55 48 0

/-- A write through window `w` to a register of the controller it selects, in window order with those of this shore cycle
(R425); `off` is the register's offset in window 0, `f` the write of a window to that controller. -/
def State.canOrdered (s : State) (w : Who) (off : Nat) (v : DWord) (f : Nat → DWord → State → State) : State :=
  let key := canBank (s.canSel (whoWin w)) off
  s.ordered w key v (fun n x t => if canBank (t.canSel n) off = key then f n x t else t)

/-- An agent's write to CAN_CTRL through its window. -/
def State.canCtrlCmd (s : State) (w : Who) (busy : Bool) (v : DWord) : State :=
  s.whoWrite w (Reg.CAN_CTRL (whoWin w)) 32 v (fun t =>
    t.canOrdered w (Reg.CAN_CTRL 0) v (fun n x u => u.canCtrlWrite n (u.canSel n) busy x))

def execCanInitSet (w : Who) (val : Word) (busy : Bool) (s : State) : Res :=
  .next (s.canCtrlCmd w busy (BitVec.ofNat 64 (bitsPut val.toNat 0 0 1)))
def execCanInitClear (w : Who) (val : Word) (s : State) : Res :=
  .next (s.canCtrlCmd w false (BitVec.ofNat 64 (bitsPut val.toNat 0 0 0)))
def execCanRecover (w : Who) (val : Word) (s : State) : Res :=
  .next (s.canCtrlCmd w false (BitVec.ofNat 64 (bitsPut val.toNat 6 6 1)))

/-- CAN_BUS_JOIN: a controller whose INIT is cleared takes part on the bus. -/
def execCanBusJoin (k : Fin 8) (s : State) : Res :=
  if s.flag (canCtrl k) 0 ∨ s.canState k ≠ 3 then .next s else .next (s.canSetState k 0)

/-- CAN_RECOVERY_COMPLETE (R438). -/
def execCanRecoveryComplete (k : Fin 8) (s : State) : Res :=
  let r := canStat k
  if s.canState k ≠ 2 ∨ !(s.flag r 45) then .next s
  else .next ((((s.setFld r 63 56 0).setFld r 55 48 0).setFlag r 45 false).canSetState k 0)

/-- A write to CAN_NBT, CAN_DBT or CAN_TDC: only in INIT (R425). -/
def State.canTimingWrite (s : State) (w off : Nat) (v : DWord) : State :=
  let k := s.canSel w
  if s.flag (canCtrl k) 0 then s.hostSet (canBank k off) v else s.canWstat w 0

/-! ## Reception -/

/-- The payload bytes of a DLC (R422, Table 14.4). -/
def canLen (fdf : Bool) (dlc : Nat) : Nat :=
  let d := dlc % 16
  if d ≤ 8 then d else if fdf then [12, 16, 20, 24, 32, 48, 64].getD (d - 9) 64 else 8

/-- Does buffer `i` of controller `k` accept a frame (R428)? -/
def State.canMatch (s : State) (k i : Nat) (f : CanFrame) : Bool :=
  let v := (s.reg (canBank k (Reg.RXB_FLT 0 i))).toNat
  bitOf v 63 && bitOf v 62 == f.ide && (((f.id ^^^ bitsOf v 60 32) &&& bitsOf v 28 0) % 2 ^ 29 == 0)

/-- The key of a buffer's active copy. -/
def rxKey (k i : Nat) : Nat := 128 * k + i
/-- The key of a buffer's NEW bit in window `w`. -/
def newKey (w k i : Nat) : Nat := 1024 * w + rxKey k i

/-- A frame in the form its format allows: a classical frame has neither bit rate switch nor ESI, an 11-bit identifier
occupies bits [28:18] (R422, R428). -/
def canForm (f : CanFrame) : CanFrame :=
  { f with brs := f.fdf && f.brs, esi := f.fdf && f.esi, id := if f.ide then f.id else f.id / 2 ^ 18 * 2 ^ 18 }

/-- Copies that a swap at this cycle leaves to samples of slots already begun (R429): those younger than two frames, and one
more. -/
def State.canKept (s : State) (l : List CanRx) : List CanRx :=
  l.takeWhile (fun x => decide (s.cyc < x.cyc + 10000)) ++ (l.dropWhile (fun x => decide (s.cyc < x.cyc + 10000))).take 1

/-- A frame passes the filters (R428 to R431): the first matching buffer's active copy is replaced, or NOMATCH rises. -/
def State.canAccept (s : State) (k : Nat) (rtr : Bool) (f : CanFrame) (sec ns : Nat) : State :=
  match if rtr then none else (List.range 128).find? (fun i => s.canMatch k i f) with
  | none => s.bumpSat (canStat k) 31 16
  | some i =>
    let n := canLen f.fdf f.dlc
    let past := (tabFind s.canRx (rxKey k i)).toList
    let old := (past.map (·.seq)).headD 0
    let c : CanRx := ⟨{ f with data := (f.data ++ leBytes n 0).take n }, sec, ns, (old + 1) % 256, s.seq + 1, s.cyc⟩
    let s1 := { s with canRx := tabPut s.canRx (rxKey k i) c, seq := s.seq + 1,
                       canOld := tabPut s.canOld (rxKey k i) (s.canKept (past ++ tabGet [] s.canOld (rxKey k i))),
                       canNew := (List.range 4).foldl (fun l w => setIns l (newKey w k i)) s.canNew }
    let g := canBank k (Reg.RXB_SIG 0 i)
    if s1.flag g 31 then s1.plainSignal (s1.fld g 13 0) else s1

/-- Does the controller keep its error counters: restricted operation (ISO 11898-1)? -/
def State.canFrozen (s : State) (k : Nat) : Bool := s.flag (canCtrl k) 4

/-- A signal of controller `k` at its TX pad: none while the pad is held (R569) or in loopback (R439). -/
def State.canPad (s : State) (k : Nat) (m : OutMsg) : State :=
  if s.flag Reg.PAD_HOLD_STAT 2 || s.flag (canCtrl k) 3 then s else { s with out := s.out ++ [m] }

/-- CAN_FRAME_RECEIVED: a frame valid at the last but one bit of EOF; the sample point of its SOF lay `ago` nanoseconds
before. It is acknowledged, but with LOM; with LBK the controller does not hear its pad (R439). A reception counts REC down
(R437). -/
def execCanFrameReceived (k : Fin 8) (rtr : Bool) (f : CanFrame) (ago : Nat) (s : State) : Res :=
  if 2 ≤ s.canState k ∨ s.flag (canCtrl k) 3 then .next s
  else
    let t := s.tbBack ago / 2 ^ 32
    let s0 := if s.flag (canCtrl k) 2 then s else s.canPad k (.canAck k)
    let s1 := s0.canAccept k rtr (canForm f) (t / 1000000000) (t % 1000000000)
    let r := canStat k
    let rec0 := s1.fld r 55 48
    let (n, s2) := s1.choose 9
    let s3 := if s1.canFrozen k || rec0 == 0 then s1
      else if rec0 ≤ 127 then s1.canCount k (s1.fld r 63 56) (rec0 - 1)
      else s2.canCount k (s2.fld r 63 56) (119 + n)
    .next (s3.canFrameEnd k)

/-- The register image of a frame's header: ID, IDE, FDF, BRS, ESI, DLC. -/
def canHdr (f : CanFrame) : Nat :=
  f.id % 2 ^ 29 * 2 ^ 35 + 2 ^ 34 * boolNat f.ide + 2 ^ 33 * boolNat f.fdf + 2 ^ 32 * boolNat f.brs + 2 ^ 31 * boolNat f.esi
    + f.dlc % 16 * 2 ^ 27

/-- Nothing received. -/
def CanRx.none : CanRx := ⟨⟨0, false, false, false, false, 0, []⟩, 0, 0, 0, 0, 0⟩

/-- A read of RXB_HDR of buffer `i` through window `w` (R432): the latch, NEW cleared, and the value read. -/
def State.canLatchRead (s : State) (w i : Nat) : Nat × State :=
  let k := s.canSel w
  let c := tabGet CanRx.none s.canRx (rxKey k i)
  let new := s.canNew.contains (newKey w k i)
  (canHdr c.frame + 2 ^ 26 * boolNat new + c.seq % 256 * 2 ^ 18,
   { s with canLatch := tabPut s.canLatch w c, canNew := setDel s.canNew (newKey w k i) })

/-- RXB_HDR_LATCH: the host reads every window, another agent its own (R424, R432). -/
def execRxbHdrLatch (w : Who) (v : Fin 4) (i : Fin 128) (s : State) : Res :=
  let go := let x := s.canLatchRead v i; { x.2 with readData := x.1, readOk := true }
  match w with
  | .host fn =>
    match s.accessKind fn false (Reg.RXB_HDR v i) 64 0 with
    | some n => .next { s.accErr fn n false (Reg.RXB_HDR v i) with readData := 0, readOk := true }
    | none => .next go
  | _ => if whoWin w = v.val then .next go else .next s

/-! ## The transmit queue -/

def State.canQueue (s : State) (k : Nat) : List Nat := tabGet [] s.canQ k
def State.setCanQueue (s : State) (k : Nat) (l : List Nat) : State := { s with canQ := tabSet [] s.canQ k l }

/-- The claim number of template `t` of controller `k`. -/
def tplRes (k t : Nat) : Nat := 0x400 + 128 * k + t

/-- Is a template held by an agent other than window `w`'s (R433, R577)? -/
def State.tplDenied (s : State) (w k t : Nat) : Bool :=
  (s.holder (tplRes k t)).1 != 0 && (s.holder (tplRes k t)).1 != w + 1

/-- A request for a template through window `w`, or Tideline's own with `none` (R434): requests of one shore cycle stand in
the order Tideline, host, scheduler firmware, ICC, Lighthouse, so one goes before those that later agents have made in it. -/
def State.canRequest (s : State) (w : Option Nat) (k t : Nat) : State :=
  let rank := (w.map (· + 1)).getD 0
  let late := (s.canNow.filter (fun x => x.ctl == k && decide (rank < x.win))).map (·.tpl)
  let l := s.canQueue k
  if l.contains t && !(late.contains t) then s
  else
    let l1 := l.filter (· != t)
    let tail := (l1.reverse.takeWhile (fun x => late.contains x)).reverse
    { s.setCanQueue k (l1.take (l1.length - tail.length) ++ t :: tail) with
      canNow := s.canNow.filter (fun x => !(x.ctl == k && x.tpl == t)) ++ [⟨k, t, rank⟩] }

/-- A write to CAN_TXREQ through window `w` (R433, R434, R436). -/
def State.canTxreq (s : State) (w : Nat) (v : DWord) : State :=
  let k := s.canSel w
  let t := bitsOf v.toNat 6 0
  if bitOf v.toNat 31 then
    if (s.holder (tplRes k t)).1 = 5 ∨ !((s.canQueue k).contains t) then s.canWstat w 2
    else (s.setCanQueue k ((s.canQueue k).filter (· != t))).canWstat w 1
  else if s.tplDenied w k t then s.canWstat w 3
  else s.canRequest (some w) k t

/-- An agent's write to CAN_TXREQ through its window. -/
def State.canTxreqCmd (s : State) (w : Who) (v : DWord) : State :=
  s.whoWrite w (Reg.CAN_TXREQ (whoWin w)) 32 v (fun t => t.canTxreq (whoWin w) v)

def execCanTxRequest (w : Who) (t : Fin 128) (s : State) : Res := .next (s.canTxreqCmd w (BitVec.ofNat 64 t))
def execCanTxCancel (w : Who) (t : Fin 128) (s : State) : Res := .next (s.canTxreqCmd w (BitVec.ofNat 64 (t + 2 ^ 31)))

/-- A template's frame as it stands. -/
def State.canTpl (s : State) (k t : Nat) : CanFrame :=
  let h := (s.reg (canBank k (Reg.TPL_HDR 0 t))).toNat
  let fdf := bitOf h 33
  let n := canLen fdf (bitsOf h 30 27)
  let d := (List.range 16).flatMap (fun i => leBytes 4 (s.reg (canBank k (Reg.TPL_DATA 0 t i))).toNat)
  canForm ⟨bitsOf h 63 35, bitOf h 34, fdf, bitOf h 32, s.canState k == 1, bitsOf h 30 27, d.take n⟩

/-- The cycle of the sample point of a SOF bit that starts now: 1 + NSEG1 quanta of NBRP CAN cycles later (R426, R430). -/
def State.canSof (s : State) (k : Nat) : Nat :=
  let nbt := (s.reg (canBank k (Reg.CAN_NBT 0))).toNat
  s.cyc + ((2 + bitsOf nbt 24 17) * (bitsOf nbt 7 0 + 1) * 25 + 7) / 8

/-- The frames in transmission whose SOF has been sampled take their stamp (R430). -/
def State.canStamps (s : State) : State :=
  { s with canTx := s.canTx.map (fun (p : Nat × CanTx) =>
      (p.1, if p.2.stamp.isNone && decide (p.2.sof ≤ s.cyc) then { p.2 with stamp := some (s.tbS, s.tbNs) } else p.2)) }

/-- CAN_TX_START (R433, R435, R439): the head's frame is copied at the first bit of the attempt and goes out at the pad. -/
def execCanTxStart (k : Fin 8) (s : State) : Res :=
  let c := canCtrl k
  match s.canQueue k with
  | [] => .next s
  | t :: l =>
    if 2 ≤ s.canState k ∨ s.flag c 0 ∨ s.flag c 2 ∨ s.flag c 4 ∨ (tabFind s.canTx k).isSome then .next s
    else
      let f := s.canTpl k t
      .next ({ s.setCanQueue k l with canTx := tabPut s.canTx k ⟨t, f, s.canSof k, none⟩ }.canPad k (.can k f))

/-- The loop delay of a frame with BRS (R427); one measured earlier than TDCF is a glitch. -/
def State.canDelay (s : State) (k : Nat) (x : CanTx) : Option Nat → State
  | none => s
  | some d =>
    let r := canBank k (Reg.CAN_TDC 0)
    if s.flag r 31 && x.frame.brs && decide (s.fld r 14 8 ≤ d) then s.setFld r 22 16 (satNat 127 d) else s

/-- An error of a frame on the bus (R435, R437): a frame in transmission returns to the head as queued; a transmitter's error
counts 8 on TEC, a receiver's 1 on REC, each with the further counts of the standard and its exceptions. An error frame goes
out, but not with LOM or REST (R439). A loop delay measured before the error is published (R427). -/
def State.canError (s : State) (k : Nat) (e : CanErr) : State :=
  let r := canStat k
  let tx := tabFind s.canTx k
  let s1 : State := match tx with
    | some x => { (s.canDelay k x e.delay).setCanQueue k (x.tpl :: (s.canQueue k).filter (· != x.tpl)) with canTx := tabDel s.canTx k }
    | none => s
  if e.lost then s1
  else
    let s2 := if e.dataPhase then s1.setFld r 44 42 e.code else s1.setFld r 41 39 e.code
    let s3 := if s2.flag (canCtrl k) 2 || s2.flag (canCtrl k) 4 then s2 else s2.canPad k (.canErrorFrame k (s2.canState k == 0))
    let tec := s3.fld r 63 56
    let rec0 := s3.fld r 55 48
    let s4 := if s3.canFrozen k then s3
      else match tx with
        | some _ => s3.canCount k (tec + (if e.exempt then 0 else 8) + 8 * e.more) rec0
        | none => s3.canCount k tec (rec0 + (if e.exempt then 0 else 1) + 8 * e.more)
    s4.canFrameEnd k

/-- Is the loop delay of a transmission missing that TDCE asks for? A frame with BRS then meets a bit error: the dominant bit
after FDF was not seen (R427, Log 69). -/
def State.noDelay (s : State) (k : Nat) (x : CanTx) (delay : Option Nat) : Bool :=
  s.flag (canBank k (Reg.CAN_TDC 0)) 31 && x.frame.brs && delay.isNone

/-- CAN_TX_COMPLETE (R430, R437, R439): the template is stamped, TEC counts down, the entry is gone; with LBK the frame
passes the filters too. -/
def execCanTxComplete (k : Fin 8) (delay : Option Nat) (s : State) : Res :=
  match tabFind s.canTx k with
  | none => .next s
  | some x =>
    if s.noDelay k x delay then .next (s.canError k ⟨false, 5, false, false, 0, none⟩) else
    let st := x.stamp.getD (s.tbS, s.tbNs)
    let s1 := { s with canTx := tabDel s.canTx k }
    let s2 := (s1.setReg (canBank k (Reg.TPL_TS_S 0 x.tpl)) (BitVec.ofNat 64 st.1)).setReg
      (canBank k (Reg.TPL_TS_NS 0 x.tpl)) (BitVec.ofNat 64 st.2)
    let s3 := s2.canDelay k x delay
    let s4 := if s3.flag (canCtrl k) 3 then s3.canAccept k false x.frame st.1 st.2 else s3
    let r := canStat k
    let tec := s4.fld r 63 56
    .next ((if tec = 0 then s4 else s4.canCount k (tec - 1) (s4.fld r 55 48)).canFrameEnd k)

/-- CAN_BUS_ERROR: a lost arbitration or an error, of what is heard only outside loopback. -/
def execCanBusError (k : Fin 8) (e : CanErr) (s : State) : Res :=
  if 2 ≤ s.canState k ∨ ((tabFind s.canTx k).isNone ∧ s.flag (canCtrl k) 3) then .next s else .next (s.canError k e)

/-! ## Register views -/

/-- STATE of a template: 0 idle, 1 queued, 2 in transmission, 3 both. -/
def State.tplState (s : State) (k t : Nat) : Nat :=
  boolNat ((s.canQueue k).contains t) + 2 * boolNat (((tabFind s.canTx k).map (·.tpl)) == some t)

/-- CAN_TXQ of a controller: entries with the head in transmission, the head template, TX. -/
def State.canTxqView (s : State) (k : Nat) : Nat :=
  let l := s.canQueue k
  match tabFind s.canTx k with
  | some x => (l.length + 1) * 2 ^ 56 + 2 ^ 48 * x.tpl + 2 ^ 47
  | none => 2 ^ 56 * l.length + l.headD 0 * 2 ^ 48

/-- A write to a template through window `w` (R433). -/
def State.canTplWrite (s : State) (w t off : Nat) (v : DWord) : State :=
  let k := s.canSel w
  if s.tplDenied w k t then s.canWstat w 3 else s.hostSet (canBank k off) v

end Sys2Proof.Machine
end

