-- ==== Sys2Proof/Machine/Causeway.lean ====
section
/-! DEFINITION. The causeway (R450, R456 to R468): links, HELLO, credits, slots, packets and their acknowledgement, the
proxy's requester side. -/
namespace Sys2Proof.Machine

/-! ## Links (R450, Table 15.1) -/

/-- The TX and RX corrections of a mode, in 2^-16 ns. -/
def cwModeCorr (mode : Nat) : Int × Int :=
  match mode with
  | 0 => (2719744, 6356992)
  | 1 => (3014656, 7110656)
  | _ => (3637248, 8126464)

/-- CW_LINK_UP: LINK and AN, and the stamp corrections of the mode with ADJ. -/
def execCwLinkUp (q : Fin 8) (s : State) : Res :=
  if !(s.flag Reg.NET_CW_CFG 63) || decide (s.cwPorts ≤ q) then .next s
  else
    let m := cwModeCorr (min 2 (s.fld Reg.NET_CW_CFG 62 61))
    let a := Reg.NET_CW_PORT_ADJ q
    let c := (m.1 + signedOf 32 (s.fld a 63 32), m.2 + signedOf 32 (s.fld a 31 0))
    .next { s.setFld (Reg.NET_CW_PORT_STAT q) 63 62 3 with cwCorr := tabPut s.cwCorr q c }

/-- CW_LINK_DOWN: LINK and AN clear, and the port's LEARNED bit of every route (R459). -/
def execCwLinkDown (q : Fin 8) (s : State) : Res :=
  let s1 := s.setFld (Reg.NET_CW_PORT_STAT q) 63 62 0
  .next ((List.range 64).foldl (fun t d => t.setFlag (Reg.NET_ROUTE d) (8 + q) false) s1)

/-! ## Paths (R464) -/

/-- RTO_US in shore cycles, and RETRY_MAX; 0 acts as 1. -/
def State.cwRto (s : State) : Nat := 500 * max 1 (s.fld Reg.NET_CW_XPORT 15 0)
def State.cwRetry (s : State) : Nat := max 1 (s.fld Reg.NET_CW_XPORT 23 20)

/-- The signed distance from one 32-bit number to another. -/
def seqDiff (a b : Nat) : Int := signedOf 32 (a + 2 ^ 32 - b % 2 ^ 32)

/-- Packets of a path sent anew on the other ports of their device, in PSN order; what cannot move stays. -/
def State.movePkts (s : State) (q d : Nat) : State :=
  (s.path q d).unacked.foldl (fun t u =>
    if u.void then t
    else match t.portsTo d q with
      | [] => t
      | q2 :: _ =>
        let x := t.path q d
        let go := fun (v : CwUnack) =>
          if v.pkt.psn = u.pkt.psn then { v with typ := 1, void := true, pkt := { v.pkt with data := [], offset := 0 } } else v
        (t.setPath q d { x with unacked := x.unacked.map go }).sendPath q2 d u.typ u.pkt) s

/-- A path is down: DOWN, its record, its packets to the other ports. -/
def State.pathDown (s : State) (q d : Nat) : State :=
  ((s.setFlag (Reg.NET_ROUTE d) (16 + q) true).fwLog 5 0 2 0x0703 (leBytes 1 q ++ leBytes 1 d)).movePkts q d

/-- A packet of a path sent again: RETX rises; a port without link sends nothing. -/
def State.resend (s : State) (q d : Nat) (u : CwUnack) : State :=
  let x := s.path q d
  let go := fun (v : CwUnack) => if v.pkt.psn = u.pkt.psn then { v with sent := s.cyc, tries := v.tries + 1 } else v
  let s1 := (s.setPath q d { x with unacked := x.unacked.map go }).bumpSat Reg.NET_CW_STAT 15 0
  if s1.portUp q then s1.emitPkt q u.typ u.pkt else s1

/-- The picked packets of a path are retransmitted; one already sent RETRY_MAX times again takes the path down. -/
def State.retransmit (s : State) (q d : Nat) (due : CwUnack → Bool) : State :=
  let l := (s.path q d).unacked.filter due
  if l = [] then s
  else if s.flag (Reg.NET_ROUTE d) (16 + q) then s.movePkts q d
  else if l.any (fun u => decide (s.cwRetry ≤ u.tries)) then s.pathDown q d
  else l.foldl (fun t u => t.resend q d u) s

/-- RETRANSMIT_TIMEOUT: what has not been acknowledged within RTO_US. -/
def execRetransmitTimeout (q : Fin 8) (d : Fin 64) (s : State) : Res :=
  .next (s.retransmit q d (fun u => decide (u.sent + s.cwRto ≤ s.cyc)))

/-- A packet with a PSN on a path: `none` for a duplicate. -/
def CwPath.accept (p : CwPath) (psn : Nat) : Option CwPath :=
  if seqDiff psn p.rx < 0 ∨ p.ooo.contains psn then none
  else
    let o := setIns p.ooo psn
    let run := ((List.range (o.length + 1)).find? (fun i => !(o.contains ((p.rx + i) % 2 ^ 32)))).getD 0
    let rx := (p.rx + run) % 2 ^ 32
    some { p with rx := rx, ooo := o.filter (fun n => decide (0 < seqDiff n rx)) }

/-- An acknowledgement falls due within 8 packets or 1 µs. -/
def CwPath.owe (p : CwPath) (now : Nat) : CwPath :=
  { p with owed := p.owed + 1, since := if p.owed = 0 then now else p.since }

/-- ACK_SEND: the cumulative PSN and the bitmap of those that follow. -/
def execAckSend (q : Fin 8) (d : Fin 64) (s : State) : Res :=
  let p := s.path q d
  if p.owed = 0 ∨ (p.owed < 8 ∧ s.cyc < p.since + 500) ∨ !(s.portUp q) then .next s
  else
    let arg := (p.rx + 2 ^ 32 - 1) % 2 ^ 32
    let map := (List.range 32).foldl (fun a i => if p.ooo.contains ((arg + 1 + i) % 2 ^ 32) then a + 2 ^ i else a) 0
    .next ((s.setPath q d { p with owed := 0 }).emitPkt q 3 { s.pkt q d with arg := arg, arg2 := map })

/-! ## Packets received (R457, R460) -/

/-- Is a packet accepted: the frame addressed to the port, of this system and to this device? -/
def State.cwAccept (s : State) (m : CwPkt) : Bool :=
  m.mine && m.system == s.cwSystem && m.dst == s.devNum && decide (m.src < 64)

/-- A packet for this port: another causeway frame is counted in FOREIGN; a port that is down receives nothing. -/
def State.cwRecv (s : State) (q : Nat) (m : CwPkt) (f : State → State) : Res :=
  if !(s.portUp q) then .next s
  else if s.cwAccept m then .next (f s)
  else .next (s.bumpSat Reg.NET_CW_STAT 63 48)

/-- A packet with a PSN: acknowledged, and given its effect when it is no duplicate. -/
def State.cwSeq (s : State) (q : Nat) (m : CwPkt) (f : State → State) : State :=
  let p := (s.path q m.src).owe s.cyc
  match p.accept m.psn with
  | none => s.setPath q m.src p
  | some x => f (s.setPath q m.src x)

/-! ## HELLO (R459) -/

/-- HELLO_MS in shore cycles; 0 acts as 1. -/
def State.helloPeriod (s : State) : Nat := 500000 * max 1 (s.fld Reg.NET_CW_XPORT 31 24)

/-- HELLO_SEND: a period since the port's latest. -/
def execHelloSend (q : Fin 8) (s : State) : Res :=
  let due := match tabFind s.helloSent q with
    | some t => decide (t + s.helloPeriod ≤ s.cyc)
    | none => true
  if s.portUp q && due then .next ({ s with helloSent := tabPut s.helloSent q s.cyc }.emitPkt q 0 (s.pkt q 0)) else .next s

/-- A HELLO on its path: LEARNED, DOWN clear, and what was stranded on the path goes out again. -/
def State.helloPath (s : State) (q d : Nat) : State :=
  let r := Reg.NET_ROUTE d
  let down := s.flag r (16 + q)
  let s1 := { (s.setFlag r (8 + q) true).setFlag r (16 + q) false with helloAt := tabPut s.helloAt (pathKey q d) s.cyc }
  if !down then s1
  else
    let x := s1.path q d
    let s2 := s1.setPath q d { x with unacked := x.unacked.map (fun u => { u with tries := 0 }) }
    x.unacked.foldl (fun t u => t.resend q d u) s2

/-- HELLO_RECEIVED; one whose frame is not for this port is FOREIGN (R457). -/
def execHelloReceived (q : Fin 8) (m : CwPkt) (s : State) : Res :=
  if s.portUp q && !m.mine then .next (s.bumpSat Reg.NET_CW_STAT 63 48)
  else if !(s.portUp q) || m.system != s.cwSystem || decide (64 ≤ m.src) then .next s
  else
    let s1 := if m.src = s.devNum then
      (s.setFlag (Reg.NET_ROUTE m.src) 24 true).fwLog 5 0 3 0x0701 (leBytes 1 q ++ leBytes 1 m.src) else s
    .next (if m.sport = q then s1.helloPath q m.src else s1.bumpSat Reg.NET_CW_STAT 47 32)

/-- HELLO_TIMEOUT: three periods without a HELLO on a path. -/
def execHelloTimeout (q : Fin 8) (d : Fin 64) (s : State) : Res :=
  if tabGet 0 s.helloAt (pathKey q d) + 3 * s.helloPeriod ≤ s.cyc then
    .next (s.setFlag (Reg.NET_ROUTE d) (8 + q) false)
  else .next s

/-! ## Credits (R461) -/

/-- A CREDIT packet of receive side `c` on a usable port of its source; with none it is sent at a later repeat. -/
def State.sendCredit (s : State) (c : Nat) : State :=
  let r := Reg.NET_CH_RECV c
  let d := s.fld r 37 32
  let x := s.cwRxOf c
  let s0 := s.setCwRx c { x with sent := s.cyc }
  match s.recvRing c, s0.portsTo d 7 with
  | some (_, ring), q0 :: l =>
    let (i, s1) := s0.choose (l.length + 1)
    let q := (q0 :: l).getD i q0
    s1.emitPkt q 4 { s1.pkt q d with sch := c, dch := s1.fld r 7 0, arg := x.granted % 2 ^ 32, arg2 := ring.slotBytes }
  | _, _ => s0

/-- CREDIT_GRANT: the EMPTY slot at the reserve pointer is reserved and granted. -/
def execCreditGrant (c : Fin 256) (s : State) : Res :=
  match s.recvRing c with
  | none => .next s
  | some (k, ring) =>
    if ring.at ring.rsv == .e then
      let x := s.cwRxOf c
      let s1 := s.setRing k (s.fld (Reg.NET_CH_RECV c) 51 48) ring.doReserve
      .next ((s1.setCwRx c { x with granted := x.granted + 1 }).sendCredit c)
    else .next s

/-- CREDIT_REPEAT: every 10 µs while credits are unused. -/
def execCreditRepeat (c : Fin 256) (s : State) : Res :=
  let x := s.cwRxOf c
  if x.done < x.granted ∧ x.sent + 5000 ≤ s.cyc ∧ (s.recvRing c).isSome then .next (s.sendCredit c) else .next s

/-- CREDIT_RECEIVED: the granted count rises. -/
def execCreditReceived (q : Fin 8) (m : CwPkt) (s : State) : Res :=
  s.cwRecv q m (fun t =>
    let r := Reg.NET_CH_SEND m.dch
    if 256 ≤ m.dch ∨ !(t.flag r 63) ∨ t.fld r 37 32 ≠ m.src ∨ t.fld r 7 0 ≠ m.sch then t
    else
      let x := t.cwTxOf m.dch
      let up := seqDiff m.arg x.credits
      t.setCwTx m.dch { x with credits := x.credits + up.toNat, size := m.arg2 })

/-! ## Sending slots (R462, R463) -/

/-- The segment bytes of a slot header: blocks of 32 elements and a scale byte (R81). -/
def cwSegment (hd : List Byte) : Nat := 33 * recNat hd 6 2

/-- The checks of R462 on a slot header. -/
def cwHeaderOk (hd : List Byte) (slot credit : Nat) : Bool :=
  let len := recNat hd 0 4
  let kind := recNat hd 4 1
  let code := recNat hd 5 1
  let blocks := recNat hd 6 2
  recZero hd 13 1 && recZero hd 40 24 && decide (len + 64 ≤ slot) && decide (len + 64 ≤ credit)
    && (if kind = 0 then decide (code ≤ 2) && decide (1 ≤ blocks) && decide (blocks ≤ 64) && len % 33 == 0
        else kind == 1 && code == 0 && blocks == 0)

/-- The greatest data packet of a slot: whole segments within 2,112 bytes for KIND 0. -/
def cwCut (hd : List Byte) : Nat := if recNat hd 4 1 = 0 then cwSegment hd * (2112 / cwSegment hd) else 2112

/-- The payload cut into (offset, bytes). -/
def cwPieces (cut off : Nat) (l : List Byte) : Nat → List (Nat × List Byte)
  | 0 => []
  | fuel + 1 => if l = [] then [] else (off, l.take cut) :: cwPieces cut (off + cut) (l.drop cut) fuel

/-- One packet of a channel on the next port of its destination in turn. -/
def State.cwSendPkt (s : State) (c typ off : Nat) (bs : List Byte) : State :=
  let r := Reg.NET_CH_SEND c
  let x := s.cwTxOf c
  let d := s.fld r 37 32
  match s.portsTo d x.port with
  | [] => s
  | q :: _ =>
    (s.setCwTx c { x with port := q }).sendPath q d typ
      { s.pkt q d with prio := s.fld r 47 45, sch := c, dch := s.fld r 7 0, slot := x.n % 65536, offset := off, data := bs }

/-- The acquired slot of send side `c`, whose bytes are given, sent: its data packets, then its header with the stamp of
the first packet. -/
def State.cwSendSlot (s : State) (c : Nat) (hd body : List Byte) : State :=
  let q := (s.portsTo (s.fld (Reg.NET_CH_SEND c) 37 32) (s.cwTxOf c).port).headD 0
  let st := s.ethStamp (tabGet (0, 0) s.cwCorr q).1
  let s1 := (cwPieces (cwCut hd) 0 body (body.length + 1)).foldl (fun t p => t.cwSendPkt c 1 p.1 p.2) s
  let s2 := s1.cwSendPkt c 2 0 (hd.take 12 ++ leBytes 4 0 ++ timeBytes st.1 st.2.1 ++ leBytes 12 0 ++ leBytes 24 0)
  s2.setCwTx c { s2.cwTxOf c with cur := some (true, body.length) }

/-- A bad slot: released without being sent, BAD and a record. -/
def State.cwBadSlot (s : State) (c k h : Nat) : State :=
  let x := s.cwTxOf c
  let s1 := ((s.ringRelease k h).2.setCwTx c { x with cur := none }).bumpSat Reg.NET_CW_STAT 31 16
  s1.fwLog 5 0 2 0x0702 (leBytes 2 c ++ leBytes 2 (x.n % 65536))

/-- The slot a send side holds unsent: sent when a port is usable, else held (R465). -/
def State.cwTrySend (s : State) (c k : Nat) (ring : Ring) : State :=
  let r := Reg.NET_CH_SEND c
  let a := ring.hbrSlot (s.fld r 62 60) ring.tail
  match s.readPhys 0 a 64 with
  | (none, s1) => s1.cwBadSlot c k (s.fld r 51 48)
  | (some hd, s1) =>
    if !(cwHeaderOk hd ring.slotBytes (s1.cwTxOf c).size) then s1.cwBadSlot c k (s.fld r 51 48)
    else match s1.readPhys 0 (a + 64) (recNat hd 0 4) with
      | (none, s2) => s2.cwBadSlot c k (s.fld r 51 48)
      | (some body, s2) => if s2.portsTo (s2.fld r 37 32) 7 = [] then s2 else s2.cwSendSlot c hd body

/-- CW_SLOT_SEND. -/
def execCwSlotSend (c : Fin 256) (s : State) : Res :=
  match s.sendRing c with
  | none => .next s
  | some (k, ring) =>
    let h := s.fld (Reg.NET_CH_SEND c) 51 48
    let x := s.cwTxOf c
    match x.cur with
    | some (true, _) => .next s
    | some (false, _) => .next (s.cwTrySend c k ring)
    | none =>
      if ring.at ring.acq == .f && decide (x.n < x.credits) then
        let ring1 := ring.doAcquire
        let s1 := (s.setRing k h ring1).setCwTx c { x with cur := some (false, 0) }
        .next (s1.cwTrySend c k ring1)
      else .next s

/-- The payload bytes of a context's causeway slots (ACCT4, R467). -/
def State.cwAcct (s : State) (ctx n : Nat) : State :=
  s.setReg (Reg.SCH_CTX_ACCT ctx 4) (s.reg (Reg.SCH_CTX_ACCT ctx 4) + BitVec.ofNat 64 n)

/-- The slots of which every packet has been acknowledged are released: SENT rises. -/
def State.cwReleaseSent (s : State) : State :=
  (s.cwTx.map (·.1)).foldl (fun t c =>
    let x := t.cwTxOf c
    match x.cur, t.sendRing c with
    | some (true, len), some (k, _) =>
      if t.cwPath.any (fun p => p.2.unacked.any (fun u => u.of c x.n)) then t
      else
        let r := Reg.NET_CH_SEND c
        let s1 := (t.ringRelease k (t.fld r 51 48)).2.setCwTx c { x with cur := none, n := x.n + 1 }
        (s1.bumpMod (Reg.NET_CH_STAT c) 63 48).cwAcct (s1.fld r 59 52) len
    | _, _ => t) s

/-- Is a PSN acknowledged by a cumulative PSN and a bitmap? -/
def ackedBy (arg map psn : Nat) : Bool :=
  let i := seqDiff psn arg
  decide (i ≤ 0) || (decide (i ≤ 32) && bitOf map (i.toNat - 1))

/-- ACK_RECEIVED: acknowledged packets are retired, those reported missing sent again. -/
def execAckReceived (q : Fin 8) (m : CwPkt) (s : State) : Res :=
  s.cwRecv q m (fun t =>
    let p := t.path q m.src
    let top := ((List.range 32).filter (fun i => bitOf m.arg2 i)).getLast?
    let t1 := t.setPath q m.src { p with unacked := p.unacked.filter (fun u => !(ackedBy m.arg m.arg2 u.pkt.psn)) }
    let t2 := match top with
      | none => t1
      | some i => t1.retransmit q m.src (fun u => decide (seqDiff u.pkt.psn m.arg ≤ (i : Int)))
    t2.cwReleaseSent)

/-! ## Receiving slots (R463) -/

/-- Slots that have fully arrived are committed in order. -/
def State.cwCommit (s : State) (c : Nat) : Nat → State
  | 0 => s
  | fuel + 1 =>
    let x := s.cwRxOf c
    let r := Reg.NET_CH_RECV c
    match x.slots.find? (fun y => y.n == x.done), s.recvRing c with
    | some y, some (k, ring) =>
      match y.hdr with
      | none => s
      | some hd =>
        let len := recNat hd 0 4
        if (y.got.map (·.2)).sum < len then s
        else
          let full := hd.take 12 ++ leBytes 1 (s.fld r 37 32) ++ leBytes 1 0 ++ leBytes 2 (y.n % 65536) ++ (hd.drop 16).take 12
            ++ timeBytes s.tbS s.tbNs ++ leBytes 24 0
          let s1 := (s.writePhys 4 (ring.hbrSlot (s.fld r 62 60) ring.head) full).2
          let s2 := (s1.ringCommit k (s.fld r 51 48)).2.setCwRx c
            { x with done := x.done + 1, slots := x.slots.filter (fun z => z.n != y.n) }
          let s3 := (s2.bumpMod (Reg.NET_CH_STAT c) 47 32).cwAcct (s.fld r 59 52) len
          (if s3.flag r 47 then s3.plainSignal (s3.fld r 29 16) else s3).cwCommit c fuel
    | _, _ => s

/-- The full number of the slot a packet names, nearest to the next one to commit; `none` for one committed already. -/
def CwRx.slotOf (x : CwRx) (slot : Nat) : Option Nat :=
  let n := (x.done : Int) + signedOf 16 (slot + 65536 - x.done % 65536)
  if n < x.done then none else some n.toNat

/-- Does a channel's receive side accept a packet's source (R460)? -/
def State.cwFrom (s : State) (m : CwPkt) : Bool :=
  let r := Reg.NET_CH_RECV m.dch
  decide (m.dch < 256) && s.flag r 63 && s.fld r 37 32 == m.src && s.fld r 7 0 == m.sch

/-- A DATA or HEADER packet put into its slot. -/
def State.cwPlace (s : State) (m : CwPkt) (header : Bool) (n : Nat) : State :=
  let c := m.dch
  let x := s.cwRxOf c
  match s.recvRing c with
  | none => s
  | some (_, ring) =>
    let y := (x.slots.find? (fun z => z.n == n)).getD ⟨n, [], none⟩
    let room := decide (64 + m.offset + m.data.length ≤ ring.slotBytes)
    let i := (ring.head + (n - x.done)) % ring.slots
    let y1 := if header then { y with hdr := some m.data }
      else if m.data = [] ∨ !room ∨ y.got.any (fun g => g.1 == m.offset) then y
      else { y with got := y.got ++ [(m.offset, m.data.length)] }
    let s1 := if header || !room || m.data == [] then s
      else (s.writePhys 4 (ring.hbrSlot (s.fld (Reg.NET_CH_RECV c) 62 60) i + 64 + m.offset) m.data).2
    let s2 := s1.setCwRx c { x with slots := x.slots.filter (fun z => z.n != n) ++ [y1] }
    s2.cwCommit c (x.slots.length + 2)

/-- A DATA or HEADER packet: into a credited slot; another source's is discarded, a side that does not resolve takes
nothing, so that the sender keeps it. -/
def State.cwSlotPkt (s : State) (q : Nat) (m : CwPkt) (header : Bool) : State :=
  if !(s.cwFrom m) then s.cwSeq q m (fun t => t.bumpSat Reg.NET_CW_STAT 63 48)
  else if (s.recvRing m.dch).isNone then s
  else match (s.cwRxOf m.dch).slotOf m.slot with
    | none => s.cwSeq q m id
    | some n =>
      if m.data = [] ∧ !header then s.cwSeq q m id
      else if (s.cwRxOf m.dch).granted ≤ n then s
      else s.cwSeq q m (fun t => t.cwPlace m header n)

/-- CW_DATA_RECEIVED. -/
def execCwDataReceived (q : Fin 8) (m : CwPkt) (s : State) : Res := s.cwRecv q m (fun t => t.cwSlotPkt q m false)

/-- CW_HEADER_RECEIVED. -/
def execCwHeaderReceived (q : Fin 8) (m : CwPkt) (s : State) : Res := s.cwRecv q m (fun t => t.cwSlotPkt q m true)

/-- CW_ABORT_RECEIVED: the slot's partial data is discarded (R467). -/
def execCwAbortReceived (q : Fin 8) (m : CwPkt) (s : State) : Res :=
  s.cwRecv q m (fun t =>
    if !(t.cwFrom m) then t
    else
      let x := t.cwRxOf m.dch
      match x.slotOf m.slot with
      | none => t
      | some n => t.setCwRx m.dch { x with slots := x.slots.filter (fun z => z.n != n) })

/-! ## The state of a channel's sides (Table 15.8) -/

/-- SSTATE: 0 disabled, 1 unresolved, 2 idle, 3 waiting for credit, 4 sending, 5 NOPATH. -/
def State.chSend (s : State) (c : Nat) : Nat :=
  let r := Reg.NET_CH_SEND c
  let x := s.cwTxOf c
  if !(s.flag r 63) then 0
  else match s.sendRing c with
    | none => 1
    | some (_, ring) =>
      if x.cur.isSome && s.portsTo (s.fld r 37 32) 7 == [] then 5
      else if x.cur.isSome then 4
      else if ring.at ring.acq == .f && decide (x.credits ≤ x.n) then 3
      else 2

/-- RSTATE: 0 disabled, 1 unresolved, 2 idle, 3 assembling. -/
def State.chRecv (s : State) (c : Nat) : Nat :=
  if !(s.flag (Reg.NET_CH_RECV c) 63) then 0
  else if (s.recvRing c).isNone then 1
  else if (s.cwRxOf c).slots = [] then 2
  else 3

/-- A write to a channel side's register: its other fields only while EN is 0 (R474); with EN written 0 the side's
transport state is gone, and it starts again at slot 0. -/
def State.chWrite (s : State) (off c : Nat) (recv : Bool) (v : DWord) : State :=
  let was := s.flag off 63
  let s1 := if was then s.setFlag off 63 (bitOf v.toNat 63) else s.hostSet off v
  if s1.flag off 63 then s1
  else if recv then { s1 with cwRx := tabDel s1.cwRx c }
  else { s1.voidPkts (fun u => (u.typ == 1 || u.typ == 2) && u.pkt.sch == c) with cwTx := tabDel s1.cwTx c }

/-! ## Proxy, the requester (R468) -/

/-- A proxy access ends. -/
def State.pxyEnd (s : State) (err : Nat) : State :=
  (s.setFld Reg.NET_PXY_STAT 31 30 1).setFld Reg.NET_PXY_STAT 2 0 err

/-- A write to NET_PXY_CMD: the fields, and with GO, unless BUSY, an access. -/
def State.pxyWrite (s : State) (v : DWord) : State :=
  let r := Reg.NET_PXY_CMD
  let s1 := (s.hostSet r v).setFlag r 63 false
  let d := s1.fld r 53 48
  let wide := s1.flag r 60
  if !(bitOf v.toNat 63) || s.flag Reg.NET_PXY_STAT 31 then s1
  else if s1.fld r 25 0 % (if wide then 8 else 4) ≠ 0 ∨ (s1.flag r 61 && wide) then s1.pxyEnd 4
  else match s1.portsTo d 7 with
    | [] => s1.pxyEnd 1
    | q0 :: l =>
      let (i, s2) := s1.choose (l.length + 1)
      let q := (q0 :: l).getD i q0
      let id := (s2.pxyId + 1) % 2 ^ 32
      let s3 := { s2.setFlag Reg.NET_PXY_STAT 31 true with pxyId := id, pxyAt := s2.cyc }
      s3.sendPath q d 5 { s3.pkt q d with
        arg := id, data := beBytes 8 (s3.reg r).toNat ++ beBytes 8 (s3.reg Reg.NET_PXY_DATA).toNat }

/-- PROXY_ACCESS: a host write to NET_PXY_CMD with GO. -/
def execProxyAccess (fn : Fn) (val : DWord) (s : State) : Res :=
  .next (s.guardWrite fn Reg.NET_PXY_CMD 64 val (fun t => t.pxyWrite (val ||| BitVec.ofNat 64 (2 ^ 63))))

/-- PROXY_RESPONSE_RECEIVED: the outcome of the access that is open, and the data a read returns. -/
def execProxyResponseReceived (q : Fin 8) (m : CwPkt) (s : State) : Res :=
  s.cwRecv q m (fun t => t.cwSeq q m (fun u =>
    let r := Reg.NET_PXY_CMD
    if !(u.flag Reg.NET_PXY_STAT 31) ∨ m.arg ≠ u.pxyId ∨ m.src ≠ u.fld r 53 48 then u
    else
      let err := leNat (m.data.take 8).reverse % 8
      let s1 := u.pxyEnd err
      if err = 0 ∧ !(s1.flag r 62) then
        s1.setReg Reg.NET_PXY_DATA (BitVec.ofNat 64 (leNat ((m.data.drop 8).take 8).reverse))
      else s1))

/-- PROXY_TIMEOUT: no response within 1 ms. -/
def execProxyTimeout (s : State) : Res :=
  if s.flag Reg.NET_PXY_STAT 31 && decide (s.pxyAt + 500000 ≤ s.cyc) then .next (s.pxyEnd 3) else .next s

end Sys2Proof.Machine
end

