-- ==== Sys2Proof/Machine/Net.lean ====
section
/-! DEFINITION. The sensor Ethernet ports (R449 to R455, Tables 15.2 and 15.8). -/
namespace Sys2Proof.Machine

/-! ## Frames -/

/-- The big-endian value of `n` bytes at an offset. -/
def beAt (f : List Byte) (off n : Nat) : Nat := leNat ((f.drop off).take n).reverse

/-- What a port reads of a frame: tag and VID, the EtherType after any tag, the UDP destination port; `twoTags` where a
second tag follows. -/
structure EthHead where
  dst : Nat
  tagged : Bool
  vid : Nat
  etype : Nat
  udp : Option Nat
  twoTags : Bool
  deriving DecidableEq, Repr

/-- The UDP destination port of an IPv4 or IPv6 packet at an offset: of an unfragmented packet or of the first fragment. -/
def udpPort (f : List Byte) (etype o : Nat) : Option Nat :=
  if etype = 0x0800 then
    let ihl := 4 * (beAt f o 1 % 16)
    if beAt f (o + 9) 1 = 17 ∧ beAt f (o + 6) 2 % 0x2000 = 0 then some (beAt f (o + ihl + 2) 2) else none
  else if etype = 0x86DD then
    if beAt f (o + 6) 1 = 17 then some (beAt f (o + 42) 2) else none
  else none

def EthHead.of (f : List Byte) : EthHead :=
  let tag := beAt f 12 2 == 0x8100
  let o := if tag then 18 else 14
  let ety := beAt f (o - 2) 2
  ⟨beAt f 0 6, tag, beAt f 14 2 % 4096, ety, udpPort f ety o, tag && ety == 0x8100⟩

/-- A frame header (Table 15.2). -/
def ethHeader (len port flags off : Nat) (st : Nat × Nat × Nat) : List Byte :=
  leBytes 2 len ++ leBytes 1 port ++ leBytes 1 flags ++ leBytes 2 off ++ leBytes 2 0 ++ timeBytes st.1 st.2.1
    ++ leBytes 2 st.2.2 ++ leBytes 10 0

/-! ## Receiving -/

/-- Does a port accept a destination (R452)? -/
def State.ethDst (s : State) (p dst : Nat) : Bool :=
  dst == s.fld (Reg.NET_SP_CFG p) 47 0 || dst == 0xFFFFFFFFFFFF || (s.flag (Reg.NET_SP_CFG p) 62 && bitOf dst 40)

/-- Does binding `r` of a port match a frame (R453)? -/
def State.ethMatch (s : State) (p r : Nat) (h : EthHead) : Bool :=
  let g := Reg.NET_SP_RX_MATCH p r
  let ety := s.fld g 47 32
  let udp := s.fld g 31 16
  s.flag g 63 && (!(s.flag g 62) || (h.tagged && h.vid == s.fld g 59 48)) && (ety == 0 || ety == h.etype)
    && (udp == 0 || h.udp == some udp)

/-- The harbour ring of a receive binding, with its island. -/
def State.ethRing (s : State) (p r : Nat) : Option (Nat × Ring) :=
  let g := Reg.NET_SP_RX_RING p r
  s.shoreRing (s.fld g 63 61) (s.fld g 60 53) (s.fld g 52 49) true

/-- The slot a binding fills is committed: after a terminator where room is left, with the signal of SIG_EN (R454). -/
def State.ethCommit (s : State) (p r : Nat) : State :=
  let k := 8 * p + r
  let g := Reg.NET_SP_RX_RING p r
  match tabFind s.ethRx k, s.ethRing p r with
  | some x, some (c, ring) =>
    let s1 := if x.off + 32 ≤ ring.slotBytes then
      (s.writePhys 4 (ring.hbrSlot (s.fld g 63 61) ring.head + x.off) (leBytes 32 0)).2 else s
    let s2 := { (s1.ringCommit c (s.fld g 52 49)).2 with ethRx := tabDel s1.ethRx k }
    if s2.flag g 48 then s2.plainSignal (s2.fld g 47 34) else s2
  | _, _ => s

/-- A frame with its header placed in the open slot at the binding's offset. -/
def State.ethPut (s : State) (p r : Nat) (bs : List Byte) : State :=
  let k := 8 * p + r
  let g := Reg.NET_SP_RX_RING p r
  match tabFind s.ethRx k, s.ethRing p r with
  | some x, some (_, ring) =>
    let s1 := (s.writePhys 4 (ring.hbrSlot (s.fld g 63 61) ring.head + x.off) bs).2
    { s1 with ethRx := tabPut s1.ethRx k { x with off := up64 (x.off + bs.length) } }
  | _, _ => s

/-- A frame for a binding: into the slot that is open where it fits, else into a new one; never waiting (R454). -/
def State.ethPlace (s : State) (p r : Nat) (bs : List Byte) : State :=
  let k := 8 * p + r
  let g := Reg.NET_SP_RX_RING p r
  let drop := fun (t : State) => t.bumpSat (Reg.NET_SP_STAT p) 47 32
  match s.ethRing p r with
  | none => drop s
  | some (_, ring0) =>
    if ring0.slotBytes < bs.length then drop s
    else
      let fits := match tabFind s.ethRx k with
        | some x => decide (x.off + bs.length ≤ ring0.slotBytes)
        | none => false
      if fits then s.ethPut p r bs
      else
        let s1 := s.ethCommit p r
        match s1.ethRing p r with
        | none => drop s1
        | some (c, ring) =>
          if ring.at ring.rsv == .e then
            let s2 := s1.setRing c (s1.fld g 52 49) ring.doReserve
            { s2 with ethRx := tabPut s2.ethRx k (EthRx.mk 0 s2.cyc) }.ethPut p r bs
          else drop s1

/-- A frame on causeway port `q` that is no causeway packet: PTP in Layer 2, or over UDP and IPv6 with ENCAP 1, is stamped
and kept for the time service (R446, R451); what else the port hears it discards. No binding names a causeway port. -/
def State.ptpFrame (s : State) (q : Nat) (data : List Byte) (ago : Nat) : State :=
  let h := EthHead.of data
  let udp := s.flag Reg.NET_CW_CFG 60 && h.etype == 0x86DD && (h.udp == some 319 || h.udp == some 320)
  if s.portUp q && (h.etype == 0x88F7 || udp) then
    { s with ptpRx := tabPut s.ptpRx q ⟨s.ethBack ago (tabGet (0, 0) s.cwCorr q).2, data⟩ }
  else s

/-- ETH_FRAME_RECEIVED on a port as TIME_PORT numbers them: 0 to 3 a sensor port, 8 to 15 causeway port 0 to 7 (R544). -/
def execEthFrameReceived (p : Fin 16) (bad : Bool) (data : List Byte) (ago : Nat) (s : State) : Res :=
  let h := EthHead.of data
  let stat := Reg.NET_SP_STAT p
  if 4 ≤ p.val then .next (if p.val < 8 || bad then s else s.ptpFrame (p.val - 8) data ago) else
  if !(s.flag (Reg.NET_SP_CFG p) 63) || !(s.flag stat 63) then .next s
  else if bad then .next (s.bumpSat stat 15 0)
  else if 9216 < data.length + 4 ∨ data.length < 14 ∨ h.twoTags ∨ !(s.ethDst p h.dst) then .next s
  else match (List.range 8).find? (fun r => s.ethMatch p r h) with
    | none => .next (s.bumpSat stat 31 16)
    | some r =>
      let st := s.ethBack ago (signedOf 32 (s.fld (Reg.NET_SP_CORR p) 31 0))
      .next (s.ethPlace p r (ethHeader data.length p (8 + boolNat h.tagged) 0 st ++ data))

/-- ETH_COALESCE_TIMEOUT: COAL_US microseconds since the slot's first frame have passed. -/
def execEthCoalesceTimeout (p : Fin 4) (r : Fin 8) (s : State) : Res :=
  match tabFind s.ethRx (8 * p + r) with
  | some x =>
    if x.since + 500 * s.fld (Reg.NET_SP_RX_RING p r) 15 0 ≤ s.cyc then .next (s.ethCommit p r) else .next s
  | none => .next s

/-! ## Sending -/

/-- A send slot being transmitted: the byte offset of the next header and when the frames still to be stamped leave. -/
def State.ethSend (s : State) (p base size : Nat) (sfd : List Nat) (off : Nat) : Nat → State
  | 0 => s
  | fuel + 1 =>
    let bad := fun (t : State) => t.bumpSat Reg.NET_CW_STAT 31 16
    if size < off + 32 then s
    else match s.readPhys 0 (base + off) 32 with
      | (none, s1) => s1
      | (some hd, s1) =>
        let len := recNat hd 0 2
        let flags := recNat hd 3 1
        if len = 0 then s1
        else if 16 ≤ flags ∨ !(recZero hd 6 2) ∨ !(recZero hd 22 10) ∨ size < off + 32 + len then bad s1
        else match s1.readPhys 0 (base + off + 32) len with
          | (none, s2) => s2
          | (some fr, s2) =>
            let one := bitOf flags 2
            let stamped := bitOf flags 1 || one
            let st := s2.ethStamp (signedOf 32 (s2.fld (Reg.NET_SP_CORR p) 63 32) + (sfd.headD 0 : Nat))
            let o := recNat hd 4 2
            let fr1 := if one then (fr.take o ++ beBytes 6 st.1 ++ beBytes 4 st.2.1).take len ++ fr.drop (o + 10) else fr
            let s3 := { s2 with out := s2.out ++ [OutMsg.frame p (fr1 ++ frameFcs fr1)] }
            let s4 := if stamped then
              (s3.writePhys 4 (base + off) (hd.take 3 ++ leBytes 1 (flags ||| 8) ++ (hd.drop 4).take 4
                ++ timeBytes st.1 st.2.1 ++ leBytes 2 st.2.2 ++ leBytes 10 0)).2 else s3
            s4.ethSend p base size (if stamped then sfd.tail else sfd) (up64 (off + 32 + len)) fuel

/-- ETH_TX_SLOT: the FULL slot at the acquire pointer is acquired, its frames transmitted, the slot released. `sfd` gives
when the start-of-frame delimiter of each stamped frame leaves, in 2^-16 ns from now. -/
def execEthTxSlot (p : Fin 4) (sfd : List Nat) (s : State) : Res :=
  let g := Reg.NET_SP_TX p
  let h := s.fld g 51 48
  if !(s.flag g 63) || !(s.flag (Reg.NET_SP_CFG p) 63) || !(s.flag (Reg.NET_SP_STAT p) 63) then .next s
  else match s.shoreRing (s.fld g 62 60) (s.fld g 59 52) h false with
    | none => .next s
    | some (c, ring) =>
      if ring.at ring.acq == .f then
        let s1 := s.setRing c h ring.doAcquire
        let s2 := s1.ethSend p (ring.hbrSlot (s.fld g 62 60) ring.acq) ring.slotBytes sfd 0 (ring.slotBytes / 64 + 1)
        .next (s2.ringRelease c h).2
      else .next s

/-- SENSOR_LINK_CHANGE: the PHY's word announces the link and its rate (R452). -/
def execSensorLinkChange (p : Fin 4) (up : Bool) (rate : Fin 4) (s : State) : Res :=
  .next ((s.setFlag (Reg.NET_SP_STAT p) 63 up).setFld (Reg.NET_SP_STAT p) 62 61 (if up then rate else 0))

end Sys2Proof.Machine
end

