-- ==== Sys2Proof/Machine/Power.lean ====
section
/-! DEFINITION. Voltage, power and temperature: the floor monitor (R44 to R46, R49), the power limit (R47), admission
throttling (R48), the thermal emergency (R570 to R572). Time-driven commands act when their instant has come. -/
namespace Sys2Proof.Machine

/-! ## The floor monitor -/

/-- The lower of two samples of a window: replica rate and millivolts apart. -/
def minSample (a b : Nat × Nat) : Nat × Nat := (min a.1 b.1, min a.2 b.2)

/-- The window minimum of island `n` with one more sample. -/
def State.beatSample (s : State) (n : Nat) (x : Nat × Nat) : State :=
  { s with beatMin := tabPut s.beatMin n (match tabFind s.beatMin n with
    | some m => minSample m x
    | none => x) }

/-- The report of R49: BELOW_STICKY, PF vector 2, the log record, the event. -/
def State.floorLoss (s : State) (n rate mv : Nat) : State :=
  let s1 := s.setFlag Reg.PWR_FLOOR_STAT n true
  let s2 := if s1.flag Reg.PWR_BEAT_CTRL 15 then s1.raise 0 2 else s1
  let s3 := s2.fwLog 1 0 2 0x0101 (leBytes 1 n ++ leBytes 1 0 ++ leBytes 2 mv ++ leBytes 2 rate)
  s3.event 0x07 2 n (leBytes 2 0 ++ leBytes 2 mv ++ leBytes 2 rate)

/-- FLOOR_SAMPLE: island `n`'s replica rate in 1 M beats/s and sensed VDD_ISL in mV. BELOW_NOW is 0 for a gated island. -/
def execFloorSample (n : IslandId) (rate mv : Nat) (s : State) : Res :=
  let r := Reg.PWR_FLOOR_STAT
  if !(s.islandOn n) then .next ((s.setFlag r (8 + n) false).beatSample n (0, mv))
  else
    let below := decide (rate < s.fld Reg.PWR_BEAT_CTRL 31 16) || decide (mv < max 600 (s.fld Reg.PWR_BEAT_CTRL 13 4))
    let was := s.flag r (8 + n)
    let s1 := (s.setFlag r (8 + n) below).beatSample n (rate, mv)
    .next (if below && !was then s1.floorLoss n rate mv else s1)

/-- Island `n`'s window: the cycle at which it started and its WIN_EXP; the first starts at reset with the reset value. -/
def State.window (s : State) (n : Nat) : Nat × Nat := tabGet (0, 7) s.beatWin n

/-- The cycle at which island `n`'s window ends: after 10 µs × 2^WIN_EXP, 14 and 15 acting as 13 (R44). -/
def State.windowEnd (s : State) (n : Nat) : Nat := (s.window n).1 + 5000 * 2 ^ min 13 (s.window n).2

/-- The lowest samples of island `n`'s window; a window in which none came holds free values. -/
def State.windowMin (s : State) (n : Nat) : (Nat × Nat) × State :=
  match tabFind s.beatMin n with
  | some m => (m, s)
  | none =>
    let (a, s1) := s.choose 65536
    let (b, s2) := s1.choose 65536
    ((a, b), s2)

/-- BEAT_WINDOW_END, once the window has lasted its time: the whole register of island `n` takes the window's lowest samples
and beat count, REPLICA_RATE 0 where the island was gated at any time in it, and WIN_EXP as it stands rules the next
window. -/
def execBeatWindowEnd (n : IslandId) (beats : Word) (s : State) : Res :=
  if s.cyc < s.windowEnd n then .next s
  else
    let (m, s1) := s.windowMin n
    let rate := if s.beatGated.contains n.val || !(s.islandOn n) then 0 else m.1
    let v := bitsPut (bitsPut beats.toNat 47 32 rate) 63 48 m.2
    .next { s1.setReg (Reg.PWR_BEAT_ISL n) (BitVec.ofNat 64 v) with
      beatMin := tabDel s.beatMin n, beatWin := tabPut s.beatWin n (s.windowEnd n, s.fld Reg.PWR_BEAT_CTRL 3 0),
      beatGated := if s.islandOn n then setDel s.beatGated n else setIns s.beatGated n }

/-! ## The power limit and throttling -/

/-- LIMIT_W as it acts, in units of 0.1 W. -/
def State.limitDw (s : State) : Nat := 10 * max 120 (min 400 (s.fld Reg.PWR_LIMIT 8 0))

/-- Is admission throttling active? -/
def State.throttled (s : State) : Bool := s.flag Reg.PWR_FLOOR_STAT 16

/-- Usable, powered cores of the enabled partitions. -/
def State.admitted (s : State) : Nat :=
  ((List.range 64).filter (fun c => s.usable c && (s.partOfIsland (islandOf c)).isSome)).length

/-- Throttling engages: the budget starts at every admitted core. -/
def State.throttleOn (s : State) : State :=
  if s.throttled then s
  else { s.setFlag Reg.PWR_FLOOR_STAT 16 true with thrStart := s.admitted, thrBudget := s.admitted, thrRot := 0, thrAt := s.cyc }

/-- POWER_LIMIT_CONTROL: the package power in 0.1 W is read and VDD_ISL moved by a step of 5 mV. Above the limit it falls,
and at 0.60 V throttling engages; below it, outside an emergency and throttling, the PMC is free to raise it or not. -/
def execPowerLimitControl (deciwatts : Nat) (s : State) : Res :=
  if s.restarting 1 0 ∨ s.standby then .next s
  else
    let s1 := s.setFld Reg.PWR_LIMIT 31 16 (satNat 0xFFFF deciwatts)
    let lim := s1.limitDw
    if lim < deciwatts then
      .next (if 600 < s1.vdd then { s1 with vdd := max 600 (s1.vdd - 5) } else s1.throttleOn)
    else if deciwatts < lim ∧ !(s1.flag Reg.PWR_THERM 20) ∧ !s1.throttled then
      let (k, s2) := s1.choose 2
      .next (if k = 1 then { s2 with vdd := max s2.vdd (min 900 (s2.vdd + 5)) } else s2)
    else .next s1

/-- THROTTLE_TICK: the end of each 1 ms of throttling, with the power of that millisecond; it acts once the millisecond has
passed. -/
def execThrottleTick (deciwatts : Nat) (s : State) : Res :=
  if !s.throttled ∨ s.restarting 1 0 ∨ s.cyc < s.thrAt + 500000 then .next s
  else
    let lim := s.limitDw
    let b := if lim < deciwatts then s.thrBudget - 4
      else if deciwatts < lim then min s.thrStart (s.thrBudget + 4) else s.thrBudget
    let s1 := { s with thrBudget := b, thrRot := s.thrRot + 1, thrAt := s.thrAt + 500000 }
    if b = s.thrStart ∧ deciwatts < lim ∧ s.vdd = 600 then
      .next { s1.setFlag Reg.PWR_FLOOR_STAT 16 false with emgEnd := s.cyc }
    else .next s1

/-! ## The thermal emergency -/

/-- The sensors that are read: 8 and 9, and those of islands that are powered. -/
def State.sensors (s : State) (t : List Int) : List (Nat × Int) :=
  ((List.range 10).zip t).filter (fun (p : Nat × Int) => decide (8 ≤ p.1) || s.islandOn p.1)

/-- The hottest of the sensors, the lowest number first. -/
def hottest : List (Nat × Int) → Option (Nat × Int)
  | [] => none
  | p :: t => match hottest t with
    | some q => some (if p.2 < q.2 then q else p)
    | none => some p

/-- Bytes 20 to 31 of Rule 572. -/
def State.thermBytes (s : State) (p : Nat × Int) (kind : Nat) : List Byte :=
  leBytes 1 p.1 ++ leBytes 1 kind ++ leBytes 2 (wrapOf 16 p.2) ++ leBytes 2 s.vdd

/-- A THERMAL_EMERGENCY log record. -/
def State.thermLog (s : State) (p : Nat × Int) (kind : Nat) : State := s.fwLog 1 0 3 0x0102 (s.thermBytes p kind)

/-- A THERMAL_EMERGENCY event. -/
def State.thermEvent (s : State) (p : Nat × Int) (kind : Nat) : State := s.event 0x08 0 0 (s.thermBytes p kind)

/-- Is the emergency declared? -/
def State.emerg (s : State) : Bool := s.flag Reg.PWR_THERM 20

/-- The declaration: a sensor at 120.0 °C or more on this sample and the one before. -/
def State.thermDeclare (s : State) (l : List (Nat × Int)) : State :=
  match l.find? (fun p => decide (960 ≤ p.2) && bitOf s.thHot p.1) with
  | none => s
  | some p =>
    if s.emerg then s
    else
      let s1 := (s.setFlag Reg.PWR_THERM 20 true).bumpMod Reg.PWR_THERM 31 24
      ({ s1.thermLog p 1 with thTop := p.2, thStep := s.cyc, thCool := none } : State).thermEvent p 1

/-- The clearing: every read sensor at or below 115.0 °C for 10 ms. -/
def State.thermClear (s : State) (l : List (Nat × Int)) (top : Nat × Int) : State :=
  if !s.emerg then s
  else if l.any (fun p => decide (920 < p.2)) then { s with thCool := none }
  else match s.thCool with
    | none => { s with thCool := some s.cyc }
    | some c =>
      if s.cyc < c + 5000000 then s
      else ({ s.setFlag Reg.PWR_THERM 20 false with thCool := none, emgEnd := s.cyc } : State).thermLog top 2

/-- THERM_N: low from 130.0 °C, released below 125.0 °C. -/
def State.thermCrit (s : State) (l : List (Nat × Int)) (top : Nat × Int) : State :=
  if s.flag Reg.PWR_THERM 21 then
    if l.all (fun p => decide (p.2 < 1000)) then (s.setFlag Reg.PWR_THERM 21 false).thermLog top 4 else s
  else match l.find? (fun p => decide (1040 ≤ p.2)) with
    | some p => ((s.setFlag Reg.PWR_THERM 21 true).thermLog p 3).thermEvent p 3
    | none => s

/-- THERMAL_SAMPLE: the ten sensors in 1/8 °C. MAX_TEMP is the highest reading, signed, since the last read. -/
def execThermalSample (t : List Int) (s : State) : Res :=
  if s.standby then .next s else
  let l := s.sensors t
  match hottest l with
  | none => .next s
  | some top =>
    let r := Reg.PWR_THERM
    let s1 := (s.setFld r 15 0 (wrapOf 16 top.2)).setFld r 19 16 top.1
    let s2 := if signedOf 16 (s1.fld r 47 32) < top.2 then s1.setFld r 47 32 (wrapOf 16 top.2) else s1
    let s3 := ((s2.thermDeclare l).thermClear l top).thermCrit l top
    .next { s3 with thHot := (l.filter (fun p => decide (960 ≤ p.2))).foldl (fun a p => a ||| 2 ^ p.1) 0 }

/-- THERMAL_STEP: every 10 ms of a standing emergency in which the hottest sensor has not fallen, VDD_ISL falls by 25 mV,
and at 0.60 V with a sensor still at 120.0 °C throttling engages. -/
def execThermalStep (s : State) : Res :=
  if !s.emerg ∨ s.restarting 1 0 ∨ s.cyc < s.thStep + 5000000 then .next s
  else
    let hot := signedOf 16 (s.fld Reg.PWR_THERM 15 0)
    let s1 : State := { s with thTop := hot, thStep := s.cyc }
    if hot < s.thTop then .next s1
    else if 600 < s1.vdd then .next { s1 with vdd := max 600 (s1.vdd - 25) }
    else .next (if 960 ≤ hot then s1.throttleOn else s1)

end Sys2Proof.Machine
end

