-- ==== Sys2Proof/Machine/TidelineOps.lean ====
section
/-! DEFINITION. Tideline (chapter 13), its shared operations: channel registers and windows (R407 to R409), commits and
their checks (R387), set-point records (R396 to R399), the control law (R391, R401, R402, R405). Channel `c`'s registers
are held at window 0's offsets plus 64 MiB times c. -/
namespace Sys2Proof.Machine

/-- Where channel `c`'s copy of a window register is held. -/
def tdlBank (c off : Nat) : Nat := off + 0x4000000 * c

/-- The shadowed register of index `i`, 0 CH_SCHED to 9 CH_TEST, of channel `c`. -/
def chReg (c i : Nat) : Nat := tdlBank c (Reg.CH_SCHED 0 + 8 * i)

def chSched (c : Nat) : Nat := chReg c 0
def chIo (c : Nat) : Nat := chReg c 1
def chGain (c : Nat) : Nat := chReg c 2
def chKd (c : Nat) : Nat := chReg c 3
def chLim (c : Nat) : Nat := chReg c 4
def chSpff (c : Nat) : Nat := chReg c 5
def chInteg (c : Nat) : Nat := chReg c 6
def chFe (c : Nat) : Nat := chReg c 7
def chRc (c : Nat) : Nat := chReg c 8
def chTest (c : Nat) : Nat := chReg c 9
def chStat (c : Nat) : Nat := tdlBank c (Reg.CH_STAT 0)
def chObs (c : Nat) : Nat := tdlBank c (Reg.CH_OBS 0)

/-- A channel that has never been enabled. -/
def TdlChan.init : TdlChan :=
  ⟨false, true, none, 0, 0, 0, 0, 0, 0, 0, 0, 0, none, [], [], 0, 0x7FFF⟩

def State.chan (s : State) (c : Nat) : TdlChan := tabGet TdlChan.init s.tdl c
def State.setChan (s : State) (c : Nat) (k : TdlChan) : State := { s with tdl := tabPut s.tdl c k }

/-- EN of a channel. -/
def State.chEn (s : State) (c : Nat) : Bool := s.flag (chSched c) 63

/-- A signed field of a register. -/
def State.sfld (s : State) (off hi lo : Nat) : Int := signedOf (hi + 1 - lo) (s.fld off hi lo)

/-! ## Windows (R407, R408) -/

/-- The key of a window's dirty register. -/
def dirtyKey (w i : Nat) : Nat := 16 * w + i

/-- A window's dirty registers. -/
def State.dirtyOf (s : State) (w : Nat) : Tab DWord :=
  (List.range 10).filterMap (fun i => (tabFind s.tdlDirty (dirtyKey w i)).map (fun v => (i, v)))

/-- The window's shadow without dirty registers. -/
def State.cleanWin (s : State) (w : Nat) : State := { s with tdlDirty := tabClear s.tdlDirty (dirtyKey w 0) 16 }

/-- The channel a window selects. -/
def State.tdlSel (s : State) (w : Nat) : Nat := s.fld (Reg.TDL_CHSEL w) 5 0

/-- A write to a window's shadow of register `i`; reserved fields read 0 (R420). -/
def State.shadowWrite (s : State) (w i : Nat) (v : DWord) : State :=
  match regAt (Reg.CH_SCHED 0 + 8 * i) with
  | some (g, _) => { s with tdlDirty := tabPut s.tdlDirty (dirtyKey w i) (BitVec.ofNat 64 (g.write 0 v.toNat 0)) }
  | none => s

/-- A write to a window's CHSEL (R408). -/
def State.chselWrite (s : State) (w : Nat) (v : DWord) : State :=
  let r := Reg.TDL_CHSEL w
  let moved := bitsOf v.toNat 5 0 != s.tdlSel w
  let s1 := s.hostSet r v
  if moved && !(s.dirtyOf w).isEmpty then (s1.cleanWin w).setFlag r 30 true else s1

/-! ## Commits (R387, R409) -/

/-- The registers of a commit applied to channel `c`. -/
def State.putVals (s : State) (c : Nat) (l : Tab DWord) : State := l.foldl (fun t p => t.setReg (chReg c p.1) p.2) s

/-- A commit comes into force: SP_IGN where it writes SP of a cascaded channel (R395); an injection begins where TEN goes
from 0 to 1 (R405), with the capture that waits for it (R406). -/
def State.applyVals (s : State) (c : Nat) (l : Tab DWord) : State :=
  let ten := s.flag (chTest c) 63
  let s1 := s.putVals c l
  let s2 := if l.any (fun p => p.1 == 5) && s1.flag (chSched c) 15 then s1.setFlag (chStat c) 4 true else s1
  if !ten && s2.flag (chTest c) 63 then
    let s3 := s2.setChan c { s2.chan c with tn := 0, lfsr := 0x7FFF }
    let cap := Reg.TDL_CAP
    if s3.flag cap 63 && !(s3.flag cap 61) && s3.fld cap 57 56 == 1 && s3.fld cap 55 50 == c then
      { s3.setFlag cap 61 true with capDec := 0 }
    else s3
  else s2

/-- Commits in the order host, scheduler firmware, ICC, Lighthouse. -/
def inWinOrder (l : List TdlCommit) : List TdlCommit := sortBy (fun a b => decide (a.win ≤ b.win)) l

/-- Every pending commit of channel `c` written before a cycle applied. -/
def State.applyCommits (s : State) (c before : Nat) : State :=
  let k := s.chan c
  let due := fun (x : TdlCommit) => decide (x.cyc ≤ before)
  let s1 := s.setChan c { k with commits := k.commits.filter (fun x => !(due x)) }
  (inWinOrder (k.commits.filter due)).foldl (fun t x => t.applyVals c x.vals) s1

/-- The channel's registers as its pending commits will leave them. -/
def State.pendingView (s : State) (c : Nat) : State :=
  (inWinOrder (s.chan c).commits).foldl (fun t x => t.putVals c x.vals) s

/-- LEN of an SPI device (R418). -/
def State.spiLen (s : State) (d : Nat) : Nat := s.fld (Reg.TDL_SPIDEV d) 31 27 + 1
/-- DIV of an SPI device: below 4 acts as 4. -/
def State.spiDiv (s : State) (d : Nat) : Nat := max 4 (s.fld (Reg.TDL_SPIDEV d) 26 19)

/-- Do the input and output fields of channel `c` satisfy Tables 13.2 and 13.3? -/
def State.ioOk (s : State) (c : Nat) : Bool :=
  let r := chIo c
  let ix := s.fld r 59 49
  let ox := s.fld r 27 17
  let i := match s.fld r 63 60 with
    | 0 => ix == 0
    | 1 => decide (ix < 16)
    | 2 => decide (ix < 16)
    | 3 => decide (ix < 16) && decide (s.fld r 48 40 + s.fld r 39 35 + 1 ≤ s.spiLen ix)
    | 4 => decide (bitsOf ix 7 0 < 128)
    | 5 => decide (ix < 64)
    | _ => false
  let o := match s.fld r 31 28 with
    | 0 => ox == 0
    | 1 => decide (ox < 12)
    | 2 => decide (ox < 16) && decide (s.fld r 16 8 + s.fld r 7 3 + 1 ≤ s.spiLen ox)
    | 3 => decide (bitsOf ox 7 0 < 128)
    | _ => false
  i && o

/-- The window of the learning table that channel `c` names: first entry and length. -/
def State.rcWin (s : State) (c : Nat) : Nat × Nat := (s.fld (chRc c) 47 34, s.fld (chRc c) 33 20 + 1)

/-- Is the RC window of channel `c` enabled (R401)? -/
def State.rcOn (s : State) (c : Nat) : Bool := s.chEn c && s.flag (chRc c) 63

/-- The other channels. -/
def others (c : Nat) : List Nat := (List.range 64).filter (· != c)

/-- Does the RC window of channel `c` obey R401? -/
def State.rcOk (s : State) (c : Nat) : Bool :=
  let a := s.rcWin c
  !(s.flag (chRc c) 63) || (decide (a.1 + a.2 ≤ 16384) && (others c).all (fun o =>
    !(s.rcOn o) || decide (a.1 + a.2 ≤ (s.rcWin o).1) || decide ((s.rcWin o).1 + (s.rcWin o).2 ≤ a.1)))

/-- The resource a channel's output claims (R387), or none. -/
def State.outRes (s : State) (c : Nat) : Option Nat :=
  let ox := s.fld (chIo c) 27 17
  match s.fld (chIo c) 31 28 with
  | 1 => some ox
  | 2 => some (0x10 + ox)
  | 3 => some (tplRes (bitsOf ox 10 8) (bitsOf ox 7 0))
  | _ => none

/-- The checks of R387 but the claim, in order: the code of the first that fails, 0 for none. `s` is the block with every
channel as its pending commits leave it, `n` the same with the new values of channel `c`. -/
def commitErr (s n : State) (c : Nat) : Nat :=
  let r := chSched c
  if 124 ≤ n.fld r 62 56 ∨ (others c).any (fun o => s.chEn o && s.fld (chSched o) 62 56 == n.fld r 62 56) then 1
  else if n.fld r 47 32 = 0 ∨ n.fld r 47 32 ≤ n.fld r 31 16 then 2
  else if !(n.ioOk c) then 3
  else if n.sfld (chLim c) 63 32 < n.sfld (chLim c) 31 0 then 7
  else if !(n.rcOk c) then 5
  else if n.flag (chTest c) 63 && !(s.flag Reg.TDL_CTRL 3) then 6
  else if s.chEn c ∧ (s.fld r 62 56 ≠ n.fld r 62 56 ∨ s.fld r 47 32 ≠ n.fld r 47 32 ∨ s.fld r 31 16 ≠ n.fld r 31 16
      ∨ s.reg (chIo c) ≠ n.reg (chIo c)) then 8
  else 0

/-- Every channel as its pending commits will leave it. -/
def State.allPending (s : State) : State := (s.tdl.map (·.1)).foldl (fun t c => t.pendingView c) s

/-- A refused commit of window `w` to channel `c`. -/
def State.commitRefused (s : State) (w c err : Nat) : State :=
  (s.setFlag (Reg.TDL_CHSEL w) 29 true).setFld (chStat c) 47 40 err

/-! ## Claims (R575, R576) -/

/-- The order in which claims of one shore cycle are decided: the Tideline channels, host, scheduler firmware, ICC,
Lighthouse. -/
def ClaimNow.rank (x : ClaimNow) : Nat := if x.holder = 5 then x.ch else 63 + x.holder

/-- A claim is granted when the resource and those that conflict with it are free. -/
def claimTry (x : ClaimNow) (t : Tab (Nat × Nat)) : Bool × Tab (Nat × Nat) :=
  if (x.res :: resConflicts x.res).any (fun r => (tabGet (0, 0) t r).1 != 0) then (false, t)
  else (true, tabPut t x.res (x.holder, x.ch))

/-- The claims of one shore cycle decided in their order, from what was held before them. -/
def claimAll (l : List ClaimNow) (t : Tab (Nat × Nat)) : List ClaimNow × Tab (Nat × Nat) :=
  (sortBy (fun (a b : ClaimNow) => decide (a.rank ≤ b.rank)) l).foldl (fun (acc : List ClaimNow × Tab (Nat × Nat)) x =>
    let r := claimTry x acc.2
    (acc.1 ++ [{ x with ok := r.1 }], r.2)) ([], t)

/-- What was held before the claims of this cycle. -/
def State.claimsBefore (s : State) : Tab (Nat × Nat) :=
  s.claimNow.foldl (fun t y => if y.ok then tabDel t y.res else t) s.claims

/-- A claim decided anew by one of the same cycle that goes before it: an agent's window shows it; the enabling commit of a
channel is refused after all, its values back in the window. -/
def State.claimRevise (s : State) (x : ClaimNow) : State :=
  if x.holder = 5 then
    let s1 : State := { s with tdlDirty := x.new.foldl (fun t p => tabPut t (dirtyKey x.win p.1) p.2) s.tdlDirty }
    let s2 := s1.putVals x.ch x.old
    (s2.setChan x.ch { s2.chan x.ch with live := false }).commitRefused x.win x.ch 4
  else
    let r := Reg.PAD_CLAIM x.win
    if s.fld r 11 0 ≠ x.res then s
    else ((s.setFld r 63 48 (if x.ok then 0 else 0x0401)).setFld r 38 36 (s.holder x.res).1).setFld r 45 40 (s.holder x.res).2

/-- A claim: OK, CLAIM_DENIED or INVALID_COMMAND. -/
def State.claim (s : State) (x : ClaimNow) : Nat × State :=
  if !(resValid x.res) then (0x0001, s)
  else
    let old := sortBy (fun (a b : ClaimNow) => decide (a.rank ≤ b.rank)) (s.claimNow ++ [{ x with ok := false }])
    let r := claimAll old s.claimsBefore
    let s1 : State := { s with claims := r.2, claimNow := r.1 }
    let s2 := (old.zip r.1).foldl (fun (t : State) p =>
      if p.1.ok = p.2.ok ∨ p.1 = { x with ok := false } then t else t.claimRevise p.2) s1
    let ok := match (r.1.filter (fun y => { y with ok := false } == { x with ok := false })).getLast? with
      | some y => y.ok
      | none => false
    (if ok then 0 else 0x0401, s2)

/-- A release: OK when the caller or nobody holds the resource. -/
def State.unclaim (s : State) (r h ch : Nat) : Nat × State :=
  if !(resValid r) then (0x0001, s)
  else if (s.holder r).1 = 0 then (0, s)
  else if s.holder r = (h, ch) then
    (0, { s with claims := tabDel s.claims r, claimNow := s.claimNow.filter (fun x => !(x.ok && x.res == r)) })
  else (0x0401, s)

/-- A write to claim window `w`: RES is kept; an ACTION of 1 to 3 acts and reports STATUS, HOLDER and CH. -/
def State.claimWrite (s : State) (w : Nat) (v : DWord) : State :=
  let r := Reg.PAD_CLAIM w
  let res := bitsOf v.toNat 11 0
  let s1 := s.setFld r 11 0 res
  let fin := fun (x : Nat × State) =>
    let h := x.2.holder res
    ((x.2.setFld r 63 48 x.1).setFld r 38 36 h.1).setFld r 45 40 h.2
  match bitsOf v.toNat 31 30 with
  | 1 => fin (s1.claim ⟨res, w + 1, 0, false, w, [], []⟩)
  | 2 => fin (s1.unclaim res (w + 1) 0)
  | 3 => fin (if resValid res then 0 else 0x0001, s1)
  | _ => s1

/-- The word that gives an ACTION on a resource. -/
def claimWord (action : Nat) (res : BitVec 12) : DWord := BitVec.ofNat 64 (2 ^ 30 * action + res.toNat)

/-- An agent's access to its own claim window. -/
def State.claimCmd (s : State) (w : Who) (v : DWord) : State :=
  s.whoWrite w (Reg.PAD_CLAIM (whoWin w)) 64 v (fun t => t.claimWrite (whoWin w) v)

def execClaim (w : Who) (res : BitVec 12) (s : State) : Res := .next (s.claimCmd w (claimWord 1 res))
def execClaimRelease (w : Who) (res : BitVec 12) (s : State) : Res := .next (s.claimCmd w (claimWord 2 res))
def execClaimQuery (w : Who) (res : BitVec 12) (s : State) : Res := .next (s.claimCmd w (claimWord 3 res))

/-- A channel stops at a disable (R387): its claims go, its pending records go, no sample follows. -/
def State.chanStop (s : State) (c : Nat) : State :=
  let s1 := { s with claims := s.claims.filter (fun p => p.2 != (5, c)),
                     claimNow := s.claimNow.filter (fun x => !(x.holder == 5 && x.ch == c)) }
  s1.setChan c { s1.chan c with live := false, pend := [], rd := none }

/-- A channel begins at an enable: its law starts afresh with its first sample (R391). -/
def State.chanStart (s : State) (c : Nat) : State :=
  s.setChan c { TdlChan.init with uPrev := (s.chan c).uPrev, visAt := (s.chan c).visAt, tn := (s.chan c).tn,
                                  lfsr := (s.chan c).lfsr }

/-- A write of 1 to CH_COMMIT of window `w` (R387, R408, R409). -/
def State.commitWrite (s : State) (w : Nat) : State :=
  let c := s.tdlSel w
  let vals := s.dirtyOf w
  let old := s.allPending
  let new := old.putVals c vals
  if !(new.chEn c) then
    let s1 := ((s.applyCommits c s.cyc).applyVals c vals).cleanWin w
    if s.chEn c then s1.chanStop c else s1
  else
    match commitErr old new c with
    | 0 =>
      if s.chEn c then
        (s.setChan c { s.chan c with commits := (s.chan c).commits ++ [TdlCommit.mk w s.cyc vals] }).cleanWin w
      else
        match new.outRes c with
        | some r =>
          match s.claim ⟨r, 5, c, false, w, vals, vals.map (fun p => (p.1, s.reg (chReg c p.1)))⟩ with
          | (0, s1) => ((s1.applyVals c vals).cleanWin w).chanStart c
          | _ => s.commitRefused w c 4
        | none => ((s.applyVals c vals).cleanWin w).chanStart c
    | e => s.commitRefused w c e

/-! ## Set-point records (R396 to R399) -/

/-- The ring of a drop binding: on a core of the island where the context is resident, in the harbour, CONS 3, PROD 2 or
3; its core and the ring. -/
def State.dropRingOf (s : State) (b : Nat) : Option (Nat × Ring) :=
  let r := Reg.TDL_DROP b
  ((List.range 8).map (· + 8 * s.fld r 62 60)).findSome? (fun c =>
    if (s.core c).resident = some (s.fld r 59 52) then
      match s.ring c (s.fld r 51 48) with
      | some x => if x.harbour ∧ x.cons = 3 ∧ 2 ≤ x.prod then some (c, x) else none
      | none => none
    else none)

/-- The slot a copy holds is released: every record before its end has landed. -/
def State.dropEnd (s : State) (b c h : Nat) : State :=
  { (s.ringRelease c h).2 with drops := tabDel s.drops b }

/-- The records of a slot copied across the crossing from the byte offset of the copy (R396). -/
def State.dropRun (s : State) (b c h isl base size : Nat) : Nat → State
  | 0 => s.dropEnd b c h
  | fuel + 1 =>
    let d := tabGet (⟨0, false⟩ : DropCopy) s.drops b
    if size ≤ d.off then s.dropEnd b c h
    else if 1024 ≤ s.dropRing.length then { s with drops := tabPut s.drops b { d with full := true } }
    else
      match s.readPhys 0 (hbrAddr isl (base + d.off)) 32 with
      | (none, s1) => (s1.bumpSat (Reg.TDL_DROP_STAT b) 31 16).dropEnd b c h
      | (some bs, s1) =>
        if bitsOf (recNat bs 0 1) 1 0 = 0 then s1.dropEnd b c h
        else
          let s2 := s1.bumpMod (Reg.TDL_DROP_STAT b) 63 32
          let s3 := { s2 with dropRing := s2.dropRing ++ [LandedRec.mk b bs s2.nowNs],
                              drops := tabPut s2.drops b { d with off := d.off + 32, full := false } }
          s3.dropRun b c h isl base size fuel

/-- DROP_COPY: a FULL slot at the acquire pointer is acquired and copied, or the copy that waits for space goes on. -/
def execDropCopy (b : Fin 4) (s : State) : Res :=
  let r := Reg.TDL_DROP b
  match if s.flag r 63 then s.dropRingOf b else none with
  | none => .next s
  | some (c, x) =>
    let h := s.fld r 51 48
    let isl := s.fld r 62 60
    let go := fun (t : State) (slot : Nat) => t.dropRun b c h isl (4096 * x.slotBase slot) (4096 * x.sb) (128 * x.sb + 1)
    match tabFind s.drops b with
    | some _ => .next (go s x.tail)
    | none =>
      if x.at x.acq == .f then
        .next (go { s.setRing c h x.doAcquire with drops := tabPut s.drops b (DropCopy.mk 0 false) } x.acq)
      else .next s

/-- Is a landed record to be discarded (R398)? -/
def State.recordBad (s : State) (l : LandedRec) : Bool :=
  let r := l.bytes
  let c := bitsOf (recNat r 1 1) 5 0
  bitsOf (recNat r 0 1) 7 2 != 0 || bitsOf (recNat r 1 1) 7 6 != 0 || !(recZero r 24 8) || decide (1000000000 ≤ recNat r 4 4)
    || !(s.chEn c) || !(s.flag (Reg.TDL_DROP_MASK l.b) c)

/-- SETPOINT_RECORD: the oldest landed record is discarded, or enters its channel's queue of four (R398). -/
def execSetpointRecord (s : State) : Res :=
  match s.dropRing with
  | [] => .next s
  | l :: t =>
    let s1 := { s with dropRing := t }
    let r := l.bytes
    let c := bitsOf (recNat r 1 1) 5 0
    if s.recordBad l then .next (s1.bumpSat (Reg.TDL_DROP_STAT l.b) 31 16)
    else
      let x : TdlRec := ⟨recNat r 8 8 * 1000000000 + recNat r 4 4, bitsOf (recNat r 0 1) 1 0, BitVec.ofNat 32 (recNat r 16 4),
        BitVec.ofNat 32 (recNat r 20 4), recNat r 2 2⟩
      let k := s1.chan c
      let full := decide (4 ≤ k.pend.length)
      let s2 := s1.setChan c { k with pend := (if full then k.pend.dropLast else k.pend) ++ [x] }
      let s3 := if full then s2.setFlag (chStat c) 3 true else s2
      .next (if x.apply < l.ns then s3.setFlag (chStat c) 2 true else s3)

/-- A record applied to channel `c` (R395, R399). -/
def State.applyRec (s : State) (c : Nat) (x : TdlRec) : State :=
  let s1 := if bitOf x.kind 0 then s.setFld (chSpff c) 63 32 x.sp.toNat else s
  let s2 := if bitOf x.kind 0 && s1.flag (chSched c) 15 then s1.setFlag (chStat c) 4 true else s1
  let s3 := if bitOf x.kind 1 then s2.setFld (chSpff c) 31 0 x.ff.toNat else s2
  s3.setFld (chStat c) 63 48 x.tag

/-- Every pending record of channel `c` due at `t` applied, in arrival order. -/
def State.applyRecs (s : State) (c t : Nat) : State :=
  let k := s.chan c
  let s1 := s.setChan c { k with pend := k.pend.filter (fun x => decide (t < x.apply)) }
  (k.pend.filter (fun x => decide (x.apply ≤ t))).foldl (fun u x => u.applyRec c x) s1

/-! ## Values of a sample -/

/-- A value taken as a signed 32-bit value, modulo 2^32. -/
def s32 (i : Int) : Int := signedOf 32 (wrapOf 32 i)

/-- The output of channel `c` as it stands at a cycle (R395, Table 13.4). -/
def State.uAt (s : State) (c cyc : Nat) : Int :=
  if (s.chan c).visAt ≤ cyc then s.sfld (chObs c) 31 0 else signedOf 32 (s.chan c).uPrev

/-- Bits of a frame as the input fields of channel `c` take them (R389). -/
def State.inRaw (s : State) (c frame : Nat) : Int :=
  let w := s.fld (chIo c) 39 35 + 1
  let v := frame / 2 ^ s.fld (chIo c) 48 40 % 2 ^ w
  s32 (if s.flag (chIo c) 34 then signedOf w v else v)

/-- The latest frame a device's completed reads took in by a cycle (R390). -/
def State.spiLast (s : State) (d cyc : Nat) : Nat :=
  (((tabGet [] s.spiRead d).filter (fun x => decide (x.1 ≤ cyc))).getLast?.map (·.2)).getD 0

/-- The input of channel `c` at a slot start: y, whether it is stale, the encoder count and the CAN arrival taken. -/
def State.inputOf (s : State) (c cyc : Nat) : Int × Bool × Nat × Nat :=
  let k := s.chan c
  let ix := s.fld (chIo c) 59 49
  match s.fld (chIo c) 63 60 with
  | 1 => (s.sfld (Reg.TDL_ENC ix) 63 32, false, 0, 0)
  | 2 =>
    let n := s.fld (Reg.TDL_ENC ix) 63 32
    (s32 ((n : Int) - (if k.fresh then n else k.enc)), false, n, 0)
  | 3 =>
    let stale := match k.rd with
      | some d => decide (cyc < d)
      | none => true
    (s.inRaw c (s.spiLast ix cyc), stale, 0, 0)
  | 4 =>
    let key := rxKey (bitsOf ix 10 8) (bitsOf ix 7 0)
    match ((tabFind s.canRx key).toList ++ tabGet [] s.canOld key).find? (fun x => decide (x.cyc < cyc)) with
    | some x => (s.inRaw c (leNat x.frame.data), x.arr == k.seen, 0, x.arr)
    | none => (0, true, 0, 0)
  | 5 => (s.uAt ix cyc, false, 0, 0)
  | _ => (0, false, 0, 0)

/-- The test value of sample `n` (R405). -/
def State.testValue (s : State) (c : Nat) : Int :=
  let k := s.chan c
  let r := chTest c
  let amp := s.sfld r 31 0
  let p := max 1 (s.fld r 47 32)
  match s.fld r 60 59 with
  | 0 => amp
  | 1 => if k.tn / p % 2 = 0 then amp else -amp
  | 2 => if bitOf k.lfsr 14 then amp else -amp
  | _ => amp * sineEntry (1024 * (k.tn % p) / p) / 2 ^ 15

/-- The shift register of TYPE 2 after one step: feedback x^15 + x^14 + 1. -/
def lfsrNext (v : Nat) : Nat :=
  v % 2 ^ 14 * 2 + boolNat (bitOf v 14 != bitOf v 13)

/-- Index into the RC window for input `y` (R401). -/
def State.rcIndex (s : State) (c : Nat) (y : Int) : Nat :=
  let n := s.fld (chRc c) 33 20 + 1
  if s.flag (chRc c) 61 then ((y / 2 ^ s.fld (chRc c) 56 53) % (n : Int)).toNat else (s.chan c).count % n

/-- `v` kept within a range. -/
def clampInt (lo hi v : Int) : Int := min (max v lo) hi

/-- The RC entry that replaces `l` (R402). -/
def State.rcNext (s : State) (c : Nat) (l e : Int) : Int :=
  let v := l + s.sfld (chRc c) 15 0 * e / 2 ^ 15
  let f := s.fld (chRc c) 60 57
  clampInt (-(2 ^ 31)) (2 ^ 31 - 1) (if f = 0 then v else v - v / 2 ^ f)

end Sys2Proof.Machine
end

