-- ==== Sys2Proof/Machine/Tideline.lean ====
section
/-! DEFINITION. Tideline's commands (chapter 13): frames (R385), samples (R388), SPI reads (R390), windows (R408), capture
(R406), the learning table (R402), PWM carriers (R416), encoders (R417). -/
namespace Sys2Proof.Machine

/-! ## Frames (R384, R385) -/

/-- A write to TDL_CTRL: EN from 0 to 1 numbers the frame in progress; the first frame starts at the next multiple of
10,000 ns; EN cleared stops sampling (R385, R411). -/
def State.tdlCtrlWrite (s : State) (v : DWord) : State :=
  let on := bitOf v.toNat 0
  let was := s.flag Reg.TDL_CTRL 0
  let s1 := s.setFlag Reg.TDL_CTRL 0 on
  if on && !was then
    let f := s1.nowNs / 10000
    { s1.setReg Reg.TDL_FRAME (BitVec.ofNat 64 f) with tdlNext := 0 }
  else if !on then { s1 with tdl := s1.tdl.map (fun (p : Nat × TdlChan) => (p.1, { p.2 with live := false, rd := none })) }
  else s1

/-- A write to a global register, by the host or the scheduler firmware only; of two in one shore cycle the host's is applied
first (R410). -/
def State.tdlGlobal (s : State) (w : Who) (off : Nat) (v : DWord) (f : DWord → State → State) : State :=
  if hostOrSch w then s.ordered w off v (fun _ x t => f x t) else s

def execTidelineEnable (w : Who) (s : State) : Res :=
  .next (s.whoWrite w Reg.TDL_CTRL 32 1 (fun t => t.tdlGlobal w Reg.TDL_CTRL 1 (fun x u => u.tdlCtrlWrite x)))

/-- TIDELINE_FRAME_START: a frame starts; ALIGN is formed, re-anchored beyond 5,000 ns, and slewed by the guard slot;
enables come into force (R385, R387). -/
def execTidelineFrameStart (s : State) : Res :=
  let f := (s.reg Reg.TDL_FRAME).toNat + 1
  let early := if s.tdlNext = 0 then decide (s.nowNs < 10000 * f) else decide (s.cyc + 1 < s.tdlNext)
  if !(s.flag Reg.TDL_CTRL 0) || early then .next s
  else
    let start := if s.tdlNext = 0 then s.cyc else s.tdlNext
    let a := (s.nowNs : Int) - (f : Int) * 10000
    let jump := decide (5000 < a.natAbs)
    let f1 := if jump then (s.nowNs + 4999) / 10000 else f
    let a1 := (s.nowNs : Int) - (f1 : Int) * 10000
    let d := min 2 (a1.natAbs / 2)
    let guard := if 0 < a1 then 40 - d else 40 + d
    let s1 := if jump then s.bumpMod Reg.TDL_CTRL 15 8 else s
    let s2 := (s1.setReg Reg.TDL_FRAME (BitVec.ofNat 64 f1)).setFld Reg.TDL_CTRL 31 16
      (wrapOf 16 (clampInt (-(2 ^ 15)) (2 ^ 15 - 1) a1))
    let s3 := s2.setFlag Reg.TDL_CTRL 2 (decide (a1.natAbs ≤ 4))
    .next { s3 with tdlStart := start, tdlNext := start + 4960 + guard,
                    tdl := s3.tdl.map (fun (p : Nat × TdlChan) => (p.1, { p.2 with live := s3.chEn p.1 })) }

/-! ## SPI input reads (R390) -/

/-- The slot start of channel `c`'s next sample: in this frame or the next; none where neither samples it. -/
def State.nextSlot (s : State) (c : Nat) : Option Nat :=
  let r := chSched c
  let f := (s.reg Reg.TDL_FRAME).toNat
  let off := 40 * s.fld r 62 56
  let hit := fun (n : Nat) => n % s.fld r 47 32 == s.fld r 31 16
  if hit f && (s.chan c).last != some f && s.cyc ≤ s.tdlStart + off + 1 then some (s.tdlStart + off)
  else if hit (f + 1) then some (s.tdlNext + off)
  else none

/-- SPI_READ: LEAD slots before channel `ch`'s slot its device's read frame is requested; the master runs it after those
requested before, shifts TEMPLATE out (held pads keep their levels) and takes in `data`. -/
def execSpiRead (ch : Fin 64) (data : Word) (s : State) : Res :=
  let k := s.chan ch
  let d := s.fld (chIo ch) 59 49
  if !k.live ∨ s.fld (chIo ch) 63 60 ≠ 3 ∨ k.rd.isSome then .next s
  else
    match s.nextSlot ch with
    | none => .next s
    | some t =>
      if s.cyc + 1 + 40 * s.fld (Reg.TDL_SPIDEV d) 15 12 < t then .next s
      else
        let cs := max s.cyc (tabGet 0 s.spiBusy (d / 4))
        let fin := cs + 4 + 2 * s.spiDiv d * s.spiLen d
        let old := tabGet [] s.spiRead d
        let kept := old.filter (fun x => decide (s.cyc < x.1))
        let last := (old.filter (fun x => decide (x.1 ≤ s.cyc))).getLast?
        let sent := OutMsg.spi d (s.fld (Reg.TDL_SPIDEV d) 63 32 % 2 ^ s.spiLen d)
        .next { s.setChan ch { k with rd := some fin } with
          out := if s.flag Reg.PAD_HOLD_STAT 1 then s.out else s.out ++ [sent]
          spiBusy := tabPut s.spiBusy (d / 4) fin,
          spiRead := tabPut s.spiRead d (last.toList ++ kept ++ [(fin, data.toNat % 2 ^ s.spiLen d)]) }

/-! ## Outputs (R393, R394) -/

/-- MAXLAT of channel `c` raised to a time in shore cycles. -/
def State.latency (s : State) (c n : Nat) : State :=
  let v := satNat 1023 n
  if s.fld (chStat c) 39 30 < v then s.setFld (chStat c) 39 30 v else s

/-- The carrier of a pair. -/
def State.pwmRun (s : State) (p : Nat) : PwmRun := tabGet ⟨0, 0, false, 0, none, 0, none, none⟩ s.pwm p

/-- Cycles from a carrier start to `cyc`, and those at which the side of a pair next turns on within a carrier: side 0 is on
below CMP, side 1 from CMP on (R416). -/
def PwmRun.at (k : PwmRun) (cyc : Nat) : Nat := cyc - k.start
def PwmRun.count (k : PwmRun) (cyc : Nat) : Nat :=
  let n := k.at cyc
  if k.centre ∧ k.period < n then 2 * k.period - n else n

/-- Is a side of a pair on at a cycle, dead times apart? -/
def PwmRun.raw (k : PwmRun) (cmp side cyc : Nat) : Bool := decide (k.count cyc < cmp) == (side == 0)

/-- The cycle since which a side of a pair is on, dead times apart; none while it is off. `since` is the latest cycle at which
a carrier started or CMP changed, `on0` and `on1` hold the answer at that cycle. -/
def PwmRun.onAt (k : PwmRun) (cmp side cyc : Nat) : Option Nat :=
  let old := if side = 0 then k.on0 else k.on1
  let turn := k.start + (if side = 0 then 2 * k.period + 1 - cmp else cmp)
  let rises := if side = 0 then k.centre && decide (0 < cmp) && decide (cmp ≤ k.period) else true
  if !(k.raw cmp side cyc) then none
  else if rises && decide (k.since < turn) && decide (turn ≤ cyc) then some turn
  else old

/-- The pair at a cycle at which CMP or the carrier changes: each side goes on, turns on, or is off. -/
def PwmRun.turned (k old : PwmRun) (oldCmp cmp cyc : Nat) : PwmRun :=
  let f := fun (side : Nat) =>
    if k.raw cmp side cyc then some ((old.onAt oldCmp side (cyc - 1)).getD cyc) else none
  { k with since := cyc, on0 := f 0, on1 := f 1 }

/-- A PWM pair's CMP at a cycle: loaded at once, or held for the next carrier start. -/
def State.pwmCmp (s : State) (p v cyc : Nat) : State :=
  let k := s.pwmRun p
  if s.flag (Reg.TDL_PWM p) 38 then { s with pwm := tabPut s.pwm p { k with cmp := some v } }
  else
    let k1 := { (if s.flag (Reg.TDL_PWM p) 0 then k.turned k (s.fld (Reg.TDL_PWM p) 31 16) v cyc else k) with cmp := none }
    { s.setFld (Reg.TDL_PWM p) 31 16 v with pwm := tabPut s.pwm p k1 }

/-- A frame sent to an SPI device, requested at cycle 52 of the slot, when its master is free; LDAC follows it. Held pads keep
their levels (R569). `io` is CH_IO of the sample. -/
def State.spiOut (s : State) (c io d slot : Nat) (u : Int) : State :=
  let r := Reg.TDL_SPIDEV d
  let w := bitsOf io 7 3 + 1
  let b := bitsOf io 16 8
  let word := bitsPut (s.fld r 63 32) (b + w - 1) b (wrapOf w u) % 2 ^ s.spiLen d
  let cs := max (slot + 52) (tabGet 0 s.spiBusy (d / 4))
  let rel := cs + 14 + 2 * s.spiDiv d * s.spiLen d
  let held := s.flag Reg.PAD_HOLD_STAT 1
  let s1 : State := { s with spiBusy := tabPut s.spiBusy (d / 4) rel, out := if held then s.out else s.out ++ [.spi d word] }
  let s2 : State := if s.flag r 16 && !held then { s1 with out := s1.out ++ [.ldac (d / 4)] } else s1
  s2.latency c (rel + 2 - slot)

/-- A hand-over to a CAN template (R433): the output bits are written and the template requested. -/
def State.canHandOver (s : State) (c io k t : Nat) (u : Int) : State :=
  let w := bitsOf io 7 3 + 1
  let b := bitsOf io 16 8
  let s1 := (List.range w).foldl (fun (x : State) i =>
    let j := b + i
    if j < 512 then x.setFlag (canBank k (Reg.TPL_DATA 0 t (j / 32))) (j % 32) (bitOf (wrapOf w u) i) else x) s
  (s1.canRequest none k t).latency c 60

/-- What a sample left for a cycle of its slot: an entry of the learning table, or the output driven to its target. -/
def State.drive (s : State) (d : TdlDue) : State :=
  let ox := bitsOf d.io 27 17
  match d.rc with
  | some (i, v) => s.setReg (Reg.TDL_RC i) (BitVec.ofNat 64 v)
  | none =>
    match bitsOf d.io 31 28 with
    | 1 => (s.pwmCmp ox (clampInt 0 (s.fld (Reg.TDL_PWM ox) 63 48) d.u).toNat d.cyc).latency d.chan 54
    | 2 => s.spiOut d.chan d.io ox d.slot d.u
    | 3 => s.canHandOver d.chan d.io (bitsOf ox 10 8) (bitsOf ox 7 0) d.u
    | _ => s

/-- The cycle of a slot at which an output of a kind acts (Table 13.4): PWM 50, SPI 52, CAN 60. -/
def driveAt (io : Nat) : Nat :=
  match bitsOf io 31 28 with
  | 2 => 52
  | 3 => 60
  | _ => 50

/-- What is due by now is done, earliest first, at one cycle in ascending channel (R434). -/
def State.tdlRun (s : State) : State :=
  let due := s.tdlDue.filter (fun d => decide (d.cyc ≤ s.cyc))
  let s1 := { s with tdlDue := s.tdlDue.filter (fun d => decide (s.cyc < d.cyc)) }
  (sortBy (fun (a b : TdlDue) => decide (a.cyc < b.cyc) || (a.cyc == b.cyc && decide (a.chan ≤ b.chan))) due).foldl
    (fun t d => t.drive d) s1

/-! ## Events and capture (R403, R404, R406) -/

/-- A Tideline event record (Table 13.6). -/
def State.tdlEvent (s : State) (code sev c : Nat) (e data : Int) : State :=
  s.fwLogRaw 5 0 sev code (timeBytes s.tbS s.tbNs ++ leBytes 1 c ++ leBytes 1 0 ++ leBytes 2 (s.fld (chStat c) 63 48)
    ++ leBytes 4 (wrapOf 32 e) ++ leBytes 4 (wrapOf 32 data))

/-- The following-error count of a sample with error `e`. -/
def State.follow (s : State) (c : Nat) (e : Int) : State :=
  let r := chFe c
  let k := s.chan c
  let n := s.fld r 47 32
  if n = 0 then s
  else if e.natAbs ≤ s.fld r 31 0 then s.setChan c { k with fe := 0 }
  else if n ≤ k.fe then s
  else
    let s1 := s.setChan c { k with fe := k.fe + 1 }
    if k.fe + 1 ≠ n then s1
    else
      let s2 := (s1.setFlag (chStat c) 1 true).tdlEvent 0x0401 2 c e (s.fld r 31 0)
      let s3 := if s2.flag r 63 then s2.plainSignal (s2.fld r 61 48) else s2
      let cap := Reg.TDL_CAP
      if s3.flag cap 63 && !(s3.flag cap 61) && s3.fld cap 57 56 == 2 && s3.fld cap 55 50 == c then
        { s3.setFlag cap 61 true with capDec := 0 }
      else s3

/-- A sample of the captured channel: every (DECM1 + 1)-th is written; the last sets DONE. -/
def State.capture (s : State) (c : Nat) (r y u : Int) : State :=
  let cap := Reg.TDL_CAP
  if !(s.flag cap 61) || s.fld cap 55 50 != c then s
  else
    let s1 := { s with capDec := (s.capDec + 1) % (s.fld cap 49 42 + 1) }
    if s.capDec ≠ 0 then s1
    else
      let n := s.fld cap 13 0
      let put := fun (t : State) (i v : Nat) => t.setReg (Reg.TDL_CAPBUF (4 * n + i)) (BitVec.ofNat 64 (v % 2 ^ 32))
      let s2 := put (put (put (put s1 0 (s.reg Reg.TDL_FRAME).toNat) 1 (wrapOf 32 r)) 2 (wrapOf 32 y)) 3 (wrapOf 32 u)
      let s3 := s2.setFld cap 13 0 (n + 1)
      if n + 1 = s.fld cap 41 29 + 1 then ((s3.setFlag cap 62 true).setFlag cap 63 false).setFlag cap 61 false else s3

/-! ## One sample (R388) -/

/-- The control law of channel `c` for set-point `r` and input `y`, with `w` added at the output (R391, R392, R402). -/
def State.law (s : State) (c slot : Nat) (r y w : Int) : State :=
  let k := s.chan c
  let e := s32 (r - y)
  let ep := if k.fresh then e else k.ep
  let yp := if k.fresh then y else k.yp
  let df0 := if k.fresh then 0 else k.df
  let exact := s.sfld (chInteg c) 63 0 + s.sfld (chGain c) 31 0 * e
  let i := signedOf 64 (wrapOf 64 exact)
  let wraps := decide (i ≠ exact)
  let raw := if s.flag (chKd c) 3 then s32 (yp - y) else s32 (e - ep)
  let df := df0 + (2 ^ 16 * raw - df0) / 2 ^ s.fld (chKd c) 7 4
  let ix := (s.rcWin c).1 + s.rcIndex c y
  let on := s.flag (chRc c) 63
  let l := if on then s.sfld (Reg.TDL_RC ix) 31 0 else 0
  let sum := s.sfld (chGain c) 63 32 * e + i + s.sfld (chKd c) 63 32 * df / 2 ^ 16
    + (s.sfld (chSpff c) 31 0 + l + w) * 2 ^ 16
  let u0 := sum / 2 ^ 16
  let u := clampInt (s.sfld (chLim c) 31 0) (s.sfld (chLim c) 63 32) u0
  let s1 := s.setReg (chInteg c) (BitVec.ofNat 64 (wrapOf 64 i))
  let io := (s.reg (chIo c)).toNat
  let out := if bitsOf io 31 28 = 0 then [] else [TdlDue.mk (slot + driveAt io) c slot io u none]
  let learn := if on && s.flag (chRc c) 62 then [TdlDue.mk (slot + 50) c slot io 0 (some (ix, wrapOf 32 (s.rcNext c l e)))] else []
  let s2 := { s1 with tdlDue := s1.tdlDue ++ learn ++ out }
  let s3 := if u = u0 then s2 else s2.setFlag (chStat c) 6 true
  let s4 := if !wraps then s3
    else (if s3.flag (chStat c) 0 then s3 else s3.tdlEvent 0x0402 3 c e (i / 2 ^ 32)).setFlag (chStat c) 0 true
  let s5 := s4.setChan c { s4.chan c with fresh := false, ep := e, yp := y, df := df, count := k.count + 1,
                                          uPrev := wrapOf 32 (s.uAt c (slot + 49)), visAt := slot + 50 }
  let s6 := s5.setReg (chObs c) (BitVec.ofNat 64 (wrapOf 32 y * 2 ^ 32 + wrapOf 32 u))
  ((s6.follow c e).capture c r y u).tdlRun

/-- The test injection of a sample: what it adds to r, to the output and to y (R405). -/
def State.inject (s : State) (c : Nat) : Int × Int × Int :=
  if !(s.flag (chTest c) 63) || !(s.flag Reg.TDL_CTRL 3) then (0, 0, 0)
  else
    let v := s.testValue c
    match s.fld (chTest c) 62 61 with
    | 0 => (v, 0, 0)
    | 1 => (0, v, 0)
    | 2 => (0, 0, v)
    | _ => (0, 0, 0)

/-- The injection after a sample: its sample number and, every PARAM samples, its shift register. -/
def State.injectNext (s : State) (c : Nat) : State :=
  if !(s.flag (chTest c) 63) then s
  else
    let k := s.chan c
    let p := max 1 (s.fld (chTest c) 47 32)
    s.setChan c { k with tn := k.tn + 1, lfsr := if (k.tn + 1) % p = 0 then lfsrNext k.lfsr else k.lfsr }

/-- CHANNEL_SAMPLE: at its slot in a frame f with f mod DIV = PH a channel in force samples (R386, R388). -/
def execChannelSample (ch : Fin 64) (s : State) : Res :=
  let c := ch.val
  let r := chSched c
  let f := (s.reg Reg.TDL_FRAME).toNat
  let slot := s.tdlStart + 40 * s.fld r 62 56
  let k := s.chan c
  if !(s.flag Reg.TDL_CTRL 0) ∨ !k.live ∨ s.cyc + 1 < slot ∨ k.last = some f ∨ f % s.fld r 47 32 ≠ s.fld r 31 16 then .next s
  else
    let s1 := s.applyCommits c (slot - 4)
    let s2 := s1.applyRecs c s1.nowNs
    let r0 := if s2.flag r 15 then s2.uAt (s2.fld r 13 8) slot else s2.sfld (chSpff c) 63 32
    let (y0, stale, enc, arr) := s2.inputOf c slot
    let (a, w, b) := s2.inject c
    let s3 := if stale then s2.setFlag (chStat c) 5 true else s2
    let s4 := s3.setChan c { s3.chan c with last := some f, enc := enc, seen := arr, rd := none }
    .next ((s4.law c slot (s32 (r0 + a)) (s32 (y0 + b)) w).injectNext c)

/-! ## Windows -/

/-- An agent's write to its CHSEL. -/
def execChannelSelect (w : Who) (val : Word) (s : State) : Res :=
  let v := BitVec.ofNat 64 val.toNat
  .next (s.whoWrite w (Reg.TDL_CHSEL (whoWin w)) 32 v (fun t => t.chselWrite (whoWin w) v))

def execChannelCommit (w : Who) (s : State) : Res :=
  .next (s.whoWrite w (Reg.CH_COMMIT (whoWin w)) 32 1 (fun t => t.commitWrite (whoWin w)))

/-! ## Capture, learning table -/

/-- A write to TDL_CAP: only while BUSY is 0; ARM starts the capture at its trigger, at once with TRIG 0 (R406, R415). -/
def State.capWrite (s : State) (v : DWord) : State :=
  let r := Reg.TDL_CAP
  if s.flag r 61 then s
  else
    let armed := s.flag r 63
    let s1 := s.hostSet r v
    if bitOf v.toNat 63 && !armed then
      let s2 := s1.setFld r 13 0 0
      if s2.fld r 57 56 = 0 then { s2.setFlag r 61 true with capDec := 0 } else s2
    else s1

/-- CAPTURE_ARM: a write to TDL_CAP with ARM set. -/
def execCaptureArm (w : Who) (val : DWord) (s : State) : Res :=
  let v := BitVec.ofNat 64 (bitsPut val.toNat 63 63 1)
  .next (s.whoWrite w Reg.TDL_CAP 64 v (fun t => t.tdlGlobal w Reg.TDL_CAP v (fun x u => u.capWrite x)))

/-- A write to entry `i` of the learning table: ignored inside an enabled window whose channel has LEARN set (R402). -/
def State.rcWrite (s : State) (i : Nat) (v : DWord) : State :=
  let held := (List.range 64).any (fun c => s.rcOn c && s.flag (chRc c) 62 &&
    decide ((s.rcWin c).1 ≤ i) && decide (i < (s.rcWin c).1 + (s.rcWin c).2))
  if held then s else s.hostSet (Reg.TDL_RC i) v

def execRcEntryWrite (w : Who) (i : Fin 16384) (val : Word) (s : State) : Res :=
  let v := BitVec.ofNat 64 val.toNat
  .next (s.whoWrite w (Reg.TDL_RC i) 32 v (fun t => t.rcWrite i v))

/-! ## PWM carriers (R416) -/

/-- A write to TDL_PWMp: RUN from 0 to 1 places the first carrier start in the next shore cycle. -/
def State.pwmWrite (s : State) (p : Nat) (v : DWord) : State :=
  let was := s.flag (Reg.TDL_PWM p) 0
  let s1 := s.hostSet (Reg.TDL_PWM p) v
  if bitOf v.toNat 0 && !was then
    { s1 with pwm := tabPut s1.pwm p { s1.pwmRun p with next := s1.cyc + 1, period := 0, on0 := none, on1 := none } }
  else s1

/-- PWM_CARRIER_START: the count is 0; a CMP that waits loads and PERIOD takes effect. -/
def execPwmCarrierStart (p : Fin 12) (s : State) : Res :=
  let r := Reg.TDL_PWM p
  let k := s.pwmRun p
  if !(s.flag r 0) ∨ s.cyc + 1 < k.next then .next s
  else
    let per := s.fld r 63 48
    let cen := s.flag r 39
    let s1 := match k.cmp with
      | some v => s.setFld r 31 16 v
      | none => s
    let first := decide (k.period = 0)
    let k1 : PwmRun := ⟨k.next, per, cen, k.next + max 1 (if cen then 2 * per else per), none, k.next, none, none⟩
    let k2 := if first then { k1 with on0 := none, on1 := none } else k
    .next { s1 with pwm := tabPut s1.pwm p (k1.turned k2 (s.fld r 31 16) (s1.fld r 31 16) k.next) }

/-! ## Encoders (R417) -/

/-- ENCODER_EDGE: a filtered quadrature edge, 0 up and 1 down, inverted by DIR, or 2 an index pulse; none is seen while the
shore is off (R16). -/
def execEncoderEdge (e : Fin 16) (edge : Fin 3) (s : State) : Res :=
  let r := Reg.TDL_ENC e
  if s.standby then .next s
  else if edge.val = 2 then .next (if s.flag r 7 then s.setFld r 63 32 0 else s)
  else
    let up := (edge.val == 0) != s.flag r 6
    .next (s.setFld r 63 32 (s.fld r 63 32 + if up then 1 else 2 ^ 32 - 1))

/-- STATE of a drop binding (Table 13.12). -/
def State.dropState (s : State) (b : Nat) : Nat :=
  if !(s.flag (Reg.TDL_DROP b) 63) then 0
  else match s.dropRingOf b with
    | none => 1
    | some _ => match tabFind s.drops b with
      | some d => if d.full then 4 else 3
      | none => 2

end Sys2Proof.Machine
end

