-- ==== Sys2Proof/Machine/Timebase.lean ====
section
/-! DEFINITION. The timebase (R441 to R446), triggers (R447) and captures (R448). -/
namespace Sys2Proof.Machine

/-! ## The value -/

/-- The state with the timebase at a value. -/
def State.setTb (s : State) (v : Nat) : State :=
  let ns := v / 2 ^ 32
  { s with tbS := ns / 1000000000, tbNs := ns % 1000000000, tbFrac := v % 2 ^ 32 }

/-- The value after one step (R443). -/
def TbOp.apply (v : Nat) : TbOp → Nat
  | .step d => ((v : Int) + 2 ^ 32 * d).toNat
  | .set sec ns => 2 ^ 32 * (1000000000 * sec + ns)

/-- A trigger's TIME in nanoseconds. -/
def State.trigTime (s : State) (k : Nat) : Nat :=
  1000000000 * (s.reg (Reg.TIM_TRIG_S k)).toNat + s.fld (Reg.TIM_TRIG_NS k) 29 0

/-- A step from `before` to the present value has passed the firing time of some triggers, which fire once for it: the value
is kept for each (R447). -/
def State.trigPassed (s : State) (before : Nat) : State :=
  if s.nowNs ≤ before then s
  else
    let due := (List.range 4).filter (fun k => s.flag (Reg.TIM_TRIG_CTL k) 31 && decide (s.trigTime k ≤ s.nowNs))
    { s with trigPast := due.foldl (fun t k => tabPut t k s.nowNs) s.trigPast }

/-- A step taken at a tick: STEPS rises and a record gives the time after it and the signed change. -/
def State.tbStep (s : State) (op : TbOp) : State :=
  let before := s.nowNs
  let s1 := ((s.setTb (op.apply s.tbValue)).bumpMod Reg.TIM_SYNC 31 16).trigPassed before
  s1.fwLog 5 0 1 0x0601 (leBytes 4 0 ++ leBytes 8 (wrapOf 64 ((s1.nowNs : Int) - before)))

/-! ## Owner writes (R442, R443, R446) -/

/-- Is an agent the timebase's owner: the scheduler firmware with OWNER 0, the host with OWNER 1? -/
def State.tbOwner (s : State) (w : Who) : Bool :=
  match w with
  | .host _ => s.flag Reg.TIM_SYNC 1
  | .sch => !(s.flag Reg.TIM_SYNC 1)
  | _ => false

/-- A write to TIM_INCR. -/
def State.incrWrite (s : State) (w : Who) (v : DWord) : State :=
  if !(s.tbOwner w) then s
  else if 0x3C0000000 ≤ v.toNat ∧ v.toNat ≤ 0x440000000 then s.setReg Reg.TIM_INCR v
  else s.setFlag Reg.TIM_SYNC 3 true

/-- The value of the next tick, the steps already written included. -/
def State.tbNext (s : State) : Nat :=
  s.tbOps.foldl (fun v op => op.apply v) (s.tbValue + (s.reg Reg.TIM_INCR).toNat)

/-- A write to TIM_STEP: refused where it would take the value below 0:0. -/
def State.stepOffset (s : State) (w : Who) (v : DWord) : State :=
  let d := signedOf 64 v.toNat
  if !(s.tbOwner w) then s
  else if (s.tbNext : Int) + 2 ^ 32 * d < 0 then s.setFlag Reg.TIM_SYNC 2 true
  else { s with tbOps := s.tbOps ++ [.step d] }

/-- A write to TIM_SET_S arms a set. -/
def State.armSet (s : State) (w : Who) (v : DWord) : State :=
  if s.tbOwner w then { s with timArm := some v.toNat } else s

/-- A write to TIM_SET_NS. -/
def State.setAbs (s : State) (w : Who) (v : DWord) : State :=
  let ns := bitsOf v.toNat 29 0
  if !(s.tbOwner w) then s
  else match s.timArm with
    | some sec =>
      if 1000000000 ≤ ns then { s.setFlag Reg.TIM_SYNC 2 true with timArm := none }
      else { s with tbOps := s.tbOps ++ [.set sec ns], timArm := none }
    | none => s.setFlag Reg.TIM_SYNC 2 true

/-- A write to TIM_SYNC: OWNER by the physical function, LOCKED and OFFSET by the owner as it stood, the W1C bits. -/
def State.syncWrite (s : State) (w : Who) (v : DWord) : State :=
  let r := Reg.TIM_SYNC
  let x := v.toNat
  let own := s.tbOwner w
  let s1 := s.setReg r (BitVec.ofNat 64 (bitsPut (s.reg r).toNat 3 2
    (s.fld r 3 2 &&& (3 - bitsOf x 3 2) ||| bitsOf (s.events r) 3 2)))
  let s2 := match w with
    | .host _ => s1.setFlag r 1 (bitOf x 1)
    | _ => s1
  if own then (s2.setFlag r 0 (bitOf x 0)).setFld r 63 32 (bitsOf x 63 32) else s2

def execTimebaseIncrWrite (w : Who) (val : DWord) (s : State) : Res :=
  .next (s.whoWrite w Reg.TIM_INCR 64 val (fun t => t.incrWrite w val))
def execTimebaseStep (w : Who) (val : DWord) (s : State) : Res :=
  .next (s.whoWrite w Reg.TIM_STEP 64 val (fun t => t.stepOffset w val))
def execTimebaseSetArm (w : Who) (val : DWord) (s : State) : Res :=
  .next (s.whoWrite w Reg.TIM_SET_S 64 val (fun t => t.armSet w val))
def execTimebaseSet (w : Who) (val : Word) (s : State) : Res :=
  let v := BitVec.ofNat 64 val.toNat
  .next (s.whoWrite w Reg.TIM_SET_NS 32 v (fun t => t.setAbs w v))
def execTimesyncWrite (w : Who) (val : DWord) (s : State) : Res :=
  .next (s.whoWrite w Reg.TIM_SYNC 64 val (fun t => t.syncWrite w val))

/-! ## Latched reads (R445, R448) -/

/-- A host read that answers a value and has an effect, behind the checks of every access. -/
def State.guardRead (s : State) (fn : Fn) (off width : Nat) (eff : State → Nat × State) : State :=
  match s.accessKind fn false off width 0 with
  | some k => { s.accErr fn k false off with readData := 0, readOk := true }
  | none => let x := eff s; { x.2 with readData := x.1, readOk := true }

/-- A read of TIM_NOW_S latches NS and FRAC for the function. -/
def State.nowRead (s : State) (fn : Fn) : Nat × State :=
  (s.tbS, { s with timLatch := tabPut s.timLatch (fnNum fn) (2 ^ 32 * s.tbNs + s.tbFrac) })

def execTimNowLatch (fn : Fn) (s : State) : Res := .next (s.guardRead fn Reg.TIM_NOW_S 64 (fun t => t.nowRead fn))

/-- A read of TIM_NOW_NS returns a latch once, else the live value. -/
def State.nowNsRead (s : State) (fn : Fn) : Nat × State :=
  match tabFind s.timLatch (fnNum fn) with
  | some v => (v, { s with timLatch := tabDel s.timLatch (fnNum fn) })
  | none => (2 ^ 32 * s.tbNs + s.tbFrac, s)

/-- The key of a capture's latch for a function. -/
def capKey (k n : Nat) : Nat := 16 * (k + 1) + n

/-- A read of TIM_CAPk_S latches the ns field for the function; the stamp counts as read. -/
def State.capRead (s : State) (fn : Fn) (k : Nat) : Nat × State :=
  ((s.reg (Reg.TIM_CAP_S k)).toNat,
   { s with timLatch := tabPut s.timLatch (capKey k (fnNum fn)) (s.fld (Reg.TIM_CAP_NS k) 29 0),
            capUnread := setDel s.capUnread k })

def execCaptureLatch (fn : Fn) (k : Fin 2) (s : State) : Res :=
  .next (s.guardRead fn (Reg.TIM_CAP_S k) 64 (fun t => t.capRead fn k))

/-- A read of TIM_CAPk_NS: its NS is the latch once. -/
def State.capNsRead (s : State) (fn : Fn) (k : Nat) : Nat × State :=
  let v := (s.reg (Reg.TIM_CAP_NS k)).toNat
  match tabFind s.timLatch (capKey k (fnNum fn)) with
  | some n => (bitsPut v 29 0 n, { s with timLatch := tabDel s.timLatch (capKey k (fnNum fn)) })
  | none => (v, s)

/-! ## Triggers (R447) -/

/-- A trigger pad driven, where a claim covers it and it is not held (R569, R577). -/
def State.trigPad (s : State) (k : Nat) (level : Bool) : State :=
  if (s.holder (0x20 + k)).1 = 0 ∨ s.flag Reg.PAD_HOLD_STAT 3 then s else { s with out := s.out ++ [.pad 3 k level] }

/-- The TIME of a trigger after it has fired: one PERIOD on, or, where a forward step has passed its firing times, the first
one after the value that the step gave. -/
def State.trigNext (s : State) (k t p : Nat) : Nat :=
  match tabFind s.trigPast k with
  | some v => if v < t then t + p else t + ((v - t) / p + 1) * p
  | none => t + p

/-- TRIGGER_FIRE: at the first tick at or after TIME; TIME advances, or EN clears where PERIOD is 0. -/
def execTriggerFire (k : Fin 4) (s : State) : Res :=
  let r := Reg.TIM_TRIG_CTL k
  let t := s.trigTime k
  if !(s.flag r 31) ∨ s.nowNs < t then .next s
  else
    let s1 := if s.flag r 30 then s.signal (s.fld r 27 14) false 1 else s
    let s2 := if s1.flag r 29 && s1.fld r 13 0 != 0 then
        { s1.trigPad k true with trigEnd := tabPut s1.trigEnd k (s1.cyc + 2 * s1.fld r 13 0) } else s1
    let p := s2.fld (Reg.TIM_TRIG_NS k) 63 32
    if p = 0 then .next { s2.setFlag r 31 false with trigPast := tabDel s2.trigPast k }
    else
      let n := s2.trigNext k t p
      let s3 := { s2 with trigPast := tabDel s2.trigPast k }
      .next ((s3.setReg (Reg.TIM_TRIG_S k) (BitVec.ofNat 64 (n / 1000000000))).setFld (Reg.TIM_TRIG_NS k) 29 0 (n % 1000000000))

/-- TRIGGER_PULSE_END: WIDTH ticks after the pad rose. -/
def execTriggerPulseEnd (k : Fin 4) (s : State) : Res :=
  match tabFind s.trigEnd k with
  | some e => if s.cyc < e then .next s else .next { s.trigPad k false with trigEnd := tabDel s.trigEnd k }
  | none => .next s

/-! ## Captures (R448) -/

/-- CAPTURE_EDGE: an edge that EDGE selects latches the timebase less 8 ns. -/
def execCaptureEdge (k : Fin 2) (rising : Bool) (s : State) : Res :=
  let r := Reg.TIM_CAP_CTL k
  let ns := Reg.TIM_CAP_NS k
  let sel := match s.fld r 29 28 with
    | 0 => rising
    | 1 => !rising
    | _ => true
  if !(s.flag r 31) || !sel then .next s
  else
    let t := s.nowNs - 8
    let s1 := (s.setReg (Reg.TIM_CAP_S k) (BitVec.ofNat 64 (t / 1000000000))).setFld ns 29 0 (t % 1000000000)
    let s2 := s1.bumpMod ns 63 48
    let s3 := if s2.capUnread.contains k.val then s2.setFlag ns 47 true else s2
    let s4 := { s3 with capUnread := setIns s3.capUnread k }
    .next (if s4.flag r 30 then s4.signal (s4.fld r 13 0) false 1 else s4)

end Sys2Proof.Machine
end

