-- ==== Sys2Proof/Machine/Trace.lean ====
section
/-! DEFINITION. Trace points of the firmware (R507). -/
namespace Sys2Proof.Machine

/-- The component that owns trace point `t`; none for the reserved ones. -/
def traceOwner (t : Nat) : Option Nat :=
  if t < 512 then some 0 else if t < 1024 then some 1 else if t < 2560 then some 2 else if t < 3584 then some 3 else none

/-- The enabled trace points of FWM_TRACE_EN. -/
def State.tracePoints (s : State) : List Nat :=
  (s.listed (Reg.FWM_TRACE_EN 0) (Reg.FWM_TRACE_EN 64)).flatMap (fun p =>
    ((List.range 64).filter (fun i => p.2.getLsbD i)).map (fun i => 8 * (p.1 - Reg.FWM_TRACE_EN 0) + i))

/-- An enabled trace point passed by instance `n` of its component: a record, with free bytes for the version's catalogue, or
with 16 records waiting at the log writer none, and TRACE_DROP rises. Whether so many wait is free (Log 79). -/
def State.tracePass (s : State) (t c n : Nat) : State :=
  let (full, s1) := s.choose 2
  if full = 1 then s1.bumpSat Reg.FWM_LOG_PTR 15 0
  else
    let (g, s2) := s1.draw
    s2.fwLog c n 0 (0x8000 + t) ((List.range 12).map (fun i => Config.undefBits 8 g i))

/-- What the trace points do in a shore cycle: at most one enabled point is passed, which one is free (Log 79). -/
def State.traceStep (s : State) : State :=
  let l := s.tracePoints
  if l = [] then s
  else
    let (i, s1) := s.choose (l.length + 1)
    let (n, s2) := s1.choose 8
    match l[i]? with
    | none => s2
    | some t => match traceOwner t with
      | none => s2
      | some c =>
        let k := if c = 3 then n else 0
        if s2.fwRuns (if c = 3 then 3 + n else c) then s2.tracePass t c k else s2

end Sys2Proof.Machine
end

