-- ==== Sys2Proof/Machine/Tick.lean ====
section
/-! DEFINITION. TIMEBASE_TICK (R441 to R443): two shore cycles pass, and what falls due in them happens. -/
namespace Sys2Proof.Machine

/-- The timebase's value and rate noted where a step or another rate breaks their course; what lies more than 200 ms back
is forgotten. -/
def State.tbNote (s : State) (stepped : Bool) : State :=
  let i := (s.reg Reg.TIM_INCR).toNat
  let same := match s.tbPast with
    | a :: _ => a.incr == i
    | [] => false
  if same && !stepped then s
  else { s with tbPast := ⟨s.cyc, s.tbValue, i⟩ :: s.tbPast.filter (fun a => decide (s.cyc ≤ a.cyc + 100000000)) }

/-- TIMEBASE_TICK: INCR is added, then the steps written since the tick before take effect. In P4 and while the shore is off
only the reference clock runs. The commands between two ticks fall in one shore cycle (Log 60), so a tick closes what they
have noted of it; then the deadline watch judges its open instances (R526), what samples left for a later cycle is done, and frames whose SOF is
sampled are stamped. -/
def execTimebaseTick (s : State) : Res :=
  let s0 := { s with cyc := s.cyc + 2, tbJump := none, evt := [], synEvt := [], fnow := [], lnow := [], winNow := [], claimNow := [], canNow := [], enow := [], dlNow := [] }
  if s.standby then .next s0.mailStep.traceStep
  else
    let s1 := s0.setTb (s0.tbValue + (s0.reg Reg.TIM_INCR).toNat)
    let jump := if s1.tbOps = [] then none else some s1.nowNs
    let s2 := { s1.tbOps.foldl (fun t op => t.tbStep op) s1 with tbOps := [], tbJump := jump, tbLast := s.nowNs }
    let s3 := s2.dlEntries.foldl (fun t n => t.dlJudge n) s2
    .next (((s3.tbNote (!s1.tbOps.isEmpty)).canStamps).tdlRun).mailStep.traceStep

end Sys2Proof.Machine
end

