-- ==== Sys2Proof/Machine/PowerState.lean ====
section
/-! DEFINITION. Power states (R558 to R568), pad hold (R569) and reset (R573, R574). Times are cycles of the shore clock;
time-driven commands act when their instant has come. -/
namespace Sys2Proof.Machine

/-- DEV as it acts: 3, 4, or none. -/
def State.dev (s : State) : Nat := let d := s.fld Reg.PWR_MODE 2 0; if d = 3 ∨ d = 4 then d else 0

/-- PWR_STAT.STATE. -/
def State.pwrState (s : State) : Nat := s.fld Reg.PWR_STAT 2 0

/-- Is the device in P4? -/
def State.inP4 (s : State) : Bool := s.standby && s.pwrState == 3

/-! ## Islands -/

/-- Harbour `n` as a change of its memory leaves it: no error stands in it. -/
def State.hbrClear (s : State) (n : Nat) (m : Store 8) : State :=
  let out := fun (w : Nat) => decide (w < hbrAddr n 0 / 8) || decide (hbrAddr (n + 1) 0 / 8 ≤ w)
  { s with mem := m, hbrUe := s.hbrUe.filter out, hbrCe := s.hbrCe.filter out }

/-- Island `n` comes back (R216, R347, R380, R568): its cores initialised, its harbour zero, PGEN risen. -/
def State.islandUp (s : State) (n : Nat) : State :=
  let s1 := (s.setFlag Reg.PWR_STAT (8 + n) true).hbrClear n (s.mem.zero (hbrAddr n 0) 0x800000)
  let s2 := ((List.range 8).foldl (fun t j => t.initCore (8 * n + j)) s1).tlbDrop (fun u => u.isle == some n)
  let s3 := ((s2.islGenRise n).pgenRise n (64 + n)).countCores
  if s3.gateSel n then { s3 with gateAt := tabPut s3.gateAt n s3.cyc } else s3

/-- The sleeping cores of an island that is deselected before it gates wake (R561, R568). -/
def State.coresWake (s : State) (n : Nat) : State :=
  let cs := ((List.range 8).map (fun j => 8 * n + j)).filter (fun c => (s.core c).mode == .asleep)
  if cs = [] then s else (cs.foldl (fun t c => t.initCore c) s).pgenRise n (64 + n)

/-- Does a wake in progress bring island `n` back? -/
def State.waking (s : State) (n : Nat) : Bool := s.wake.any (fun d => d.1 == 2 + n)

/-- Gated islands are woken from P2, the k-th shifted by 20 µs times k (R567). -/
def State.wakeP2 (s : State) (l : List Nat) : State :=
  if l = [] then s
  else
    let w := (List.range l.length).zip l |>.map (fun (p : Nat × Nat) => (2 + p.2, s.cyc + 10000 * p.1, s.cyc + 60000 + 10000 * p.1))
    { s.setFld Reg.PWR_STAT 2 0 6 with wake := s.wake ++ w, wakeKind := if s.wake = [] then 2 else s.wakeKind }

/-! ## PWR_MODE (R559, R565, R566) -/

/-- A wake starts (R566, R567): DEV 0, ISL_GATE 0, LAST_WAKE. -/
def State.startWake (s : State) (src : Nat) : State :=
  let s1 := (s.setFld Reg.PWR_MODE 2 0 0).setFld Reg.PWR_MODE 15 8 0
  let s2 := ((s1.setFld Reg.PWR_STAT 7 4 src).setFld Reg.PWR_STAT 2 0 6).setFld Reg.PWR_STAT 19 16 0
  let p3 : List (Nat × Nat × Nat) := (1, 0, 30000) :: (List.range 8).map (fun n => (2 + n, 30000 + 10000 * n, 90000 + 10000 * n))
  let l := (if s.standby then bootWake else p3).map (fun (d : Nat × Nat × Nat) => (d.1, s.cyc + d.2.1, s.cyc + d.2.2))
  { s2 with wake := l, wakeKind := if s.standby then 4 else 3, heldWake := 0, wakeSig := false }

/-- A wake source fires: it wakes a state that is entered, and is held while one is being entered (R565). -/
def State.wakeReq (s : State) (src : Nat) : State :=
  if s.pwrState = 3 ∧ (s.standby ∨ s.dev ≠ 4) then s.startWake src
  else if s.pwrState = 3 ∨ s.pwrState = 5 then { s with heldWake := if s.heldWake = 0 then src else s.heldWake }
  else s

/-- The islands selected or let go by a write of PWR_MODE. -/
def State.select (s old : State) : State :=
  let on := (List.range 8).filter (fun n => s.gateSel n && !(old.gateSel n) && s.islandOn n)
  let off := (List.range 8).filter (fun n => !(s.gateSel n) && old.gateSel n)
  let s1 : State := { s with gateAt := off.foldl tabDel (on.foldl (fun t n => tabPut t n s.cyc) s.gateAt) }
  let s2 := (off.filter s.islandOn).foldl (fun t n => t.coresWake n) s1
  s2.countCores.wakeP2 (off.filter (fun n => !(s.islandOn n) && !(s.waking n)))

/-- A write of PWR_MODE; none reaches it while the shore is off. -/
def State.modeWrite (s : State) (v : DWord) : State :=
  let s1 := s.hostSet Reg.PWR_MODE v
  if s.standby then s
  else if s.pwrState = 3 then (if s1.dev = 0 then s1.wakeReq 4 else s1)
  else
    let s2 := s1.select s
    if s1.dev ≠ 0 then (if s2.pwrState = 6 then s2 else s2.setFld Reg.PWR_STAT 2 0 5)
    else
      let s3 : State := { s2 with heldWake := 0, wakeSig := false }
      if s3.pwrState = 5 then s3.pwrRest else s3

def execIslandSelect (fn : Fn) (val : Word) (s : State) : Res :=
  let v := BitVec.ofNat 64 val.toNat
  .next (s.guardWrite fn Reg.PWR_MODE 32 v (fun t => t.modeWrite v))

/-- The word of PWR_MODE with another DEV. -/
def State.modeWord (s : State) (dev : Nat) : DWord := BitVec.ofNat 64 (bitsPut (s.reg Reg.PWR_MODE).toNat 2 0 dev)

/-- A write of PWR_MODE that changes DEV alone. -/
def State.devWrite (s : State) (fn : Fn) (dev : Nat) : State :=
  s.guardWrite fn Reg.PWR_MODE 32 (s.modeWord dev) (fun t => t.modeWrite (s.modeWord dev))

def execEnterP3 (fn : Fn) (s : State) : Res := .next (s.devWrite fn 3)
def execEnterP4 (fn : Fn) (s : State) : Res := .next (s.devWrite fn 4)
def execDevClear (fn : Fn) (s : State) : Res := .next (s.devWrite fn 0)

/-! ## Gating (R561, R562) -/

/-- Are the ferries and ICC requests of island `n` idle? -/
def State.unitsIdle (s : State) (n : Nat) : Bool :=
  s.ferries.all (fun p => ferryIsland p.1 != n || (p.2.stream.isNone && !p.2.drain)) && s.kv.all (fun r => r.island != n)

/-- May island `n` be gated? -/
def State.mayGate (s : State) (n : Nat) : Bool :=
  s.gateSel n && s.islandOn n && !(s.waking n) && s.unitsIdle n &&
    ((s.partOfIsland n).isNone ||
      ((List.range 8).map (fun j => 8 * n + j)).all (fun c => !(s.unmarked c) || (s.core c).mode == .asleep))

/-- A gated core holds nothing; its generation is kept, and the partition of the last slice it ran is remembered (R215). -/
def State.coreOff (s : State) (c : Nat) : State :=
  let t := (s.drainQueue c).release c
  t.setCore c { Core.init with gen := (t.core c).gen, mode := .asleep, lastPart := (t.core c).lastPart }

/-- ISLAND_GATE. -/
def execIslandGate (n : IslandId) (s : State) : Res :=
  if !(s.mayGate n) then .next s
  else
    let (g, s0) := s.draw
    let s1 := (s0.setFlag Reg.PWR_STAT (8 + n) false).setFlag Reg.PWR_FLOOR_STAT (8 + n) false
    let s2 := s1.hbrClear n (s1.mem.undef (hbrAddr n 0) 0x800000 g)
    let s3 := (List.range 8).foldl (fun t j => t.coreOff (8 * n + j)) s2
    let s4 : State := { s3 with gateAt := tabDel s3.gateAt n, beatGated := setIns s3.beatGated n }
    .next (if s4.pwrState = 0 then s4.setFld Reg.PWR_STAT 2 0 2 else s4)

/-- Cores of island `n` that run a slice which is not of a power-control queue. -/
def State.ordinary (s : State) (n : Nat) : List Nat :=
  ((List.range 8).map (fun j => 8 * n + j)).filter (fun c => match (s.core c).slice with
    | some sl => !sl.pwr
    | none => false)

/-- GATE_TIMEOUT: GATE_TMO ms after the selection of island `n`. -/
def execGateTimeout (n : IslandId) (s : State) : Res :=
  let tmo := s.fld Reg.PWR_MODE 23 16
  match tabFind s.gateAt n with
  | none => .next s
  | some a =>
    if tmo = 0 ∨ s.cyc < a + 500000 * tmo ∨ !(s.islandOn n) ∨ !(s.gateSel n) ∨ s.schPaused then .next s
    else
      let cs := s.ordinary n
      let s1 := (List.range 8).foldl (fun t j => t.drainQueue (8 * n + j)) s
      let s2 := (cs.foldl (fun t c => t.askPreempt c) s1).setFlag Reg.PWR_STAT 3 true
      .next ({ s2 with gateAt := tabDel s2.gateAt n } |>.fwLog 2 0 2 0x0103 (leBytes 1 n ++ leBytes 1 cs.length))

/-! ## Pad hold (R569) -/

/-- Is output 0 or 1 of pair `p` high: its side of CMP is on, and has been for DEAD cycles (R416)? -/
def State.pwmLevel (s : State) (p side : Nat) : Bool :=
  match (s.pwmRun p).onAt (s.fld (Reg.TDL_PWM p) 31 16) side s.cyc with
  | some t => s.flag (Reg.TDL_PWM p) 0 && decide (t + s.fld (Reg.TDL_PWM p) 47 40 ≤ s.cyc)
  | none => false

/-- The level of line `i` of SPI master `m`: 0 SCLK, 1 MOSI, 2 to 5 CS, 6 LDAC. An idle master drives CS high and SCLK at
CPOL of its devices (Table 20.9); MOSI and LDAC, SCLK where the devices differ, and the lines of a busy master are free
choices (Log 41). -/
def State.spiLevel (s : State) (m i : Nat) : Nat :=
  let any := Config.choice (s.free + 7 * m + i) % 2
  let pol := fun (j : Nat) => s.fld (Reg.TDL_SPIDEV (4 * m + j)) 18 18
  if s.cyc < tabGet 0 s.spiBusy m then any
  else if i = 0 then (if (List.range 4).all (fun j => pol j == pol 0) then pol 0 else any)
  else if 2 ≤ i ∧ i < 6 then 1
  else any

/-- The level of a pad of a held group as it was driven; a shared ball is low while no claim covers its function (R577). -/
def State.padLevel (s : State) (group pad : Nat) : Nat :=
  match group with
  | 0 => boolNat (s.pwmLevel (pad / 2) (pad % 2) && (decide (pad < 20) || (s.holder (pad / 2)).1 != 0))
  | 1 => s.spiLevel (pad / 7) (pad % 7)
  | 2 => if (tabFind s.canTx pad).isSome then Config.choice (s.free + 32 + pad) % 2 else 1
  | _ => boolNat ((tabFind s.trigEnd pad).isSome && (s.holder (0x20 + pad)).1 != 0)

/-- Pads per group: PWM outputs, the seven lines of four SPI masters, CAN TX, triggers. -/
def padCount : Nat → Nat
  | 0 => 24
  | 1 => 28
  | 2 => 8
  | _ => 4

/-- The pads of the groups not already held, with their levels; a pad's key is 64 times its group plus its number. -/
def State.latchPads (s : State) : Tab Nat :=
  (List.range 4).foldl (fun t g =>
    if s.flag Reg.PAD_HOLD_STAT g then t
    else (List.range (padCount g)).foldl (fun t i => tabPut t (64 * g + i) (s.padLevel g i)) t) s.heldPads

/-- The pad latches are closed: every group is held. -/
def State.held (s : State) (cause : Nat) : State := (s.setFld Reg.PAD_HOLD_STAT 3 0 15).setFld Reg.PAD_HOLD_STAT 5 4 cause

/-- A write of PAD_HOLD_REL; a trigger whose pads are released drives its ball from then on. -/
def State.padRelWrite (s : State) (v : DWord) : State :=
  let h := s.fld Reg.PAD_HOLD_STAT 3 0
  let rel := bitsOf v.toNat 3 0
  let left := h &&& (15 - rel)
  let s1 := s.setFld Reg.PAD_HOLD_STAT 3 0 left
  let s2 := if left = 0 then s1.setFld Reg.PAD_HOLD_STAT 5 4 0 else s1
  let s3 : State := { s2 with heldPads := s2.heldPads.filter (fun p => bitOf left (p.1 / 64)) }
  if bitOf h 3 && bitOf rel 3 then
    (List.range 4).foldl (fun t k => t.trigPad k (tabFind t.trigEnd k).isSome) s3 else s3

/-- PAD_RELEASE. -/
def execPadRelease (fn : Fn) (rel : Fin 16) (s : State) : Res :=
  let v := BitVec.ofNat 64 rel
  .next (s.guardWrite fn Reg.PAD_HOLD_REL 32 v (fun t => t.padRelWrite v))

/-! ## Loss of the shore -/

/-- What a loss of the shore leaves: registers that `keep` names, the always-on domain's own state, the outside's. The
Lighthouse pair that halted on a difference stays halted, and with it SUPERVISOR (R512). -/
def State.shoreLost (s : State) (keep : Nat → Bool) : State := { State.reset with
  pending := s.pending, out := s.out, free := s.free, cyc := s.cyc, hbAt := s.cyc, hbOld := s.cyc, readData := s.readData, readOk := s.readOk,
  regs := s.regs.filter (fun p => keep p.1), vdd := s.vdd, lockstep := s.lockstep, pinPend := if s.lockstep then 3 else 1,
  pinCause := if s.lockstep then 0x0B else 0, flash := s.flash, seCnt := s.seCnt, sePaired := s.sePaired, floors := s.floors,
  manifest := s.manifest, images := s.images, seAtBoot := s.seAtBoot, fbEver := s.fbEver, dbgEver := s.dbgEver, chal := s.chal,
  mr := s.mr, mrCnt := s.mrCnt, halted := s.halted, bundle := s.bundle, revert := false, deferAt := s.deferAt,
  emgEnd := s.emgEnd, ranSince := s.ranSince, raiseAt := s.raiseAt, tapOut := s.tapOut, tapPend := s.tapPend, regions := s.regions, mpLock := s.mpLock,
  mail := s.mail.filter (fun m => decide (m.src < 2) && decide (m.dst < 2)),
  mailWait := s.mailWait.filter (fun m => decide (m.src < 2) && decide (m.dst < 2)), heldPads := s.latchPads }

/-- Registers of SEC kept in P4 and across a reset but PORST: FWM_COMP, FWM_UPD_STAT, FWM_SEC_STAT, FWM_DEVID. -/
def secReg (off : Nat) : Bool :=
  (decide (0xC01000 ≤ off) && decide (off < 0xC01028)) || off == Reg.FWM_UPD_STAT || off == Reg.FWM_SEC_STAT ||
    off == Reg.FWM_DEVID 0 || off == Reg.FWM_DEVID 1

/-- Registers of the PMC kept across a reset but PORST; PWR_MODE and PWR_STAT follow the islands. -/
def pmcReg (off : Nat) : Bool :=
  off == Reg.PWR_WAKE || off == Reg.PWR_LIMIT || off == Reg.PWR_THERM || off == Reg.PWR_BEAT_CTRL || off == Reg.PWR_FLOOR_STAT ||
    (decide (Reg.PWR_BEAT_ISL 0 ≤ off) && decide (off < Reg.PWR_BEAT_ISL 8))

/-- What both kinds of loss do to the components: those of the shore do not run, a restart or an activation in progress is
over, the identity is erased. -/
def State.firmLost (s : State) : State :=
  let s1 := [2, 3, 4].foldl (fun (t : State) c => t.setFlag (Reg.FWM_COMP c) 0 false) s
  let s2 := if 5 ≤ s1.fld Reg.FWM_UPD_STAT 47 44 then s1.setFld Reg.FWM_UPD_STAT 47 44 0 else s1
  { s2.setFlag Reg.FWM_SEC_STAT 6 false with seed := [] }

/-- LAST_WAKE, the host epoch and LOST (R486) as they are kept; the epoch raised by `d`. -/
def State.keepEpoch (s old : State) (d : Nat) : State :=
  (s.setFld Reg.GLB_HOST 63 32 (old.fld Reg.GLB_HOST 63 32 + d)).setFld Reg.PWR_STAT 7 4 (old.fld Reg.PWR_STAT 7 4)

/-! ## Entering P3 and P4 (R563, R564) -/

/-- P3_ENTRY: every island is gated. A wake that was held starts. -/
def execP3Entry (s : State) : Res :=
  if s.pwrState ≠ 5 ∨ s.dev = 0 ∨ s.fld Reg.PWR_STAT 15 8 ≠ 0 ∨ s.wake ≠ [] ∨ s.restarting 1 0 then .next s
  else
    let s1 := { (s.setFld Reg.PWR_STAT 2 0 3).setFlag Reg.GLB_STATE 4 false with entryAt := s.cyc }
    .next (if s1.heldWake ≠ 0 ∧ s1.dev = 3 then s1.startWake s1.heldWake else s1)

/-- INIT set on every CAN controller, at the end of its frame where one is being sent. -/
def State.canAllInit (s : State) : State :=
  (List.range 8).foldl (fun (t : State) k =>
    if t.flag (canCtrl k) 0 then t
    else
      let u := t.setFlag (canCtrl k) 0 true
      if (tabFind u.canTx k).isSome then u else u.canEnterInit k) s

/-- The shore in P4: LPDDR5X in self-refresh and its registers of always-on units are kept (Table 20.1). -/
def State.p4State (s : State) : State :=
  let (g, s0) := s.draw
  let s1 := (s0.shoreLost (fun off => secReg off || off == Reg.PWR_WAKE || off == Reg.MEM_XTS)).firmLost
  let s2 := (((s1.keepEpoch s0 0).setFlag Reg.MEM_CFG 2 (s0.flag Reg.MEM_CFG 2)).setFld Reg.PWR_STAT 2 0 3).held 1
  { s2 with mem := s0.mem.undef (hbrAddr 0 0) 0x4000000 g, lpUe := s0.lpUe, lpCe := s0.lpCe, patrolAt := s0.patrolAt, xtsKeys := s0.xtsKeys,
            granOwner := s0.granOwner,
            standby := true, wake := [], entryAt := s0.cyc, heldWake := 0 }

/-- P4_ENTRY: from P3, once every CAN controller is in INIT. -/
def execP4Entry (s : State) : Res :=
  if s.pwrState ≠ 3 ∨ s.standby ∨ s.dev ≠ 4 then .next s
  else
    let s1 := s.canAllInit
    if (List.range 8).all (fun k => s1.canState k == 3) then
      let s2 := s1.p4State
      .next (if s1.heldWake ≠ 0 then s2.startWake s1.heldWake else s2)
    else .next s1

/-! ## Wake (R566 to R568) -/

/-- WAKE_PIN: WAKE_N low for 1 µs. -/
def execWakePin (s : State) : Res := .next (if s.flag Reg.PWR_WAKE 0 then s.wakeReq 1 else s)

/-- WAKE_TIMER: TIMER_MS after the entry. -/
def execWakeTimer (s : State) : Res :=
  let ms := s.fld Reg.PWR_WAKE 63 32
  if s.flag Reg.PWR_WAKE 1 ∧ ms ≠ 0 ∧ s.pwrState = 3 ∧ s.entryAt + 500000 * ms ≤ s.cyc then .next (s.wakeReq 2) else .next s

/-- WAKE_SYNC_SIGNAL: the wake object has been signalled; it cannot wake P4, whose entry resets the object. -/
def execWakeSyncSignal (s : State) : Res :=
  if !s.wakeSig then .next s
  else
    let s1 : State := { s with wakeSig := false }
    .next (if s.flag Reg.PWR_WAKE 2 && s.dev != 4 then s1.wakeReq 3 else s1)

/-- The last domain is released: injection after P3, boot after P4, else the state that PWR_MODE gives. -/
def State.wakeEnd (s : State) : State :=
  match s.wakeKind with
  | 2 => if s.flag Reg.LHS_INJ 63 then s else s.pwrRest
  | 3 => s.injStart
  | 4 => s.setFld Reg.GLB_STATE 3 0 1
  | _ => s

/-- DOMAIN_RELEASE: the next domain of the wake order, at its time, its power-good input high. -/
def execDomainRelease (s : State) : Res :=
  match s.wake with
  | [] => .next s
  | (d, _, rel) :: t =>
    if s.cyc < rel ∨ s.fld Reg.PWR_STAT 19 16 ≠ 0 then .next s
    else
      let s1 : State := { s with wake := t }
      let s2 : State :=
        if d = 0 then
          let u : State := { s1 with standby := false, hbAt := s1.cyc, hbOld := s1.cyc }
          if s.wakeKind = 4 then u.keepEpoch u 1 else u
        else if d = 1 then s1 else s1.islandUp (d - 2)
      .next (if t = [] then s2.wakeEnd else s2)

/-- The domain a rail feeds: 0 shore and I/O, 1 VDD_STR, 2 SerDes. -/
def railDomain (rail : Fin 3) : Nat := if rail.val = 1 then 1 else 0

/-- WAKE_ERROR: the rail's power-good input has not risen 1 ms after its enable; the wake stops (R567). -/
def execWakeError (rail : Fin 3) (s : State) : Res :=
  match s.wake with
  | [] => .next s
  | (d, en, _) :: _ =>
    if d = railDomain rail ∧ en + 500000 ≤ s.cyc ∧ s.fld Reg.PWR_STAT 19 16 = 0 then
      .next (s.setFld Reg.PWR_STAT 19 16 (rail.val + 1))
    else .next s

/-! ## Reset (Table 20.6) -/

/-- The wake order from now. -/
def State.wakeFrom (s : State) : List (Nat × Nat × Nat) :=
  bootWake.map (fun (d : Nat × Nat × Nat) => (d.1, s.cyc + d.2.1, s.cyc + d.2.2))

/-- SYSRST_N or PWR_RESET: SEC, PMC, manifest and floors are kept, the pads held, LPDDR5X undefined; boot goes on at 0x1. -/
def State.sysReset (s : State) : State :=
  let (g, s0) := s.draw
  let s1 := (s0.shoreLost (fun off => secReg off || pmcReg off)).firmLost
  let s2 := (((s1.keepEpoch s0 1).held 2).setFld Reg.GLB_STATE 3 0 1).setFld Reg.PWR_FLOOR_STAT 15 8 0
  { s2 with mem := s0.mem.restart g, wake := s0.wakeFrom, standby := false,
            thrBudget := s0.thrBudget, thrStart := s0.thrStart, thrRot := s0.thrRot, thrAt := s0.thrAt,
            beatMin := s0.beatMin, beatWin := s0.beatWin, beatGated := s0.beatGated,
            thHot := s0.thHot, thCool := s0.thCool, thTop := s0.thTop, thStep := s0.thStep }

/-- SYSRST. -/
def execSysrst (s : State) : Res := .next s.sysReset

/-- A write of PWR_RESET. -/
def State.resetWrite (s : State) (v : DWord) : State := if bitsOf v.toNat 31 24 = 0xA5 then s.sysReset else s

/-- PWR_RESET. -/
def execPwrReset (fn : Fn) (key : Byte) (s : State) : Res :=
  let v := BitVec.ofNat 64 (2 ^ 24 * key.toNat)
  .next (s.guardWrite fn Reg.PWR_RESET 32 v (fun t => t.resetWrite v))

/-- PORST: everything but the boot flash and the secure element, which is outside the device. -/
def execPorst (s : State) : Res :=
  let (g, s0) := s.draw
  .next { State.reset with
    pending := s0.pending, out := s0.out, free := s0.free, flash := s0.flash, seCnt := s0.seCnt, sePaired := s0.sePaired,
    mem := s0.mem.restart g }

/-- IDCODE (R580), from REV_MAJ. -/
def State.idcode (s : State) : Nat := 0x08640B47 + 0x10000000 * s.fld Reg.GLB_IDENT 7 4

/-- TAP_RESET: the TAP's state machine; what a token unlocked stays (R556). The reset selects IDCODE, so the next capture
returns it (Log 68). -/
def execTapReset (s : State) : Res := .next { s with tapOut := leBytes 4 s.idcode }

end Sys2Proof.Machine
end

