-- ==== Sys2Proof/Machine/RegAccess.lean ====
section
/-! DEFINITION. REGISTER_WRITE and RC_READ: a write or read of any register of BAR0 by any agent (R10 to R13), each with
the effect its own rule gives it; what the read-only registers that follow the state show; and the proxy's target
(R469). -/
namespace Sys2Proof.Machine

/-! ## Writes -/

/-- A write of window `n`'s register: it acts when the agent is the window's own (R407, R424, R576). -/
def State.ownWin (s : State) (w : Who) (n : Nat) (eff : State → State) : State := if n = whoWin w then eff s else s

/-- Is an agent the host? -/
def isHost : Who → Bool
  | .host _ => true
  | _ => false

/-- The function of a host access; the firmware's own accesses are the PF's. -/
def whoFn : Who → Fn
  | .host fn => fn
  | _ => .pf

/-- Does another agent hold trigger or capture `res` (R577)? -/
def State.heldFrom (s : State) (w : Who) (res : Nat) : Bool :=
  (s.holder res).1 != 0 && (s.holder res).1 != whoWin w + 1

/-- A write to a register of a binding whose EN, bit `en` of register `reg`, is 1: only EN takes effect (R414, R474). -/
def State.boundWrite (s : State) (reg en off : Nat) (v : DWord) : State :=
  if !(s.flag reg en) then s.hostSet off v
  else if off = reg then s.setFlag reg en (bitOf v.toNat en)
  else s

/-- A write to MSIX_CTRLv of a function: an unmasked pending vector is sent (R482). -/
def State.msixWrite (s : State) (n i : Nat) (v : DWord) : State :=
  let s1 := s.hostSet (Reg.MSIX_CTRL i + 0x4000000 * n) v
  let pba := Reg.MSIX_PBA (i / 32) + 0x4000000 * n
  if !(bitOf v.toNat 0) && s1.flag pba (i % 32) && s1.msixEn.getLsbD n && s1.bme.getLsbD n && !(s1.flag Reg.GLB_HOST 0) then
    (s1.setFlag pba (i % 32) false).raise n i
  else s1

/-- The registers of the host link, the islands, the memory path and the scheduler. -/
def State.hostRegs (s : State) (fn : Fn) (name : String) (i j off : Nat) (v : DWord) : Option State :=
  match name with
  | "GLB_HOSTCTL" => some (s.hostCtl fn v)
  | "MSIX_ADDR" => some (s.hostSet (off + 0x4000000 * fnNum fn) v)
  | "MSIX_CTRL" => some (s.msixWrite (fnNum fn) i v)
  | "ITK_STR_RING" => some (s.strRing i v)
  | "ITK_JQ_RING" => some (s.jqRing i v)
  | "ITK_JQ_PTR" => some (s.jobTail i v)
  | "ITK_DEC_CTRL" => some (s.decCtrl v)
  | "MEM_XTS" => some (s.xtsWrite v)
  | "MEM_INV" => some (s.invWrite v)
  | "MEM_FAULT_RESP" => some (s.faultResp v)
  | "MEM_AS" => some (s.asWrite i v)
  | "SCH_QCFG" => some (s.qcfgWrite i v)
  | "SCH_CTX_CFG" => some (s.ctxWrite i v)
  | "SCH_CTX_SEED" => some (s.stepWrite i j v)
  | "SCH_CTX_STEP" => some (s.stepWrite i 2 v)
  | "SCH_PART_W0" => some (s.partWrite i 0 v)
  | "SCH_PART_W1" => some (s.partWrite i 1 v)
  | "SCH_CANCEL" => some (s.cancelWrite v)
  | "SCH_READMIT" => some (s.readmitWrite v)
  | "SYN_CNT" => some (s.syncSet i v)
  | "SYN_CTL" => some (s.synCtlWrite fn i v)
  | _ => none

/-- The registers of the network, firmware, security, safety and power units. -/
def State.unitRegs (s : State) (name : String) (i j off : Nat) (v : DWord) : Option State :=
  match name with
  | "NET_SP_RX_MATCH" => some (s.boundWrite off 63 off v)
  | "NET_SP_RX_RING" =>
    let t := s.boundWrite (Reg.NET_SP_RX_MATCH i j) 63 off v
    some (if s.flag (Reg.NET_SP_RX_MATCH i j) 63 then t else { t with ethRx := tabDel t.ethRx (8 * i + j) })
  | "NET_SP_TX" => some (s.boundWrite off 63 off v)
  | "NET_CW_CFG" =>
    let m := s.fld off 62 61
    some (if s.flag off 63 then (s.hostSet off v).setFld off 62 61 m else s.hostSet off v)
  | "NET_PXY_CMD" => some (s.pxyWrite v)
  | "NET_CH_SEND" => some (s.chWrite off i false v)
  | "NET_CH_RECV" => some (s.chWrite off i true v)
  | "MBX_REQ" => some (if s.flag (mbxCtl i) 30 then s else s.hostSet off v)
  | "MBX_CTL" => some (s.mbxWrite i v)
  | "IMBX_REQ" => some (if s.flag (mbxCtl (3 + i)) 30 then s else s.hostSet off v)
  | "IMBX_CTL" => some (s.mbxWrite (3 + i) v)
  | "FWM_PMB" => some (s.pmbWrite i v)
  | "FWM_LOG_BASE" => some (s.logBaseWrite v)
  | "LHS_CFG" => some (s.lhsCfgWrite v)
  | "LHS_PINS" => some (s.pinsWrite v)
  | "LHS_DL_CFG" => some (s.dlCfgWrite i v)
  | "LHS_DL_THR" => some (s.dlSetWrite i off v)
  | "LHS_DL_TS" => some (s.dlSetWrite i off v)
  | "LHS_DL_TNS" => some (s.dlSetWrite i off v)
  | "PWR_MODE" => some (s.modeWrite v)
  | "PWR_RESET" => some (s.resetWrite v)
  | "PAD_HOLD_REL" => some (s.padRelWrite v)
  | _ => none

/-- The registers of Tideline that several agents write. -/
def State.tdlRegs (s : State) (w : Who) (name : String) (i off : Nat) (v : DWord) : Option State :=
  let glob := fun (f : DWord → State → State) => some (s.tdlGlobal w off v f)
  match name with
  | "TDL_CTRL" => glob (fun x t => t.tdlCtrlWrite x)
  | "TDL_DROP" => glob (fun x t => t.boundWrite off 63 off x)
  | "TDL_DROP_MASK" => glob (fun x t => t.hostSet off x)
  | "TDL_DROP_STAT" => glob (fun x t => t.hostSet off x)
  | "TDL_CAP" => glob (fun x t => t.capWrite x)
  | "TDL_PWM" => glob (fun x t => t.pwmWrite i x)
  | "TDL_ENC" => glob (fun x t => t.hostSet off x)
  | "TDL_SPIDEV" => glob (fun x t => t.hostSet off x)
  | "TDL_RC" => some (s.rcWrite i v)
  | "TDL_CHSEL" => some (s.ownWin w i (fun t => t.chselWrite i v))
  | "CH_STAT" => some (s.ownWin w i (fun t => t.hostSet (chStat (t.tdlSel i)) v))
  | "CH_OBS" => some s
  | "CH_COMMIT" => some (s.ownWin w i (fun t => if bitOf v.toNat 0 then t.commitWrite i else t))
  | _ =>
    if Reg.CH_SCHED 0 ≤ off ∧ off < Reg.CH_STAT 3 then
      some (s.ownWin w i (fun t => t.shadowWrite i ((off - Reg.CH_SCHED i) / 8) v))
    else none

/-- The registers of a CAN window; a write of CAN_CTRL may meet a frame on the bus or not (Log 8). -/
def State.canRegs (s : State) (w : Who) (name : String) (n i off : Nat) (v : DWord) : Option State :=
  let own := fun (eff : State → State) => some (s.ownWin w n eff)
  let off0 := off - n * 0x10000
  let ord := fun (f : Nat → DWord → State → State) => some (s.ownWin w n (fun t => t.canOrdered w off0 v f))
  match name with
  | "CAN_CHSEL" => own (fun t => t.hostSet off v)
  | "CAN_WSTAT" => own (fun t => t.hostSet off v)
  | "CAN_CTRL" => own (fun t => let (b, u) := t.choose 2; u.canOrdered w off0 v (fun m x y => y.canCtrlWrite m (y.canSel m) (b == 1) x))
  | "CAN_NBT" => ord (fun m x t => t.canTimingWrite m off0 x)
  | "CAN_DBT" => ord (fun m x t => t.canTimingWrite m off0 x)
  | "CAN_TDC" => ord (fun m x t => t.canTimingWrite m off0 x)
  | "CAN_STAT" => own (fun t => t.hostSet (canBank (t.canSel n) off0) v)
  | "CAN_TXREQ" => own (fun t => t.canTxreq n v)
  | "RXB_FLT" => ord (fun m x t => t.hostSet (canBank (t.canSel m) off0) x)
  | "RXB_SIG" => ord (fun m x t => t.hostSet (canBank (t.canSel m) off0) x)
  | "TPL_HDR" => ord (fun m x t => t.canTplWrite m i off0 x)
  | "TPL_DATA" => ord (fun m x t => t.canTplWrite m i off0 x)
  | _ => none

/-- The timebase's registers and the claim windows. -/
def State.timRegs (s : State) (w : Who) (name : String) (i off : Nat) (v : DWord) : Option State :=
  let held := fun (res : Nat) => some (if s.heldFrom w res then s else s.hostSet off v)
  match name with
  | "TIM_INCR" => some (s.incrWrite w v)
  | "TIM_STEP" => some (s.stepOffset w v)
  | "TIM_SET_S" => some (s.armSet w v)
  | "TIM_SET_NS" => some (s.setAbs w v)
  | "TIM_SYNC" => some (s.syncWrite w v)
  | "TIM_TRIG_S" => held (0x20 + i)
  | "TIM_TRIG_NS" => held (0x20 + i)
  | "TIM_TRIG_CTL" => held (0x20 + i)
  | "TIM_CAP_CTL" => held (0x28 + i)
  | "PAD_CLAIM" => some (s.ownWin w i (fun t => t.claimWrite i v))
  | _ => none

/-- The effect of a write of the register of a group at its indices: its own rule's, else that of its access codes. The
firmware's own agents reach the shore registers of chapters 13 to 15 and the claims; other registers are the host's. -/
def State.regWrite (s : State) (w : Who) (g : RegGroup) (ix : List Nat) (off : Nat) (v : DWord) : State :=
  let i := ix.headD 0
  let j := (ix.drop 1).headD 0
  match s.tdlRegs w g.name i off v with
  | some t => t
  | none => match s.canRegs w g.name i j off v with
    | some t => t
    | none => match s.timRegs w g.name i off v with
      | some t => t
      | none =>
        if !(isHost w) then s
        else match s.hostRegs (whoFn w) g.name i j off v with
          | some t => t
          | none => match s.unitRegs g.name i j off v with
            | some t => t
            | none => s.hostSet off v

/-- A write of one register at a BAR0 offset. -/
def State.barWriteOne (s : State) (w : Who) (off width : Nat) (v : DWord) : State :=
  s.whoWrite w off width v (fun t => match regAt off with
    | some (g, ix) => t.regWrite w g ix off v
    | none => t)

/-- Is an access a 64-bit one of memory that has no register width of its own: by the host, of the MSI-X table or the PBA,
which the PCI Express Base Specification lets software reach with either width (R481), or of the event ring and the early
log, which are on-chip SRAM (R504, R513)? Log 25. -/
def msixWide (w : Who) (off width : Nat) : Bool :=
  width == 64 && off % 8 == 0
    && ((isHost w && decide (0xF0000 ≤ off) && decide (off < 0xF8020))
      || (decide (0x508000 ≤ off) && decide (off < 0x510000)) || (decide (0xC80000 ≤ off) && decide (off < 0xC90000)))

/-- May the second half of a wide access of such memory be reached? -/
def State.msixHigh (s : State) (w : Who) (wr : Bool) (off : Nat) : Bool :=
  (s.accessKind (whoFn w) wr (off + 4) 32 0).isNone

/-- A write at a BAR0 offset. -/
def State.barWrite (s : State) (w : Who) (off width : Nat) (v : DWord) : State :=
  if msixWide w off width then
    let s1 := s.barWriteOne w off 32 (v &&& 0xFFFFFFFF)
    if s.msixHigh w true off then s1.barWriteOne w (off + 4) 32 (v >>> 32) else s1
  else s.barWriteOne w off width v

/-- REGISTER_WRITE. -/
def execRegisterWrite (w : Who) (off width : Nat) (val : DWord) (s : State) : Res := .next (s.barWrite w off width val)

/-! ## What derived registers show -/

/-- STATE of TC_STATUS (Table 4.10). -/
def State.tcState (s : State) (c : Nat) : Nat :=
  let k := s.core c
  let faulted := fun (f : Nat) => match (s.ferry f).stream with
    | some st => st.faulted
    | none => false
  match k.mode with
  | .idle => 0
  | .saving => 6
  | .restoring => 7
  | .scrubbing => 8
  | .beacon => 9
  | .asleep => 10
  | .running =>
    match (if s.stuck c then (k.regs.fly.map (·.wait) ++ k.regs.stall.toList).head? else none) with
    | some (.tags _ _) => 2
    | some .slot => 3
    | some (.sync _ _) => 4
    | some (.ferry f) => if faulted f then 5 else 1
    | some .streams => if (s.coreFerries c).any faulted then 5 else 1
    | _ => 1

/-- TC_STATUS of core `c`. -/
def State.tcStatus (s : State) (c : Nat) : Nat :=
  let k := s.core c
  let x := match k.slice with
    | some sl => (sl.ctx, sl.prio)
    | none => (k.lastCtx, k.lastPrio)
  k.gen % 65536 * 2 ^ 16 + x.1 % 256 * 2 ^ 8 + x.2 % 8 * 2 ^ 5 + boolNat (s.flag Reg.GLB_TC_MARKED c) * 2 ^ 4 + s.tcState c

/-- TC_PC of core `c` (R112, Table 4.12): of its oldest instruction not yet complete. RV reads 1 also while that one stands
still at a row without being preempted (DESIGN CHOICE, Log 76). -/
def State.tcPc (s : State) (c : Nat) : Nat :=
  let r := (s.core c).regs
  let old := match r.fly with
    | e :: _ => (e.pc, e.resume)
    | [] => (r.pc, r.resume)
  let x := match old.2 with
    | some (kb, row) => row % 128 * 2 ^ 50 + kb % 2 ^ 18 * 2 ^ 32 + 1
    | none => 0
  old.1 / 8 % 2 ^ 20 * 8 + x

/-- FRY_STATUS of ferry `f` (Table 8.11). -/
def State.fryStatus (s : State) (f : Nat) : Nat :=
  let k := s.ferry f
  let x := match k.stream with
    | none => (k.op, 0)
    | some st => (st.op, if st.load.isSome then 1 else match st.wait with
      | .none => 2
      | .slotE => 3
      | .slotF => 4
      | .tags _ _ _ => 5
      | .remote => 6
      | .fault _ => 7
      | .landing => 8
      | .saved => 9)
  k.ctx % 256 * 2 ^ 24 + x.1 % 64 * 2 ^ 16 + 2 ^ 15 * boolNat k.drain + 2 ^ 14 * boolNat k.bound.isSome + k.prio % 8 * 2 ^ 11
    + k.err % 16 * 2 ^ 4 + x.2

/-- A lane of LGN_WAIT (Table 7.5): the lowest berth that does not yet satisfy the access. -/
def Core.lane (k : Core) (write : Bool) (bs : List Nat) : Nat :=
  match leastOf (bs.filter (fun b => k.tag b == write)) with
  | some b => 2 ^ 15 + 2 ^ 14 * boolNat write + b % 128
  | none => 0

/-- The lane of a ferry that waits on core `c`'s tags, also on those of the next slot of a lagoon ring (R169). -/
def State.ferryLane (s : State) (c f : Nat) : Nat :=
  let slot := fun (st : Stream) (write : Bool) => match st.waitRing with
    | some rn =>
      if rn.core = c then match s.ring c rn.handle with
        | some r => (s.core c).lane write (r.slotBerths (r.nowSlot write))
        | none => 0
      else 0
    | none => 0
  match (s.ferry f).stream with
  | some st => match st.wait with
    | .tags d wr bs => if d = c then (s.core c).lane wr bs else 0
    | .slotE => slot st true
    | .slotF => slot st false
    | _ => 0
  | none => 0

/-- Ferries beside core `c`'s own that wait to write its lagoon, with the time since when. -/
def State.remoteWaits (s : State) (c : Nat) : List (Nat × Nat) :=
  s.ferries.filterMap (fun p => match p.2.stream with
    | some st => if p.1 ≠ 2 * c ∧ p.1 ≠ 2 * c + 1 ∧ bitOf (s.ferryLane c p.1) 14 then some (st.since, p.1) else none
    | none => none)

/-- LGN_WAIT of core `c`: the core, its inbound and outbound ferry, the oldest remote or bulk writer; 0 while the core saves,
restores or scrubs (R218). -/
def State.lgnWait (s : State) (c : Nat) : Nat :=
  let k := s.core c
  if k.away then 0 else
  let own := match k.regs.fly.findSome? (fun e => match e.wait with
      | .tags wr bs => if k.lane wr bs = 0 then none else some (k.lane wr bs)
      | .slot =>
        let rsv := bitsOf e.w1 63 56 == 0x74
        (tabFind k.regs.rings (bitsOf e.w1 39 32 - 0x50)).bind (fun r =>
          let x := k.lane rsv (r.slotBerths (if rsv then r.rsv else r.acq))
          if x = 0 then none else some x)
      | _ => none) with
    | some x => x
    | none => 0
  let rmt := match sortBy (fun (a b : Nat × Nat) => decide (a.1 ≤ b.1)) (s.remoteWaits c) with
    | p :: _ => s.ferryLane c p.2
    | [] => 0
  own + s.ferryLane c (2 * c) * 2 ^ 16 + s.ferryLane c (2 * c + 1) * 2 ^ 32 + 2 ^ 48 * rmt

/-- The earliest open deadline of an entry in the armed mode (Table 18.8). -/
def State.dlEarliest (s : State) (n : Nat) : Option DlInst :=
  (sortBy (fun (a b : DlInst) => decide (1000000000 * a.sec + a.ns ≤ 1000000000 * b.sec + b.ns)) (tabGet [] s.dl n)).head?

/-- DEFER_LEFT in ms. -/
def State.deferLeft (s : State) : Nat := if s.phase = 4 then (s.deferAt - s.cyc) / 500000 else 0

/-- A register of a Tideline window: the dirty value, or the selected channel's active one (R408). -/
def State.winReg (s : State) (w i : Nat) : Nat :=
  match tabFind s.tdlDirty (dirtyKey w i) with
  | some v => v.toNat
  | none => (s.reg (chReg (s.tdlSel w) i)).toNat

/-- TDL_CHSEL of a window, with DIRTY and CPEND: a commit of the window waits, on whatever channel (R409). -/
def State.chselView (s : State) (w : Nat) : Nat :=
  let v := (s.reg (Reg.TDL_CHSEL w)).toNat
  let waits := s.tdl.any (fun p => p.2.commits.any (fun x => x.win == w))
  bitsPut (bitsPut v 31 31 (boolNat (!(s.dirtyOf w).isEmpty))) 28 28 (boolNat waits)

/-- A template's header with STATE and CLM. -/
def State.tplView (s : State) (k t : Nat) : Nat :=
  let v := (s.reg (canBank k (Reg.TPL_HDR 0 t))).toNat
  bitsPut (bitsPut v 26 25 (s.tplState k t)) 24 24 (boolNat ((s.holder (tplRes k t)).1 == 5))

/-- What the registers that follow the state show; `none` for a register that holds its value itself. UNITS_MARKED shows the
marked cores and islands, no other unit (DESIGN CHOICE, Log 74). -/
def State.derived (s : State) (name : String) (ix : List Nat) (off : Nat) : Option Nat :=
  let v := (s.reg off).toNat
  let i := ix.headD 0
  let j := (ix.drop 1).headD 0
  let h := (ix.drop 2).headD 0
  let c := 8 * i + j
  match name with
  | "GLB_STATE" =>
    some (bitsPut v 5 5 (boolNat (decide (s.fld Reg.GLB_STATE 15 8 ≠ 0) || decide (s.reg Reg.GLB_TC_MARKED ≠ 0))))
  | "TC_STATUS" => some (s.tcStatus c)
  | "TC_PC" => some (s.tcPc c)
  | "LGN_TAG" => some (((s.core c).cap.getD h 0).toNat)
  | "LGN_LIVE" => some (((s.core c).cap.getD (2 + h) 0).toNat)
  | "LGN_WAIT" => some (s.lgnWait c)
  | "FRY_STATUS" => some (s.fryStatus (2 * c + h))
  | "FRY_BYTES" => some ((s.ferry (2 * c + h)).bytes % 2 ^ 64)
  | "FRY_X" => some (s.xreg (2 * c + h) ((ix.drop 3).headD 0)).x.toNat
  | "BFRY_STATUS" => some (s.fryStatus (128 + 4 * i + j))
  | "BFRY_BYTES" => some ((s.ferry (128 + 4 * i + j)).bytes % 2 ^ 64)
  | "BFRY_X" => some (s.xreg (128 + 4 * i + j) h).x.toNat
  | "ITK_STR_STAT" => some (bitsPut v 3 0 (s.strState i))
  | "MEM_FAULT_STAT" => some (bitsPut (bitsPut v 31 16 s.faults.length) 15 8 (satNat 255 s.frecs.length))
  | "SCH_PART_W2" => some (bitsPut v 38 32 (s.coresUsable i).length)
  | "TDL_DROP_STAT" => some (bitsPut v 3 0 (s.dropState i))
  | "TDL_CHSEL" => some (s.chselView i)
  | "CH_STAT" =>
    let k := s.chan (s.tdlSel i)
    some (bitsPut (s.reg (chStat (s.tdlSel i))).toNat 15 15 (boolNat (k.live && s.flag Reg.TDL_CTRL 0)))
  | "CH_OBS" => some (s.reg (chObs (s.tdlSel i))).toNat
  | "CAN_CTRL" => some (s.reg (canCtrl (s.canSel i))).toNat
  | "CAN_NBT" => some (s.reg (canBank (s.canSel i) (Reg.CAN_NBT 0))).toNat
  | "CAN_DBT" => some (s.reg (canBank (s.canSel i) (Reg.CAN_DBT 0))).toNat
  | "CAN_TDC" => some (s.reg (canBank (s.canSel i) (Reg.CAN_TDC 0))).toNat
  | "CAN_STAT" => some (s.reg (canStat (s.canSel i))).toNat
  | "CAN_TXQ" => some (s.canTxqView (s.canSel i))
  | "RXB_FLT" => some (s.reg (canBank (s.canSel i) (Reg.RXB_FLT 0 j))).toNat
  | "RXB_SIG" => some (s.reg (canBank (s.canSel i) (Reg.RXB_SIG 0 j))).toNat
  | "RXB_TS_S" => some (tabGet CanRx.none s.canLatch i).sec
  | "RXB_TS_NS" => some (tabGet CanRx.none s.canLatch i).ns
  | "RXB_DATA" => some (recNat ((tabGet CanRx.none s.canLatch i).frame.data ++ leBytes 64 0) (4 * h) 4)
  | "TPL_HDR" => some (s.tplView (s.canSel i) j)
  | "TPL_TS_S" => some (s.reg (canBank (s.canSel i) (Reg.TPL_TS_S 0 j))).toNat
  | "TPL_TS_NS" => some (s.reg (canBank (s.canSel i) (Reg.TPL_TS_NS 0 j))).toNat
  | "TPL_DATA" => some (s.reg (canBank (s.canSel i) (Reg.TPL_DATA 0 j h))).toNat
  | "NET_CH_STAT" => some (bitsPut (bitsPut v 7 4 (s.chSend i)) 3 0 (s.chRecv i))
  | "FWM_COMP" => if i = 3 then some (bitsPut v 0 0 (boolNat (s.flag off 0 && s.fld Reg.PWR_STAT 15 8 == 255))) else none
  | "FWM_UPD_STAT" => some (bitsPut v 15 0 s.deferLeft)
  | "LHS_DL_TS" => if s.flag (Reg.LHS_DL_CFG i) 62 then none else (s.dlEarliest i).map (·.sec)
  | "LHS_DL_TNS" => if s.flag (Reg.LHS_DL_CFG i) 62 then none else (s.dlEarliest i).map (fun d => bitsPut v 29 0 d.ns)
  | _ =>
    if Reg.CH_SCHED 0 ≤ off ∧ off < Reg.CH_STAT 3 then some (s.winReg i ((off - Reg.CH_SCHED i) / 8)) else none

/-! ## Reads -/

/-- The four registers that a read of LGN_TAG0 captures (R219): zeros while the core saves, restores or scrubs (R218). -/
def Core.capture (k : Core) : List DWord :=
  if k.away then [0, 0, 0, 0] else [k.tags.setWidth 64, (k.tags >>> 64).setWidth 64, k.blive.setWidth 64, (k.blive >>> 64).setWidth 64]

/-- Where the register that a read names is held: a window's selected copy, a function's MSI-X table. -/
def State.homeOf (s : State) (fn : Fn) (name : String) (i off : Nat) : Nat :=
  match name with
  | "CH_STAT" => chStat (s.tdlSel i)
  | "CAN_STAT" => canStat (s.canSel i)
  | "MSIX_ADDR" => off + 0x4000000 * fnNum fn
  | "MSIX_CTRL" => off + 0x4000000 * fnNum fn
  | "MSIX_PBA" => off + 0x4000000 * fnNum fn
  | _ => off

/-- The value a read returns and what it changes: a latch or a capture, or the clearing of read-to-clear fields. -/
def State.regRead (s : State) (w : Who) (g : RegGroup) (ix : List Nat) (off : Nat) : Nat × State :=
  let fn := whoFn w
  let i := ix.headD 0
  let j := (ix.drop 1).headD 0
  match g.name with
  | "TIM_NOW_S" => s.nowRead fn
  | "TIM_NOW_NS" => s.nowNsRead fn
  | "TIM_CAP_S" => s.capRead fn i
  | "TIM_CAP_NS" => s.capNsRead fn i
  | "RXB_HDR" => s.canLatchRead i j
  | _ =>
    let s0 := if g.name == "LGN_TAG" && (ix.drop 2).headD 0 == 0 then
      let c := 8 * i + j
      s.setCore c { s.core c with cap := (s.core c).capture } else s
    let home := s0.homeOf fn g.name i off
    let v := match s0.derived g.name ix off with
      | some x => x
      | none => (s0.reg home).toNat
    let x := if (tabFind s0.evt home).isSome then g.shown v (s0.before home) else v
    (g.view x, s0.readOut g home)

/-- A read of one register at a BAR0 offset; a firmware read of another width reads 0 (R13, Log 53). -/
def State.barReadOne (s : State) (w : Who) (off width : Nat) : State :=
  let go := fun (t : State) => match regAt off with
    | some (g, ix) => t.regRead w g ix off
    | none => (0, t)
  match w with
  | .host fn => s.guardRead fn off width go
  | _ => let x := if widthOk off width then go s else (0, s); { x.2 with readData := x.1, readOk := true }

/-- A read at a BAR0 offset. -/
def State.barRead (s : State) (w : Who) (off width : Nat) : State :=
  if msixWide w off width then
    let s1 := s.barReadOne w off 32
    if s.msixHigh w false off then
      let s2 := s1.barReadOne w (off + 4) 32
      { s2 with readData := s1.readData + 2 ^ 32 * s2.readData }
    else s1
  else s.barReadOne w off width

/-- RC_READ: a read of any register. -/
def execRcRead (w : Who) (off width : Nat) (s : State) : Res := .next (s.barRead w off width)

/-! ## The proxy's target (R468, R469) -/

/-- A permitted access made as the physical function's: ERR of R468 and the data a read returns. The link's own answer
to the host is as it was. -/
def State.proxyDo (s : State) (cmd data : Nat) : Nat × Nat × State :=
  let off := bitsOf cmd 25 0
  let width := if bitOf cmd 60 then 64 else 32
  let v := BitVec.ofNat 64 (data % 2 ^ width)
  if bitOf cmd 61 then
    if bitOf cmd 62 then
      match execDoorbell .proxy off width (BitVec.ofNat 32 data) s with
      | .next t => (0, 0, t)
      | _ => (0, 0, s)
    else (0, 0, s)
  else
    let err := if s.accessKind .proxy (bitOf cmd 62) off width v = some 0 then 4 else 0
    if bitOf cmd 62 then (err, 0, s.barWrite (.host .proxy) off width v)
    else
      let t := s.barRead (.host .proxy) off width
      (err, t.readData, { t with readData := s.readData, readOk := s.readOk })

/-- PROXY_REQUEST_RECEIVED: executed when the source's bit of NET_PXY_ALLOW is 1, else refused; a response goes back. -/
def execProxyRequestReceived (q : Fin 8) (m : CwPkt) (s : State) : Res :=
  s.cwRecv q m (fun t => t.cwSeq q m (fun u =>
    let cmd := leNat (m.data.take 8).reverse
    let data := leNat ((m.data.drop 8).take 8).reverse
    let (err, x, u1) := if u.flag Reg.NET_PXY_ALLOW (m.src % 64) then u.proxyDo cmd data else (2, 0, u)
    u1.sendPath q m.src 6 { u1.pkt q m.src with arg := m.arg, data := beBytes 8 err ++ beBytes 8 x }))

end Sys2Proof.Machine
end

