-- ==== Sys2Proof/Machine/Dispatch.lean ====
section
/-! DEFINITION. The one place that gives each command its meaning. -/
namespace Sys2Proof.Machine

/-- The effect of a command on everything but the queue. -/
def exec (i : Instr) (s : State) : Host.Outcome State Fault Refusal :=
  match i with
  | .registerWrite w off width val => Sys2Proof.Machine.execRegisterWrite w off width val s
  | .rcRead w off width => Sys2Proof.Machine.execRcRead w off width s
  | .doorbell fn off width val => Sys2Proof.Machine.execDoorbell fn off width val s
  | .bar4Access fn wr addr len data => Sys2Proof.Machine.execBar4Access fn wr addr len data s
  | .handshakeWatchdogExpiry u group => Sys2Proof.Machine.execHandshakeWatchdogExpiry u group s
  | .floorSample n rate mv => Sys2Proof.Machine.execFloorSample n rate mv s
  | .beatWindowEnd n beats => Sys2Proof.Machine.execBeatWindowEnd n beats s
  | .powerLimitControl deciwatts => Sys2Proof.Machine.execPowerLimitControl deciwatts s
  | .throttleTick deciwatts => Sys2Proof.Machine.execThrottleTick deciwatts s
  | .nop c => Sys2Proof.Machine.execNop c s
  | .movi c => Sys2Proof.Machine.execMovi c s
  | .mov c => Sys2Proof.Machine.execMov c s
  | .tdset c => Sys2Proof.Machine.execTdset c s
  | .add c => Sys2Proof.Machine.execAdd c s
  | .sub c => Sys2Proof.Machine.execSub c s
  | .mul c => Sys2Proof.Machine.execMul c s
  | .div c => Sys2Proof.Machine.execDiv c s
  | .rem c => Sys2Proof.Machine.execRem c s
  | .andS c => Sys2Proof.Machine.execAndS c s
  | .orS c => Sys2Proof.Machine.execOrS c s
  | .xorS c => Sys2Proof.Machine.execXorS c s
  | .shl c => Sys2Proof.Machine.execShl c s
  | .shr c => Sys2Proof.Machine.execShr c s
  | .sra c => Sys2Proof.Machine.execSra c s
  | .min c => Sys2Proof.Machine.execMin c s
  | .max c => Sys2Proof.Machine.execMax c s
  | .cmp c => Sys2Proof.Machine.execCmp c s
  | .cmpi c => Sys2Proof.Machine.execCmpi c s
  | .plog c => Sys2Proof.Machine.execPlog c s
  | .tdget c => Sys2Proof.Machine.execTdget c s
  | .tdadd c => Sys2Proof.Machine.execTdadd c s
  | .tdfld c => Sys2Proof.Machine.execTdfld c s
  | .ld c => Sys2Proof.Machine.execLd c s
  | .st c => Sys2Proof.Machine.execSt c s
  | .br c => Sys2Proof.Machine.execBr c s
  | .jal c => Sys2Proof.Machine.execJal c s
  | .jr c => Sys2Proof.Machine.execJr c s
  | .dbnz c => Sys2Proof.Machine.execDbnz c s
  | .endSlice c => Sys2Proof.Machine.execEndSlice c s
  | .mma c => Sys2Proof.Machine.execMma c s
  | .mmaz c => Sys2Proof.Machine.execMmaz c s
  | .mmat c => Sys2Proof.Machine.execMmat c s
  | .zpc c => Sys2Proof.Machine.execZpc c s
  | .epi c => Sys2Proof.Machine.execEpi c s
  | .vld c => Sys2Proof.Machine.execVld c s
  | .vst c => Sys2Proof.Machine.execVst c s
  | .vlda c => Sys2Proof.Machine.execVlda c s
  | .vsta c => Sys2Proof.Machine.execVsta c s
  | .vsplat c => Sys2Proof.Machine.execVsplat c s
  | .vext c => Sys2Proof.Machine.execVext c s
  | .vins c => Sys2Proof.Machine.execVins c s
  | .viota c => Sys2Proof.Machine.execViota c s
  | .vadd c => Sys2Proof.Machine.execVadd c s
  | .vsub c => Sys2Proof.Machine.execVsub c s
  | .vmul c => Sys2Proof.Machine.execVmul c s
  | .vfma c => Sys2Proof.Machine.execVfma c s
  | .vmin c => Sys2Proof.Machine.execVmin c s
  | .vmax c => Sys2Proof.Machine.execVmax c s
  | .vdiv c => Sys2Proof.Machine.execVdiv c s
  | .vsqrt c => Sys2Proof.Machine.execVsqrt c s
  | .vcmp c => Sys2Proof.Machine.execVcmp c s
  | .vsel c => Sys2Proof.Machine.execVsel c s
  | .vlogic c => Sys2Proof.Machine.execVlogic c s
  | .vsgn c => Sys2Proof.Machine.execVsgn c s
  | .vcvti c => Sys2Proof.Machine.execVcvti c s
  | .vcvtf c => Sys2Proof.Machine.execVcvtf c s
  | .vfn c => Sys2Proof.Machine.execVfn c s
  | .vshuf c => Sys2Proof.Machine.execVshuf c s
  | .vperm c => Sys2Proof.Machine.execVperm c s
  | .vred c => Sys2Proof.Machine.execVred c s
  | .tagWaitResume a => Sys2Proof.Machine.execTagWaitResume a s
  | .ringdef c => Sys2Proof.Machine.execRingdef c s
  | .ringfree c => Sys2Proof.Machine.execRingfree c s
  | .racq c => Sys2Proof.Machine.execRacq c s
  | .releaseSlot c => Sys2Proof.Machine.execReleaseSlot c s
  | .rrsv c => Sys2Proof.Machine.execRrsv c s
  | .rcommit c => Sys2Proof.Machine.execRcommit c s
  | .ringSlotReady c => Sys2Proof.Machine.execRingSlotReady c s
  | .tagset c => Sys2Proof.Machine.execTagset c s
  | .fbind c => Sys2Proof.Machine.execFbind c s
  | .frun c => Sys2Proof.Machine.execFrun c s
  | .fwait c => Sys2Proof.Machine.execFwait c s
  | .ffree c => Sys2Proof.Machine.execFfree c s
  | .haadd c => Sys2Proof.Machine.execHaadd c s
  | .signal c => Sys2Proof.Machine.execSignal c s
  | .wait c => Sys2Proof.Machine.execWait c s
  | .syncWaitRelease c => Sys2Proof.Machine.execSyncWaitRelease c s
  | .barrier c => Sys2Proof.Machine.execBarrier c s
  | .barrierRelease q id => Sys2Proof.Machine.execBarrierRelease q id s
  | .reduce c => Sys2Proof.Machine.execReduce c s
  | .reducePartialArrival c k => Sys2Proof.Machine.execReducePartialArrival c k s
  | .atb c => Sys2Proof.Machine.execAtb c s
  | .kvappend c => Sys2Proof.Machine.execKvappend c s
  | .kvAppendService n => Sys2Proof.Machine.execKvAppendService n s
  | .kvgather c => Sys2Proof.Machine.execKvgather c s
  | .kvevict c => Sys2Proof.Machine.execKvevict c s
  | .kvEvictService n => Sys2Proof.Machine.execKvEvictService n s
  | .step c => Sys2Proof.Machine.execStep c s
  | .rng c => Sys2Proof.Machine.execRng c s
  | .digestInit c => Sys2Proof.Machine.execDigestInit c s
  | .digestAbs c => Sys2Proof.Machine.execDigestAbs c s
  | .digestFin c => Sys2Proof.Machine.execDigestFin c s
  | .waitpwr c => Sys2Proof.Machine.execWaitpwr c s
  | .launchAt c => Sys2Proof.Machine.execLaunchAt c s
  | .launchRelease c => Sys2Proof.Machine.execLaunchRelease c s
  | .streamStart f => Sys2Proof.Machine.execStreamStart f s
  | .streamEnd f => Sys2Proof.Machine.execStreamEnd f s
  | .streamLoop f => Sys2Proof.Machine.execStreamLoop f s
  | .streamEndl f => Sys2Proof.Machine.execStreamEndl f s
  | .streamStride f => Sys2Proof.Machine.execStreamStride f s
  | .streamAdd f => Sys2Proof.Machine.execStreamAdd f s
  | .streamWrap f => Sys2Proof.Machine.execStreamWrap f s
  | .streamClamp f => Sys2Proof.Machine.execStreamClamp f s
  | .streamPad f => Sys2Proof.Machine.execStreamPad f s
  | .streamGather f => Sys2Proof.Machine.execStreamGather f s
  | .emit f => Sys2Proof.Machine.execEmit f s
  | .streamCommit f => Sys2Proof.Machine.execStreamCommit f s
  | .streamRelease f => Sys2Proof.Machine.execStreamRelease f s
  | .waittag f => Sys2Proof.Machine.execWaittag f s
  | .ferryCancelAck f => Sys2Proof.Machine.execFerryCancelAck f s
  | .drainComplete f => Sys2Proof.Machine.execDrainComplete f s
  | .faultResume fn fid => Sys2Proof.Machine.execFaultResume fn fid s
  | .faultAbort fn fid => Sys2Proof.Machine.execFaultAbort fn fid s
  | .faultTimeout fid => Sys2Proof.Machine.execFaultTimeout fid s
  | .faultRecordDelayed => Sys2Proof.Machine.execFaultRecordDelayed s
  | .invalidateAll fn => Sys2Proof.Machine.execInvalidateAll fn s
  | .invalidateAsid fn asid => Sys2Proof.Machine.execInvalidateAsid fn asid s
  | .invalidateRange fn asid page pagesM1 => Sys2Proof.Machine.execInvalidateRange fn asid page pagesM1 s
  | .invalidationComplete => Sys2Proof.Machine.execInvalidationComplete s
  | .memAsWrite fn n val => Sys2Proof.Machine.execMemAsWrite fn n val s
  | .xtsEnable fn en => Sys2Proof.Machine.execXtsEnable fn en s
  | .xtsKeyReady k => Sys2Proof.Machine.execXtsKeyReady k s
  | .patrolScrub => Sys2Proof.Machine.execPatrolScrub s
  | .lpddrInitComplete => Sys2Proof.Machine.execLpddrInitComplete s
  | .frameStart m => Sys2Proof.Machine.execFrameStart m s
  | .linePacket m dt crcBad hdrBad data => Sys2Proof.Machine.execLinePacket m dt crcBad hdrBad data s
  | .frameEnd m => Sys2Proof.Machine.execFrameEnd m s
  | .slotDebtPay m => Sys2Proof.Machine.execSlotDebtPay m s
  | .jobSubmit fn n val => Sys2Proof.Machine.execJobSubmit fn n val s
  | .jobStart n => Sys2Proof.Machine.execJobStart n s
  | .decodeOverrun n => Sys2Proof.Machine.execDecodeOverrun n s
  | .jobComplete n => Sys2Proof.Machine.execJobComplete n s
  | .avgReset fn val => Sys2Proof.Machine.execAvgReset fn val s
  | .cmdNop q => Sys2Proof.Machine.execCmdNop q s
  | .cmdSlices q => Sys2Proof.Machine.execCmdSlices q s
  | .cmdGang q => Sys2Proof.Machine.execCmdGang q s
  | .cmdChain q => Sys2Proof.Machine.execCmdChain q s
  | .cmdConv q => Sys2Proof.Machine.execCmdConv q s
  | .cmdRagged q => Sys2Proof.Machine.execCmdRagged q s
  | .commandWaitsSatisfied q => Sys2Proof.Machine.execCommandWaitsSatisfied q s
  | .sliceDispatch c => Sys2Proof.Machine.execSliceDispatch c s
  | .gangDispatch q => Sys2Proof.Machine.execGangDispatch q s
  | .lbSteal c => Sys2Proof.Machine.execLbSteal c s
  | .sliceStart c => Sys2Proof.Machine.execSliceStart c s
  | .contextSave c => Sys2Proof.Machine.execContextSave c s
  | .contextRestore c => Sys2Proof.Machine.execContextRestore c s
  | .commandComplete q => Sys2Proof.Machine.execCommandComplete q s
  | .cancelOldest fn q => Sys2Proof.Machine.execCancelOldest fn q s
  | .cancelAll fn q => Sys2Proof.Machine.execCancelAll fn q s
  | .queueConfigWrite fn q val => Sys2Proof.Machine.execQueueConfigWrite fn q val s
  | .syncCountWrite fn ix val => Sys2Proof.Machine.execSyncCountWrite fn ix val s
  | .syncErrClear fn ix grant => Sys2Proof.Machine.execSyncErrClear fn ix grant s
  | .partitionWrite fn k w val => Sys2Proof.Machine.execPartitionWrite fn k w val s
  | .contextConfigWrite fn n val => Sys2Proof.Machine.execContextConfigWrite fn n val s
  | .contextStepWrite fn n w val => Sys2Proof.Machine.execContextStepWrite fn n w val s
  | .readmitCore fn c => Sys2Proof.Machine.execReadmitCore fn c s
  | .readmitIsland fn n => Sys2Proof.Machine.execReadmitIsland fn n s
  | .readmitComplete failed => Sys2Proof.Machine.execReadmitComplete failed s
  | .tidelineEnable w => Sys2Proof.Machine.execTidelineEnable w s
  | .tidelineFrameStart => Sys2Proof.Machine.execTidelineFrameStart s
  | .channelSample ch => Sys2Proof.Machine.execChannelSample ch s
  | .spiRead ch data => Sys2Proof.Machine.execSpiRead ch data s
  | .dropCopy b => Sys2Proof.Machine.execDropCopy b s
  | .setpointRecord => Sys2Proof.Machine.execSetpointRecord s
  | .channelCommit w => Sys2Proof.Machine.execChannelCommit w s
  | .channelSelect w val => Sys2Proof.Machine.execChannelSelect w val s
  | .captureArm w val => Sys2Proof.Machine.execCaptureArm w val s
  | .rcEntryWrite w ix val => Sys2Proof.Machine.execRcEntryWrite w ix val s
  | .pwmCarrierStart p => Sys2Proof.Machine.execPwmCarrierStart p s
  | .encoderEdge e edge => Sys2Proof.Machine.execEncoderEdge e edge s
  | .canInitSet w val busy => Sys2Proof.Machine.execCanInitSet w val busy s
  | .canInitClear w val => Sys2Proof.Machine.execCanInitClear w val s
  | .canBusJoin k => Sys2Proof.Machine.execCanBusJoin k s
  | .canRecover w val => Sys2Proof.Machine.execCanRecover w val s
  | .canRecoveryComplete k => Sys2Proof.Machine.execCanRecoveryComplete k s
  | .canFrameReceived k rtr f ago => Sys2Proof.Machine.execCanFrameReceived k rtr f ago s
  | .rxbHdrLatch w v ix => Sys2Proof.Machine.execRxbHdrLatch w v ix s
  | .canTxRequest w t => Sys2Proof.Machine.execCanTxRequest w t s
  | .canTxCancel w t => Sys2Proof.Machine.execCanTxCancel w t s
  | .canTxStart k => Sys2Proof.Machine.execCanTxStart k s
  | .canTxComplete k delay => Sys2Proof.Machine.execCanTxComplete k delay s
  | .canBusError k e => Sys2Proof.Machine.execCanBusError k e s
  | .timebaseIncrWrite w val => Sys2Proof.Machine.execTimebaseIncrWrite w val s
  | .timebaseStep w val => Sys2Proof.Machine.execTimebaseStep w val s
  | .timebaseSetArm w val => Sys2Proof.Machine.execTimebaseSetArm w val s
  | .timebaseSet w val => Sys2Proof.Machine.execTimebaseSet w val s
  | .timesyncWrite w val => Sys2Proof.Machine.execTimesyncWrite w val s
  | .timNowLatch fn => Sys2Proof.Machine.execTimNowLatch fn s
  | .triggerFire k => Sys2Proof.Machine.execTriggerFire k s
  | .triggerPulseEnd k => Sys2Proof.Machine.execTriggerPulseEnd k s
  | .captureEdge k rising => Sys2Proof.Machine.execCaptureEdge k rising s
  | .captureLatch fn k => Sys2Proof.Machine.execCaptureLatch fn k s
  | .ethFrameReceived p bad data ago => Sys2Proof.Machine.execEthFrameReceived p bad data ago s
  | .ethCoalesceTimeout p r => Sys2Proof.Machine.execEthCoalesceTimeout p r s
  | .ethTxSlot p sfd => Sys2Proof.Machine.execEthTxSlot p sfd s
  | .cwLinkUp q => Sys2Proof.Machine.execCwLinkUp q s
  | .cwLinkDown q => Sys2Proof.Machine.execCwLinkDown q s
  | .helloSend q => Sys2Proof.Machine.execHelloSend q s
  | .helloReceived q m => Sys2Proof.Machine.execHelloReceived q m s
  | .helloTimeout q d => Sys2Proof.Machine.execHelloTimeout q d s
  | .creditGrant c => Sys2Proof.Machine.execCreditGrant c s
  | .creditRepeat c => Sys2Proof.Machine.execCreditRepeat c s
  | .creditReceived q m => Sys2Proof.Machine.execCreditReceived q m s
  | .cwSlotSend c => Sys2Proof.Machine.execCwSlotSend c s
  | .cwDataReceived q m => Sys2Proof.Machine.execCwDataReceived q m s
  | .cwHeaderReceived q m => Sys2Proof.Machine.execCwHeaderReceived q m s
  | .ackSend q d => Sys2Proof.Machine.execAckSend q d s
  | .ackReceived q m => Sys2Proof.Machine.execAckReceived q m s
  | .retransmitTimeout q d => Sys2Proof.Machine.execRetransmitTimeout q d s
  | .cwAbortReceived q m => Sys2Proof.Machine.execCwAbortReceived q m s
  | .proxyAccess fn val => Sys2Proof.Machine.execProxyAccess fn val s
  | .proxyRequestReceived q m => Sys2Proof.Machine.execProxyRequestReceived q m s
  | .proxyResponseReceived q m => Sys2Proof.Machine.execProxyResponseReceived q m s
  | .proxyTimeout => Sys2Proof.Machine.execProxyTimeout s
  | .heartbeat fn => Sys2Proof.Machine.execHeartbeat fn s
  | .heartbeatTimeout => Sys2Proof.Machine.execHeartbeatTimeout s
  | .unload fn => Sys2Proof.Machine.execUnload fn s
  | .rearm fn epoch => Sys2Proof.Machine.execRearm fn epoch s
  | .pfFlr => Sys2Proof.Machine.execPfFlr s
  | .vfFlr k flr => Sys2Proof.Machine.execVfFlr k flr s
  | .usb4LinkChange gen tun numVf => Sys2Proof.Machine.execUsb4LinkChange gen tun numVf s
  | .version k => Sys2Proof.Machine.execVersion k s
  | .stage => Sys2Proof.Machine.execStage s
  | .activate => Sys2Proof.Machine.execActivate s
  | .abandon => Sys2Proof.Machine.execAbandon s
  | .stageManifest => Sys2Proof.Machine.execStageManifest s
  | .identity => Sys2Proof.Machine.execIdentity s
  | .measure => Sys2Proof.Machine.execMeasure s
  | .attest => Sys2Proof.Machine.execAttest s
  | .dbgChallenge => Sys2Proof.Machine.execDbgChallenge s
  | .dbgUnlock => Sys2Proof.Machine.execDbgUnlock s
  | .dbgLock => Sys2Proof.Machine.execDbgLock s
  | .compFault c inst cause pc => Sys2Proof.Machine.execCompFault c inst cause pc s
  | .restartComplete => Sys2Proof.Machine.execRestartComplete s
  | .activationRevert => Sys2Proof.Machine.execActivationRevert s
  | .deferredActivationStart => Sys2Proof.Machine.execDeferredActivationStart s
  | .deferralExpiry => Sys2Proof.Machine.execDeferralExpiry s
  | .floorRaise c ok => Sys2Proof.Machine.execFloorRaise c ok s
  | .logEnableWrite fn val => Sys2Proof.Machine.execLogEnableWrite fn val s
  | .lockstepDiff pc0 pc1 => Sys2Proof.Machine.execLockstepDiff pc0 pc1 s
  | .pinsClear fn => Sys2Proof.Machine.execPinsClear fn s
  | .injectionComplete fails => Sys2Proof.Machine.execInjectionComplete fails s
  | .beaconStart c => Sys2Proof.Machine.execBeaconStart c s
  | .beaconComplete c obs => Sys2Proof.Machine.execBeaconComplete c obs s
  | .beaconAbandon c => Sys2Proof.Machine.execBeaconAbandon c s
  | .safetyFrameEnd => Sys2Proof.Machine.execSafetyFrameEnd s
  | .deadlinePeriodicOpen n => Sys2Proof.Machine.execDeadlinePeriodicOpen n s
  | .deadlineExpiry n => Sys2Proof.Machine.execDeadlineExpiry n s
  | .deadlineEntryDisable fn n => Sys2Proof.Machine.execDeadlineEntryDisable fn n s
  | .boot puf se => Sys2Proof.Machine.execBoot puf se s
  | .tapDbgChal => Sys2Proof.Machine.execTapDbgChal s
  | .tapDbgToken tok => Sys2Proof.Machine.execTapDbgToken tok s
  | .islandSelect fn val => Sys2Proof.Machine.execIslandSelect fn val s
  | .enterP3 fn => Sys2Proof.Machine.execEnterP3 fn s
  | .enterP4 fn => Sys2Proof.Machine.execEnterP4 fn s
  | .devClear fn => Sys2Proof.Machine.execDevClear fn s
  | .islandGate n => Sys2Proof.Machine.execIslandGate n s
  | .gateTimeout n => Sys2Proof.Machine.execGateTimeout n s
  | .p3Entry => Sys2Proof.Machine.execP3Entry s
  | .p4Entry => Sys2Proof.Machine.execP4Entry s
  | .wakePin => Sys2Proof.Machine.execWakePin s
  | .wakeTimer => Sys2Proof.Machine.execWakeTimer s
  | .wakeSyncSignal => Sys2Proof.Machine.execWakeSyncSignal s
  | .domainRelease => Sys2Proof.Machine.execDomainRelease s
  | .wakeError rail => Sys2Proof.Machine.execWakeError rail s
  | .thermalSample t => Sys2Proof.Machine.execThermalSample t s
  | .thermalStep => Sys2Proof.Machine.execThermalStep s
  | .porst => Sys2Proof.Machine.execPorst s
  | .sysrst => Sys2Proof.Machine.execSysrst s
  | .pwrReset fn key => Sys2Proof.Machine.execPwrReset fn key s
  | .tapReset => Sys2Proof.Machine.execTapReset s
  | .padRelease fn rel => Sys2Proof.Machine.execPadRelease fn rel s
  | .claim w res => Sys2Proof.Machine.execClaim w res s
  | .claimRelease w res => Sys2Proof.Machine.execClaimRelease w res s
  | .claimQuery w res => Sys2Proof.Machine.execClaimQuery w res s
  | .timebaseTick => Sys2Proof.Machine.execTimebaseTick s
  | .sensorLinkChange p up rate => Sys2Proof.Machine.execSensorLinkChange p up rate s
  | .busMasterEnableSet fn msix => Sys2Proof.Machine.execBusMasterEnableSet fn msix s
  | .pcieHotReset => Sys2Proof.Machine.execPcieHotReset s
  | .mailboxResponse k => Sys2Proof.Machine.execMailboxResponse k s

end Sys2Proof.Machine
end

