-- ==== Sys2Proof/Safety.lean ====
section
/-! DEFINITION. What counts as a safe run and the invariants that statements use, in the terms of the model. -/
namespace Sys2Proof.Machine

/-- A step is safe when it answers a next state. -/
def Safe (s : State) : Prop := ∃ t, step s = .next t

/-- The timebase holds a nanosecond count below 10^9 and a fraction below 2^32 (R442). -/
def TimeWf (s : State) : Prop := s.tbNs < 1000000000 ∧ s.tbFrac < 4294967296

/-- The canonical form of memory: keys rise, and outside an undefined region no listed byte is zero (Log 6). -/
def MemWf (s : State) : Prop := s.mem.wf = true

end Sys2Proof.Machine
end

