-- ==== Sys2Proof/Certificates/Slice0/Obligations.lean ====
section
/-! DEFINITION. The statements for the provers. First the words they share (what a core issues, what a command ends in,
what a step leaves alone), then one statement per group of commands, in the order of the command table. -/

open Sys2Proof Sys2Proof.Machine

namespace Sys2Proof.Claims

/-- Command `i` is answered by a next state, and the next state is as `P` says. -/
def Ends (i : Instr) (s : State) (P : State → Prop) : Prop := ∃ t, exec i s = .next t ∧ P t

/-- The encoding checks of R95 and R114 to R117 by opcode, with the fields of Tables 5.1 and 6.1. -/
def encodings : List (Nat × (IWord → Bool)) :=
  [(0x00, Enc.ok ⟨.zero, .zero, .zero, 0, 0, .never⟩),
   (0x01, Enc.ok ⟨.reg .s, .zero, .zero, 0xFFFFFF, 0, .optional⟩),
   (0x02, fun w => Enc.ok ⟨.any, .any, .zero, 0, 0, .never⟩ w && movOk w),
   (0x03, Enc.ok ⟨.reg .t, .reg .s, .reg .s, 0, 0, .never⟩),
   (0x04, aluEnc false),
   (0x05, aluEnc false),
   (0x06, aluEnc false),
   (0x07, aluEnc false),
   (0x08, aluEnc false),
   (0x09, aluEnc false),
   (0x0A, aluEnc false),
   (0x0B, aluEnc false),
   (0x0C, aluEnc false),
   (0x0D, aluEnc false),
   (0x0E, aluEnc false),
   (0x0F, aluEnc true),
   (0x10, aluEnc true),
   (0x11, cmpEnc ⟨.reg .p, .reg .s, .reg .s, 0, 0xE, .never⟩),
   (0x12, cmpEnc ⟨.reg .p, .reg .s, .zero, 0xFFFFFF, 0xE, .optional⟩),
   (0x13, plogEnc),
   (0x14, Enc.ok ⟨.reg .s, .reg .t, .zero, 1, 0, .never⟩),
   (0x15, fun w => if w.mod 49 then Enc.ok ⟨.reg .t, .reg .t, .zero, 0xFFFFFF, 2, .never⟩ w else Enc.ok ⟨.reg .t, .reg .t, .reg .s, 0, 2, .never⟩ w),
   (0x16, fun w => Enc.ok ⟨.reg .t, .reg .s, .zero, 7, 0, .never⟩ w && decide (w.immBits 2 0 ≤ 5)),
   (0x17, ldstEnc ⟨.reg .s, .reg .s, .zero, 0xFFFFFF, 0xF, .never⟩),
   (0x18, ldstEnc ⟨.zero, .reg .s, .reg .s, 0xFFFFFF, 0xF, .never⟩),
   (0x19, Enc.ok ⟨.zero, .zero, .zero, 0xFFFFFF, 0, .never⟩),
   (0x1A, Enc.ok ⟨.reg .s, .zero, .zero, 0xFFFFFF, 0, .never⟩),
   (0x1B, Enc.ok ⟨.zero, .reg .s, .zero, 0, 0, .never⟩)] ++
  [(0x1C, Enc.ok ⟨.reg .s, .zero, .zero, 0xFFFFFF, 0, .never⟩),
   (0x1D, Enc.ok ⟨.zero, .zero, .zero, 0, 0, .never⟩),
   (0x20, mmaEnc 3),
   (0x21, mmaEnc 3),
   (0x22, mmaEnc 7),
   (0x23, zpcEnc),
   (0x24, epiEnc),
   (0x40, fun w => Enc.ok ⟨.reg .v, .reg .s, .zero, 0xF87FFF, 3, .never⟩ w && vecFmtOk w),
   (0x41, fun w => Enc.ok ⟨.zero, .reg .s, .reg .v, 0xF87FFF, 7, .never⟩ w && vecFmtOk w),
   (0x42, Enc.ok ⟨.reg .v, .reg .a, .zero, 0x7F, 2, .never⟩),
   (0x43, Enc.ok ⟨.reg .a, .reg .v, .zero, 0x7F, 2, .never⟩),
   (0x44, Enc.ok ⟨.reg .v, .reg .s, .zero, 0, 0, .never⟩),
   (0x45, Enc.ok ⟨.reg .s, .reg .v, .zero, 0x7F, 0, .never⟩),
   (0x46, Enc.ok ⟨.reg .v, .reg .s, .zero, 0x7F, 0, .never⟩),
   (0x47, Enc.ok ⟨.reg .v, .zero, .zero, 0, 2, .never⟩),
   (0x48, vopEnc 0),
   (0x49, vopEnc 0),
   (0x4A, vopEnc 0),
   (0x4B, vopEnc 0),
   (0x4C, vopEnc 0),
   (0x4D, vopEnc 0),
   (0x4E, vopEnc 0),
   (0x4F, vunEnc 0),
   (0x50, fun w => vopEnc 7 w && w.immBits 2 0 != 7),
   (0x51, Enc.ok ⟨.reg .v, .reg .v, .reg .v, 0, 0, .never⟩),
   (0x52, vopEnc 3),
   (0x53, vsgnEnc),
   (0x54, vunEnc 0)] ++
  [(0x55, vunEnc 0),
   (0x56, fun w => vunEnc 0xF w && decide (w.immBits 3 0 ≤ 13)),
   (0x58, Enc.ok ⟨.reg .v, .reg .v, .reg .v, 0, 0, .never⟩),
   (0x59, vpermEnc),
   (0x5C, fun w => Enc.ok ⟨.reg .s, .reg .v, .zero, 7, 0, .never⟩ w && decide (w.immBits 2 0 ≤ 4)),
   (0x70, fun w => Enc.ok ⟨.reg .g, .reg .s, .zero, 0x1FFF, 2, .required⟩ w && w.w2Bits 63 32 == 0),
   (0x71, Enc.ok ⟨.zero, .reg .g, .zero, 0, 0, .never⟩),
   (0x72, Enc.ok ⟨.reg .s, .reg .g, .zero, 0, 0, .never⟩),
   (0x73, Enc.ok ⟨.zero, .reg .g, .zero, 0, 0, .never⟩),
   (0x74, Enc.ok ⟨.reg .s, .reg .g, .zero, 0, 0, .never⟩),
   (0x75, Enc.ok ⟨.zero, .reg .g, .zero, 0, 0, .never⟩),
   (0x76, Enc.ok ⟨.zero, .reg .s, .zero, 0x3FFF, 2, .never⟩),
   (0x90, fun w => Enc.ok ⟨.reg .f, .zero, .zero, 7, 0, .never⟩ w && decide (w.immBits 2 0 ≤ 5)),
   (0x91, frunEnc),
   (0x92, Enc.ok ⟨.reg .s, .reg .f, .zero, 0, 0, .never⟩),
   (0x93, Enc.ok ⟨.zero, .reg .f, .zero, 0, 0, .never⟩),
   (0x98, Enc.ok ⟨.zero, .reg .s, .reg .s, 0xFFFFFF, 2, .never⟩),
   (0xB0, Enc.ok ⟨.zero, .reg .s, .reg .s, 0, 2, .never⟩),
   (0xB1, Enc.ok ⟨.zero, .reg .s, .reg .s, 0, 0, .never⟩),
   (0xB2, Enc.ok ⟨.zero, .zero, .zero, 0xF, 0, .never⟩),
   (0xB3, reduceEnc),
   (0xC0, atbEnc),
   (0xC1, Enc.ok ⟨.zero, .reg .s, .reg .t, 0x3F, 1, .never⟩),
   (0xC2, Enc.ok ⟨.reg .f, .reg .s, .reg .g, 0xFFFFF, 0, .never⟩),
   (0xC3, Enc.ok ⟨.reg .s, .reg .s, .reg .s, 0xFFFFFF, 0, .never⟩),
   (0xD0, stepEnc),
   (0xD1, fun w => Enc.ok ⟨.reg .v, .zero, .zero, 3, 2, .never⟩ w && decide (w.immBits 1 0 ≤ 1)),
   (0xD2, digestEnc)] ++
  [(0xE0, Enc.ok ⟨.zero, .zero, .zero, 0, 0, .never⟩),
   (0xE1, Enc.ok ⟨.zero, .reg .s, .reg .s, 0, 0, .never⟩)]

/-- Does a word pass the encoding checks of opcode `o`? -/
def legal (o : Nat) (w : IWord) : Bool := ((tabFind encodings o).map (fun e => e w)).getD false

/-- The instructions that a core issues, with their opcodes; the three of DIGEST share 0xD2 and stand apart. -/
def coreRows : List (Nat × (CoreId → Instr)) :=
  [(0x00, Instr.nop), (0x01, Instr.movi), (0x02, Instr.mov), (0x03, Instr.tdset), (0x04, Instr.add), (0x05, Instr.sub), (0x06, Instr.mul), (0x07, Instr.div),
   (0x08, Instr.rem), (0x09, Instr.andS), (0x0A, Instr.orS), (0x0B, Instr.xorS), (0x0C, Instr.shl), (0x0D, Instr.shr), (0x0E, Instr.sra), (0x0F, Instr.min),
   (0x10, Instr.max), (0x11, Instr.cmp), (0x12, Instr.cmpi), (0x13, Instr.plog), (0x14, Instr.tdget), (0x15, Instr.tdadd), (0x16, Instr.tdfld), (0x17, Instr.ld),
   (0x18, Instr.st), (0x19, Instr.br), (0x1A, Instr.jal), (0x1B, Instr.jr), (0x1C, Instr.dbnz), (0x1D, Instr.endSlice)] ++
  [(0x20, Instr.mma), (0x21, Instr.mmaz), (0x22, Instr.mmat), (0x23, Instr.zpc), (0x24, Instr.epi), (0x40, Instr.vld), (0x41, Instr.vst), (0x42, Instr.vlda),
   (0x43, Instr.vsta), (0x44, Instr.vsplat), (0x45, Instr.vext), (0x46, Instr.vins), (0x47, Instr.viota), (0x48, Instr.vadd), (0x49, Instr.vsub),
   (0x4A, Instr.vmul), (0x4B, Instr.vfma), (0x4C, Instr.vmin), (0x4D, Instr.vmax), (0x4E, Instr.vdiv), (0x4F, Instr.vsqrt), (0x50, Instr.vcmp),
   (0x51, Instr.vsel), (0x52, Instr.vlogic), (0x53, Instr.vsgn), (0x54, Instr.vcvti), (0x55, Instr.vcvtf), (0x56, Instr.vfn), (0x58, Instr.vshuf),
   (0x59, Instr.vperm), (0x5C, Instr.vred)] ++
  [(0x70, Instr.ringdef), (0x71, Instr.ringfree), (0x72, Instr.racq), (0x73, Instr.releaseSlot), (0x74, Instr.rrsv), (0x75, Instr.rcommit),
   (0x76, Instr.tagset), (0x90, Instr.fbind), (0x91, Instr.frun), (0x92, Instr.fwait), (0x93, Instr.ffree), (0x98, Instr.haadd), (0xB0, Instr.signal),
   (0xB1, Instr.wait), (0xB2, Instr.barrier), (0xB3, Instr.reduce), (0xC0, Instr.atb), (0xC1, Instr.kvappend), (0xC2, Instr.kvgather),
   (0xC3, Instr.kvevict), (0xD0, Instr.step), (0xD1, Instr.rng), (0xE0, Instr.waitpwr), (0xE1, Instr.launchAt)]

/-- Core `c` may issue the word `w` that stands at its program counter: it runs a slice and is not held, and the fetch
gives `w` (R94, R97). -/
abbrev Fetches (c : Nat) (w : IWord) (s : State) : Prop := s.canIssue c = true ∧ s.fetch c = .word w

/-- Core `c` issues the word `w` of opcode `o`: its encoding is legal, its predicate reads 1, and no earlier instruction
of the slice is still in the way (R95, R96, R104). The fetch corrects the words it reads (R346): `s0.fetched c w` is the
state after it, which the statements call `s`. -/
abbrev Issues (o c : Nat) (w : IWord) (s0 : State) : Prop :=
  let k := (s0.fetched c w).core c
  Fetches c w s0 ∧ w.opc = o ∧ legal o w = true ∧ k.regs.getP w.pred = true ∧ k.regs.clash (w.foot (touchOf o k w)) = false

/-- Core `c`'s registers as they stand. -/
abbrev regsOf (s : State) (c : Nat) : CoreRegs := (s.core c).regs

/-- The instruction `w` of opcode `o` at core `c`'s program counter as it waits for `wt` (R104). -/
abbrev flyOf (o c : Nat) (w : IWord) (s : State) (wt : Wait) : Fly :=
  ⟨(regsOf s c).pc, w.w1, w.w2, wt, s.upNs, (regsOf s c).resume, (regsOf s c).tile, w.foot (touchOf o (s.core c) w), s.seq, ⟨0, [], [], false⟩⟩

/-- The second operand of ADD to MAX (R123). -/
abbrev operandB (r : CoreRegs) (w : IWord) : DWord := if w.mod 49 then w.immOrLong else r.getS w.src2

/-- Nothing but the registers of core `c` has changed from `s` to `t` (so every byte of memory, every register of the
block, every other core and every ferry is as it was), and they are as `P` says. -/
def RegsOnly (c : Nat) (s : State) (P : CoreRegs → Prop) (t : State) : Prop := ∃ r, t = s.setRegs c r ∧ P r

/-- `r` is `q` with the program counter at `pc` and the scalars as `f` gives them; all else is as in `q`. -/
def ScalarsAt (q : CoreRegs) (pc : Nat) (f : Nat → DWord) (r : CoreRegs) : Prop :=
  (∀ j, r.getS j = f j) ∧ r = { q with s := r.s, pc := pc, resume := none, tile := [], stall := none }

/-- Core `c` has written `v` to s[DST] of `w` and gone on to the next instruction; nothing else has changed. -/
def WritesS (c : Nat) (w : IWord) (s : State) (v : DWord) : State → Prop :=
  RegsOnly c s (ScalarsAt (regsOf s c) ((regsOf s c).pc + w.len)
    (fun j => if j = w.dst then v else (regsOf s c).getS j))

/-- `r` is `q` with the program counter at `pc` and the predicates as `f` gives them; all else is as in `q`. -/
def PredsAt (q : CoreRegs) (pc : Nat) (f : Nat → Bool) (r : CoreRegs) : Prop :=
  (∀ j < 8, r.getP j = f j) ∧ r = { q with p := r.p, pc := pc, resume := none, tile := [], stall := none }

/-- Core `c` has written `b` to predicate `i` (a write to p0 is ignored, R85) and gone on to the next instruction. -/
def WritesP (c : Nat) (w : IWord) (s : State) (i : Nat) (b : Bool) : State → Prop :=
  RegsOnly c s (PredsAt (regsOf s c) ((regsOf s c).pc + w.len)
    (fun j => if j = i then j == 0 || b else (regsOf s c).getP j))

/-- `r` is `q` with the program counter at `pc` and the descriptors as `f` gives them; all else is as in `q`. -/
def TilesAt (q : CoreRegs) (pc : Nat) (f : Nat → TileDesc) (r : CoreRegs) : Prop :=
  (∀ j, r.getT j = f j) ∧ r = { q with t := r.t, pc := pc, resume := none, tile := [], stall := none }

/-- Core `c` has written `d` to descriptor `i` and gone on to the next instruction. -/
def WritesT (c : Nat) (w : IWord) (s : State) (i : Nat) (d : TileDesc) : State → Prop :=
  RegsOnly c s (TilesAt (regsOf s c) ((regsOf s c).pc + w.len) (fun j => if j = i then d else (regsOf s c).getT j))

/-- `r` is `q` with the program counter at `pc` and the vector lanes as `f` gives them; all else is as in `q`. -/
def LanesAt (q : CoreRegs) (pc : Nat) (f : Nat → Nat → Word) (r : CoreRegs) : Prop :=
  (∀ j, ∀ l < 128, r.getV j l = f j l) ∧ r = { q with v := r.v, pc := pc, resume := none, tile := [], stall := none }

/-- Core `c` has written the lanes `f` to vector register `i` and gone on to the next instruction. -/
def WritesV (c : Nat) (w : IWord) (s : State) (i : Nat) (f : Nat → Word) : State → Prop :=
  RegsOnly c s (LanesAt (regsOf s c) ((regsOf s c).pc + w.len) (fun j l => if j = i then f l else (regsOf s c).getV j l))

end Sys2Proof.Claims

open Sys2Proof.Claims

/-! ## The queue, reset, idling -/

/-- A step runs the command at the front of the queue on the state with the queue's rest, and an empty queue idles
(the model's choice, Log 2). -/
def Obligations.StepRunsFrontCommand : Prop :=
  (∀ (i : Instr) (l : List Instr) (s : State), step { s with pending := i :: l } = exec i { s with pending := l })
    ∧ ∀ s : State, s.pending = [] → step s = .next s

/-! ## Scalar instructions -/

/-- The relation that COND names (R124). -/
def Sys2Proof.Claims.condHolds (cond : Nat) (a b : DWord) : Bool :=
  if cond = 0 then decide (a.toNat = b.toNat) else if cond = 1 then decide (a.toNat ≠ b.toNat)
  else if cond = 2 then decide (a.toInt < b.toInt) else if cond = 3 then decide (b.toInt ≤ a.toInt)
  else if cond = 4 then decide (a.toNat < b.toNat) else decide (b.toNat ≤ a.toNat)

/-- ADD to MAX write s[DST] := a op b as Table 5.3 states, and nothing else (R123). NOP, MOVI, CMP, CMPI, PLOG, TDSET, TDGET and every
pairing of MOV write what R124 to R127 and Table 5.4 state and nothing else. TDADD and TDFLD replace one field of a descriptor; a
sum outside 0 to 32,767 and a value too wide for its field end the command with INVALID_PROGRAM (R128, R129). -/
def Obligations.ScalarInstructionsWriteTheirDestination : Prop :=
  (∀ (c : CoreId) (w : IWord) (s0 : State),
    let s := s0.fetched c w
    let a := (regsOf s c).getS w.src1
    let b := operandB (regsOf s c) w
    (Issues 0x04 c w s0 → Ends (.add c) s0 (WritesS c w s (BitVec.ofInt 64 (a.toInt + b.toInt)))) ∧
    (Issues 0x05 c w s0 → Ends (.sub c) s0 (WritesS c w s (BitVec.ofInt 64 (a.toInt - b.toInt)))) ∧
    (Issues 0x06 c w s0 → Ends (.mul c) s0 (WritesS c w s (BitVec.ofInt 64 (a.toInt * b.toInt)))) ∧
    (Issues 0x07 c w s0 →
      Ends (.div c) s0 (WritesS c w s (if b = 0 then 0 else BitVec.ofInt 64 (a.toInt.tdiv b.toInt)))) ∧
    (Issues 0x08 c w s0 →
      Ends (.rem c) s0 (WritesS c w s (if b = 0 then a else BitVec.ofInt 64 (a.toInt - a.toInt.tdiv b.toInt * b.toInt)))) ∧
    (Issues 0x09 c w s0 → Ends (.andS c) s0 (WritesS c w s (a &&& b))) ∧
    (Issues 0x0A c w s0 → Ends (.orS c) s0 (WritesS c w s (a ||| b))) ∧
    (Issues 0x0B c w s0 → Ends (.xorS c) s0 (WritesS c w s (a ^^^ b))) ∧
    (Issues 0x0C c w s0 →
      Ends (.shl c) s0 (WritesS c w s (BitVec.ofNat 64 (a.toNat * 2 ^ (b.toNat % 64))))) ∧
    (Issues 0x0D c w s0 →
      Ends (.shr c) s0 (WritesS c w s (BitVec.ofNat 64 (a.toNat / 2 ^ (b.toNat % 64))))) ∧
    (Issues 0x0E c w s0 →
      Ends (.sra c) s0 (WritesS c w s (BitVec.ofInt 64 (a.toInt / 2 ^ (b.toNat % 64))))) ∧
    (Issues 0x0F c w s0 → Ends (.min c) s0 (WritesS c w s (if w.mod 50
      then BitVec.ofNat 64 (min a.toNat b.toNat) else BitVec.ofInt 64 (min a.toInt b.toInt)))) ∧
    (Issues 0x10 c w s0 → Ends (.max c) s0 (WritesS c w s (if w.mod 50
      then BitVec.ofNat 64 (max a.toNat b.toNat) else BitVec.ofInt 64 (max a.toInt b.toInt))))) ∧
  (∀ (c : CoreId) (w : IWord) (s0 : State),
    let s := s0.fetched c w
    let r := regsOf s c
    (Issues 0x00 c w s0 →
      Ends (.nop c) s0 (RegsOnly c s (ScalarsAt r (r.pc + 8) r.getS))) ∧
    (Issues 0x01 c w s0 →
      Ends (.movi c) s0 (WritesS c w s (if w.long then BitVec.ofNat 64 w.w2 else w.simm))) ∧
    (Issues 0x11 c w s0 →
      Ends (.cmp c) s0 (WritesP c w s (w.dst - 0x48) (condHolds (bitsOf w.w1 51 49) (r.getS w.src1) (r.getS w.src2)))) ∧
    (Issues 0x12 c w s0 →
      Ends (.cmpi c) s0 (WritesP c w s (w.dst - 0x48) (condHolds (bitsOf w.w1 51 49) (r.getS w.src1) w.immOrLong))) ∧
    (Issues 0x13 c w s0 →
      let x := r.getP (w.src1 - 0x48)
      let y := r.getP (w.src2 - 0x48)
      Ends (.plog c) s0 (WritesP c w s (w.dst - 0x48) (if bitsOf w.w1 51 49 = 0 then x && y
        else if bitsOf w.w1 51 49 = 1 then x || y else if bitsOf w.w1 51 49 = 2 then x != y
        else if bitsOf w.w1 51 49 = 3 then x && !y else !x))) ∧
    (Issues 0x03 c w s0 →
      Ends (.tdset c) s0 (WritesT c w s (w.dst - 0x30) ⟨r.getS w.src1, r.getS w.src2⟩)) ∧
    (Issues 0x14 c w s0 →
      Ends (.tdget c) s0 (WritesS c w s (if bitOf w.imm 0 then (r.getT (w.src1 - 0x30)).w1 else (r.getT (w.src1 - 0x30)).w0))) ∧
    (Issues 0x02 c w s0 →
      (regKind w.dst = .s → regKind w.src1 = .s → Ends (.mov c) s0 (WritesS c w s (r.getS w.src1))) ∧
      (regKind w.dst = .s → regKind w.src1 = .special → Ends (.mov c) s0 (WritesS c w s (s.special c (w.src1 - 0x70)))) ∧
      (regKind w.dst = .s → regKind w.src1 = .p →
        Ends (.mov c) s0 (WritesS c w s (if r.getP (w.src1 - 0x48) then 1 else 0))) ∧
      (regKind w.dst = .p → regKind w.src1 = .s → Ends (.mov c) s0 (WritesP c w s (w.dst - 0x48) (r.getS w.src1 != 0))) ∧
      (regKind w.dst = .p → regKind w.src1 = .p →
        Ends (.mov c) s0 (WritesP c w s (w.dst - 0x48) (r.getP (w.src1 - 0x48)))) ∧
      (regKind w.dst = .t → regKind w.src1 = .t → Ends (.mov c) s0 (WritesT c w s (w.dst - 0x30) (r.getT (w.src1 - 0x30)))) ∧
      (regKind w.dst = .v → regKind w.src1 = .v → Ends (.mov c) s0 (WritesV c w s (w.dst - 0x20) (r.getV (w.src1 - 0x20)))) ∧
      (w.dst = 0x79 → regKind w.src1 = .s → Ends (.mov c) s0 (fun t =>
        (∀ x, tabGet 0 t.astat x = if x = (s.core c).sl.ctx
          then tabGet 0 s.astat x &&& ~~~(BitVec.ofNat 3 (r.getS w.src1).toNat) else tabGet 0 s.astat x) ∧
        RegsOnly c { s with astat := t.astat } (ScalarsAt r (r.pc + 8) r.getS) t)))) ∧
  (∀ (c : CoreId) (w : IWord) (s0 : State),
    let s := s0.fetched c w
    let r := regsOf s c
    (Issues 0x15 c w s0 →
      let d := r.getT (w.src1 - 0x30)
      let b : Int := bitsOf d.w0.toNat 14 0 + if w.mod 49 then w.simm.toInt else (r.getS w.src2).toInt
      (0 ≤ b → b ≤ 32767 → Ends (.tdadd c) s0 (fun t => ∃ e : TileDesc, WritesT c w s (w.dst - 0x30) e t ∧ e.w1 = d.w1 ∧
        (bitsOf e.w0.toNat 14 0 : Int) = b ∧ bitsOf e.w0.toNat 63 15 = bitsOf d.w0.toNat 63 15)) ∧
      (b < 0 ∨ 32767 < b → exec (.tdadd c) s0 = .next (s.endSliceCmd c 0x0002))) ∧
    (Issues 0x16 c w s0 →
      let v := (r.getS w.src1).toNat
      let d := r.getT (w.dst - 0x30)
      (∀ f k hi lo, (f, k, hi, lo) ∈ [(0, 0, 14, 0), (1, 0, 31, 16), (2, 0, 47, 32), (3, 0, 62, 48), (4, 1, 22, 8), (5, 1, 38, 24)] →
        bitsOf w.imm 2 0 = f →
        (v < 2 ^ (hi + 1 - lo) → Ends (.tdfld c) s0 (fun t => ∃ e : DWord,
          WritesT c w s (w.dst - 0x30) (if k = 0 then ⟨e, d.w1⟩ else ⟨d.w0, e⟩) t ∧ bitsOf e.toNat hi lo = v ∧
          bitsOf e.toNat 63 (hi + 1) = bitsOf (if k = 0 then d.w0 else d.w1).toNat 63 (hi + 1) ∧
          e.toNat % 2 ^ lo = (if k = 0 then d.w0 else d.w1).toNat % 2 ^ lo)) ∧
        (2 ^ (hi + 1 - lo) ≤ v → exec (.tdfld c) s0 = .next (s.endSliceCmd c 0x0002)))))

/-- The gate of every instruction (R94 to R97, R104, R118, R178): a core that runs no slice or is held issues nothing; a
fetch past the harbour, an unassigned opcode and an illegal encoding end the command with INVALID_PROGRAM, a fetch through
an uncorrectable word ends it with ECC_UNCORRECTABLE; a word of another opcode is not this command's; a predicate that
reads 0 only moves the program counter; an instruction that meets what an earlier one still touches waits; BARRIER and
REDUCE fetched outside a gang end the command whatever the predicate. -/
def Obligations.EveryInstructionPassesTheIssueGate : Prop :=
  ∀ (o : Nat) (i : CoreId → Instr), (o, i) ∈ coreRows → ∀ (c : CoreId) (s : State),
    (s.canIssue c = false → exec (i c) s = .next s) ∧
    (s.canIssue c = true → s.fetch c = .outside → exec (i c) s = .next (s.endSliceCmd c 0x0002)) ∧
    (∀ x cache, s.canIssue c = true → s.fetch c = .bad x cache →
      exec (i c) s = .next ((s.eccFetch c x cache).endSliceCmd c 0x0204)) ∧
    (∀ w, Fetches c w s →
      let t := s.fetched c w
      let r := regsOf t c
      (w.opc = o → o = 0xB2 ∨ o = 0xB3 → (s.core c).sl.gang = false → exec (i c) s = .next (t.endSliceCmd c 0x0002)) ∧
      (opcAssigned w.opc = false → exec (i c) s = .next (t.endSliceCmd c 0x0002)) ∧
      (opcAssigned w.opc = true → w.opc ≠ o → exec (i c) s = .next s) ∧
      (w.opc = o → (o = 0xB2 ∨ o = 0xB3 → (s.core c).sl.gang = true) →
        (legal o w = false → exec (i c) s = .next (t.endSliceCmd c 0x0002)) ∧
        (legal o w = true → r.getP w.pred = false →
          exec (i c) s = .next (t.setRegs c { r with pc := r.pc + w.len, resume := none, tile := [], stall := none })) ∧
        (legal o w = true → r.getP w.pred = true → r.clash (w.foot (touchOf o (t.core c) w)) = true → exec (i c) s = .next t)))

/-! ## Register accesses, doorbells, BAR4 -/

/-- Of all the state, only the register at `off`, and what is noted of this shore cycle's register events, differ. -/
def Sys2Proof.Claims.RegOnly (off : Nat) (s t : State) : Prop :=
  t = { s with regs := t.regs, evt := t.evt } ∧ ∀ o, o ≠ off → t.reg o = s.reg o

/-- An access is ignored and reported: COUNT of GLB_ACCERR rises, its other fields say the access, PF vector 0 is raised;
nothing else changes (R480, R495). -/
def Sys2Proof.Claims.Reported (fn kind : Nat) (wr : Bool) (off : Nat) (s t : State) : Prop :=
  t.fld Reg.GLB_ACCERR 63 48 = min 65535 (s.fld Reg.GLB_ACCERR 63 48 + 1) ∧ t.fld Reg.GLB_ACCERR 47 44 = fn ∧
  t.fld Reg.GLB_ACCERR 43 42 = kind ∧ t.flag Reg.GLB_ACCERR 41 = wr ∧ t.flag Reg.GLB_ACCERR 40 = true ∧
  t.fld Reg.GLB_ACCERR 25 0 = off % 2 ^ 26 ∧
  (∀ o, o ≠ Reg.GLB_ACCERR → o ≠ Reg.MSIX_PBA 0 → t.reg o = s.reg o) ∧
  t = { s with regs := t.regs, evt := t.evt, out := t.out }

/-- The number of a function in GLB_ACCERR (R495). -/
def Sys2Proof.Claims.fnNumber : Fn → Nat
  | .pf => 0
  | .vf k => k.val + 1
  | .proxy => 15

/-- The registers whose writes have effects of their own, which other statements give. -/
def Sys2Proof.Claims.actingWrites : List String :=
  ["GLB_HOSTCTL", "MSIX_ADDR", "MSIX_CTRL", "ITK_STR_RING", "ITK_JQ_RING", "ITK_JQ_PTR", "ITK_DEC_CTRL", "MEM_XTS", "MEM_INV",
   "MEM_FAULT_RESP", "MEM_AS", "SCH_QCFG", "SCH_CTX_CFG", "SCH_CTX_SEED", "SCH_CTX_STEP", "SCH_PART_W0", "SCH_PART_W1",
   "SCH_CANCEL", "SCH_READMIT", "SYN_CNT", "SYN_CTL", "NET_SP_RX_MATCH", "NET_SP_RX_RING", "NET_SP_TX", "NET_CW_CFG",
   "NET_PXY_CMD", "NET_CH_SEND", "NET_CH_RECV", "MBX_REQ", "MBX_CTL", "IMBX_REQ", "IMBX_CTL", "FWM_PMB", "FWM_LOG_BASE",
   "LHS_CFG", "LHS_PINS", "LHS_DL_CFG", "LHS_DL_THR", "LHS_DL_TS", "LHS_DL_TNS", "PWR_MODE", "PWR_RESET", "PAD_HOLD_REL"] ++
  ["TDL_CTRL", "TDL_DROP", "TDL_DROP_MASK", "TDL_DROP_STAT", "TDL_CAP", "TDL_PWM", "TDL_ENC", "TDL_SPIDEV", "TDL_RC",
   "TDL_CHSEL", "CH_STAT", "CH_OBS", "CH_COMMIT", "CAN_CHSEL", "CAN_WSTAT", "CAN_CTRL", "CAN_NBT", "CAN_DBT", "CAN_TDC", "CAN_STAT", "CAN_TXREQ", "RXB_FLT",
   "RXB_SIG", "TPL_HDR", "TPL_DATA", "TIM_INCR", "TIM_STEP", "TIM_SET_S", "TIM_SET_NS", "TIM_SYNC", "TIM_TRIG_S",
   "TIM_TRIG_NS", "TIM_TRIG_CTL", "TIM_CAP_CTL", "PAD_CLAIM"]

/-- The registers that a read does not show as they are stored: they follow the state, latch another, or stand elsewhere. -/
def Sys2Proof.Claims.actingReads : List String :=
  ["CH_STAT", "CH_OBS", "TIM_NOW_S", "TIM_NOW_NS", "TIM_CAP_S", "TIM_CAP_NS", "RXB_HDR", "LGN_TAG", "LGN_LIVE", "LGN_WAIT", "GLB_STATE", "TC_STATUS",
   "TC_PC", "FRY_STATUS", "FRY_BYTES", "FRY_X", "BFRY_STATUS", "BFRY_BYTES", "BFRY_X", "ITK_STR_STAT", "MEM_FAULT_STAT",
   "SCH_PART_W2", "TDL_DROP_STAT", "TDL_CHSEL", "CAN_CTRL", "CAN_NBT", "CAN_DBT", "CAN_TDC", "CAN_STAT", "CAN_TXQ", "RXB_FLT",
   "RXB_SIG", "RXB_TS_S", "RXB_TS_NS", "RXB_DATA", "TPL_HDR", "TPL_TS_S", "TPL_TS_NS", "TPL_DATA", "NET_CH_STAT",
   "FWM_COMP", "FWM_UPD_STAT", "LHS_DL_TS", "LHS_DL_TNS", "MSIX_ADDR", "MSIX_CTRL", "MSIX_PBA"]

/-- The shadow registers of a Tideline window (R408): a window names one channel's. -/
def Sys2Proof.Claims.inWindow (off : Nat) : Prop := Reg.CH_SCHED 0 ≤ off ∧ off < Reg.CH_STAT 3

/-- A register write or read that R480 ignores is reported and a read answers 0. Of one that takes effect on a register
without an effect of its own, every field follows its access code (R10 to R13, Table 0.5): a write replaces an RW field,
clears the bits of a W1C field written as 1 that no event of the same cycle has set, sets the bits of a W1S field, and
leaves an RO, WO or RC field; a read returns every field but a WO one, an RC field as it stood before the events of its
cycle, and leaves the RC field at its reset value or at those events. The writable bits of five registers are given beside. -/
def Obligations.RegisterAccessesFollowTheirCodes : Prop :=
  ∀ (fn : Fn) (v : DWord) (s : State),
    (∀ off width k, msixWide (.host fn) off width = false →
      (s.accessKind fn true off width v = some k → Ends (.registerWrite (.host fn) off width v) s (Reported (fnNumber fn) k true off s)) ∧
      (s.accessKind fn false off width 0 = some k → Ends (.rcRead (.host fn) off width) s (fun t =>
        t.readData = 0 ∧ t.readOk = true ∧ Reported (fnNumber fn) k false off { s with readData := 0, readOk := true } t))) ∧
    (∀ off width g ix, msixWide (.host fn) off width = false → regAt off = some (g, ix) → ¬ inWindow off →
      (s.accessKind fn true off width v = none → g.name ∉ actingWrites →
        Ends (.registerWrite (.host fn) off width v) s (fun t => RegOnly off s t ∧ t.evt = s.evt ∧ ∀ f ∈ g.fields,
          let old := s.fld off f.hi f.lo
          let new := bitsOf v.toNat f.hi f.lo
          t.fld off f.hi f.lo = match f.acc with
            | .rw => new
            | .w1c => (old - (old &&& new)) ||| bitsOf (s.events off) f.hi f.lo
            | .w1s => old ||| new
            | _ => old)) ∧
      (s.accessKind fn false off width 0 = none → g.name ∉ actingReads →
        Ends (.rcRead (.host fn) off width) s (fun t =>
          t.readOk = true ∧ RegOnly off { s with readData := t.readData, readOk := true } t ∧ ∀ f ∈ g.fields,
            bitsOf t.readData f.hi f.lo = (if f.acc = .wo then 0
              else if f.acc = .rc then bitsOf (s.before off) f.hi f.lo else s.fld off f.hi f.lo) ∧
            t.fld off f.hi f.lo = if f.acc = .rc
              then (if bitsOf (s.events off) f.hi f.lo = 0 then f.reset else bitsOf (s.events off) f.hi f.lo)
              else s.fld off f.hi f.lo))) ∧
    (∀ off width m, (off, width, m) ∈ [(Reg.PWR_LIMIT, 32, 0x1FF), (Reg.MEM_FRING, 64, 0xFFFFFFFFFFFFF001), (Reg.LHS_WIN_S 3, 64, 2 ^ 64 - 1),
        (Reg.SCH_QRING 5, 64, 0x00000FFFFFFFFC1F), (Reg.ITK_PORT_CFG 2, 32, 0xFFF7)] →
      (s.accessKind fn true off width v = none → Ends (.registerWrite (.host fn) off width v) s (fun t =>
        RegOnly off s t ∧
        ∀ i < 64, (t.reg off).getLsbD i = if (m : Nat).testBit i then v.getLsbD i else (s.reg off).getLsbD i)) ∧
      (s.accessKind fn false off width 0 = none → Ends (.rcRead (.host fn) off width) s (fun t =>
        t = { s with readData := t.readData, readOk := true } ∧ ∀ i, m.testBit i = true → t.readData.testBit i = (s.reg off).getLsbD i))) ∧
    (s.events Reg.MEM_ECC = 0 → s.before Reg.MEM_ECC = (s.reg Reg.MEM_ECC).toNat →
      (s.accessKind fn false Reg.MEM_ECC 64 0 = none → Ends (.rcRead (.host fn) Reg.MEM_ECC 64) s (fun t =>
        bitsOf t.readData 63 48 = s.fld Reg.MEM_ECC 63 48 ∧ t.fld Reg.MEM_ECC 63 48 = 0 ∧ t.fld Reg.MEM_ECC 47 0 = s.fld Reg.MEM_ECC 47 0 ∧
        ∀ o, o ≠ Reg.MEM_ECC → t.reg o = s.reg o)) ∧
      (s.accessKind fn true Reg.MEM_ECC 64 v = none → Ends (.registerWrite (.host fn) Reg.MEM_ECC 64 v) s (fun t =>
        RegOnly Reg.MEM_ECC s t ∧
        ∀ i < 64, (t.reg Reg.MEM_ECC).getLsbD i = ((s.reg Reg.MEM_ECC).getLsbD i && !(i == 5 && v.getLsbD 5)))))

/-- A doorbell sets its queue's tail once the device is ready; one that would overfill the ring is logged and ignored.
One of another width or alignment, one beyond BAR2 or of a byte that no doorbell has, one of another partition's queue and
one of a lost host are ignored and reported (R13, R25, R27, R349, R478, R489; which of several grounds is reported is the
model's choice, Log 73). BAR4 reads and writes the bytes of memory that the function may reach, in LPDDR5X and in
the harbours; an access of memory that is not there or another partition's is ignored and reported, and a read answers 0;
one of memory that is not ready waits (R329, R479, R480, R584). -/
def Obligations.DoorbellsAndBar4ReachMemory : Prop :=
  ∀ (fn : Fn) (s : State),
    (∀ off width v, let q := off / 64
      let mine := ∀ k, fn = .vf k → s.qIn k q = true
      (width ≠ 32 ∨ off % 4 ≠ 0 → Ends (.doorbell fn off width v) s (Reported (fnNumber fn) 0 true off s)) ∧
      (width = 32 → off % 4 = 0 → 2 ^ 20 ≤ off ∨ off % 64 ≠ 0 → Ends (.doorbell fn off width v) s (Reported (fnNumber fn) 1 true off s)) ∧
      (width = 32 → off % 64 = 0 → off < 2 ^ 20 →
        (¬ mine → Ends (.doorbell fn off width v) s (Reported (fnNumber fn) 2 true off s)) ∧
        (mine → s.flag Reg.GLB_HOST 0 = true → Ends (.doorbell fn off width v) s (Reported (fnNumber fn) 3 true off s)) ∧
        (mine → s.flag Reg.GLB_HOST 0 = false → s.fld Reg.GLB_STATE 3 0 ≠ 5 → exec (.doorbell fn off width v) s = .next s) ∧
        (mine → s.flag Reg.GLB_HOST 0 = false → s.fld Reg.GLB_STATE 3 0 = 5 →
          (s.qDepth q < (v.toNat + 2 ^ 32 - s.qDone q) % 2 ^ 32 → exec (.doorbell fn off width v) s =
            .next (s.fwLog 2 0 2 0x0204 (leBytes 2 q ++ leBytes 2 0 ++ leBytes 4 v.toNat))) ∧
          ((v.toNat + 2 ^ 32 - s.qDone q) % 2 ^ 32 ≤ s.qDepth q → Ends (.doorbell fn off width v) s (fun t =>
            RegOnly (Reg.SCH_QPTR q) s t ∧ t.fld (Reg.SCH_QPTR q) 31 0 = v.toNat ∧
            t.fld (Reg.SCH_QPTR q) 63 32 = s.fld (Reg.SCH_QPTR q) 63 32))))) ∧
    (∀ addr len data, s.bar4q = [] → s.lpUe = [] → s.lpCe = [] →
      (∀ x, addr ≤ x → x < addr + len →
        x < s.visible ∧ s.memOn x = true ∧ s.memBusy x 1 = false ∧ ∀ k, fn = .vf k → s.inCarve k x 1 = true) →
      Ends (.bar4Access fn false addr len data) s (fun t =>
        t = { s with readData := leNat (s.mem.readN addr len), readOk := true }) ∧
      (data.length = len → Ends (.bar4Access fn true addr len data) s (fun t => t = { s with mem := t.mem } ∧
        ∀ x, t.mem.read x = if addr ≤ x ∧ x < addr + len then data.getD (x - addr) 0 else s.mem.read x))) ∧
    (∀ n off len data, n < 8 → off + len ≤ 0x80_0000 → 0 < len → s.bar4q = [] → s.hbrUe = [] → s.hbrCe = [] →
      s.islandOn n = true → (∀ k, fn = .vf k → s.partHas k n = true) →
      Ends (.bar4Access fn false (hbrAddr n off) len data) s (fun t =>
        t = { s with readData := leNat (s.mem.readN (hbrAddr n off) len), readOk := true }) ∧
      (data.length = len → Ends (.bar4Access fn true (hbrAddr n off) len data) s (fun t =>
        t = { s with mem := t.mem, cores := t.cores } ∧
        ∀ x, t.mem.read x = if hbrAddr n off ≤ x ∧ x < hbrAddr n off + len then data.getD (x - hbrAddr n off) 0 else s.mem.read x))) ∧
    (∀ addr len data, (∃ x, addr ≤ x ∧ x < addr + len ∧ s.memBusy x 1 = true) → fn = .pf →
      (∀ x, addr ≤ x → x < addr + len → x < s.visible) → ∀ wr,
      exec (.bar4Access fn wr addr len data) s = .next { s with bar4q := s.bar4q ++ [⟨fn, wr, addr, len, data⟩] }) ∧
    (∀ addr len data k, 0 < len → s.bar4Kind fn addr = some k →
      Ends (.bar4Access fn true addr len data) s (Reported (fnNumber fn) k true addr s) ∧
      Ends (.bar4Access fn false addr len data) s (fun t =>
        t.readData = 0 ∧ t.readOk = true ∧ Reported (fnNumber fn) k false addr { s with readData := t.readData, readOk := true } t)) ∧
    (∀ addr, (s.visible ≤ addr → addr < 0x400_0000_0000 → s.bar4Kind fn addr = some 1) ∧
      (∀ k, fn = .vf k → addr < s.visible → s.inCarve k addr 1 = false → s.bar4Kind fn addr = some 2))

/-! ## Scalar loads and stores, control flow, the end of a slice -/

/-- LD (R130, R131): the bytes at s[SRC1] + simm, zero-extended, from the core's lagoon once its berth is FULL (at once with .U) or
from the island's harbour; a wrong address ends the command, an EMPTY berth makes the load wait while the program goes on (R104).
Correctable words it meets are counted and written back, and nothing else changes. ST (R130, R131): the low 2^SIZE bytes of
s[SRC2] go to the address s[SRC1] + simm of the core's lagoon, whose berth becomes live, or of the island's harbour, whose lines
leave the instruction caches (R98); a word it merges with is corrected and counted; every other byte, every register but the
program counter and every other core is as it was. -/
def Obligations.LoadsAndStoresMoveTheirBytes : Prop :=
  (∀ (c : CoreId) (w : IWord) (s0 : State),
    let s := s0.fetched c w
    Issues 0x17 c w s0 →
    let k := s.core c
    let a := (k.regs.getS w.src1 + w.simm).toNat
    let n := 2 ^ bitsOf w.w1 50 49
    let p := hbrAddr (islandOf c) a
    (a % n = 0 → w.mod 51 = true → a < 0x80000 → k.parity.contains (a / 4096) = false →
      w.mod 48 = true ∨ k.tags.getLsbD (a / 4096) = true → k.lgnUe.contains (a / 8) = false →
      Ends (.ld c) s0 (WritesS c w (s.lgnCorrect c [a / 8]) (BitVec.ofNat 64 (leNat (k.lgn.readN a n))))) ∧
    (a % n = 0 → w.mod 51 = false → a < 0x800000 → s.islandOn (islandOf c) = true → s.hbrUe.contains (p / 8) = false →
      Ends (.ld c) s0 (WritesS c w (s.eccCorrect p n) (BitVec.ofNat 64 (leNat (s.mem.readN p n))))) ∧
    (a % n = 0 → w.mod 51 = true → a < 0x80000 → k.parity.contains (a / 4096) = false →
      w.mod 48 = false → k.tags.getLsbD (a / 4096) = false →
      exec (.ld c) s0 = .next (s.park c (flyOf 0x17 c w s (.tags false [a / 4096])) (k.regs.pc + 8))) ∧
    (a % n ≠ 0 ∨ (w.mod 51 = true ∧ 0x80000 ≤ a) ∨ (w.mod 51 = false ∧ 0x800000 ≤ a) →
      exec (.ld c) s0 = .next (s.endSliceCmd c 0x0002))) ∧
  (∀ (c : CoreId) (w : IWord) (s0 : State),
    let s := s0.fetched c w
    Issues 0x18 c w s0 →
    let k := s.core c
    let a := (k.regs.getS w.src1 + w.simm).toNat
    let n := 2 ^ bitsOf w.w1 50 49
    let p := hbrAddr (islandOf c) a
    let v := (k.regs.getS w.src2).toNat
    let at8 := { k.regs with pc := k.regs.pc + 8, resume := none, tile := [], stall := none }
    (a % n = 0 → w.mod 51 = true → a < 0x80000 → k.parity.contains (a / 4096) = false →
      w.mod 48 = true ∨ k.tags.getLsbD (a / 4096) = false → n = 8 ∨ k.lgnUe.contains (a / 8) = false →
      Ends (.st c) s0 (fun t => ∃ k', t = (if n = 8 then s else s.lgnCorrect c [a / 8]).setCore c k' ∧
        k' = { k with regs := at8, lgn := k'.lgn, blive := k'.blive, lgnUe := k'.lgnUe, lgnCe := k'.lgnCe } ∧
        (∀ x, k'.lgn.read x = if a ≤ x ∧ x < a + n then BitVec.ofNat 8 (v / 256 ^ (x - a)) else k.lgn.read x) ∧
        ∀ b < 128, k'.blive.getLsbD b = (k.blive.getLsbD b || decide (b = a / 4096)))) ∧
    (a % n = 0 → w.mod 51 = false → a < 0x800000 → s.islandOn (islandOf c) = true → n = 8 ∨ s.hbrUe.contains (p / 8) = false →
      Ends (.st c) s0 (fun t => t = { ((s.eccFix p (s.partial p n)).dropLines (islandOf c) p n).setPc c (k.regs.pc + 8) with
          mem := t.mem, hbrUe := t.hbrUe, hbrCe := t.hbrCe } ∧
        ∀ x, t.mem.read x = if p ≤ x ∧ x < p + n then BitVec.ofNat 8 (v / 256 ^ (x - p)) else s.mem.read x)) ∧
    (a % n = 0 → w.mod 51 = true → a < 0x80000 → k.parity.contains (a / 4096) = false →
      w.mod 48 = false → k.tags.getLsbD (a / 4096) = true →
      exec (.st c) s0 = .next (s.park c (flyOf 0x18 c w s (.tags true [a / 4096])) (k.regs.pc + 8))) ∧
    (a % n ≠ 0 ∨ (w.mod 51 = true ∧ 0x80000 ≤ a) ∨ (w.mod 51 = false ∧ 0x800000 ≤ a) →
      exec (.st c) s0 = .next (s.endSliceCmd c 0x0002)))

/-- BR, JAL, JR and DBNZ write the program counter, JAL and DBNZ s[DST] as well, and nothing else; a JR to an address that is no
multiple of 8 ends the command (R132). END and WAITPWR end the slice (R133, R194): once no ferry has an open stream of the slice,
the core runs nothing, its banks are released and its command has one slice fewer, and has ended with the last; with a stream open
they wait. WAITPWR in a command that is not a power-control command ends it; on an island selected for gating the core then sleeps
(R559). -/
def Obligations.ControlFlowMovesTheProgramCounter : Prop :=
  (∀ (c : CoreId) (w : IWord) (s0 : State),
    let s := s0.fetched c w
    let r := regsOf s c
    let target := (BitVec.ofNat 64 r.pc + 8 * w.simm).toNat
    let put := fun (v : DWord) (j : Nat) => if j = w.dst then v else r.getS j
    (Issues 0x19 c w s0 → Ends (.br c) s0 (RegsOnly c s (ScalarsAt r target r.getS))) ∧
    (Issues 0x1A c w s0 → Ends (.jal c) s0 (RegsOnly c s (ScalarsAt r target (put (BitVec.ofNat 64 (r.pc + 8)))))) ∧
    (Issues 0x1B c w s0 → (r.getS w.src1).toNat % 8 = 0 →
      Ends (.jr c) s0 (RegsOnly c s (ScalarsAt r (r.getS w.src1).toNat r.getS))) ∧
    (Issues 0x1B c w s0 → (r.getS w.src1).toNat % 8 ≠ 0 → exec (.jr c) s0 = .next (s.endSliceCmd c 0x0002)) ∧
    (Issues 0x1C c w s0 → r.getS w.dst ≠ 1 →
      Ends (.dbnz c) s0 (RegsOnly c s (ScalarsAt r target (put (r.getS w.dst - 1))))) ∧
    (Issues 0x1C c w s0 → r.getS w.dst = 1 → Ends (.dbnz c) s0 (RegsOnly c s (ScalarsAt r (r.pc + 8) (put 0))))) ∧
  (∀ (c : CoreId) (w : IWord) (s0 : State) (sl : Slice) (m : Cmd),
    let s := s0.fetched c w
    (s.core c).slice = some sl → tabFind s.queues sl.q = some m →
    let gone := fun (i : Instr) (asleep : Bool) => Ends i s0 (fun t =>
      (t.core c).slice = none ∧ (t.core c).mode = (if asleep then .asleep else .idle) ∧ (t.core c).regs.live = 0 ∧
      (t.core c).regs.fly = [] ∧ (∀ d, d ≠ c.val → t.core d = s.core d) ∧ t.mem = s.mem ∧ t.ferries = s.ferries ∧
      ∃ m', tabFind t.queues sl.q = some m' ∧ m'.live = m.live - 1 ∧
        m'.phase = (if m.live ≤ 1 ∧ m.todo = [] then .ended else m.phase) ∧ m'.status = m.status)
    (Issues 0x1D c w s0 → s.sliceStreams c = false → gone (.endSlice c) false) ∧
    (Issues 0x1D c w s0 → s.sliceStreams c = true → exec (.endSlice c) s0 = .next (s.park c (flyOf 0x1D c w s .streams) ((regsOf s c).pc + 8))) ∧
    (Issues 0xE0 c w s0 → sl.pwr = true → s.sliceStreams c = false → gone (.waitpwr c) (s.gateSel (islandOf c))) ∧
    (Issues 0xE0 c w s0 → sl.pwr = true → s.sliceStreams c = true → exec (.waitpwr c) s0 = .next (s.park c (flyOf 0xE0 c w s .streams) ((regsOf s c).pc + 8))) ∧
    (Issues 0xE0 c w s0 → sl.pwr = false → exec (.waitpwr c) s0 = .next (s.endSliceCmd c 0x0002)))

/-! ## Vector instructions -/

/-- The low 32 bits of a scalar. -/
abbrev Sys2Proof.Claims.low32 (r : CoreRegs) (i : Nat) : Word := BitVec.ofNat 32 (r.getS i).toNat

/-- The element operations write each of the 128 lanes of v[DST] from the same lane of their operands, or s[SRC2] in every lane when S
is 1, and nothing else (R151 to R156). VCMP, VSEL, VFN, VSHUF, VPERM, VEXT, VINS and VRED write what R153 to R159 state and
nothing else. -/
def Obligations.VectorInstructionsWriteEveryLane : Prop :=
  (∀ (c : CoreId) (w : IWord) (s0 : State),
    let s := s0.fetched c w
    let r := regsOf s c
    let d := w.dst - 0x20
    let a := fun i => r.getV (w.src1 - 0x20) i
    let b := fun i => if w.mod 49 then low32 r w.src2 else r.getV (w.src2 - 0x20) i
    (Issues 0x44 c w s0 → Ends (.vsplat c) s0 (WritesV c w s d (fun _ => low32 r w.src1))) ∧
    (Issues 0x47 c w s0 → Ends (.viota c) s0 (WritesV c w s d (fun i => if w.mod 49 then intR i else BitVec.ofNat 32 i))) ∧
    (Issues 0x48 c w s0 → Ends (.vadd c) s0 (WritesV c w s d (fun i => addI (a i) (b i)))) ∧
    (Issues 0x49 c w s0 → Ends (.vsub c) s0 (WritesV c w s d (fun i => subI (a i) (b i)))) ∧
    (Issues 0x4A c w s0 → Ends (.vmul c) s0 (WritesV c w s d (fun i => mulI (a i) (b i)))) ∧
    (Issues 0x4B c w s0 → Ends (.vfma c) s0 (WritesV c w s d (fun i => fmaI (a i) (b i) (r.getV d i)))) ∧
    (Issues 0x4C c w s0 → Ends (.vmin c) s0 (WritesV c w s d (fun i => minI (a i) (b i)))) ∧
    (Issues 0x4D c w s0 → Ends (.vmax c) s0 (WritesV c w s d (fun i => maxI (a i) (b i)))) ∧
    (Issues 0x4E c w s0 → Ends (.vdiv c) s0 (WritesV c w s d (fun i => divI (a i) (b i)))) ∧
    (Issues 0x4F c w s0 → Ends (.vsqrt c) s0 (WritesV c w s d (fun i => sqrtI (a i)))) ∧
    (Issues 0x52 c w s0 → Ends (.vlogic c) s0 (WritesV c w s d (fun i =>
      if bitsOf w.imm 1 0 = 0 then a i &&& b i else if bitsOf w.imm 1 0 = 1 then a i ||| b i
      else if bitsOf w.imm 1 0 = 2 then a i ^^^ b i else a i &&& ~~~(b i)))) ∧
    (Issues 0x53 c w s0 → Ends (.vsgn c) s0 (WritesV c w s d (fun i =>
      if (f32Val (a i)).isNan then 0x7FC0_0000 else if bitsOf w.imm 1 0 = 0 then a i &&& 0x7FFF_FFFF
      else if bitsOf w.imm 1 0 = 1 then a i ^^^ 0x8000_0000
      else (a i &&& 0x7FFF_FFFF) ||| (r.getV (w.src2 - 0x20) i &&& 0x8000_0000)))) ∧
    (Issues 0x54 c w s0 → Ends (.vcvti c) s0 (WritesV c w s d (fun i => cvtI (a i)))) ∧
    (Issues 0x55 c w s0 → Ends (.vcvtf c) s0 (WritesV c w s d (fun i => intR (a i).toInt)))) ∧
  (∀ (c : CoreId) (w : IWord) (s0 : State),
    let s := s0.fetched c w
    let r := regsOf s c
    let d := w.dst - 0x20
    let a := fun i => r.getV (w.src1 - 0x20) i
    let b := fun i => if w.mod 49 then low32 r w.src2 else r.getV (w.src2 - 0x20) i
    let nan := fun i => (f32Val (a i)).isNan || (f32Val (b i)).isNan
    let all := r.lanes (w.src1 - 0x20)
    let cond := bitsOf w.imm 2 0
    (Issues 0x50 c w s0 → Ends (.vcmp c) s0 (WritesV c w s d (fun i =>
      if (if cond = 0 then (f32Val (a i)).eqv (f32Val (b i)) else if cond = 1 then !(f32Val (a i)).eqv (f32Val (b i))
          else if cond = 2 then (f32Val (a i)).lt (f32Val (b i)) else if cond = 3 then !nan i && !(f32Val (b i)).lt (f32Val (a i))
          else if cond = 4 then (f32Val (b i)).lt (f32Val (a i)) else if cond = 5 then !nan i && !(f32Val (a i)).lt (f32Val (b i))
          else nan i)
      then 0xFFFF_FFFF else 0))) ∧
    (Issues 0x51 c w s0 → Ends (.vsel c) s0 (WritesV c w s d (fun i =>
      if r.getV d i ≠ 0 then a i else r.getV (w.src2 - 0x20) i))) ∧
    (Issues 0x56 c w s0 → ∀ f, Sfn.ofCode (bitsOf w.imm 3 0) = some f → Ends (.vfn c) s0 (WritesV c w s d (fun i => sfnApply f (a i)))) ∧
    (Issues 0x58 c w s0 → Ends (.vshuf c) s0 (WritesV c w s d (fun i =>
      let k := (r.getV (w.src2 - 0x20) i).toNat % 256
      if k < 128 then a k else r.getV d (k - 128)))) ∧
    (Issues 0x59 c w s0 → Ends (.vperm c) s0 (WritesV c w s d (fun i =>
      let k := bitsOf w.imm 14 8
      let p := bitsOf w.imm 3 0
      if p = 0 then a ((i + k) % 128) else if p = 1 then a (127 - i) else if p = 2 then a (i / 16 * 16 + i % 4 * 4 + i / 4 % 4)
      else if p = 3 then a (i / 64 * 64 + i % 8 * 8 + i / 8 % 8)
      else if p = 4 then (if i % 2 = 1 then r.getV (w.src2 - 0x20) (i / 2) else a (i / 2))
      else a (if i < 64 then 2 * i else 2 * (i - 64) + 1)))) ∧
    (Issues 0x45 c w s0 → Ends (.vext c) s0 (WritesS c w s (BitVec.ofNat 64 (a (bitsOf w.imm 6 0)).toNat))) ∧
    (Issues 0x46 c w s0 → Ends (.vins c) s0 (WritesV c w s d (fun i => if i = bitsOf w.imm 6 0 then low32 r w.src1 else r.getV d i))) ∧
    (Issues 0x5C c w s0 → cond = 0 → Ends (.vred c) s0 (WritesS c w s (BitVec.ofNat 64 (treeSum all).toNat))) ∧
    (Issues 0x5C c w s0 → cond = 1 → Ends (.vred c) s0 (WritesS c w s (BitVec.ofNat 64 (foldLanes maxI all).toNat))) ∧
    (Issues 0x5C c w s0 → cond = 2 → Ends (.vred c) s0 (WritesS c w s (BitVec.ofNat 64 (foldLanes minI all).toNat))) ∧
    (Issues 0x5C c w s0 → ∀ (best : Word) (i : Nat), i < 128 → (cond = 3 ∧ best = foldLanes maxI all) ∨ (cond = 4 ∧ best = foldLanes minI all) →
      (f32Val (a i)).eqv (f32Val best) = true → (∀ j < i, (f32Val (a j)).eqv (f32Val best) = false) →
      Ends (.vred c) s0 (WritesS c w s (BitVec.ofNat 64 i))))

/-- Core `c` reads or writes these lagoon cells at once: no berth of them has a parity error, and every berth is in the
state the access needs, or .U asks for none (R204, R217). -/
abbrev Sys2Proof.Claims.Granted (k : Core) (u write : Bool) (cells : List Nat) : Prop :=
  ∀ x ∈ cells, k.parity.contains (x / 256) = false ∧ (u = true ∨ k.tags.getLsbD (x / 256) = !write)

/-- Core `c` has no damaged lagoon or accumulator word (R222, R345, R346). -/
abbrev Sys2Proof.Claims.Sound (k : Core) : Prop := k.lgnUe = [] ∧ k.lgnCe = [] ∧ k.accUe = [] ∧ k.accCe = []

/-- An instruction that works row by row begins at its first row, no damaged word stands in the core, and no preemption is
asked of it meanwhile (R107, R108). -/
abbrev Sys2Proof.Claims.Calm (k : Core) : Prop :=
  Sound k ∧ k.preempt = false ∧ k.regs.resume = none ∧ k.regs.tile = []

/-- VLD loads 128 elements and VST stores 128 narrowed elements of the cells that R147 gives, once their tags allow;
VLDA and VSTA copy two accumulator rows or a column (R147 to R150). VST raises the flags of R111 and nothing else
changes. -/
def Obligations.VectorLoadsAndStoresMoveTheirCells : Prop :=
  ∀ (c : CoreId) (w : IWord) (s0 : State),
    let s := s0.fetched c w
    Sound (s.core c) →
    let k := s.core c
    let r := k.regs
    let ix := bitsOf w.imm 6 0
    let el := fun i => if w.mod 49 then (i, ix) else (ix + i / 64, i % 64)
    let at8 := fun q : CoreRegs => { q with pc := r.pc + 8, resume := none, tile := [], stall := none }
    (Issues 0x40 c w s0 → ∀ f cells, vecAccess r w = some (f, cells) → Granted k (w.mod 48) false cells →
      Ends (.vld c) s0 (WritesV c w s (w.dst - 0x20) (fun i => f32Ieee (f.elemVal (k.vecCode f cells i))))) ∧
    (Issues 0x40 c w s0 → vecAccess r w = none → exec (.vld c) s0 = .next (s.endSliceCmd c 0x0002)) ∧
    (Issues 0x41 c w s0 → ∀ f cells, vecAccess r w = some (f, cells) → Granted k (w.mod 48) true cells →
      let codes := (r.lanes (w.src2 - 0x20)).map (vstCode f (w.mod 50))
      Ends (.vst c) s0 (fun t => ∃ l b, t = ((s.setCore c { k with lgn := l, blive := b }).raiseFlags c
          (codes.foldl (fun x p => x.or p.2) NFlags.none)).setPc c (r.pc + 8) ∧
        (∀ i < 128, ({ k with lgn := l, blive := b } : Core).vecCode f cells i = (codes.getD i (0, NFlags.none)).1 % 2 ^ f.bits) ∧
        (∀ x, x / 16 ∉ cells → l.read x = k.lgn.read x) ∧
        ∀ m < 128, b.getLsbD m = (k.blive.getLsbD m || cells.any (fun x => x / 256 == m)))) ∧
    (Issues 0x41 c w s0 → vecAccess r w = none → exec (.vst c) s0 = .next (s.endSliceCmd c 0x0002)) ∧
    (Issues 0x42 c w s0 → (if w.mod 49 then ix < 64 else ix % 2 = 0) →
      Ends (.vlda c) s0 (WritesV c w s (w.dst - 0x20) (fun i => r.getAcc (w.src1 - 0x40) (el i).1 (el i).2))) ∧
    (Issues 0x43 c w s0 → (if w.mod 49 then ix < 64 else ix % 2 = 0) →
      Ends (.vsta c) s0 (RegsOnly c s (fun q => q = at8 { r with acc := q.acc, live := q.live } ∧
        q.live.getLsbD (w.dst - 0x40) = true ∧ (∀ b < 8, b ≠ w.dst - 0x40 → q.live.getLsbD b = r.live.getLsbD b) ∧
        (∀ i < 128, q.getAcc (w.dst - 0x40) (el i).1 (el i).2 = r.getV (w.src1 - 0x20) i) ∧
        ∀ x, (∀ i < 128, x ≠ accKey (w.dst - 0x40) (el i).1 (el i).2) → q.acc.read x = r.acc.read x))) ∧
    ((if w.mod 49 then 64 ≤ ix else ix % 2 = 1) →
      (Issues 0x42 c w s0 → exec (.vlda c) s0 = .next (s.endSliceCmd c 0x0002)) ∧
      (Issues 0x43 c w s0 → exec (.vsta c) s0 = .next (s.endSliceCmd c 0x0002)))

/-! ## Matrix, epilogue and attention instructions -/

/-- Bank `b`, row `row` is among rows `[ro, ro + m)` of banks `[ad, ad + nb)`. -/
abbrev Sys2Proof.Claims.inBanks (ad nb ro m b row : Nat) : Prop := ad ≤ b ∧ b < ad + nb ∧ ro ≤ row ∧ row < ro + m

/-- `q` is `r` with the program counter past a 16-byte instruction; accumulators, row sums and position counts apart. -/
abbrev Sys2Proof.Claims.AccOnly (r q : CoreRegs) : Prop :=
  q = { r with acc := q.acc, rowsum := q.rowsum, poscnt := q.poscnt, live := q.live, pc := r.pc + 16, resume := none, tile := [], stall := none }

/-- MMA, MMAZ and MMAT (R99, R100, R134 to R138): each element of the M rows and NB banks is, K-block by K-block and pass by pass, the
sum of what it held (0 with MMAZ and with Z) and the products of the block; the row sums and position counts go with it in every
pass (R99); the banks become live; nothing else changes. Operands that R92, R99, R135 or R138 forbid end the command. ZPC (R71,
R139 to R141, R144): each element c of the rows and banks becomes c − zw·rowsum − za·colsum + K·za·zw, each term left out where
its zero point is 0; nothing else changes. -/
def Obligations.MatrixInstructionsAccumulate : Prop :=
  (∀ (c : CoreId) (w : IWord) (s0 : State),
    let s := s0.fetched c w
    let k := s.core c
    let r := k.regs
    let grants := fun (m : MatOp) => ∀ kb < m.kb, ∀ x < m.m, Granted k m.u false (m.statCells kb ++ m.rowCells kb x)
    let product := fun (m : MatOp) (z : Bool) =>
      let np := m.passes.length
      let here := fun kb row => if row - m.ro < m.xs.rows
        then (List.range m.kw).filterMap (fun e => if m.k0 + kb * m.kw + e < m.xs.cols then some (m.k0 + kb * m.kw + e) else none) else []
      RegsOnly c s (fun q => AccOnly r q ∧
        (∀ b < 8, q.live.getLsbD b = (r.live.getLsbD b || decide (m.ad ≤ b ∧ b < m.ad + m.nb))) ∧
        (∀ b < 8, ∀ row < 128, ∀ n < 64, q.getAcc b row n = if inBanks m.ad m.nb m.ro m.m b row
          then (List.range (m.kb * np)).foldl (fun a t => let p := m.passes.getD (t % np) (false, false)
            addR a (colSum (m.streamed k (t / np) (row - m.ro) p.1)
              ((List.range m.kw).map (fun e => m.stat k (t / np) (64 * (b - m.ad) + n) e p.2))))
            (if z then 0 else r.getAcc b row n)
          else r.getAcc b row n) ∧
        (∀ b < 8, ∀ row < 128, q.getSum b row = if inBanks m.ad m.nb m.ro m.m b row
          then (List.range (m.kb * np)).foldl (fun a t => a + BitVec.ofInt 32 (if m.xs.fmtIs Fmt.isInt
            then (here (t / np) row).foldl (fun x col => x + k.elemInt m.xs (row - m.ro) col) 0 else 0)) (if z then 0 else r.getSum b row)
          else r.getSum b row) ∧
        (∀ b < 8, ∀ row < 128, q.getCnt b row = if inBanks m.ad m.nb m.ro m.m b row
          then (List.range (m.kb * np)).foldl (fun a t => a + BitVec.ofNat 32 (here (t / np) row).length) (if z then 0 else r.getCnt b row)
          else r.getCnt b row))
    (Issues 0x20 c w s0 → Calm k → let m := MatOp.of r w false false
      (m.ok = true → grants m → Ends (.mma c) s0 (product m false)) ∧
      (m.ok = false → exec (.mma c) s0 = .next (s.endSliceCmd c 0x0002))) ∧
    (Issues 0x21 c w s0 → Calm k → let m := MatOp.of r w false true
      (m.ok = true → grants m → Ends (.mmaz c) s0 (product m true)) ∧
      (m.ok = false → exec (.mmaz c) s0 = .next (s.endSliceCmd c 0x0002))) ∧
    (Issues 0x22 c w s0 → Calm k → let m := MatOp.of r w true (w.mod 50)
      (m.ok = true → grants m → Ends (.mmat c) s0 (product m (w.mod 50))) ∧
      (m.ok = false → exec (.mmat c) s0 = .next (s.endSliceCmd c 0x0002)))) ∧
  (∀ (c : CoreId) (w : IWord) (s0 : State),
    let s := s0.fetched c w
    Issues 0x23 c w s0 → Calm (s.core c) →
    let k := s.core c
    let r := k.regs
    let m := EpiOp.of r w true
    let za := fun row => k.zeroPoint m.xs (row - m.ro)
    let zw := fun col => k.zeroPoint m.ws col
    let cs := fun col : Nat => if m.csEn then (k.lgnW32 (16 * m.csRef + 4 * col)).toInt else 0
    (m.ok = true → (∀ x < m.m, Granted k m.u false (m.readCells x)) → m.csEn = true ∨ (∀ x < m.m, k.zeroPoint m.xs x = 0) →
      Ends (.zpc c) s0 (RegsOnly c s (fun q => AccOnly r q ∧ q.rowsum = r.rowsum ∧ q.poscnt = r.poscnt ∧
        (∀ b < 8, ∀ row < 128, ∀ n < 64, q.getAcc b row n = if inBanks m.ad m.nb m.ro m.m b row
          then
            let col := 64 * (b - m.ad) + n
            let c0 := r.getAcc b row n
            let c1 := if zw col = 0 then c0 else subR c0 (intR (zw col * (r.getSum b row).toInt))
            let c2 := if za row = 0 then c1 else subR c1 (intR (za row * cs col))
            if za row = 0 ∨ zw col = 0 then c2 else addR c2 (intR ((r.getCnt b row).toNat * za row * zw col))
          else r.getAcc b row n)))) ∧
    (m.ok = true → (∀ x < m.m, Granted k m.u false (m.readCells x)) → m.csEn = false → k.zeroPoint m.xs 0 ≠ 0 →
      ∃ t : State, exec (.zpc c) s0 = .next (t.endSliceCmd c 0x0002) ∧ t.mem = s.mem ∧ ∀ d, d ≠ c → t.core d = s.core d) ∧
    (m.ok = false → exec (.zpc c) s0 = .next (s.endSliceCmd c 0x0002)))

/-- EPI (R139 to R146): row by row the outputs of R141 are narrowed and stored to the destination tile, .REL releases the
banks; nothing but the cells of the stored rows, their berths' live state, the flags of R111 and the program counter
changes. -/
def Obligations.EpilogueStoresNarrowedRows : Prop :=
  ∀ (c : CoreId) (w : IWord) (s0 : State),
    let s := s0.fetched c w
    Issues 0x24 c w s0 → Calm (s.core c) →
    let k := s.core c
    let r := k.regs
    let m := EpiOp.of r w false
    (∀ f, m.ok = true → m.td.fmt = some f → (∀ x < m.rows, Granted k m.u false (m.readCells x)) →
      (∀ x < m.rows, Granted k m.u true (m.writeCells x)) → m.nz = true ∨ m.csEn = true ∨ (∀ x < m.rows, k.zeroPoint m.xs x = 0) →
      Ends (.epi c) s0 (fun t =>
        let u := (List.range m.rows).foldl (fun u x => m.store c x f u) s
        t = (if m.rel then u.releaseBanks c m.ad m.nb else u).setPc c (r.pc + 16) ∧
        t = { s with astat := t.astat, cores := t.cores } ∧ (∀ d, d ≠ c → t.core d = s.core d) ∧
        (t.core c).regs = { r with live := (t.core c).regs.live, pc := r.pc + 16, resume := none, tile := [], stall := none } ∧
        (∀ b < 8, (t.core c).regs.live.getLsbD b = (r.live.getLsbD b && !(m.rel && decide (m.ad ≤ b ∧ b < m.ad + m.nb)))) ∧
        ∀ x, (∀ row < m.rows, x / 16 ∉ m.writeCells row) → (t.core c).lgn.read x = k.lgn.read x)) ∧
    (m.ok = false → exec (.epi c) s0 = .next (s.endSliceCmd c 0x0002))

/-- ATB (R184, R185, R295 to R300): row by row the block step of R297 on the output banks, the probability bank, the
maxima and the sums; with IMP the importance sums as well; nothing else changes. A KPOS0 above 65,472 ends the command. -/
def Obligations.AttentionBlockStepsEveryRow : Prop :=
  ∀ (c : CoreId) (w : IWord) (s0 : State),
    let s := s0.fetched c w
    Issues 0xC0 c w s0 → Calm (s.core c) →
    let k := s.core c
    let r := k.regs
    let m := AtbOp.of r w
    (m.ok = true → Granted k m.u false m.cells → m.kpos k ≤ 65472 →
      Ends (.atb c) s0 (fun t =>
        let k' := (List.range m.m).foldl m.row k
        t = (s.setCore c k').setPc c (r.pc + 16) ∧
        k'.regs = { r with v := k'.regs.v, acc := k'.regs.acc, live := k'.regs.live } ∧ (m.imp = false → k'.lgn = k.lgn) ∧
        (∀ v, v ≠ m.mv → v ≠ m.mv + 1 → ∀ l < 128, k'.regs.getV v l = r.getV v l) ∧
        (∀ b < 8, ∀ row < 128, ∀ n < 64, ¬ inBanks m.ao m.nd m.ro m.m b row → ¬ inBanks m.sb 1 m.ro m.m b row →
          k'.regs.getAcc b row n = r.getAcc b row n) ∧
        ∀ x < m.m, (∀ j < 64, m.allows k x j = false) → m.imp = false →
          k'.regs.getV m.mv x = r.getV m.mv x ∧ k'.regs.getV (m.mv + 1) x = r.getV (m.mv + 1) x ∧
          ∀ n < 64, k'.regs.getAcc m.sb (m.ro + x) n = 0)) ∧
    (m.ok = true → Granted k m.u false m.cells → 65472 < m.kpos k → exec (.atb c) s0 = .next (s.endSliceCmd c 0x0002)) ∧
    (m.ok = false → exec (.atb c) s0 = .next (s.endSliceCmd c 0x0002))

/-! ## Rings, tags, ferry handles and harbour atomics -/

/-- `k'` is core `k` with the berths `[b, b + n)` FULL and live, or EMPTY and not live (Table 7.2); all else as in `k`. -/
def Sys2Proof.Claims.BerthsSet (k : Core) (b n : Nat) (full : Bool) (k' : Core) : Prop :=
  k' = { k with tags := k'.tags, blive := k'.blive, parity := k'.parity } ∧
  ∀ x < 128, k'.tags.getLsbD x = (if b ≤ x ∧ x < b + n then full else k.tags.getLsbD x) ∧
    k'.blive.getLsbD x = (if b ≤ x ∧ x < b + n then full else k.blive.getLsbD x) ∧
    k'.parity.contains x = (k.parity.contains x && decide (¬ (b ≤ x ∧ x < b + n)))

/-- The instruction `w` at core `c`'s program counter, of opcode `o`, waits for `wt` while the program goes on (R104). -/
abbrev Sys2Proof.Claims.Parks (o c : Nat) (w : IWord) (s0 : State) (wt : Wait) (i : Instr) : Prop :=
  let s := s0.fetched c w
  exec i s0 = .next (s.park c (flyOf o c w s wt) ((regsOf s c).pc + w.len))

/-- `k'` is `k` but for what a write of the harbour takes out of its instruction cache (R98). -/
abbrev Sys2Proof.Claims.ButCache (k k' : Core) : Prop := k' = { k with icUe := k'.icUe, icCe := k'.icCe }

/-- The berths of slot `i` of ring `g`, none for a harbour ring, are free of parity errors on core `k` (R217). -/
abbrev Sys2Proof.Claims.CleanSlot (k : Core) (g : Ring) (i : Nat) : Prop :=
  ∀ b, g.harbour = false → g.base + g.sb * i ≤ b → b < g.base + g.sb * i + g.sb → k.parity.contains b = false

/-- A ferry that holds no slot of ring `h` of core `c` any more, the ring being defined anew or freed. -/
abbrev Sys2Proof.Claims.forgets (c h : Nat) (k : Ferry) : Ferry :=
  let out := fun l : List RingName => l.filter (fun n => n != ⟨c, h⟩)
  { k with held := out k.held, acqd := out k.acqd,
           stream := k.stream.map (fun st => { st with held := out st.held, acqd := out st.acqd }) }

/-- No agent of the shore is bound to ring `h` of core `c` with a frame, a job or a slot on its way. -/
abbrev Sys2Proof.Claims.NoneBound (s : State) (c h : Nat) : Prop :=
  (∀ p ∈ s.live, s.bindsTo (s.strBind p.1) c h = false) ∧ (∀ p ∈ s.jobs, s.bindsTo (s.jqBind p.1) c h = false) ∧ s.cwTx = []

/-- The registers `r` past an instruction of 8 bytes. -/
abbrev Sys2Proof.Claims.at8 (r : CoreRegs) : CoreRegs := { r with pc := r.pc + 8, resume := none, tile := [], stall := none }

/-- RACQ and RRSV take the next slot of a ring of the program's once it is FULL, or EMPTY, and read its base; RELEASE and RCOMMIT give
the oldest slot that was taken, its berths changing with it; a wrong role, an undefined ring, no slot to give or a parity error in
the slot's berths ends the command; a slot not yet there makes RACQ and RRSV wait (R166, R168, R169, R217, R241). RINGDEF defines
a ring with every slot EMPTY and its berths not live, RINGFREE frees one, TAGSET sets a range of berths that no ring holds; a
definition R166 or R167 forbids, a ring an open stream uses, a wrong range and a parity error end the command (R166, R167, R170,
R217). The ferries forget the slots they held in the ring (R241); no other core, no byte of memory and no block register changes
but through the agents bound to the ring. -/
def Obligations.RingsMoveSlotsAndAreDefined : Prop :=
  (∀ (c : CoreId) (w : IWord) (s0 : State),
    let s := s0.fetched c w
    let k := s.core c
    let h := w.src1 - 0x50
    let base := fun (g : Ring) i => BitVec.ofNat 64 ((g.base + g.sb * i) * if g.harbour then 4096 else 256)
    let ring := fun g q => q = { at8 k.regs with s := q.s, rings := tabPut k.regs.rings h g }
    (Issues 0x72 c w s0 → ∀ g, s.ring c h = some g → g.cons = 0 →
      (g.st.getD g.acq .e = .f → Ends (.racq c) s0 (RegsOnly c s (fun q =>
        ring { g with st := g.st.set g.acq .c, acq := (g.acq + 1) % g.slots } q ∧
        ∀ j, q.getS j = if j = w.dst then base g g.acq else k.regs.getS j))) ∧
      (g.st.getD g.acq .e ≠ .f → Parks 0x72 c w s0 .slot (.racq c))) ∧
    (Issues 0x74 c w s0 → ∀ g, s.ring c h = some g → g.prod = 0 →
      (g.st.getD g.rsv .e = .e → Ends (.rrsv c) s0 (RegsOnly c s (fun q =>
        ring { g with st := g.st.set g.rsv .p, rsv := (g.rsv + 1) % g.slots } q ∧
        ∀ j, q.getS j = if j = w.dst then base g g.rsv else k.regs.getS j))) ∧
      (g.st.getD g.rsv .e ≠ .e → Parks 0x74 c w s0 .slot (.rrsv c))) ∧
    (Issues 0x73 c w s0 → ∀ g, s.ring c h = some g → g.cons = 0 → g.st.getD g.tail .e = .c → CleanSlot k g g.tail →
      Ends (.releaseSlot c) s0 (fun t => ∃ k', BerthsSet k (g.base + g.sb * g.tail) (if g.harbour then 0 else g.sb) false k' ∧
        t = s.setCore c { k' with regs := { at8 k.regs with
          rings := tabPut k.regs.rings h { g with st := g.st.set g.tail .e, tail := (g.tail + 1) % g.slots } } })) ∧
    (Issues 0x75 c w s0 → ∀ g, s.ring c h = some g → g.prod = 0 → g.st.getD g.head .e = .p → CleanSlot k g g.head →
      Ends (.rcommit c) s0 (fun t => ∃ k', BerthsSet k (g.base + g.sb * g.head) (if g.harbour then 0 else g.sb) true k' ∧
        t = s.setCore c { k' with regs := { at8 k.regs with
          rings := tabPut k.regs.rings h { g with st := g.st.set g.head .f, head := (g.head + 1) % g.slots } } })) ∧
    (∀ o i, (o, i) ∈ [(0x72, Instr.racq c), (0x73, Instr.releaseSlot c), (0x74, Instr.rrsv c), (0x75, Instr.rcommit c)] → Issues o c w s0 →
      (∀ g, s.ring c h = some g → (if o = 0x72 ∨ o = 0x73 then g.cons else g.prod) ≠ 0 ∨
        (o = 0x73 ∧ g.st.getD g.tail .e ≠ .c ∧ CleanSlot k g g.tail) ∨ (o = 0x75 ∧ g.st.getD g.head .e ≠ .p ∧ CleanSlot k g g.head)) →
      exec i s0 = .next (s.endSliceCmd c 0x0002)) ∧
    (∀ o i, (o, i) ∈ [(0x73, Instr.releaseSlot c), (0x75, Instr.rcommit c)] → Issues o c w s0 → ∀ g, s.ring c h = some g →
      (if o = 0x73 then g.cons else g.prod) = 0 → ∀ b, s.slotParity c g (if o = 0x73 then g.tail else g.head) = some b →
      exec i s0 = .next ((s.parityHit c b).endSliceCmd c 0x0204))) ∧
  (∀ (c : CoreId) (w : IWord) (s0 : State),
    let s := s0.fetched c w
    let k := s.core c
    let r := k.regs
    (Issues 0x70 c w s0 →
      let h := w.dst - 0x50
      let g : Ring := { base := (r.getS w.src1).toNat, slots := bitsOf w.imm 4 0 + 1, sb := bitsOf w.imm 8 5 + 1, harbour := w.mod 49,
                        prod := bitsOf w.imm 10 9, cons := bitsOf w.imm 12 11, lateNs := bitsOf w.w2 31 0,
                        st := List.replicate (bitsOf w.imm 4 0 + 1) .e, head := 0, rsv := 0, tail := 0, acq := 0 }
      let size := g.slots * g.sb
      let apart := ∀ p ∈ r.rings, p.1 = h ∨ p.2.harbour = true ∨ g.harbour = true ∨ p.2.slots * p.2.sb = 0 ∨
        g.base + size ≤ p.2.base ∨ p.2.base + p.2.slots * p.2.sb ≤ g.base
      let fits := 3 ≤ g.slots ∧ (g.cons = 3 → g.harbour = true) ∧ g.base + size ≤ (if g.harbour then 2048 else 128) ∧
        (g.prod = g.cons → g.prod = 3) ∧ apart ∧ s.ringBusy c h = false
      (fits → (∀ b, g.harbour = false → g.base ≤ b → b < g.base + size → k.parity.contains b = false) →
        Ends (.ringdef c) s0 (fun t => (∃ k', BerthsSet k g.base (if g.harbour then 0 else size) false k' ∧
          ButCache { k' with regs := { r with rings := tabPut (tabDel r.rings h) h g, pc := r.pc + 16, resume := none, tile := [], stall := none } }
            (t.core c)) ∧ t.ring c h = some g ∧
          (∀ d, d ≠ c → ButCache (s.core d) (t.core d)) ∧ (∀ f, t.ferry f = forgets c h (s.ferry f)) ∧
          (NoneBound s c h → t.mem = s.mem ∧ t.regs = s.regs ∧ ∀ d, d ≠ c → t.core d = s.core d))) ∧
      (fits → g.harbour = false → ∀ b, g.base ≤ b → b < g.base + size → k.parity.contains b = true →
        (∀ x, g.base ≤ x → x < b → k.parity.contains x = false) → exec (.ringdef c) s0 = .next ((s.parityHit c b).endSliceCmd c 0x0204)) ∧
      (g.slots < 3 ∨ (g.cons = 3 ∧ g.harbour = false) ∨ (if g.harbour then 2048 else 128) < g.base + size ∨
        (g.prod = g.cons ∧ g.prod ≠ 3) ∨ ¬ apart ∨ s.ringBusy c h = true → exec (.ringdef c) s0 = .next (s.endSliceCmd c 0x0002))) ∧
    (Issues 0x71 c w s0 →
      let h := w.src1 - 0x50
      (∀ g, s.ring c h = some g → s.ringBusy c h = false →
        Ends (.ringfree c) s0 (fun t => ButCache { k with regs := { at8 r with rings := tabDel r.rings h } } (t.core c) ∧
          t.ring c h = none ∧ (∀ d, d ≠ c → ButCache (s.core d) (t.core d)) ∧ (∀ f, t.ferry f = forgets c h (s.ferry f)) ∧
          (NoneBound s c h → t.mem = s.mem ∧ t.regs = s.regs ∧ ∀ d, d ≠ c → t.core d = s.core d))) ∧
      (∀ g, s.ring c h = some g → s.ringBusy c h = true → exec (.ringfree c) s0 = .next (s.endSliceCmd c 0x0002)) ∧
      (s.ring c h = none → exec (.ringfree c) s0 = .next (s.setRegs c (at8 r)))) ∧
    (Issues 0x76 c w s0 →
      let b := (r.getS w.src1).toNat + bitsOf w.imm 6 0
      let n := bitsOf w.imm 13 7 + 1
      let free := ∀ p ∈ r.rings, p.2.harbour = true ∨ p.2.slots * p.2.sb = 0 ∨ b + n ≤ p.2.base ∨ p.2.base + p.2.slots * p.2.sb ≤ b
      (b + n ≤ 128 → free → (∀ x, b ≤ x → x < b + n → k.parity.contains x = false) →
        Ends (.tagset c) s0 (fun t => ∃ k', BerthsSet k b n (w.mod 49) k' ∧ t = s.setCore c { k' with regs := at8 r })) ∧
      (b + n ≤ 128 → free → ∀ x, b ≤ x → x < b + n → k.parity.contains x = true → (∀ y, b ≤ y → y < x → k.parity.contains y = false) →
        exec (.tagset c) s0 = .next ((s.parityHit c x).endSliceCmd c 0x0204)) ∧
      (128 < b + n ∨ ¬ free → exec (.tagset c) s0 = .next (s.endSliceCmd c 0x0002))))

/-- The instruction `e` of core `c`, and no other, waits as `p` says, and no other waits at its address; core `c` runs. -/
abbrev Sys2Proof.Claims.OneWaits (s : State) (c : Nat) (p : Wait → Bool) (e : Fly) : Prop :=
  (s.core c).mode = .running ∧ (s.core c).slice.isSome = true ∧ (s.core c).regs.fly.filter (fun x => p x.wait) = [e] ∧
  ∀ x ∈ (s.core c).regs.fly, x.pc = e.pc → x = e

/-- The instructions of `r` that wait but the one at `e`'s address. -/
abbrev Sys2Proof.Claims.others (r : CoreRegs) (e : Fly) : List Fly := r.fly.filter (fun x => x.pc != e.pc)

/-- RING_SLOT_READY completes a waiting RACQ or RRSV, and TAG_WAIT_RESUME a waiting LD, once what it waits for is there:
s[DST] is written, the instruction has left the list of those that wait, and the program counter and all else of the core
are as they were; while it is not there nothing of the core changes (R104, R168, R205). -/
def Obligations.WaitingInstructionsComplete : Prop :=
  ∀ (c : CoreId) (s : State) (e : Fly),
    let k := s.core c
    let w : IWord := ⟨e.w1, e.w2⟩
    let h := w.src1 - 0x50
    let base := fun (g : Ring) i => BitVec.ofNat 64 ((g.base + g.sb * i) * if g.harbour then 4096 else 256)
    let lands := fun (rings : Tab Ring) (v : DWord) (t : State) => (∀ d, d ≠ c → t.core d = s.core d) ∧ (k.sl.rt = false → t.mem = s.mem) ∧
      ∃ q, t.core c = { k with regs := q } ∧ q = { k.regs with s := q.s, rings := rings, fly := others k.regs e } ∧
        ∀ j, q.getS j = if j = w.dst then v else k.regs.getS j
    let same := fun t : State => ∀ d, t.core d = s.core d
    (OneWaits s c (fun x => x == .slot) e → regKind w.src1 = .g → ∀ g, s.ring c h = some g →
      (w.opc = 0x72 → g.cons = 0 → (g.st.getD g.acq .e = .f → Ends (.ringSlotReady c) s
          (lands (tabPut k.regs.rings h { g with st := g.st.set g.acq .c, acq := (g.acq + 1) % g.slots }) (base g g.acq))) ∧
        (g.st.getD g.acq .e ≠ .f → Ends (.ringSlotReady c) s same)) ∧
      (w.opc = 0x74 → g.prod = 0 → (g.st.getD g.rsv .e = .e → Ends (.ringSlotReady c) s
          (lands (tabPut k.regs.rings h { g with st := g.st.set g.rsv .p, rsv := (g.rsv + 1) % g.slots }) (base g g.rsv))) ∧
        (g.st.getD g.rsv .e ≠ .e → Ends (.ringSlotReady c) s same))) ∧
    (∀ b, e.wait = .tags false [b] → OneWaits s c (fun x => match x with | .tags _ _ => true | _ => false) e → w.opc = 0x17 →
      w.mod 51 = true → w.mod 48 = false →
      let a := (k.regs.getS w.src1 + w.simm).toNat
      let n := 2 ^ bitsOf w.w1 50 49
      a % n = 0 → a < 0x80000 → k.parity.contains (a / 4096) = false → k.lgnUe.contains (a / 8) = false → b = a / 4096 →
      (k.tags.getLsbD b = true → k.lgnCe = [] →
        Ends (.tagWaitResume (.core c)) s (lands k.regs.rings (BitVec.ofNat 64 (leNat (k.lgn.readN a n))))) ∧
      (k.tags.getLsbD b = false → Ends (.tagWaitResume (.core c)) s same))

/-- FBIND binds the ferry that KIND names to a handle once it is free, FRUN opens a stream on it, FWAIT reads the bytes its
last stream moved, FFREE frees it; an open stream, a bulk ferry bound elsewhere or a restore that comes first (R240) makes
them wait; an unbound handle, a ferry the slice has bound to another handle, an undefined ring or an offset that is no multiple of 4 ends
the command (R171 to R173, R255, R256). -/
def Obligations.FerryHandlesBindRunWaitFree : Prop :=
  ∀ (c : CoreId) (w : IWord) (s0 : State),
    let s := s0.fetched c w
    let k := s.core c
    let r := k.regs
    (Issues 0x90 c w s0 →
      let h := w.dst - 0x60
      let kind := bitsOf w.imm 2 0
      let f := if kind = 0 then 2 * c.val else if kind = 1 then 2 * c.val + 1 else 128 + 4 * (c.val / 8) + (kind - 2)
      (tabFind r.fh h = none → (s.ferry f).bound = none → s.bindAhead c f = false → Ends (.fbind c) s0 (fun t =>
        t = { s with cores := t.cores, ferries := t.ferries } ∧
        t.core c = { k with regs := { at8 r with fh := tabPut r.fh h f, fran := (t.core c).regs.fran } } ∧
        (∀ j < 8, (t.core c).regs.fran.getLsbD j = (r.fran.getLsbD j && decide (j ≠ h))) ∧ (∀ d, d ≠ c → t.core d = s.core d) ∧
        t.ferry f = { s.ferry f with bound := some ⟨c, h⟩ } ∧ ∀ g, g ≠ f → t.ferry g = s.ferry g)) ∧
      (tabFind r.fh h = none → (s.ferry f).bound = none → s.bindAhead c f = true → Parks 0x90 c w s0 (.bind f h) (.fbind c)) ∧
      (tabFind r.fh h = some f → exec (.fbind c) s0 = .next (s.setRegs c (at8 r))) ∧
      (∀ g, tabFind r.fh h = some g → g ≠ f →
        ((s.ferry f).bound = none → (s.ferry g).stream = none → s.bindWaiters g = [] → s.bindAhead c f = false → Ends (.fbind c) s0 (fun t =>
          (∀ j, tabFind (t.core c).regs.fh j = if j = h then some f else tabFind r.fh j) ∧
          t.ferry f = { s.ferry f with bound := some ⟨c, h⟩ } ∧ t.ferry g = { s.ferry g with bound := none, held := [], acqd := [] } ∧
          (∀ x, x ≠ f → x ≠ g → t.ferry x = s.ferry x) ∧
          (∀ d, d ≠ c → t.core d = s.core d) ∧ t.mem = s.mem ∧ t.regs = s.regs)) ∧
        ((∀ b, (s.ferry f).bound = some b → b.core ≠ c) → (s.ferry g).stream.isSome = true → Parks 0x90 c w s0 (.ferry g) (.fbind c)) ∧
        (∀ b, (s.ferry f).bound = some b → b.core ≠ c → (s.ferry g).stream = none → s.bindWaiters g = [] →
          exec (.fbind c) s0 = .next ((s.unbindFerry c h g).park c (flyOf 0x90 c w s (.bind f h)) (r.pc + 8)))) ∧
      (tabFind r.fh h = none → ∀ b, (s.ferry f).bound = some b → b.core ≠ c → Parks 0x90 c w s0 (.bind f h) (.fbind c)) ∧
      (tabFind r.fh h ≠ some f → ∀ b, (s.ferry f).bound = some b → b.core = c → exec (.fbind c) s0 = .next (s.endSliceCmd c 0x0002))) ∧
    (Issues 0x91 c w s0 →
      let h := w.dst - 0x60
      let off := (r.getS w.src1).toNat
      let ring := fun en lo hi => if bitOf w.imm en then some (bitsOf w.imm hi lo) else none
      let defd := fun x : Option Nat => ∀ g, x = some g → (s.ring c g).isSome = true
      (∀ f, tabFind r.fh h = some f → off % 4 = 0 → defd (ring 4 0 3) → defd (ring 9 5 8) →
        ((s.ferry f).stream = none → (s.ferry f).drain = false → Ends (.frun c) s0 (fun t =>
          t = { s with cores := t.cores, ferries := t.ferries, seq := s.seq + 1 } ∧
          t.core c = { k with regs := { at8 r with fran := (t.core c).regs.fran } } ∧ (t.core c).regs.fran.getLsbD h = true ∧
          (∀ d, d ≠ c → t.core d = s.core d) ∧ (∀ g, g ≠ f → t.ferry g = s.ferry g) ∧
          t.ferry f = { s.ferry f with stream := (t.ferry f).stream, held := [], acqd := [], xs := (t.ferry f).xs, ctx := k.sl.ctx,
                                       prio := k.sl.prio, op := 0, err := 0, bytes := 0 } ∧
          (∀ i < 4, tabFind (t.ferry f).xs i = some ⟨r.getS (w.src2 + i), r.getS (w.src2 + i), .none⟩) ∧
          ∃ st, (t.ferry f).stream = some st ∧ st.load = some off ∧ st.ringA = ring 4 0 3 ∧ st.ringB = ring 9 5 8 ∧ st.core = c ∧
            st.q = k.sl.q ∧ st.slice = k.sl.idx ∧ st.held = (s.ferry f).held ∧ st.acqd = (s.ferry f).acqd)) ∧
        ((s.ferry f).stream.isSome = true ∨ (s.ferry f).drain = true → Parks 0x91 c w s0 (.ferry f) (.frun c))) ∧
      (tabFind r.fh h = none ∨ off % 4 ≠ 0 ∨ ¬ defd (ring 4 0 3) ∨ ¬ defd (ring 9 5 8) → exec (.frun c) s0 = .next (s.endSliceCmd c 0x0002))) ∧
    (Issues 0x92 c w s0 →
      let h := w.src1 - 0x60
      (∀ f, tabFind r.fh h = some f →
        ((s.ferry f).stream = none → Ends (.fwait c) s0 (WritesS c w s (BitVec.ofNat 64 (if r.fran.getLsbD h then (s.ferry f).bytes else 0)))) ∧
        ((s.ferry f).stream.isSome = true → Parks 0x92 c w s0 (.ferry f) (.fwait c))) ∧
      (tabFind r.fh h = none → exec (.fwait c) s0 = .next (s.endSliceCmd c 0x0002))) ∧
    (Issues 0x93 c w s0 →
      let h := w.src1 - 0x60
      (∀ f, tabFind r.fh h = some f →
        ((s.ferry f).stream = none → s.bindWaiters f = [] → Ends (.ffree c) s0 (fun t =>
          t.core c = { k with regs := { at8 r with fh := tabDel r.fh h } } ∧ (∀ d, d ≠ c → t.core d = s.core d) ∧
          t.ferry f = { s.ferry f with bound := none, held := [], acqd := [] } ∧ (∀ g, g ≠ f → t.ferry g = s.ferry g) ∧ t.mem = s.mem ∧ t.regs = s.regs)) ∧
        ((s.ferry f).stream.isSome = true → Parks 0x93 c w s0 (.ferry f) (.ffree c))) ∧
      (tabFind r.fh h = none → exec (.ffree c) s0 = .next (s.endSliceCmd c 0x0002)))

/-! ## Synchronisation, key-value cache and determinism instructions -/

/-- The instruction of core `c` holds its slice at `wt` (R177, R179, R195). -/
abbrev Sys2Proof.Claims.Holds (c : Nat) (w : IWord) (s0 : State) (wt : Wait) (i : Instr) : Prop :=
  let s := s0.fetched c w
  exec i s0 = .next (s.setRegs c { regsOf s c with stall := some wt, waitStart := s.upNs })

/-- HAADD adds s[SRC2] to the 8 bytes, or with F as FP32 to the 4 bytes, at s[SRC1] + simm of the island's harbour; with F the
context's count of non-determinism sources rises; every other byte and every register is as it was; a wrong address ends the
command (R174, R192). SIGNAL and WAIT act on a counter below 16,384 that the slice's partition is granted, another one ends the
command; a signal adds, or with MAX raises to the value, and of the signals of one shore cycle the additions come first; WAIT
holds the slice until its threshold is reached, which SYNC_WAIT_RELEASE ends; LAUNCH_AT and LAUNCH_RELEASE do so with the timebase
(R175 to R177, R195). -/
def Obligations.SharedObjectsAreSignalled : Prop :=
  (∀ (c : CoreId) (w : IWord) (s0 : State),
    let s := s0.fetched c w
    Issues 0x98 c w s0 →
    let r := regsOf s c
    let a := (r.getS w.src1 + w.simm).toNat
    let n := if w.mod 49 then 4 else 8
    let p := hbrAddr (islandOf c) a
    let old := leNat (s.mem.readN p n)
    let v := if w.mod 49 then (addR (BitVec.ofNat 32 old) (BitVec.ofNat 32 (r.getS w.src2).toNat)).toNat
      else (old + (r.getS w.src2).toNat) % 2 ^ 64
    (a % n = 0 → a < 0x800000 → s.islandOn (islandOf c) = true → s.hbrUe.contains (p / 8) = false → s.hbrCe.contains (p / 8) = false →
      Ends (.haadd c) s0 (fun t => (∀ x, t.mem.read x = if p ≤ x ∧ x < p + n then BitVec.ofNat 8 (v / 256 ^ (x - p)) else s.mem.read x) ∧
        t.core c = { (s.dropLines (islandOf c) p n).core c with regs := at8 r } ∧
        (∀ d, d ≠ c → t.core d = (s.dropLines (islandOf c) p n).core d) ∧ t.ferries = s.ferries ∧
        (∀ o, t.reg o = if w.mod 49 = true ∧ o = Reg.SCH_CTX_NDCOUNT (s.core c).sl.ctx then s.reg o + 1 else s.reg o))) ∧
    (a % n ≠ 0 ∨ 0x800000 ≤ a → exec (.haadd c) s0 = .next (s.endSliceCmd c 0x0002))) ∧
  ((∀ (c : CoreId) (w : IWord) (s0 : State),
    let s := s0.fetched c w
    let k := s.core c
    let r := k.regs
    let n := (r.getS w.src1).toNat
    let v := r.getS w.src2
    let cnt := s.reg (Reg.SYN_CNT n)
    let fits := n < 16384 ∧ s.granted n k.sl.part = true
    let higher := fun a b : DWord => if a.toNat < b.toNat then b else a
    (∀ o i, (o, i) ∈ [(0xB0, Instr.signal c), (0xB1, Instr.wait c)] → Issues o c w s0 →
      (16384 ≤ n → exec i s0 = .next (s.endSliceCmd c 0x0002)) ∧
      (n < 16384 → s.granted n k.sl.part = false → exec i s0 = .next (s.endSliceCmd c 0x0202))) ∧
    (Issues 0xB0 c w s0 → fits → Ends (.signal c) s0 (fun t =>
      (tabFind s.synEvt n = none →
        t.reg (Reg.SYN_CNT n) = (if w.mod 49 then higher cnt v else cnt + v)) ∧
      (∀ x, tabFind s.synEvt n = some x → t.reg (Reg.SYN_CNT n) =
        if w.mod 49 then higher (x.base + x.add) (higher x.top v) else higher (x.base + (x.add + v)) x.top) ∧
      (∀ j < 16384, j ≠ n → t.reg (Reg.SYN_CNT j) = s.reg (Reg.SYN_CNT j)) ∧ t.core c = { k with regs := at8 r } ∧
      (∀ d, d ≠ c → t.core d = s.core d) ∧ t.mem = s.mem ∧ t.ferries = s.ferries ∧ t.queues = s.queues)) ∧
    (Issues 0xB1 c w s0 → fits → (v.toNat ≤ cnt.toNat → exec (.wait c) s0 = .next (s.setRegs c (at8 r))) ∧
      (cnt.toNat < v.toNat → Holds c w s0 (.sync n v.toNat) (.wait c))) ∧
    (Issues 0xE1 c w s0 →
      let at' := 1000000000 * n + v.toNat
      (1000000000 ≤ v.toNat → exec (.launchAt c) s0 = .next (s.endSliceCmd c 0x0002)) ∧
      (v.toNat < 1000000000 → at' = s.nowNs → exec (.launchAt c) s0 = .next (s.setRegs c (at8 r))) ∧
      (v.toNat < 1000000000 → s.nowNs < at' → Holds c w s0 (.launch n v.toNat) (.launchAt c)) ∧
      (v.toNat < 1000000000 → at' < s.nowNs → Ends (.launchAt c) s0 (fun t => ButCache { k with regs := at8 r } (t.core c) ∧
        (∀ d, d ≠ c → ButCache (s.core d) (t.core d)) ∧ t.fld Reg.FWM_LOG_PTR 63 32 = (s.fld Reg.FWM_LOG_PTR 63 32 + 1) % 2 ^ 32)))) ∧
  ∀ (c : CoreId) (s : State),
    let k := s.core c
    let on := s.setRegs c (at8 k.regs)
    (∀ j x, k.mode = .running → k.regs.stall = some (.sync j x) →
      (x ≤ (s.reg (Reg.SYN_CNT j)).toNat → exec (.syncWaitRelease c) s = .next on) ∧
      ((s.reg (Reg.SYN_CNT j)).toNat < x → exec (.syncWaitRelease c) s = .next s)) ∧
    (k.regs.stall = none → exec (.syncWaitRelease c) s = .next s ∧ exec (.launchRelease c) s = .next s) ∧
    (∀ sec ns, k.mode = .running → k.regs.stall = some (.launch sec ns) →
      (s.nowNs < 1000000000 * sec + ns → exec (.launchRelease c) s = .next s) ∧
      (1000000000 * sec + ns ≤ s.nowNs → Ends (.launchRelease c) s (fun t => ButCache { k with regs := at8 k.regs } (t.core c) ∧
        (∀ d, d ≠ c → ButCache (s.core d) (t.core d)) ∧ (s.tbJump = none → t = on)))))

/-- BARRIER counts in the slice and holds it; once every live slice of the gang has counted the same, BARRIER_RELEASE lets those held
at it go on, on a core or saved, and no other; outside a gang it ends the command (R178, R179). REDUCE waits with its words while
the program goes on; outside a gang, with wrong fields or with another waiting REDUCE of its RID that names other fields it ends
the command. Each arrival of a partial's row adds that row to the sum, element by element, and the holder's own when its place has
come; the contributor goes on to its next row and completes with its last, and with the last partial the holder's row and banks
hold the sum, NDCOUNT rising at the last row when the order of a row of three or more differed from the ascending one (R180 to
R183; that the holder's own partial comes first in order of arrival is the model's choice, Log 64). -/
def Obligations.GangsMeetAndReduce : Prop :=
  ((∀ (c : CoreId) (w : IWord) (s0 : State),
     let s := s0.fetched c w
     Issues 0xB2 c w s0 →
    let r := regsOf s c
    let id := bitsOf w.imm 3 0
    ((s.core c).sl.gang = true → exec (.barrier c) s0 = .next (s.setRegs c { r with
      barriers := tabPut r.barriers id (tabGet 0 r.barriers id + 1), stall := some (.barrier id), waitStart := s.upNs })) ∧
    ((s.core c).sl.gang = false → exec (.barrier c) s0 = .next (s.endSliceCmd c 0x0002))) ∧
  ∀ (q : QueueId) (id : Fin 16) (s : State) (m : Cmd), tabRising s.cores = true → tabFind s.queues q = some m →
    ((∃ r ∈ s.liveRegs q, ∃ r' ∈ s.liveRegs q, tabGet 0 r.barriers id < tabGet 0 r'.barriers id) ∨ (s.liveRegs q).length ≠ m.nslice →
      exec (.barrierRelease q id) s = .next s) ∧
    (∀ n, (∀ r ∈ s.liveRegs q, tabGet 0 r.barriers id = n) → (s.liveRegs q).length = m.nslice →
      Ends (.barrierRelease q id) s (fun t => t = { s with cores := t.cores, saved := t.saved } ∧
        (∀ d k sl, tabFind s.cores d = some k → k.slice = some sl → sl.q = q → k.regs.stall = some (.barrier id) →
          t.core d = { k with regs := at8 k.regs }) ∧
        (∀ d, (s.core d).regs.stall ≠ some (.barrier id) ∨ (s.core d).slice.map (·.q) ≠ some q.val → t.core d = s.core d) ∧
        t.saved = s.saved.map (fun v => if v.slice.map (·.q) = some q.val ∧ v.regs.stall = some (.barrier id)
          then { v with regs := at8 v.regs } else v)))) ∧
  ((∀ (c : CoreId) (w : IWord) (s0 : State),
    let s := s0.fetched c w
    let k := s.core c
    let o := RedOp.of w
    let good := o.ro + o.m ≤ 128 ∧ o.ad + o.nb ≤ 8 ∧ 2 ≤ o.g ∧ o.first + o.g ≤ k.sl.nslice ∧ o.first ≤ o.hold ∧ o.hold < o.first + o.g ∧
      o.first ≤ k.sl.idx ∧ k.sl.idx < o.first + o.g ∧ s.redMismatch c o = false
    Issues 0xB3 c w s0 →
      (k.sl.gang = true → good → Parks 0xB3 c w s0 .reduce (.reduce c)) ∧
      (k.sl.gang = false ∨ ¬ good → exec (.reduce c) s0 = .next (s.endSliceCmd c 0x0002))) ∧
  ∀ (c : CoreId) (i : Fin 64) (s : State) (e f : Fly) (d : Nat),
    let h := s.core c
    let k := s.core d
    let o := RedOp.of ⟨e.w1, e.w2⟩
    let asc := s.redAscending c o
    let row := e.red.row
    let isRed := fun x : Wait => x == .reduce
    OneWaits s c isRed e → OneWaits s d isRed f → RedOp.of ⟨f.w1, f.w2⟩ = o → f.red.row = row →
    s.coreOf h.sl.q i = some d → d ≠ c → o.hold = h.sl.idx → o.hold ≠ i → o.first ≤ i → i < o.first + o.g →
    h.accUe = [] → k.accUe = [] → h.accCe = [] → k.accCe = [] → tabRising e.red.sums = true →
    let turn := fun l : List Nat => o.hold ∉ l ∧ (asc = true → o.first + l.length = o.hold)
    let before := e.red.order ++ if turn e.red.order then [o.hold] else []
    let order := (before ++ [i.val]) ++ if turn (before ++ [i.val]) then [o.hold] else []
    let part := fun j x => if j = o.hold then h.regs.acc.read x else k.regs.acc.read x
    let sum := fun x => (order.drop e.red.order.length).foldl (fun (a : Option Word) j => some (match a with
      | none => part j x
      | some v => addR v (part j x))) (if e.red.order = [] then none else some (tabGet 0 e.red.sums x))
    let nd := e.red.differs || (!asc && decide (3 ≤ o.g) &&
      order.filter (· != o.hold) != ((List.range o.g).map (· + o.first)).filter (· != o.hold))
    let stays := fun (r : CoreRegs) (x : Fly) (red : RedSt) =>
      { r with fly := r.fly.map (fun y => if y.pc = x.pc then { x with red := red, resume := some (0, red.row) } else y) }
    let leaves := fun (r : CoreRegs) (x : Fly) => { r with fly := others r x }
    i.val ∉ before → (asc = true → o.first + before.length = i) →
    Ends (.reducePartialArrival c i) s (fun t =>
      t.core d = { k with regs := if row + 1 < o.m then stays k.regs f { f.red with row := row + 1 } else leaves k.regs f } ∧
      (∀ x, x ≠ d → x ≠ c → t.core x = s.core x) ∧ t.mem = s.mem ∧
      (order.length ≠ o.g → t.regs = s.regs ∧ ∃ y : RedSt, t.core c = { h with regs := stays h.regs e y } ∧ y.row = row ∧ y.order = order ∧
        y.differs = e.red.differs ∧ ∀ j < o.nb, ∀ x < 64, tabFind y.sums (accKey (o.ad + j) (o.ro + row) x) = some (sum (accKey (o.ad + j) (o.ro + row) x))) ∧
      (order.length = o.g →
        (∃ q, q = { h.regs with acc := q.acc, live := q.live } ∧ t.core c = { h with
          regs := if row + 1 < o.m then stays q e ⟨row + 1, [], [], nd⟩ else leaves q e }) ∧
        (∀ j < o.nb, ∀ x < 64, (t.core c).regs.acc.read (accKey (o.ad + j) (o.ro + row) x) = sum (accKey (o.ad + j) (o.ro + row) x)) ∧
        (∀ a, t.reg a = if a = Reg.SCH_CTX_NDCOUNT h.sl.ctx ∧ row + 1 = o.m ∧ nd = true then s.reg a + 1 else s.reg a))))

/-- Does the slice that posted `r` run on core `c`? -/
abbrev Sys2Proof.Claims.Asks (s : State) (r : KvReq) (c : Nat) : Prop :=
  s.coreOf r.q r.slice = some c ∧ (s.core c).sl.seq = r.seq ∧ ∃ e, (s.core c).regs.fly = [e] ∧ e.wait = .icc

/-- KVAPPEND posts its tokens, the keys with an element 0 of 0xFFFF as 0x7FC0, and KVEVICT its bounds to the island control core and
wait; KVGATHER opens the built-in stream of its pages on a bound ferry; wrong operands end the command (R187 to R190, R301, R309).
The island control core serves the oldest request that is free to go, all of it or nothing: with its plan carried out the slice's
wait ends, an eviction's with its count in s[DST], and the request is gone; a status ends the command; a fault that is held leaves
the request waiting for the host. Without a request, or with memory that is not ready, nothing happens (R165, R190, R310, R312 to
R314, R329, R341, R584). -/
def Obligations.KvCacheIsFilledAndEvicted : Prop :=
  (∀ (c : CoreId) (w : IWord) (s0 : State),
    let s := s0.fetched c w
    let k := s.core c
    let r := k.regs
    let posted := fun (o : Nat) (q : KvReq) => ({ s with kv := s.kv ++ [q] } : State).park c (flyOf o c w s .icc) (r.pc + 8)
    (Issues 0xC1 c w s0 → Sound k →
      let t := r.getT (w.src2 - 0x30)
      let nt := bitsOf w.imm 5 0 + 1
      let good := tileOk t = true ∧ t.fmt = some .bf16 ∧ t.rows = 128
      (good → Granted k (w.mod 48) false (kvSrcCells t nt) → exec (.kvappend c) s0 = .next (posted 0xC1
        {
          island := islandOf c, q := k.sl.q, slice := k.sl.idx, ctx := k.sl.ctx, append := true, entry := (r.getS w.src1).toNat, dim := t.cols,
          toks := (List.range nt).map (fun i =>
            (if k.tileCode t .bf16 i 0 = 0xFFFF then leBytes 2 0x7FC0 ++ (k.rowBf16 t i).drop 2 else k.rowBf16 t i, k.rowBf16 t (64 + i))),
          target := 0, sink := 0, window := 0, dst := 0, fault := none, seq := k.sl.seq })) ∧
      (¬ good → exec (.kvappend c) s0 = .next (s.endSliceCmd c 0x0002))) ∧
    (Issues 0xC3 c w s0 → exec (.kvevict c) s0 = .next (posted 0xC3
      {
        island := islandOf c, q := k.sl.q, slice := k.sl.idx, ctx := k.sl.ctx, append := false, entry := (r.getS w.src1).toNat, dim := 0,
        toks := [], target := (r.getS w.src2).toNat, sink := bitsOf w.imm 7 0, window := bitsOf w.imm 23 8, dst := w.dst, fault := none,
        seq := k.sl.seq })) ∧
    (Issues 0xC2 c w s0 →
      let h := w.dst - 0x60
      let g := w.src2 - 0x50
      let fits := fun (f : Nat) (x : Ring) => if 128 ≤ f then x.prod = 3 else f % 2 = 0 ∧ x.prod = 1 ∧ x.harbour = false
      (∀ f x, tabFind r.fh h = some f → s.ring c g = some x → fits f x →
        ((s.ferry f).stream = none → (s.ferry f).drain = false → Ends (.kvgather c) s0 (fun t =>
          t = { s with cores := t.cores, ferries := t.ferries, seq := s.seq + 1 } ∧
          t.core c = { k with regs := { at8 r with fran := (t.core c).regs.fran } } ∧ (∀ d, d ≠ c → t.core d = s.core d) ∧
          (∀ y, y ≠ f → t.ferry y = s.ferry y) ∧ ∃ st, (t.ferry f).stream = some st ∧ st.ringA = some g ∧ st.core = c ∧ st.q = k.sl.q ∧
            st.kv = some ⟨(r.getS w.src1).toNat, bitsOf w.imm 9 0, bitsOf w.imm 9 0 + bitsOf w.imm 19 10 + 1, none⟩)) ∧
        ((s.ferry f).stream.isSome = true → Parks 0xC2 c w s0 (.ferry f) (.kvgather c))) ∧
      ((∀ f x, tabFind r.fh h = some f → s.ring c g = some x → ¬ fits f x) → exec (.kvgather c) s0 = .next (s.endSliceCmd c 0x0002)))) ∧
  (∀ (n : IslandId) (s : State),
    (s.kvNext n true = none → exec (.kvAppendService n) s = .next s) ∧
    (s.kvNext n false = none → exec (.kvEvictService n) s = .next s) ∧
    (∀ r x t, s.kvNext n true = some r → kAppend r s = (.ok x, t) → t.memHeld = false → Ends (.kvAppendService n) s (fun u =>
      u.kv = t.kv.erase r ∧ ∀ c, Asks t r c → ButCache { t.core c with regs := { (t.core c).regs with fly := [] } } (u.core c) ∧
        ∀ d, d ≠ c → ButCache (t.core d) (u.core d))) ∧
    (∀ r x t, s.kvNext n false = some r → kEvict r s = (.ok x, t) → t.memHeld = false → Ends (.kvEvictService n) s (fun u =>
      u.kv = t.kv.erase r ∧ ∀ c, Asks t r c → (∀ d, d ≠ c → ButCache (t.core d) (u.core d)) ∧
        ∃ q, ButCache { t.core c with regs := q } (u.core c) ∧ q = { (t.core c).regs with s := q.s, fly := [] } ∧
          ∀ j, q.getS j = if j = r.dst then BitVec.ofNat 64 x.1 else (t.core c).regs.getS j)) ∧
    (∀ a r st t i, (a, i) ∈ [(true, Instr.kvAppendService n), (false, Instr.kvEvictService n)] → s.kvNext n a = some r →
      (a = true → (kAppend r s).1 = .stop st ∧ (kAppend r s).2 = t) → (a = false → (kEvict r s).1 = .stop st ∧ (kEvict r s).2 = t) →
      t.kvOwned r = true → t.memHeld = false → exec i s = .next ((t.setKv (t.kv.erase r)).endCommand r.q st 2)) ∧
    (∀ r, s.kvNext n true = some r → ∀ x t, kAppend r s = (.ok x, t) → t.memHeld = true → exec (.kvAppendService n) s = .next s) ∧
    (∀ r, s.kvNext n false = some r → ∀ x t, kEvict r s = (.ok x, t) → t.memHeld = true → exec (.kvEvictService n) s = .next s) ∧
    (∀ r e p t, s.kvNext n true = some r → kEntry (.icc r.island) r.ctx r.entry s = (.ok (e, p), t) →
      (r.dim ≠ p.d → kAppend r s = (.stop 0x0002, t)) ∧
      (r.dim = p.d → 65536 < e.len + r.toks.length → kAppend r s = (.stop 0x0301, t))))

/-- STEP, RNG and the three operations of DIGEST write what R191 to R193 state: the stream and its block counter, the 128
values of G or of the entropy source in the form DIST asks, the digest context and its SHAKE256 output; nothing else
changes. A DIGEST waits while the island's four hash units are busy with its bulk ferries' digested streams (R193, R530). -/
def Obligations.DeterminismInstructionsWrite : Prop :=
  ∀ (c : CoreId) (w : IWord) (s0 : State),
    let s := s0.fetched c w
    let k := s.core c
    let r := k.regs
    let dist := bitsOf w.imm 1 0
    let form := fun u : Word => if dist = 0 then u else f32Quot false (u.toNat / 256) 1 (-24)
    let a := (r.getS w.src1).toNat
    let x := bitsOf w.imm 1 0
    let n := bitsOf w.imm 11 2 + 1
    let busy := ∀ b < 4, ∃ st m, (s.ferry (128 + 4 * islandOf c + b)).stream = some st ∧ tabFind s.queues st.q = some m ∧
      bitOf m.flags 1 = true
    (Issues 0xD0 c w s0 → exec (.step c) s0 = .next (s.setRegs c { at8 r with
      stream := if w.mod 49 then (r.getS w.src1).toNat % 2 ^ 24 else w.imm, block := 0 })) ∧
    (Issues 0xD1 c w s0 → w.mod 49 = false → Ends (.rng c) s0 (RegsOnly c s (fun q =>
      q = { at8 r with v := q.v, block := (r.block + 1) % 2 ^ 32 } ∧ ∀ j, ∀ i < 128, q.getV j i = if j = w.dst - 0x20
        then form (gLane (s.reg (Reg.SCH_CTX_SEED k.sl.ctx 0)) (s.reg (Reg.SCH_CTX_SEED k.sl.ctx 1)) (BitVec.ofNat 64 k.sl.step)
          k.sl.idx r.stream r.block i) else r.getV j i))) ∧
    (Issues 0xD1 c w s0 → w.mod 49 = true → Ends (.rng c) s0 (fun t => RegsOnly c ({ s with
        free := s.free + 128, regs := t.regs, queues := t.queues } : State) (fun q => q = { at8 r with v := q.v } ∧
        ∀ j, ∀ i < 128, q.getV j i = if j = w.dst - 0x20 then form (Config.entropy (s.free + i)) else r.getV j i) t ∧
      ∀ o, t.reg o = if o = Reg.SCH_CTX_NDCOUNT k.sl.ctx then s.reg o + 1 else s.reg o)) ∧
    (Issues 0xD2 c w s0 → bitsOf w.w1 50 49 = 0 → ¬ busy →
      exec (.digestInit c) s0 = .next (s.setRegs c { at8 r with digests := tabDel r.digests x })) ∧
    (Issues 0xD2 c w s0 → bitsOf w.w1 50 49 = 1 → a + n ≤ 32768 → ¬ busy → Sound k → Granted k (w.mod 48) false ((List.range n).map (· + a)) →
      exec (.digestAbs c) s0 = .next (s.setRegs c { at8 r with
        digests := tabPut r.digests x (tabGet [] r.digests x ++ k.lgn.readN (16 * a) (16 * n)) })) ∧
    (Issues 0xD2 c w s0 → bitsOf w.w1 50 49 = 1 → 32768 < a + n → exec (.digestAbs c) s0 = .next (s.endSliceCmd c 0x0002)) ∧
    (Issues 0xD2 c w s0 → bitsOf w.w1 50 49 = 2 → a + 2 ≤ 32768 → ¬ busy → Sound k → Granted k (w.mod 48) true [a, a + 1] →
      Ends (.digestFin c) s0 (fun t => ∃ k', t = s.setCore c k' ∧
        k' = { k with regs := { at8 r with digests := tabDel r.digests x }, lgn := k'.lgn, blive := k'.blive } ∧
        k'.lgn.readN (16 * a) 32 = shake256 (tabGet [] r.digests x) ∧
        ∀ y, y < 16 * a ∨ 16 * a + 32 ≤ y → k'.lgn.read y = k.lgn.read y)) ∧
    (Issues 0xD2 c w s0 → busy → (bitsOf w.w1 50 49 = 0 → Parks 0xD2 c w s0 .hash (.digestInit c)) ∧
      (bitsOf w.w1 50 49 = 1 → a + n ≤ 32768 → Parks 0xD2 c w s0 .hash (.digestAbs c)) ∧
      (bitsOf w.w1 50 49 = 2 → a + 2 ≤ 32768 → Parks 0xD2 c w s0 .hash (.digestFin c))) ∧
    (Issues 0xD2 c w s0 → bitsOf w.w1 50 49 = 2 → 32768 < a + 2 → exec (.digestFin c) s0 = .next (s.endSliceCmd c 0x0002))

/-! ## Stream programs -/

/-- Ferry `f` is at op word `w` of code `o` of its loaded program, neither cancelled nor held at a fault (R227, R251). -/
abbrev Sys2Proof.Claims.AtOp (f : Nat) (s : State) (st : Stream) (w o : Nat) : Prop :=
  (s.ferry f).stream = some st ∧ (s.ferry f).cancelling = none ∧ st.load = none ∧ st.kv = none ∧ st.conv = none ∧
  (∀ x, st.wait ≠ .fault x) ∧ st.prog[st.op]? = some w ∧ bitsOf w 31 26 = o

/-- The effective value of an address register under its mode (R229, R230). -/
def Sys2Proof.Claims.effective (r : XReg) : Option DWord :=
  let d := (r.x - r.b).toInt
  match r.mode with
  | .none => some r.x
  | .wrap n => some (r.b + BitVec.ofInt 64 (d % n))
  | .clamp n => some (r.b + BitVec.ofInt 64 (if d < 0 then 0 else if (n : Int) < d then n else d))
  | .fence n => if 0 ≤ d ∧ d ≤ n then some r.x else none

/-- No program waits for ferry `f`, for a hash unit or, at END, for the streams of its slice. -/
abbrev Sys2Proof.Claims.NoneWaits (s : State) (f : Nat) : Prop :=
  ∀ p ∈ s.cores, ∀ e ∈ p.2.regs.fly, e.wait ≠ .ferry f ∧ e.wait ≠ .streams ∧ e.wait ≠ .hash

/-- The stream `st` at its next op. -/
abbrev Sys2Proof.Claims.onward (st : Stream) : Stream := { st with op := st.op + 1, pos := 0, wait := .none, waitRing := none }

/-- LOOP, STRIDE, ENDL, ADD, WRAP, CLAMP and PAD change the ferry's loops, pending strides, address registers and pattern as R228 to
R230 state and go on to the next op; ENDL goes back to the loop's first op with the strides added until its count is reached, then
undoes them. Nothing outside the ferry changes. STREAM_START loads the words up to the first END from the island's harbour and
checks them; a program that fails the checks, has no END among 64 words, leaves the harbour or meets an uncorrectable word ends
the command (R227, R239, R346). STREAM_END ends the stream, whose ferry keeps its counts and the slots the stream leaves reserved
(R238, R241, R255). FERRY_CANCEL_ACK resets the slots the stream held, discards it and acknowledges; and DRAIN_COMPLETE ends the
drain (R251, R252). -/
def Obligations.StreamsRunTheirPrograms : Prop :=
  (∀ (f : FerryId) (s : State) (st : Stream) (w : Nat),
    let k := s.ferry f
    let x := bitsOf w 25 24
    let r := s.xreg f x
    let unit : Int := if bitsOf w 23 22 = 0 then 1 else if bitsOf w 23 22 = 1 then 16 else if bitsOf w 23 22 = 2 then 4096 else 65536
    let v := signedOf 22 (bitsOf w 21 0) * unit
    let goes := fun (st' : Stream) (xs : Tab XReg) => s.setFerry f { k with stream := some st', op := st'.op, xs := xs }
    let l := bitsOf w 25 23
    (AtOp f s st w 0x01 → exec (.streamLoop f) s = .next (goes { onward st with
      loops := tabPut st.loops l ⟨bitsOf w 19 0 + 1, 0, st.op + 1, st.pend⟩, pend := [] } k.xs)) ∧
    (AtOp f s st w 0x03 → exec (.streamStride f) s = .next (goes { onward st with pend := st.pend ++ [(x, v)] } k.xs)) ∧
    (AtOp f s st w 0x02 → ∀ p : LoopSt, tabFind st.loops l = some p → (p.strides.map (·.1)).Nodup →
      Ends (.streamEndl f) s (fun t => ∃ xs, t = goes (if p.it + 1 < p.cnt
          then { onward st with op := p.top, loops := tabPut st.loops l { p with it := p.it + 1 } }
          else { onward st with loops := tabDel st.loops l }) xs ∧
        (∀ i d, (i, d) ∈ p.strides → t.xreg f i = { s.xreg f i with
          x := (s.xreg f i).x + BitVec.ofInt 64 (if p.it + 1 < p.cnt then d else -(d * (p.cnt - 1))) }) ∧
        ∀ i, i ∉ p.strides.map (·.1) → t.xreg f i = s.xreg f i)) ∧
    (AtOp f s st w 0x04 → exec (.streamAdd f) s = .next (goes (onward st) (tabPut k.xs x { r with x := r.x + BitVec.ofInt 64 v }))) ∧
    (AtOp f s st w 0x05 → exec (.streamWrap f) s = .next (goes (onward st) (tabPut k.xs x { r with
      mode := if bitsOf w 23 0 = 0 then .none else .wrap (64 * bitsOf w 23 0) }))) ∧
    (AtOp f s st w 0x06 → exec (.streamClamp f) s = .next (goes (onward st) (tabPut k.xs x { r with
      mode := if bitOf w 23 then .fence (16 * bitsOf w 22 0) else .clamp (16 * bitsOf w 22 0) }))) ∧
    (AtOp f s st w 0x07 → exec (.streamPad f) s = .next (goes { onward st with pad := bitsOf w 15 0 } k.xs))) ∧
  (∀ (f : FerryId) (s : State) (st : Stream),
    let k := s.ferry f
    (k.stream = some st → k.cancelling = none → ∀ off, st.load = some off →
      (∀ prog, s.loadProg (ferryIsland f) 64 off [] = .ok prog →
        (s.progOk f st prog = true → exec (.streamStart f) s = .next (s.setFerry f { k with
          stream := some { st with load := none, prog := prog }, op := st.op })) ∧
        (s.progOk f st prog = false → exec (.streamStart f) s = .next (s.streamFail f { st with load := none } 1 0x0002))) ∧
      (∀ p, s.loadProg (ferryIsland f) 64 off [] = .bad p →
        exec (.streamStart f) s = .next ((s.eccReport 0 p (p / 8)).streamFail f { st with load := none } 5 0x0204)) ∧
      (s.loadProg (ferryIsland f) 64 off [] = .noEnd → exec (.streamStart f) s = .next (s.streamFail f { st with load := none } 1 0x0002)) ∧
      (s.loadProg (ferryIsland f) 64 off [] = .edge → exec (.streamStart f) s = .next (s.streamFail f { st with load := none } 2 0x0002))) ∧
    (∀ w, AtOp f s st w 0 → NoneWaits s f → Ends (.streamEnd f) s (fun t =>
      t = { s with ferries := (s.setFerry f { k with stream := none, op := st.op, held := st.held, acqd := st.acqd }).ferries, queues := t.queues } ∧
      (∀ m, tabFind s.queues st.q = some m → tabFind t.queues st.q = some { m with
        digests := m.digests ++ if 128 ≤ f.val ∧ bitOf m.flags 1 = true then [(st.slice, st.seq, shake256 st.absorbed)] else [] }) ∧
      ∀ q, q ≠ st.q → tabFind t.queues q = tabFind s.queues q)) ∧
    (k.stream = some st → k.cancelling.isSome = true → NoneWaits s f → Ends (.ferryCancelAck f) s (fun t =>
      t.ferry f = { k with stream := none, cancelling := none, op := st.op, drain := (t.ferry f).drain } ∧
      (∀ g, g ≠ f.val → t.ferry g = s.ferry g) ∧ t.mem = s.mem ∧
      (∀ m, tabFind s.queues st.q = some m → tabFind t.queues st.q = some { m with acks := setDel m.acks f }) ∧
      (∀ n r, n.core < 64 → st.held = [n] → st.acqd = [] → s.ring n.core n.handle = some r →
        t.ring n.core n.handle = some { r with st := r.st.map (fun x => if x = .p then .e else x), rsv := r.head }) ∧
      (∀ n r, n.core < 64 → st.held = [] → st.acqd = [n] → s.ring n.core n.handle = some r →
        t.ring n.core n.handle = some { r with st := r.st.map (fun x => if x = .c then .f else x), acq := r.tail }))) ∧
    (k.drain = true → NoneWaits s f → exec (.drainComplete f) s = .next (s.setFerry f { k with drain := false })))

/-- STREAM_COMMIT and STREAM_RELEASE of a program give the slot the stream filled or drained of its ring A or B, without one the
stream ends in error; WAITTAG goes on once the berths have the state it names and waits until then, TAG_WAIT_RESUME likewise;
GATHER reads an index at XI, sets X to its base plus the shifted index and steps XI by 4 (R228, R235, R236, R241). While the core
saves, restores or scrubs, COMMIT and RELEASE are held (R214), and a GATHER waits with memory that is not ready (R329, R584). EMIT
between the cells of a lagoon and the island's harbour moves its LEN bytes, on an inbound ferry from the harbour to the lagoon, on
an outbound one to the harbour, once the berths allow it or with .U; every other byte stands, FRY_BYTES rises by LEN and the
stream goes on. Berths in the wrong state make it wait, and a side that is OUTSIDE or misaligned, or that the ferry may not use,
ends it in error (R224 to R226, R231, R232, R234, R239, R256). -/
def Obligations.StreamsMoveSlotsAndRuns : Prop :=
  (∀ (f : FerryId) (s : State) (st : Stream) (w : Nat),
    let k := s.ferry f
    let goes := fun (u : State) (st' : Stream) (t : State) => t = u.setFerry f { k with stream := some st', op := st'.op }
    let n : Nat → RingName := fun h => ⟨st.core, h⟩
    let c := st.core
    let own := fun h => (bitsOf w 25 24 = 0 ∧ st.ringA = some h) ∨ (bitsOf w 25 24 = 1 ∧ st.ringB = some h)
    let here := c < 64 ∧ (s.core c).away = false
    (AtOp f s st w 0x11 → (s.core c).away = true → ∀ h, own h → Ends (.streamCommit f) s (fun t =>
      ∃ since, goes s { st with wait := .remote, waitRing := none, since := since } t)) ∧
    (AtOp f s st w 0x12 → (s.core c).away = true → ∀ h, own h → Ends (.streamRelease f) s (fun t =>
      ∃ since, goes s { st with wait := .remote, waitRing := none, since := since } t)) ∧
    (AtOp f s st w 0x11 → here → ∀ h r, own h → s.ring c h = some r → CleanSlot (s.core c) r r.head →
      (r.st.getD r.head .e = .p → Ends (.streamCommit f) s (fun t => ∃ k', BerthsSet (s.core c) (r.base + r.sb * r.head) (if r.harbour then 0 else r.sb) true k' ∧
        goes (s.setCore c { k' with regs := { k'.regs with
          rings := tabPut k'.regs.rings h { r with st := r.st.set r.head .f, head := (r.head + 1) % r.slots } } }) { onward st with held := st.held.erase (n h) } t)) ∧
      (r.st.getD r.head .e ≠ .p → exec (.streamCommit f) s = .next (s.streamFail f st 3 0x0002))) ∧
    (AtOp f s st w 0x12 → here → ∀ h r, own h → s.ring c h = some r → CleanSlot (s.core c) r r.tail →
      (r.st.getD r.tail .e = .c → Ends (.streamRelease f) s (fun t => ∃ k', BerthsSet (s.core c) (r.base + r.sb * r.tail) (if r.harbour then 0 else r.sb) false k' ∧
        goes (s.setCore c { k' with regs := { k'.regs with
          rings := tabPut k'.regs.rings h { r with st := r.st.set r.tail .e, tail := (r.tail + 1) % r.slots } } }) { onward st with acqd := st.acqd.erase (n h) } t)) ∧
      (r.st.getD r.tail .e ≠ .c → exec (.streamRelease f) s = .next (s.streamFail f st 3 0x0002))) ∧
    (AtOp f s st w 0x13 → ∀ e, effective (s.xreg f (bitsOf w 25 24)) = some e →
      let a := e.toNat
      let m := bitsOf w 22 16 + 1
      let b := bitsOf a 18 12
      let bad := bitsOf a 63 62 ≠ 2 ∨ bitsOf a 61 19 ≠ 0 ∨ a % 16 ≠ 0 ∨ 128 < b + m
      (bad → exec (.waittag f) s = .next (s.streamFail f st 2 0x0002)) ∧
      (¬ bad → (∀ x, b ≤ x → x < b + m → (s.core c).parity.contains x = false) →
        ((∀ x, b ≤ x → x < b + m → (s.core c).tags.getLsbD x = bitOf w 23) → Ends (.waittag f) s (goes s (onward st)) ∧
          (st.wait.onTags = true → Ends (.tagWaitResume (.ferry f)) s (goes s (onward st)))) ∧
        ((∃ x, b ≤ x ∧ x < b + m ∧ (s.core c).tags.getLsbD x ≠ bitOf w 23) → Ends (.waittag f) s (fun t =>
          ∃ since, goes s { st with
            wait := .tags c (!bitOf w 23) ((List.range m).map (· + b)), waitRing := none, since := since } t)))) ∧
    (AtOp f s st w 0x08 → s.memHeld = false →
      let x := bitsOf w 25 24
      let i := bitsOf w 23 22
      let r := s.xreg f x
      let put := fun (u : State) (v : Nat) (t : State) => ∃ xs, t = u.setFerry f { u.ferry f with
          stream := some (onward st), op := st.op + 1, xs := xs } ∧
        ∀ j, t.xreg f j = (let y := if j = x then { r with x := r.b + BitVec.ofNat 64 (v * 2 ^ bitsOf w 21 17) } else u.xreg f j
          if j = i then { y with x := y.x + 4 } else y)
      (effective (s.xreg f i) = none → exec (.streamGather f) s = .next (s.streamFail f st 2 0x0002)) ∧
      ∀ e, effective (s.xreg f i) = some e →
        (e.toNat % 4 ≠ 0 → exec (.streamGather f) s = .next (s.streamFail f st 2 0x0002)) ∧
        (e.toNat % 4 = 0 → bitsOf e.toNat 63 62 = 1 → bitsOf e.toNat 61 23 = 0 → s.hbrUe = [] → s.hbrCe = [] → s.islandOn (ferryIsland f) = true →
          Ends (.streamGather f) s (put s (leNat (s.mem.readN (hbrAddr (ferryIsland f) (bitsOf e.toNat 22 0)) 4)))) ∧
        (e.toNat % 4 = 0 → bitsOf e.toNat 63 48 = 0 → ∀ l u, s.vread (.ferry f) k.ctx e.toNat 4 = (.ok l, u) → u.ferries = s.ferries →
          (u.memHeld = false → Ends (.streamGather f) s (put u (leNat l))) ∧
          (u.memHeld = true → exec (.streamGather f) s = .next s)))) ∧
  (∀ (f : FerryId) (s : State) (st : Stream) (w : Nat), AtOp f s st w 0x10 → f.val < 128 → st.pos = 0 → s.memHeld = false →
    bitOf w 17 = true → bitOf w 15 = false → bitOf w 21 = false →
    let k := s.ferry f
    let len := 16 * (bitsOf w 11 0 + 1)
    let core := s.core st.core
    let isl := ferryIsland f
    let x := effective (s.xreg f (bitsOf w 20 19))
    let y := effective (s.xreg f (bitsOf w 25 24))
    (x = none → exec (.emit f) s = .next (s.streamFail f st 2 0x0002)) ∧
    ∀ d, x = some d →
      let b := bitsOf d.toNat 18 0
      (d.toNat % 16 ≠ 0 ∨ bitsOf d.toNat 63 62 ≠ 2 ∨ bitsOf d.toNat 61 19 ≠ 0 ∨ 0x80000 < b + len →
        exec (.emit f) s = .next (s.streamFail f st 2 0x0002)) ∧
      ∀ e, y = some e → d.toNat % 16 = 0 → bitsOf d.toNat 63 62 = 2 → bitsOf d.toNat 61 19 = 0 → b + len ≤ 0x80000 →
        e.toNat % 16 = 0 → bitsOf e.toNat 63 62 = 1 → bitsOf e.toNat 61 23 = 0 →
        let o := bitsOf e.toNat 22 0
        o + len ≤ 0x800000 → Sound core → s.hbrUe = [] → s.hbrCe = [] → s.islandOn isl = true →
        let cells := (List.range (len / 16)).map (· + b / 16)
        let moved := { k with stream := some (onward st), op := st.op + 1, bytes := k.bytes + len }
        (bitOf w 16 = false → Granted core (bitOf w 14) true cells → Ends (.emit f) s (fun t =>
          t = { s with cores := t.cores, ferries := (s.setFerry f moved).ferries } ∧
          (∀ q, q ≠ st.core → t.core q = s.core q) ∧
          t.core st.core = { core with lgn := (t.core st.core).lgn, blive := (t.core st.core).blive } ∧
          ∀ a, (t.core st.core).lgn.read a = if b ≤ a ∧ a < b + len then s.mem.read (hbrAddr isl o + (a - b)) else core.lgn.read a)) ∧
        (bitOf w 16 = true → Granted core (bitOf w 14) false cells → Ends (.emit f) s (fun t =>
          t = { s with mem := t.mem, cores := t.cores, ferries := (s.setFerry f moved).ferries } ∧ (∀ q, ButCache (s.core q) (t.core q)) ∧
          ∀ a, t.mem.read a = if hbrAddr isl o ≤ a ∧ a < hbrAddr isl o + len then core.lgn.read (b + (a - hbrAddr isl o)) else s.mem.read a)) ∧
        (bitOf w 14 = false → (∀ a ∈ cells, core.parity.contains (a / 256) = false) →
          (∃ a ∈ cells, core.tags.getLsbD (a / 256) = !bitOf w 16) → Ends (.emit f) s (fun t => ∃ since bs,
            t = s.setFerry f { k with
              stream := some { st with wait := .tags st.core (!bitOf w 16) bs, waitRing := none, since := since }, op := st.op })))

/-! ## Memory: faults, invalidations, address spaces, encryption, scrubbing -/

/-- A host write of the value `v` to the register at `off` takes effect (R480). -/
abbrev Sys2Proof.Claims.Reaches (fn : Fn) (off width : Nat) (v : DWord) (s : State) : Prop := s.accessKind fn true off width v = none

/-- RESUME lets the agent held at an open fault go on, wherever its stream stands by then; ABORT, and a timeout once the fault
has been open for TMO_MS milliseconds, end its stream, running or saved, with ERR 0x6 and its command with
TRANSLATION_FAULT, its job with CANCELLED or its cache request; a response to no open fault sets STALE; a delayed record
goes to the fault ring once it can take one (R338 to R343). -/
def Obligations.FaultResponsesActOnTheHeldAgent : Prop :=
  ∀ (fn : Fn) (fid : Word) (s : State),
    let word := fun act : Nat => BitVec.ofNat 64 (fid.toNat + 2 ^ 32 * act)
    let h := s.faults.find? (fun x => x.fid == fid.toNat)
    let closed : State := { s with faults := s.faults.filter (fun x => x.fid != fid.toNat) }
    let holds := fun (f : Nat) (st : Stream) => (s.ferry f).stream = some st ∧ st.wait = .fault fid.toNat ∧
      ∀ p ∈ s.ferries, ∀ y, p.2.stream = some y → y.wait = .fault fid.toNat → p.1 = f ∧ y = st
    let stops := fun (i : Instr) =>
      (∀ x g f st, h = some x → x.agent = .ferry g → holds f st → exec i s = .next (closed.streamFail f st 6 0x0201)) ∧
      (∀ x g, h = some x → x.agent = .ferry g → (∀ p ∈ s.ferries, ∀ y, p.2.stream = some y → y.wait ≠ .fault fid.toNat) →
        exec i s = .next (({ closed with saved := s.saved.map (fun v => v.abortFault fid.toNat) } : State).endBy x.q 0x0201 2 x.slice)) ∧
      (∀ x n j, h = some x → x.agent = .job n → (s.jobq n).job = some j → j.fault = some fid.toNat →
        exec i s = .next (closed.setJobq n { s.jobq n with job := some { j with fault := none, ended := true, status := 0x0010 } })) ∧
      (∀ x n r, h = some x → x.agent = .icc n → s.kv.find? (fun y => y.fault == some fid.toNat) = some r → s.kvOwned r = true →
        exec i s = .next ((closed.setKv (s.kv.erase r)).endCommand r.q 0x0201 2))
    (Reaches fn Reg.MEM_FAULT_RESP 64 (word 1) s →
      (h = none → exec (.faultResume fn fid) s = .next (s.setFlag Reg.MEM_FAULT_STAT 1 true)) ∧
      (∀ x g f st, h = some x → x.agent = .ferry g → holds f st →
        Ends (.faultResume fn fid) s (fun t => t = { closed with ferries := t.ferries, saved := t.saved } ∧
          t.ferry f = { s.ferry f with stream := some { st with wait := .none }, op := st.op } ∧ ∀ g, g ≠ f → t.ferry g = s.ferry g)) ∧
      (∀ x n j, h = some x → x.agent = .job n → (s.jobq n).job = some j → j.fault = some fid.toNat →
        exec (.faultResume fn fid) s = .next (closed.setJobq n { s.jobq n with job := some { j with fault := none } })) ∧
      (∀ x n, h = some x → x.agent = .icc n → exec (.faultResume fn fid) s = .next { closed with
        kv := s.kv.map (fun r => if r.fault = some fid.toNat then { r with fault := none } else r) })) ∧
    (Reaches fn Reg.MEM_FAULT_RESP 64 (word 2) s →
      stops (.faultAbort fn fid) ∧ (h = none → exec (.faultAbort fn fid) s = .next (s.setFlag Reg.MEM_FAULT_STAT 1 true))) ∧
    let ms := s.fld Reg.MEM_FRING 63 48
    (ms ≠ 0 → (∀ x, h = some x → x.cyc + 500000 * ms ≤ s.cyc) → stops (.faultTimeout fid)) ∧
    (h = none ∨ ms = 0 ∨ (∃ x, h = some x ∧ s.cyc < x.cyc + 500000 * ms) → exec (.faultTimeout fid) s = .next s) ∧
    (∀ r l, s.frecs = r :: l → s.fringReady = true → r.length = 64 →
      let a := 4096 * s.fld Reg.MEM_FRING 43 12 + 64 * (s.fld Reg.MEM_FRING_PTR 31 16 % (64 * 2 ^ min 6 (s.fld Reg.MEM_FRING 47 44)))
      s.memOn a = true → s.lpUe = [] → s.lpCe = [] →
      Ends .faultRecordDelayed s (fun t => t.frecs = l ∧ t.fld Reg.MEM_FRING_PTR 31 16 = (s.fld Reg.MEM_FRING_PTR 31 16 + 1) % 65536 ∧
        t.flag Reg.MEM_FAULT_STAT 0 = true ∧ (∀ i < 64, t.mem.read (s.memKey a + i) = if i = 45 then r.getD 45 0 ||| 16 else r.getD i 0) ∧
        ∀ x, x < s.memKey a ∨ s.memKey a + 64 ≤ x → t.mem.read x = s.mem.read x)) ∧
    (s.frecs = [] ∨ s.fringReady = false → exec .faultRecordDelayed s = .next s)

/-- A write to MEM_INV queues an invalidation, at most 16, and ISSUED rises; each completes in order, its cached entries gone, and
DONE rises. A write to MEM_AS sets the address space, with EN 0 where another enabled context has its ASID with another root or
partition (R330, R335). A change of a partition's bit of MEM_XTS.EN makes or destroys its key of 64 bytes: BUSY follows the new
bit until XTS_KEY_READY, and what was written for the partition is lost, all other bytes stand (R328, R329, R499). PATROL_SCRUB,
at first when INIT is 1 and then once in PERIOD_H hours, corrects the visible sectors and counts the pass; LPDDR_INIT_COMPLETE
sets INIT from BOOT_STAGE 0x3 on; and the BAR4 access that waited for either goes on (R327, R329, R584). -/
def Obligations.MemoryControlTakesItsWrites : Prop :=
  ((∀ (fn : Fn) (asid : Byte) (page : Word) (p : BitVec 16) (s : State),
    let takes := fun (v : Nat) => Reaches fn Reg.MEM_INV 64 (BitVec.ofNat 64 v) s
    let queued := fun (e : Inval) (t : State) => t.invq = s.invq ++ [e] ∧
      t.fld Reg.MEM_INV_STAT 27 16 = (s.fld Reg.MEM_INV_STAT 27 16 + 1) % 4096 ∧ (∀ o, o ≠ Reg.MEM_INV_STAT → t.reg o = s.reg o) ∧
      t = { s with invq := t.invq, regs := t.regs, evt := t.evt }
    let full := s.setFlag Reg.MEM_INV_STAT 31 true
    (takes 0 →
      (s.invq.length < 16 → Ends (.invalidateAll fn) s (queued ⟨0, 0, 0, 1⟩)) ∧ (16 ≤ s.invq.length → exec (.invalidateAll fn) s = .next full)) ∧
    (takes (2 ^ 54 * asid.toNat + 2 ^ 62) →
      (s.invq.length < 16 → Ends (.invalidateAsid fn asid) s (queued ⟨1, asid.toNat, 0, 1⟩)) ∧
      (16 ≤ s.invq.length → exec (.invalidateAsid fn asid) s = .next full)) ∧
    (takes (p.toNat + 2 ^ 16 * page.toNat + 2 ^ 54 * asid.toNat + 2 ^ 63) →
      (s.invq.length < 16 → Ends (.invalidateRange fn asid page p) s (queued ⟨2, asid.toNat, page.toNat, p.toNat + 1⟩)) ∧
      (16 ≤ s.invq.length → exec (.invalidateRange fn asid page p) s = .next full))) ∧
  (∀ (s : State) (e : Inval) (l : List Inval), s.invq = e :: l → Ends .invalidationComplete s (fun t => t.invq = l ∧
    t.fld Reg.MEM_INV_STAT 11 0 = (s.fld Reg.MEM_INV_STAT 11 0 + 1) % 4096 ∧ t.mem = s.mem ∧
    ∀ x, x ∈ t.tlb ↔ x ∈ s.tlb ∧ ¬ (e.scope = 0 ∨ (x.asid = e.asid ∧ (e.scope = 1 ∨
      (x.va * levelSize x.level < 65536 * (e.page + e.pages) ∧ 65536 * e.page < x.va * levelSize x.level + levelSize x.level)))))) ∧
  (∀ s : State, s.invq = [] → exec .invalidationComplete s = .next s) ∧
  ∀ (fn : Fn) (n : CtxId) (v : DWord) (s : State), Reaches fn (Reg.MEM_AS n) 64 v s →
    let x := v.toNat
    let clash := bitOf x 63 = true ∧ ∃ m < 256, m ≠ n.val ∧ s.flag (Reg.MEM_AS m) 63 = true ∧ s.fld (Reg.MEM_AS m) 55 48 = bitsOf x 55 48 ∧
      (s.fld (Reg.MEM_AS m) 43 9 ≠ bitsOf x 43 9 ∨ s.fld (Reg.MEM_AS m) 58 56 ≠ bitsOf x 58 56)
    Ends (.memAsWrite fn n v) s (fun t => RegOnly (Reg.MEM_AS n) s t ∧
      (clash → t.flag (Reg.MEM_AS n) 63 = false) ∧ (¬ clash → t.flag (Reg.MEM_AS n) 63 = bitOf x 63) ∧
      t.fld (Reg.MEM_AS n) 55 48 = bitsOf x 55 48 ∧ t.fld (Reg.MEM_AS n) 58 56 = bitsOf x 58 56 ∧ t.fld (Reg.MEM_AS n) 43 9 = bitsOf x 43 9)) ∧
  (∀ (s : State),
    let waited := fun (i : Instr) (t : State) => (s.bar4q = [] → exec i s = .next t) ∧
      ∀ x, s.bar4q = [x] → (∀ p ∈ t.bar4Pieces x.len x.addr x.len, t.memBusy p.1 p.2 = false) →
        exec i s = .next (({ t with bar4q := [] } : State).bar4Do x)
    (∀ (fn : Fn) (en : Byte), Reaches fn Reg.MEM_XTS 32 (BitVec.ofNat 64 en.toNat) s → Ends (.xtsEnable fn en) s (fun t =>
      t.fld Reg.MEM_XTS 7 0 = en.toNat ∧
      (∀ k < 8, t.flag Reg.MEM_XTS (16 + k) = if s.flag Reg.MEM_XTS k = en.getLsbD k then s.flag Reg.MEM_XTS (16 + k) else en.getLsbD k) ∧
      (∀ k < 8, s.flag Reg.MEM_XTS k ≠ en.getLsbD k →
        if en.getLsbD k then ∃ y, tabFind t.xtsKeys k = some y ∧ y.length = 64 else tabFind t.xtsKeys k = none) ∧
      (∀ k, 8 ≤ k ∨ s.flag Reg.MEM_XTS k = en.getLsbD k → tabFind t.xtsKeys k = tabFind s.xtsKeys k) ∧
      (∀ a, (∀ p ∈ s.granOwner, ∀ k < 8, p.2 = k + 1 → s.flag Reg.MEM_XTS k ≠ en.getLsbD k → a / 2 ^ 29 ≠ p.1) → t.mem.read a = s.mem.read a) ∧
      (∀ o, o ≠ Reg.MEM_XTS → t.reg o = s.reg o) ∧ t.cores = s.cores)) ∧
    (∀ k : PartId, s.compHalted 0 = false → waited (.xtsKeyReady k) (s.setFlag Reg.MEM_XTS (16 + k) false)) ∧
    (∀ k : PartId, s.compHalted 0 = true → exec (.xtsKeyReady k) s = .next s) ∧
    (let hours := if s.fld Reg.MEM_SCRUB 31 24 = 0 then 24 else s.fld Reg.MEM_SCRUB 31 24
     let runs := s.flag Reg.MEM_CFG 0 = true ∧ s.flag Reg.MEM_CFG 2 = true ∧ (s.fld Reg.MEM_SCRUB 31 24 ≠ 0 ∨ s.flag Reg.MEM_CFG 1 = true) ∧
       ∀ t, s.patrolAt = some t → t + 3600 * 500000000 * hours ≤ s.cyc
     let sectors := (s.lpCe.map (· / 8)).eraseDups
     (runs → s.lpUe = [] → Ends .patrolScrub s (fun t => t = { s with regs := t.regs, evt := t.evt, lpCe := t.lpCe, patrolAt := some s.cyc } ∧
        t.lpCe = s.lpCe.filter (fun x => decide (s.visible ≤ 64 * (x / 8))) ∧
        t.fld Reg.MEM_ECC 63 48 = min 65535 (s.fld Reg.MEM_ECC 63 48 + (sectors.filter (fun x => decide (64 * x < s.visible))).length) ∧
        t.fld Reg.MEM_SCRUB 15 0 = (s.fld Reg.MEM_SCRUB 15 0 + 1) % 65536)) ∧
     (¬ runs → exec .patrolScrub s = .next s)) ∧
    (3 ≤ s.fld Reg.GLB_STATE 3 0 → s.fld Reg.GLB_STATE 3 0 ≤ 5 → waited .lpddrInitComplete (s.setFlag Reg.MEM_CFG 2 true)) ∧
    (s.fld Reg.GLB_STATE 3 0 < 3 → exec .lpddrInitComplete s = .next s))

/-! ## The camera intake -/

/-- The 64 bytes of frame record `r` with its number, at place `i` of the record area of binding `b` (R273, Table 9.5). -/
abbrev Sys2Proof.Claims.RecordAt (b : Binding) (i : Nat) (bs : List Byte) (s t : State) : Prop :=
  let a := hbrAddr b.island (4096 * b.frecBase + 64 * (i % (4 * 2 ^ b.frecN)))
  ∀ x, t.mem.read x = if a ≤ x ∧ x < a + 64 then bs.getD (x - a) 0 else s.mem.read x

/-- A live stream's frame opens stamped with the time, dropped at once where its ring is not there; each line of its data
type adds one row of the frame's width; a bad header or CRC is counted; with its rows and slots delivered the frame's end
writes its record and FRAMES and SEQ go on; owed slots are committed one by one, a partly filled one as it stands (R271 to
R273). -/
def Obligations.LiveFramesDeliverRowsAndRecords : Prop :=
  ∀ (m : Fin 32) (s : State),
    let b := s.strBind m
    let x := s.stream m
    let w := s.fld (Reg.ITK_STR_CFG m) 47 32
    let h := s.fld (Reg.ITK_STR_CFG m) 63 48
    let d := SampDesc.of x.desc
    (s.liveOn m = false → exec (.frameStart m) s = .next s) ∧
    (s.liveOn m = true → x.frame = none → s.flag (Reg.ITK_STR_CFG m) 16 = false →
      let ready := (s.bindRing b).isSome = true ∧ x.debts = [] ∧ d.geomOk w h = true ∧ s.slotsFit b d w h = true
      let frame : LiveFrame := ⟨x.desc, w, h, s.fld (Reg.ITK_STR_CFG m) 15 8, s.tbS, s.tbNs, [], 0, ⟨0, 0, 0, false, false, 0, []⟩,
        false, (s.bindRing b).isNone, 0, s.free⟩
      (ready → exec (.frameStart m) s = .next (({ s with free := s.free + 1 } : State).setLive m { x with frame := some frame })) ∧
      (¬ ready → Ends (.frameStart m) s (fun t => t.stream m = { x with frame := some { frame with dropped := true, flags := 1 } } ∧
        t.fld (Reg.ITK_STR_STAT m) 47 32 = min 65535 (s.fld (Reg.ITK_STR_STAT m) 47 32 + 1) ∧ t.mem = s.mem ∧ t.cores = s.cores))) ∧
    (∀ (dt : Byte) (crc : Bool) (data : List Byte), s.liveOn m = true →
      Ends (.linePacket m dt crc true data) s (fun t => RegOnly (Reg.ITK_STR_STAT m) s t ∧
        t.fld (Reg.ITK_STR_STAT m) 31 16 = min 65535 (s.fld (Reg.ITK_STR_STAT m) 31 16 + 1)) ∧
      ∀ f p, x.frame = some f → packOfDt dt.toNat = some p →
        (dt.toNat ≠ f.dt → exec (.linePacket m dt false false data) s = .next s) ∧
        (dt.toNat = f.dt → f.h ≤ f.lines.length →
          exec (.linePacket m dt false false data) s = .next (s.setLive m { x with frame := some { f with flags := f.flags ||| 8 } })) ∧
        (dt.toNat = f.dt → f.lines.length < f.h → (∀ l ∈ f.lines, l.length = p.kind.n * f.w) → let px := p.unpack (data.length + 1) data
          let n := p.kind.n
          Ends (.linePacket m dt false false data) s (fun t => ∃ g row, (t.stream m).frame = some g ∧ g.lines = f.lines ++ [row] ∧
            row.length = n * f.w ∧ (∀ i < n * f.w, i < px.length / n * n → row.getD i 0 = px.getD i 0) ∧ g.startS = f.startS ∧ g.startNs = f.startNs ∧
            (f.dropped = true → t = s.setLive m { x with frame := some { f with
              lines := g.lines, flags := f.flags ||| if n * f.w < px.length then 8 else if px.length < n * f.w then 4 else 0 } })))) ∧
    (x.frame = none → exec (.frameEnd m) s = .next s) ∧
    (∀ f, x.frame = some f → f.lines.length = f.h → f.dropped = false → (SampDesc.of f.desc).outRows f.w f.h ≤ f.out.rows →
      b.fslots ≤ f.out.total → s.islandOn b.island = true → s.flag (Reg.ITK_STR_CFG m) 17 = false → Ends (.frameEnd m) s (fun t =>
        t.stream m = { x with frame := none, seq := (x.seq + 1) % 65536 } ∧ (∀ c, ButCache (s.core c) (t.core c)) ∧
        t.fld (Reg.ITK_STR_STAT m) 63 48 = (s.fld (Reg.ITK_STR_STAT m) 63 48 + 1) % 65536 ∧
        RecordAt b x.seq (SampleRec.render ⟨(SampDesc.of f.desc).tag, 0, f.flags, m, f.startS, f.startNs, s.tbS, s.tbNs, shake256 f.out.bytes⟩
          x.seq (f.out.slots == 0)) s t)) ∧
    (∀ e l c r, x.debts = e :: l → 1 < e.owed → s.bindRing b = some (c, r) →
      let paid := fun (t : State) (g : Ring) => t.ring c b.handle = some g ∧ (∀ d, d ≠ c → t.core d = s.core d) ∧ t.regs = s.regs ∧
        (t.stream m).debts = { e with owed := e.owed - 1, out := { e.out with
          opened := false, full := false, slots := e.out.slots + 1, total := e.out.total + 1 } } :: l
      (e.out.opened = false → r.st.getD r.rsv .e = .e → r.rsv = r.head → r.rsv < r.st.length → Ends (.slotDebtPay m) s (fun t =>
        paid t { r with st := r.st.set r.rsv .f, rsv := (r.rsv + 1) % r.slots, head := (r.head + 1) % r.slots })) ∧
      (e.out.opened = true → r.st.getD r.head .e = .p → Ends (.slotDebtPay m) s (fun t =>
        paid t { r with st := r.st.set r.head .f, head := (r.head + 1) % r.slots } ∧ t.mem = s.mem))) ∧
    (∀ e l c r, x.debts = e :: l → s.bindRing b = some (c, r) → e.out.opened = false → r.st.getD r.rsv .e ≠ .e →
      exec (.slotDebtPay m) s = .next s)

/-- Job queue `n` is next in the round robin of R261: it has a job to run and runs none, and none between the queue served
last and it has. -/
def Sys2Proof.Claims.HasTurn (s : State) (n : Nat) : Prop :=
  let waits := fun k => (s.jqBind k).en = true ∧ s.fld (Reg.ITK_JQ_PTR k) 15 0 ≠ s.fld (Reg.ITK_JQ_PTR k) 31 16 ∧ (s.jobq k).job = none
  ∃ i < 4, (s.jobLast + 1 + i) % 4 = n ∧ waits n ∧ ∀ j < i, ¬ waits ((s.jobLast + 1 + j) % 4)

/-- A job queue's tail moves within its depth; the next job, of the queue whose turn it is, opens with the descriptor read
for it, an uncorrectable one ends with CANCELLED; a JPEG job of a real-time queue overruns once its decode time passes
K x AVG; a job whose rows and slots are delivered writes its record, HEAD
rises and the queue is free. AVG_RESET returns AVG to 0x006B (R261, R275 to R277, R292). -/
def Obligations.JobsOpenRunAndComplete : Prop :=
  ∀ (n : Fin 4) (s : State),
    let b := s.jqBind n
    let x := s.jobq n
    let head := s.fld (Reg.ITK_JQ_PTR n) 31 16
    (∀ (fn : Fn) (v : Word), Reaches fn (Reg.ITK_JQ_PTR n) 32 (BitVec.ofNat 64 v.toNat) s →
      let tail := v.toNat % 65536
      ((tail + 65536 - head) % 65536 ≤ b.depth → exec (.jobSubmit fn n v) s = .next (s.setFld (Reg.ITK_JQ_PTR n) 15 0 tail)) ∧
      (b.depth < (tail + 65536 - head) % 65536 → Ends (.jobSubmit fn n v) s (fun t => t.reg (Reg.ITK_JQ_PTR n) = s.reg (Reg.ITK_JQ_PTR n) ∧
        t.fld Reg.FWM_LOG_PTR 63 32 = (s.fld Reg.FWM_LOG_PTR 63 32 + 1) % 2 ^ 32))) ∧
    (x.job = none → ¬ HasTurn s n → exec (.jobStart n) s = .next s) ∧
    (∀ j, x.job = some j → j.desc.isSome = true → exec (.jobStart n) s = .next s) ∧
    (x.job = none → HasTurn s n →
      let at' := 64 * s.fld (Reg.ITK_JQ_BASE n) 47 6 + 64 * (head % b.depth)
      let s1 : State := { s with jobLast := n, free := s.free + 2 }
      let fresh : Job := ⟨none, s.tbS, s.tbNs, [], [], false, false, 0, 0, none, Config.choice (s.free + 1), none,
        ⟨0, 0, 0, false, false, 0, []⟩, s.free⟩
      (∀ l u, s1.vread .intake b.ctx at' 64 = (.ok l, u) →
        (u.memHeld = false → exec (.jobStart n) s = .next (u.setJobq n { u.jobq n with job := some { fresh with desc := some l } })) ∧
        (u.memHeld = true → exec (.jobStart n) s = .next s)) ∧
      (∀ u, s1.vread .intake b.ctx at' 64 = (.ecc, u) → u.memHeld = false →
        exec (.jobStart n) s = .next (u.setJobq n { u.jobq n with job := some { fresh with ended := true, status := 0x0010 } }))) ∧
    (∀ j, x.job = some j → b.rt = true → j.descOf.src = 2 → j.checked = true → j.ended = false → j.overran = none →
      j.out.rows < j.descOf.outRows j.source.w j.source.h →
      let limit := max 2 (s.fld Reg.ITK_DEC_CTRL 3 0) * s.fld Reg.ITK_DEC_CTRL 31 16
      (limit < j.time → Ends (.decodeOverrun n) s (fun t => ∃ k,
        t = ({ s with free := s.free + 1 } : State).setJobq n { x with job := some { j with overran := some k } })) ∧
      (j.time ≤ limit → exec (.decodeOverrun n) s = .next s)) ∧
    (∀ j c r, x.job = some j → s.bindRing b = some (c, r) → j.fault = none → j.ended = true → j.checked = false → j.out.opened = false →
      b.fslots ≤ j.out.total → s.islandOn b.island = true → s.memHeld = false → j.descOf.syncEn = false → Ends (.jobComplete n) s (fun t => t.jobq n = ⟨(x.seq + 1) % 65536, none⟩ ∧
        t.fld (Reg.ITK_JQ_PTR n) 31 16 = (head + 1) % 65536 ∧ (∀ c, ButCache (s.core c) (t.core c)) ∧
        RecordAt b x.seq (SampleRec.render ⟨j.descOf.tag, if j.status ≠ 0 then j.status else if j.overran.isSome then 0x0304 else 0, j.flags,
          128 + n.val, j.startS, j.startNs, s.tbS, s.tbNs, shake256 j.out.bytes⟩ x.seq (j.out.slots == 0)) s t)) ∧
    (∀ j c r, x.job = some j → s.bindRing b = some (c, r) → j.fault = none → j.ended = false → j.checked = true → j.desc.isSome = true →
      j.descOf.src = 1 → j.out.opened = false → j.descOf.outRows j.source.w j.source.h ≤ j.out.rows → b.fslots ≤ j.out.total →
      s.islandOn b.island = true → s.memHeld = false → j.descOf.syncEn = false → j.status = 0 → j.overran = none → Ends (.jobComplete n) s (fun t => t.jobq n = ⟨(x.seq + 1) % 65536, none⟩ ∧
        t.fld (Reg.ITK_JQ_PTR n) 31 16 = (head + 1) % 65536 ∧ (∀ c, ButCache (s.core c) (t.core c)) ∧
        RecordAt b x.seq (SampleRec.render ⟨j.descOf.tag, 0, j.flags, 128 + n.val, j.startS, j.startNs, s.tbS, s.tbNs, shake256 j.out.bytes⟩
          x.seq (j.out.slots == 0)) s t)) ∧
    (∀ (fn : Fn) (v : Word), Reaches fn Reg.ITK_DEC_CTRL 32 (BitVec.ofNat 64 v.toNat) s → Ends (.avgReset fn v) s (fun t =>
      RegOnly Reg.ITK_DEC_CTRL s t ∧ t.fld Reg.ITK_DEC_CTRL 3 0 = v.toNat % 16 ∧
      t.fld Reg.ITK_DEC_CTRL 31 16 = if v.getLsbD 4 then 0x6B else s.fld Reg.ITK_DEC_CTRL 31 16))

/-! ## The scheduler -/

/-- Slices have been asked to stop and nothing else: registers, memory, ferries, and all of every core but its request to
stop and its engine queue stand. A slice leaves an engine queue only with a gang that runs, whose command takes it back. -/
def Sys2Proof.Claims.OnlyRequests (s t : State) : Prop :=
  t = { s with queues := t.queues, cores := t.cores } ∧
  (∀ c, { t.core c with preempt := false, queue := [] } = { s.core c with preempt := false, queue := [] } ∧
    ((s.core c).preempt = true → (t.core c).preempt = true) ∧ (∀ x ∈ (t.core c).queue, x ∈ (s.core c).queue) ∧
    ∀ x ∈ (s.core c).queue, x ∉ (t.core c).queue → ∃ d sl, (s.core d).slice = some sl ∧ sl.gang = true ∧ sl.q = x.q) ∧
  ∀ p, (∀ d, ∀ x ∈ (s.core d).queue, x.q ≠ p) → t.cmd p = s.cmd p

/-- A fetched command is what its record says (Table 12.4). -/
def Sys2Proof.Claims.AsRecord (s : State) (q : Nat) (r : List Byte) (m : Cmd) : Prop :=
  m.idx = s.qDone q ∧ m.kind = bitsOf (recNat r 0 1) 3 0 ∧ m.flags = recNat r 1 1 ∧ m.nslice = recNat r 2 2 ∧ m.tag = recNat r 4 4 ∧
  m.argp = recNat r 8 6 ∧ m.entry = recNat r 14 2 ∧ m.ctx = s.qCtx q ∧ m.part = s.ctxPart (s.qCtx q) ∧
  m.prio = s.fld (Reg.SCH_QCFG q) 14 12 ∧ m.rt = s.flag (Reg.SCH_QCFG q) 11 ∧ m.pwr = s.flag (Reg.SCH_QCFG q) 9 ∧
  (∀ o th, (o, th) ∈ m.waits ↔ ∃ i < 4, bitOf (recNat r (16 + 8 * i) 8) 63 = true ∧ o = bitsOf (recNat r (16 + 8 * i) 8) 61 48 ∧
    th = bitsOf (recNat r (16 + 8 * i) 8) 47 0) ∧
  (∀ o mx inc, (o, mx, inc) ∈ m.sigs ↔ ∃ i < 4, bitOf (recNat r (48 + 4 * i) 4) 15 = true ∧ o = bitsOf (recNat r (48 + 4 * i) 4) 13 0 ∧
    mx = bitOf (recNat r (48 + 4 * i) 4) 14 ∧ inc = bitsOf (recNat r (48 + 4 * i) 4) 31 16)

/-- A queue that may be fetched from reads its next record: one outside the partition or uncorrectable stops the queue; a record of
another kind is another row's; the first failing check ends the command with its status; one that a cancellation covers ends with
that status; any other waits; while its memory is not to be read yet nothing happens (R329, R347, R353, R372, R376, R584). A
command whose waits are satisfied: with ERRSKIP and an error in a waited object it ends with that error; a NOP ends; SLICES and
GANG become ready with their slices, numbered, on the cores that R371 gives; a misaligned argument table is an invalid command;
while a wait is open nothing happens (R246, R315, R354, R356, R371, R380). No slice of the command waits on a core yet. -/
def Obligations.CommandsAreFetchedAndBecomeReady : Prop :=
  (∀ (q : QueueId) (s : State),
    let a := 1024 * s.fld (Reg.SCH_QRING q) 43 10 + 64 * (s.qDone q % s.qDepth q)
    let part := s.ctxPart (s.qCtx q)
    let reads := fun (k : Nat) (i : Instr) =>
      (s.canFetch q = false ∨ s.partCheck part a 64 = 0 ∧ s.memOn a = true ∧ s.memBusy a 64 = true → exec i s = .next s) ∧
      (s.canFetch q = true → s.partCheck part a 64 ≠ 0 → exec i s = .next (s.queueDisable q 0)) ∧
      (s.canFetch q = true → s.partCheck part a 64 = 0 → ∀ u, s.readPhys 0 a 64 = (none, u) → exec i s = .next (u.queueDisable q 1)) ∧
      (s.canFetch q = true → s.partCheck part a 64 = 0 → ∀ r u, s.readPhys 0 a 64 = (some r, u) → u.memHeld = false →
        let b0 := recNat r 0 1
        let flags := recNat r 1 1
        let n := recNat r 2 2
        let wait := fun j => recNat r (16 + 8 * j) 8
        let sig := fun j => recNat r (48 + 4 * j) 4
        let invalid := 6 ≤ b0 ∨ 32 ≤ flags ∨ (∃ j < 4, bitOf (wait j) 62 = true) ∨
          ((k = 1 ∨ k = 2 ∨ k = 4) ∧ n = 0) ∨ (k = 2 ∧ 64 < n) ∨ ((k = 0 ∨ k = 3 ∨ k = 5) ∧ n ≠ 0) ∨ ((k = 0 ∨ k = 3) ∧ recNat r 14 2 ≠ 0) ∨
          (k = 0 ∧ recNat r 8 6 ≠ 0) ∨
          (∃ j < 4, bitOf (sig j) 15 = true ∧ (bitOf (sig j) 14 = true ↔ bitsOf (sig j) 31 16 ≠ 0)) ∨ (k = 0 ∧ bitOf flags 4 = true) ∨
          (u.flag (Reg.SCH_QCFG q) 9 = true ∧ 3 ≤ k)
        let denied := (∃ j < 4, bitOf (wait j) 63 = true ∧ u.granted (bitsOf (wait j) 61 48) part = false) ∨
          (∃ j < 4, bitOf (sig j) 15 = true ∧ u.granted (bitsOf (sig j) 13 0) part = false)
        let large := k = 2 ∧ u.flag (Reg.SCH_QCFG q) 9 = false ∧ (u.coresUsable part).length < n
        let ends := fun (st : Nat) (t : State) => ∃ m, t = u.setCmd q m ∧ m.phase = .ended ∧ m.status = st ∧ m.todo = [] ∧ AsRecord u q r m
        (b0 < 6 → b0 ≠ k → exec i s = .next s) ∧
        (b0 = k ∨ 6 ≤ b0 → invalid → Ends i s (ends 0x0001)) ∧
        (b0 = k → ¬ invalid → denied → Ends i s (ends 0x0202)) ∧
        (b0 = k → ¬ invalid → ¬ denied → large → Ends i s (ends 0x0001)) ∧
        (b0 = k → ¬ invalid → ¬ denied → ¬ large → ∀ st, u.flushFor q (u.qDone q) = some st → Ends i s (ends st)) ∧
        (b0 = k → ¬ invalid → ¬ denied → ¬ large → u.flushFor q (u.qDone q) = none → Ends i s (fun t => ∃ m, t = u.setCmd q m ∧
          m.phase = .waiting ∧ m.status = 0 ∧ m.begun = false ∧ m.todo = [] ∧ AsRecord u q r m)))
    s.memHeld = false → reads 0 (.cmdNop q) ∧ reads 1 (.cmdSlices q) ∧ reads 2 (.cmdGang q) ∧ reads 3 (.cmdChain q) ∧ reads 4 (.cmdConv q) ∧ reads 5 (.cmdRagged q)) ∧
  (∀ (q : QueueId) (m : Cmd) (s : State), s.cmd q = some m → s.memHeld = false →
    let open' := ∃ w ∈ m.waits, (s.reg (Reg.SYN_CNT w.1)).toNat < w.2
    let err := fun (e : Nat) => ∃ l w l', m.waits = l ++ w :: l' ∧ s.fld (Reg.SYN_CTL w.1) 31 16 = e ∧ e ≠ 0 ∧
      ∀ x ∈ l, s.fld (Reg.SYN_CTL x.1) 31 16 = 0
    let clean := bitOf m.flags 2 = false ∨ ∀ w ∈ m.waits, s.fld (Reg.SYN_CTL w.1) 31 16 = 0
    let stale := s.flag (Reg.SCH_QCFG q) 47 = true ∧ s.fld (Reg.SCH_QCFG q) 63 48 ≠ s.fld (Reg.SCH_PART_W2 m.part) 15 0
    let ends := fun st => exec (.commandWaitsSatisfied q) s = .next (s.setCmd q { m with phase := .ended, status := st, todo := [] })
    (m.phase ≠ .waiting ∨ s.schPaused = true ∨ open' → exec (.commandWaitsSatisfied q) s = .next s) ∧
    (m.phase = .waiting → s.schPaused = false → ¬ open' →
      (∀ e, bitOf m.flags 2 = true → err e →
        exec (.commandWaitsSatisfied q) s = .next (s.setCmd q { m with phase := .ended, status := e, todo := [], prop := true })) ∧
      (clean → m.kind = 0 → (stale → ends 0x0203) ∧ (¬ stale → ends 0)) ∧
      (clean → m.kind = 3 ∨ m.kind = 5 → m.argp % 16 ≠ 0 → ends 0x0001) ∧
      (clean → m.kind = 1 ∨ m.kind = 2 → m.pwr = false → m.cores ≠ [] → (∀ c, ∀ x ∈ (s.core c).queue, x.q ≠ q.val) → Ends (.commandWaitsSatisfied q) s (fun t =>
        ∃ l, OnlyRequests { s.setCmd q { m with phase := .ready, since := s.upNs, todo := l, stages := [], conv := [] } with seq := s.seq + m.nslice } t ∧
          t.cmd q = some { m with phase := .ready, since := s.upNs, todo := l, stages := [], conv := [] } ∧ l.length = m.nslice ∧
          ∀ j x, l[j]? = some x → x.q = q.val ∧ x.idx = j ∧ x.argp = m.argp ∧ x.entry = 128 * m.entry ∧ x.ctx = m.ctx ∧ x.prio = m.prio ∧
            (x.gang = true ↔ m.kind = 2) ∧ x.seq = s.seq + j ∧
            x.place = if m.kind = 1 ∧ bitOf m.cfg.toNat 57 = false then m.cores[j % m.cores.length]? else none))))

/-- The slice `sl` stands in the queue of core `c` after every slice at least as urgent ahead of the first less urgent one;
what else the cores hold stands. -/
def Sys2Proof.Claims.QueuedOn (c : Nat) (sl : Slice) (s t : State) : Prop :=
  ∃ l1 l2, (s.core c).queue = l1 ++ l2 ∧ t.core c = { s.core c with queue := l1 ++ sl :: l2 } ∧
    (∀ x ∈ l1, x.prio ≤ sl.prio) ∧ (∀ x, l2.head? = some x → sl.prio < x.prio) ∧ ∀ d, d ≠ c → t.core d = s.core d

/-- SLICE_DISPATCH adds the most urgent ready slice that no waiting gang keeps off the core to its queue, a returned one first, and
the context's deficit is positive while it has slices left; a stale command ends; then slices are asked to stop. GANG_DISPATCH
takes as many free cores at once as the gang has slices. LB_STEAL moves the lowest, oldest movable slice to an idle core; a
convolution slice that has staged all its stripes takes over one of another slice's (R282, R367 to R372, R380). SLICE_START starts
the slice at the head of an idle core's queue with every register as R86 gives it, the rings and handles of its resident context
or none, the lagoon scrubbed for another partition; CONTEXT_SAVE stores the slice and leaves the core idle; CONTEXT_RESTORE gives
back registers, tags and every live berth (R86, R107, R109, R212, R213, R215, R370). -/
def Obligations.SlicesAreDispatchedAndSwitched : Prop :=
  ((∀ (c : CoreId) (k : Nat) (s : State), s.partOfIsland (c / 8) = some k → (s.core c).queue.length < 4 → s.schPaused = false →
    (s.readyLevels k c = [] → Ends (.sliceDispatch c) s (OnlyRequests s)) ∧
    (∀ p, leastOf (s.readyLevels k c) = some p → (∃ sl ∈ s.returned k, sl.prio = p ∧ s.fits sl c = true) →
      Ends (.sliceDispatch c) s (fun t => ∃ sl ∈ s.returned k, ∃ u, sl.prio = p ∧ s.fits sl c = true ∧ QueuedOn c sl s u ∧
        u = { s with cores := u.cores, drr := u.drr } ∧ OnlyRequests u t)) ∧
    (∀ q m sl, s.returned k = [] → s.readyCmds k = [(q, m)] → s.slotFor m c = some sl → s.mayStart k c m.prio = true →
      s.openTo c m.prio = true → m.ctx < 256 → m.prio < 8 → tabFind s.queues q = some m → sl.q = q →
      (m.begun = false → s.stale q m = true → Ends (.sliceDispatch c) s (fun t => t = { s with queues := t.queues, drr := t.drr, drrCur := t.drrCur } ∧
        t.cmd q = some { m with phase := .ended, status := 0x0203, todo := [] })) ∧
      (m.begun = true ∨ s.stale q m = false → Ends (.sliceDispatch c) s (fun t => ∃ u, QueuedOn c sl s u ∧ OnlyRequests u t ∧
        u = { s with queues := u.queues, cores := u.cores, drr := u.drr, drrCur := u.drrCur, regs := u.regs } ∧
        u.cmd q = some { m with
          begun := true, phase := .running, todo := m.todo.filter (fun x => x.seq != sl.seq), live := m.live + 1,
          homes := tabPut m.homes sl.idx c } ∧
        (m.todo.filter (fun x => x.seq != sl.seq) ≠ [] → 0 < tabGet 0 u.drr (drrKey m.ctx m.prio)) ∧
        (m.begun = false → u.reg (Reg.SCH_CTX_LEGACY m.ctx 0) = s.reg (Reg.SCH_CTX_LEGACY m.ctx 0) + BitVec.ofNat 64 (s.upNs - m.since)) ∧
        ∀ o, m.begun = true ∨ o ≠ Reg.SCH_CTX_LEGACY m.ctx 0 → u.reg o = s.reg o)))) ∧
  (∀ (c : CoreId) (s : State), s.partOfIsland (c / 8) = none ∨ 4 ≤ (s.core c).queue.length ∨ s.schPaused = true →
    exec (.sliceDispatch c) s = .next s) ∧
  (∀ (q : QueueId) (m : Cmd) (s : State), s.cmd q = some m →
    let sls : List Slice := s.gangSlices q m
    let kept : Nat → Bool := fun c => match s.keptFor c with
      | some g => g.1 == q.val || decide (m.prio < g.2)
      | none => true
    let us : List Nat := (s.coresUsable m.part).filter (fun c => (m.todo.isEmpty || s.mayStart m.part c m.prio) && kept c)
    let free : List Nat := us.filter (fun c => s.gangFree c m.prio)
    let takes : List Nat := ascending (free.take sls.length)
    (m.phase = .ready ∨ m.phase = .running) → s.schPaused = false → s.refHeld q m = false → sls ≠ [] →
      (m.begun = false → s.stale q m = true → exec (.gangDispatch q) s = .next (s.setCmd q { m with phase := .ended, status := 0x0203, todo := [] })) ∧
      (m.begun = true ∨ s.stale q m = false → m.pwr = false →
        (sls.length ≤ free.length → (∀ sl ∈ sls, sl.q = q) → Ends (.gangDispatch q) s (fun t =>
          (∀ (j : Nat) (sl : Slice), sls[j]? = some sl → ∃ c, takes[j]? = some c ∧ t.core c = { s.core c with queue := [sl] }) ∧
          (∀ c, c ∉ takes → t.core c = s.core c) ∧ t.mem = s.mem ∧ t.ferries = s.ferries ∧ t.gangRes = s.gangRes.filter (fun p => p.2 != q.val))) ∧
        (free.length < sls.length → (∀ c ∈ us, ∀ x, (s.core c).slice = some x → x.prio ≤ m.prio) → exec (.gangDispatch q) s = .next s))) ∧
  (∀ (c : CoreId) (k : Nat) (s : State), s.partOfIsland (c / 8) = some k → s.usable c = true → s.schPaused = false →
    (∀ d sl, (s.core c).isIdle = true → (d, sl) ∈ s.movable k c →
      (∀ p ∈ s.movable k c, p = (d, sl) ∨ sl.prio < p.2.prio ∨ (sl.prio = p.2.prio ∧ sl.seq < p.2.seq)) → Ends (.lbSteal c) s (fun t =>
        t = { s with cores := t.cores } ∧ t.core c = { s.core c with queue := [sl] } ∧ d ≠ c ∧
        (∃ b, t.core d = { s.core d with queue := (s.core d).queue.filter (fun x => x.seq != sl.seq), preempt := b }) ∧
        ∀ e, e ≠ c.val → e ≠ d → t.core e = s.core e)) ∧
    (∀ sl m f r, (s.core c).isIdle = false → (s.core c).slice = some sl → s.cmd sl.q = some m → s.convStaging c sl.q = some (f, r) →
      let gives := fun d g x => d ≠ c.val ∧ s.convStaging d sl.q = some (g, x) ∧ x.bufs.length < x.stripes.length
      (m.lb = false ∨ r.next < r.stripes.length ∨ (∀ d ∈ s.coresUsable k, ∀ g x, ¬ gives d g x) → exec (.lbSteal c) s = .next s) ∧
      (m.lb = true → r.stripes.length ≤ r.next → ∀ d g x, d ∈ s.coresUsable k → gives d g x →
        (∀ e ∈ s.coresUsable k, ∀ h y, gives e h y → d ≤ e) → Ends (.lbSteal c) s (fun t => t = { s with ferries := t.ferries } ∧
          let runs := fun (h : Nat) (l : List Nat) => ∃ st run, (t.ferry h).stream = some st ∧ st.conv = some run ∧ run.stripes = l
          (d < 64 → runs g x.stripes.dropLast ∧ runs (2 * d) x.stripes.dropLast) ∧
          runs f (r.stripes ++ x.stripes.getLast?.toList) ∧ runs (2 * c) (r.stripes ++ x.stripes.getLast?.toList) ∧
          ∀ h, h ≠ g → h ≠ 2 * d → h ≠ f → h ≠ 2 * c.val → t.ferry h = s.ferry h))))) ∧
  (∀ (c : CoreId) (s : State),
    let k := s.core c
    (∀ sl l, k.queue = sl :: l →
      let ready := k.mode = .idle ∧ k.slice = none ∧ s.islandOn (c / 8) = true ∧ s.unmarked c = true ∧ s.openTo c sl.prio = true ∧
        (s.savedSlice sl = none → s.mayStart sl.part c sl.prio = true) ∧ s.restarting 3 (c / 8) = false ∧ s.cancelling c = false
      let starts := fun (q : CoreRegs) (x : Core) => x = {
          k with
          regs := x.regs, mode := .running, slice := some sl, queue := k.queue.filter (fun y => y.seq != sl.seq),
          lastPart := some sl.part, lastCtx := sl.ctx, lastPrio := sl.prio, started := s.upNs, restArr := s.seq, preempt := false,
          resident := some sl.ctx, lgn := x.lgn, tags := x.tags, blive := x.blive, parity := x.parity, lgnUe := x.lgnUe, lgnCe := x.lgnCe,
          accUe := x.accUe, accCe := x.accCe, icUe := x.icUe, icCe := x.icCe } ∧
        x.regs = { q with acc := x.regs.acc, pc := sl.entry }
      (¬ ready → exec (.sliceStart c) s = .next s) ∧
      (ready → (∀ m, s.cmd sl.q = some m → m.kind ≠ 4) →
        (s.savedSlice sl = none → k.resident = some sl.ctx → k.lastPart = some sl.part → Ends (.sliceStart c) s (fun t =>
          starts { CoreRegs.init with rings := k.regs.rings, fh := k.regs.fh, fran := k.regs.fran } (t.core c) ∧
          (t.core c).lgn = k.lgn ∧ (t.core c).tags = k.tags ∧ (t.core c).blive = k.blive ∧ t.mem = s.mem ∧ t.regs = s.regs ∧
          t.cmd sl.q = (s.cmd sl.q).map (fun m => { m with ranOn := setIns m.ranOn c, homes := tabPut m.homes sl.idx c }) ∧
          ∀ d, d ≠ c.val → t.core d = s.core d)) ∧
        (s.savedSlice sl = none → s.savedFrom sl.ctx c = none → k.resident = none → (∀ p, k.lastPart = some p → p = sl.part) →
          Ends (.sliceStart c) s (fun t => starts CoreRegs.init (t.core c) ∧ (t.core c).lgn = k.lgn ∧ (t.core c).tags = 0 ∧
            (t.core c).blive = 0 ∧ t.mem = s.mem ∧ t.regs = s.regs ∧ ∀ d, d ≠ c.val → t.core d = s.core d)) ∧
        (s.savedSlice sl = none → s.savedFrom sl.ctx c = none → k.resident = none → ∀ p, k.lastPart = some p → p ≠ sl.part →
          Ends (.sliceStart c) s (fun t => starts CoreRegs.init (t.core c) ∧ (∀ a, (t.core c).lgn.read a = 0) ∧ (t.core c).tags = 0 ∧
            t.fld (Reg.LGN_SCRUB (c / 8) (c % 8)) 31 16 = (s.fld (Reg.LGN_SCRUB (c / 8) (c % 8)) 31 16 + 1) % 65536 ∧ t.mem = s.mem ∧
            (t.core c).icUe = [] ∧ ∀ d, d ≠ c.val → t.core d = s.core d)) ∧
        (∀ v, s.savedSlice sl = some v → k.resident = none → k.lastPart = some sl.part → Ends (.sliceStart c) s (fun t =>
          (t.core c).mode = .restoring ∧ (t.core c).slice = some sl ∧ (t.core c).lgn = k.lgn ∧ t.saved = s.saved ∧ t.mem = s.mem)))) ∧
    (k.queue = [] → exec (.sliceStart c) s = .next s) ∧
    (∀ sl, k.slice = some sl → sl.gang = false →
      (s.canSave c = false → exec (.contextSave c) s = .next s) ∧
      (s.canSave c = true → ∀ b l, k.parity = b :: l → exec (.contextSave c) s = .next ((s.parityHit c b).endBy sl.q 0x0204 2 sl.idx)) ∧
      (s.canSave c = true → k.parity = [] → k.lgnUe = [] → k.lgnCe = [] → k.accUe = [] → k.accCe = [] → (∀ f ∈ s.coreFerries c, f < 128) →
        Ends (.contextSave c) s (fun t => (t.core c).slice = none ∧ (t.core c).mode = .idle ∧ (t.core c).resident = none ∧ (t.core c).tags = 0 ∧
          (∃ v ∈ t.saved, v.slice = some sl ∧ v.core = c ∧ v.lgn = k.lgn ∧ v.tags = k.tags ∧ v.regs.pc = k.regs.pc ∧ v.regs.s = k.regs.s ∧
            v.regs.t = k.regs.t ∧ v.regs.v = k.regs.v ∧ v.regs.p = k.regs.p ∧ v.regs.acc = k.regs.acc ∧ v.regs.rings = k.regs.rings) ∧
          (∀ f ∈ s.coreFerries c, (t.ferry f).stream = none ∧ (t.ferry f).bound = none ∧ (t.ferry f).held = [] ∧ (t.ferry f).acqd = []) ∧
          t.fld (Reg.SCH_CTX_LEGACY sl.ctx 1) 31 0 = (s.fld (Reg.SCH_CTX_LEGACY sl.ctx 1) 31 0 + 1) % 2 ^ 32 ∧
          ∀ d, d ≠ c.val → t.core d = s.core d))) ∧
    (k.slice = none → exec (.contextSave c) s = .next s) ∧
    (∀ sl v, k.mode = .restoring → k.slice = some sl → s.savedSlice sl = some v →
      (s.takeFerries c v = none → exec (.contextRestore c) s = .next s) ∧
      (∀ fs, s.takeFerries c v = some fs → s.ueSec = [] → v.regs.fly = [] → Ends (.contextRestore c) s (fun t =>
        let x := t.core c
        x.mode = .running ∧ x.slice = some sl ∧ x.resident = some v.ctx ∧ x.tags = v.tags ∧ x.blive = v.blive ∧
        x.regs = { v.regs with acc := x.regs.acc, rowsum := x.regs.rowsum, poscnt := x.regs.poscnt, fh := x.regs.fh, waitStart := x.regs.waitStart } ∧
        (∀ a, v.blive.getLsbD (a / 4096) = true → x.lgn.read a = v.lgn.read a) ∧
        (∀ a, v.regs.live.getLsbD (a / 8192) = true → x.regs.acc.read a = v.regs.acc.read a) ∧ (v.ferries = [] → v ∉ t.saved) ∧ t.mem = s.mem ∧ t.regs = s.regs ∧
        ∀ d, d ≠ c.val → t.core d = s.core d))) ∧
    (k.mode ≠ .restoring ∨ k.slice = none → exec (.contextRestore c) s = .next s))

/-- The reports of R531, which count as success beside OK (R355). -/
abbrev Sys2Proof.Claims.mild (st : Nat) : Bool := st == 0 || st == 0x0101 || st == 0x0102

/-- No write of the firmware log meets an uncorrectable sector or word, so that none raises an event of its own. -/
abbrev Sys2Proof.Claims.QuietLog (s : State) : Prop := s.flag Reg.FWM_LOG_BASE 0 = false ∨ (s.lpUe = [] ∧ s.hbrUe = [])

/-- Every core is as it was but for what a write of a harbour takes out of its instruction cache (R98). -/
abbrev Sys2Proof.Claims.SameCores (s t : State) : Prop := ∀ c, ButCache (s.core c) (t.core c)

/-- The flush of queue `q` reaches index `n` at least: a new one with CANCELLED, or the one in progress (R376). -/
def Sys2Proof.Claims.flushTo (s : State) (q n : Nat) : State :=
  let ahead := fun x => (x + 2 ^ 32 - s.qDone q) % 2 ^ 32
  match tabFind s.flush q with
  | none => { s with flush := tabPut s.flush q ⟨n, 0x0010, false⟩ }
  | some f => if ahead n ≤ ahead f.stop then s else { s with flush := tabPut s.flush q { f with stop := n } }

/-- COMMAND_COMPLETE ends a command once it has ended and every ferry has acknowledged: the step and the count of the context rise,
the signals apply with the status, the record is written at the queue's place, DONE rises, nothing else is stored; a record that
cannot be written stops the queue; one whose memory is not to be written yet waits. CANCEL ends the command that has been fetched,
or fetches and ends the next, a flush that reaches further going on (R251, R329, R347, R355, R357 to R359, R376). The signalled
objects meet no other signal in the cycle (R176 says what they do then). Ending a command with a status stops all its work: its
slices leave their cores, the queues and the saved state, its ferries are stopped and must acknowledge, its open faults close and
the requests held at them go; the first status stands, but of the causes of one shore cycle the lowest slice's; other commands'
slices go on. With no real-time work, no fault of this cycle and nothing saved or waiting for a ferry, every byte of memory
stands, every register but the accounts, and every other core (R251 to R253, R343, R357, R358, R378, R585). -/
def Obligations.CommandsEndOnceAndStopTheirWork : Prop :=
  ((∀ (q : QueueId) (s : State), s.cmd q = none → exec (.commandComplete q) s = .next s) ∧
  (∀ (q : QueueId) (m : Cmd) (s : State), s.cmd q = some m →
    let a := 1024 * s.fld (Reg.SCH_QCPL q) 43 10 + 32 * (m.idx % s.qDepth q)
    let step' := s.reg (Reg.SCH_CTX_STEP m.ctx) + 1
    let late := s.dlMarks m
    let st := if m.status ≠ 0 then m.status else if m.dl = true ∨ late ≠ [] then 0x0101 else if m.bcn then 0x0102 else 0
    (m.phase ≠ .ended ∨ m.acks ≠ [] ∨ s.schPaused = true ∨ s.cplWaits q = true ∨ (m.status ≠ 0x0601 ∧ s.memBusy a 32 = true) →
      exec (.commandComplete q) s = .next s) ∧
    (m.phase = .ended → m.acks = [] → s.schPaused = false → s.cplWaits q = false → m.ctx < 256 → (∀ x ∈ m.sigs, x.1 < 16384) → (m.sigs.map (·.1)).Nodup →
      (∀ x ∈ m.sigs, tabFind s.synEvt x.1 = none) →
      (m.status ≠ 0x0601 → bitOf m.flags 1 = false → s.memBusy a 32 = false → s.memOn a = true → s.cplBad m.part a = none → Ends (.commandComplete q) s (fun t =>
        t.cmd q = none ∧ t.fld (Reg.SCH_QPTR q) 63 32 = (s.qDone q + 1) % 2 ^ 32 ∧ t.fld (Reg.SCH_QPTR q) 31 0 = s.qTail q ∧
        t.reg (Reg.SCH_CTX_STEP m.ctx) = step' ∧
        t.fld (Reg.SCH_CTX_LEGACY m.ctx 1) 63 32 = (s.fld (Reg.SCH_CTX_LEGACY m.ctx 1) 63 32 + 1) % 2 ^ 32 ∧
        (∀ o mx inc, (o, mx, inc) ∈ m.sigs → let old := s.reg (Reg.SYN_CNT o)
          t.reg (Reg.SYN_CNT o) = (if mx then (if old.toNat < step'.toNat then step' else old) else old + BitVec.ofNat 64 inc) ∧
          t.fld (Reg.SYN_CTL o) 31 16 = (if mild st then s.fld (Reg.SYN_CTL o) 31 16
            else if s.fld (Reg.SYN_CTL o) 31 16 = 0 then st % 65536 else s.fld (Reg.SYN_CTL o) 31 16)) ∧
        (∀ o < 16384, o ∉ m.sigs.map (·.1) → t.reg (Reg.SYN_CNT o) = s.reg (Reg.SYN_CNT o) ∧ t.reg (Reg.SYN_CTL o) = s.reg (Reg.SYN_CTL o)) ∧
        (∃ rec : List Byte, rec.length = 32 ∧ recNat rec 0 2 = st % 65536 ∧ recNat rec 3 1 = m.ctx ∧ recNat rec 4 4 = m.tag % 2 ^ 32 ∧
          (m.begun = true → recNat rec 8 8 = m.endS % 2 ^ 64 ∧ recNat rec 16 4 = m.endNs % 2 ^ 32) ∧ recNat rec 20 4 = min 0xFFFFFFFF (m.engine / 16) ∧
          ∀ x, t.mem.read x = if s.memKey a ≤ x ∧ x < s.memKey a + 32 then rec.getD (x - s.memKey a) 0 else s.mem.read x) ∧
        SameCores s t ∧ t.ferries = s.ferries)) ∧
      (∀ why b, m.status ≠ 0x0601 → bitOf m.flags 1 = false → s.memBusy a 32 = false → s.cplBad m.part a = some (why, b) → Ends (.commandComplete q) s (fun t =>
        t.flag (Reg.SCH_QCFG q) 15 = false ∧ t.cmd q = none ∧ t.fld (Reg.SCH_QPTR q) 63 32 = s.qDone q ∧
        (∀ o mx inc, (o, mx, inc) ∈ m.sigs → s.fld (Reg.SYN_CTL o) 31 16 = 0 →
          t.fld (Reg.SYN_CTL o) 31 16 = if why = 0 then 0x0202 else 0x0204) ∧ SameCores s t)))) ∧
  ∀ (fn : Fn) (q : QueueId) (s : State),
    let fetch := fun (u : State) => u.orWait (u.fetchCmd q (fun _ => true))
    (Reaches fn Reg.SCH_CANCEL 32 (BitVec.ofNat 64 q.val) s →
      (s.qTail q = s.qDone q → exec (.cancelOldest fn q) s = .next s) ∧
      (∀ m, s.qTail q ≠ s.qDone q → s.cmd q = some m → exec (.cancelOldest fn q) s = .next (s.endCommand q 0x0010 1)) ∧
      (s.qTail q ≠ s.qDone q → s.cmd q = none → exec (.cancelOldest fn q) s = .next (fetch (flushTo s q ((s.qDone q + 1) % 2 ^ 32))))) ∧
    (Reaches fn Reg.SCH_CANCEL 32 (BitVec.ofNat 64 (q.val + 2 ^ 15)) s →
      (s.qTail q = s.qDone q → exec (.cancelAll fn q) s = .next s) ∧
      (∀ m, s.qTail q ≠ s.qDone q → s.cmd q = some m → exec (.cancelAll fn q) s = .next
        { s.endCommand q 0x0010 1 with flush := (flushTo s q (s.qTail q)).flush }) ∧
      (s.qTail q ≠ s.qDone q → s.cmd q = none → exec (.cancelAll fn q) s = .next (fetch (flushTo s q (s.qTail q)))))) ∧
  (∀ (q status cause key : Nat) (m : Cmd) (s : State), tabRising s.cores = true → tabRising s.ferries = true → s.cmd q = some m →
    (m.phase = .ended → m.status ≠ 0 → s.endBy q status cause key =
      if m.endCyc = s.cyc ∧ key < m.endKey then s.setCmd q { m with status := status, endKey := key } else s) ∧
    (m.phase ≠ .ended ∨ m.status = 0 →
      let t := s.endBy q status cause key
      (∃ m', t.cmd q = some m' ∧ m'.phase = .ended ∧ m'.status = (if m.status = 0 then status else m.status) ∧ m'.todo = [] ∧ m'.live = 0 ∧
        m'.sigs = m.sigs ∧ m'.endCyc = s.cyc ∧ m'.endKey = key ∧ (∀ f, f ∈ m'.acks ↔ ∃ st, (s.ferry f).stream = some st ∧ st.q = q) ∧
        (∀ c sl, (s.core c).slice = some sl → sl.q = q → m'.endS = s.tbS ∧ m'.endNs = s.tbNs)) ∧
      (∀ c sl, (s.core c).slice = some sl → (sl.q = q → (t.core c).slice = none ∧ (t.core c).mode = .idle ∧ (t.core c).regs.fly = [] ∧
          (t.core c).regs.live = 0 ∧ (t.core c).resident = (s.core c).resident ∧ (t.core c).lgn = (s.core c).lgn) ∧
        (sl.q ≠ q → (t.core c).slice = some sl ∧ (t.core c).mode = (s.core c).mode ∧ (t.core c).lgn = (s.core c).lgn ∧
          (t.core c).regs.pc = (s.core c).regs.pc ∧ (t.core c).regs.s = (s.core c).regs.s ∧ (t.core c).regs.t = (s.core c).regs.t ∧
          (t.core c).regs.p = (s.core c).regs.p ∧ (t.core c).regs.v = (s.core c).regs.v ∧ (t.core c).regs.acc = (s.core c).regs.acc)) ∧
      (∀ c, (t.core c).queue = (s.core c).queue.filter (fun x => x.q != q)) ∧
      (∀ v ∈ t.saved, ∀ sl, v.slice = some sl → sl.q ≠ q) ∧ (∀ f ∈ t.faults, f.q ≠ q) ∧ (∀ r ∈ t.kv, r.q = q → r.fault = none) ∧
      (∀ p, p ≠ q → t.cmd p = s.cmd p) ∧
      ((∀ c sl, (s.core c).slice = some sl → sl.q = q → sl.rt = false) → m.rt = false → (∀ h ∈ s.faults, h.q = q → h.cyc ≠ s.cyc) →
        (∀ v ∈ s.saved, ∀ sl, v.slice = some sl → sl.q ≠ q) → (∀ f, s.bindWaiters f = []) → s.restartHold = [] → t.mem = s.mem ∧
        (∀ c sl, (s.core c).slice = some sl → sl.q ≠ q → t.core c = { s.core c with queue := (t.core c).queue }) ∧
        ∀ o, (∀ c sl, (s.core c).slice = some sl → sl.q = q → o ≠ Reg.SCH_CTX_ACCT sl.ctx 0 ∧ o ≠ Reg.SCH_CTX_ACCT sl.ctx 1 ∧
          o ≠ Reg.SCH_CTX_ACCT sl.ctx 6) → t.reg o = s.reg o)))

/-! ## The scheduler's registers -/

/-- Of the register at `off`, the bits of the mask are those of `v` and the others stand; no other register changes. -/
def Sys2Proof.Claims.Takes (off mask : Nat) (v : DWord) (s t : State) : Prop :=
  (∀ i < 64, (t.reg off).getLsbD i = if mask.testBit i then v.getLsbD i else (s.reg off).getLsbD i) ∧ ∀ o, o ≠ off → t.reg o = s.reg o

/-- Queue, partition and context registers: an enabled one takes only the bits that may change, one that may not be enabled
stays disabled, with its code for a partition; enabling a context clears its accounts; counters, errors, seeds and steps are
written as R360, R361 and R364 state (R350, R360 to R365). -/
def Obligations.SchedulerRegistersTakeTheirWrites : Prop :=
  ∀ (fn : Fn) (s : State),
    (∀ (q : QueueId) (v : DWord), Reaches fn (Reg.SCH_QCFG q) 64 v s →
      let n := bitsOf v.toNat 39 32
      let k := s.ctxPart n
      let ok := s.flag (Reg.SCH_CTX_CFG n) 63 && s.partEn k && s.qIn k q && s.ctxIn k n
      (s.flag (Reg.SCH_QCFG q) 15 = true → Ends (.queueConfigWrite fn q v) s (fun t => Takes (Reg.SCH_QCFG q) 0xFFFF000000008000 v s t ∧
        t = { s with regs := t.regs })) ∧
      (s.flag (Reg.SCH_QCFG q) 15 = false → Ends (.queueConfigWrite fn q v) s (fun t => t = { s with regs := t.regs } ∧
        Takes (Reg.SCH_QCFG q) 0xFFFF80FF0000FE00 (if ok then v else BitVec.ofNat 64 (bitsPut v.toNat 15 15 0)) s t))) ∧
    (∀ (i : SyncId) (v : DWord), Reaches fn (Reg.SYN_CNT i) 64 v s → Ends (.syncCountWrite fn i v) s (fun t =>
      let x := s.synNow i
      let sum := v + x.add
      t.reg (Reg.SYN_CNT i) = (if sum.toNat < x.top.toNat then x.top else sum) ∧
      (tabFind s.synEvt i = none → t.reg (Reg.SYN_CNT i) = v) ∧
      (∀ j : SyncId, j ≠ i → t.reg (Reg.SYN_CNT j) = s.reg (Reg.SYN_CNT j)) ∧
      (s.dlEntries = [] → t = { s.setReg (Reg.SYN_CNT i) (t.reg (Reg.SYN_CNT i)) with synEvt := tabPut s.synEvt i { x with base := v } }) ∧
      t.mem = s.mem ∧ t.cores = s.cores ∧ t.queues = s.queues ∧ t.ferries = s.ferries)) ∧
    (∀ (i : SyncId) (g : Byte), Reaches fn (Reg.SYN_CTL i) 64 (BitVec.ofNat 64 (g.toNat + 2 ^ 15)) s → Ends (.syncErrClear fn i g) s (fun t =>
      let e := (s.synNow i).err.getD (0, 0)
      RegOnly (Reg.SYN_CTL i) s t ∧ t.fld (Reg.SYN_CTL i) 31 16 = e.1 % 2 ^ 16 ∧ t.fld (Reg.SYN_CTL i) 63 32 = e.2 % 2 ^ 32 ∧
      t.fld (Reg.SYN_CTL i) 7 0 = match fn with | .vf _ => s.fld (Reg.SYN_CTL i) 7 0 | _ => g.toNat)) ∧
    (∀ (k : PartId) (v : DWord), s.partEn k = false →
      (Reaches fn (Reg.SCH_PART_W1 k) 64 v s → Ends (.partitionWrite fn k 1 v) s (fun t => t = { s with regs := t.regs } ∧
        Takes (Reg.SCH_PART_W1 k) 0x0001FFFF7FFF7FFF v s t)) ∧
      (Reaches fn (Reg.SCH_PART_W0 k) 64 v s →
        let x := v.toNat
        let hi := fun p => s.partEn p = true ∧ p ≠ k.val ∧ p < 8
        let f := fun r p h l => s.fld (if r = 0 then Reg.SCH_PART_W0 p else Reg.SCH_PART_W1 p) h l
        let meets := fun (a n b m : Nat) => 0 < n ∧ 0 < m ∧ a < b + m ∧ b < a + n
        let shared := ∃ p, hi p ∧ ∃ i < 8, x.testBit i = true ∧ (f 0 p 7 0).testBit i = true
        let gran := s.fld Reg.MEM_CFG 25 16 < bitsOf x 25 16 + bitsOf x 35 26 ∨
          ∃ p, hi p ∧ meets (bitsOf x 25 16) (bitsOf x 35 26) (f 0 p 25 16) (f 0 p 35 26)
        let que := 16384 < f 1 k 14 0 + f 1 k 30 16 ∨ ∃ p, hi p ∧ meets (f 1 k 14 0) (f 1 k 30 16) (f 1 p 14 0) (f 1 p 30 16)
        let ctx := 256 < f 1 k 39 32 + f 1 k 48 40 ∨ ∃ p, hi p ∧ meets (f 1 k 39 32) (f 1 k 48 40) (f 1 p 39 32) (f 1 p 48 40)
        let none' := bitsOf x 35 26 = 0 ∨ f 1 k 30 16 = 0 ∨ f 1 k 48 40 = 0
        let errs := fun (e : Nat) => Ends (.partitionWrite fn k 0 v) s (fun t => t.fld (Reg.SCH_PART_W2 k) 23 16 = e ∧
          t.fld (Reg.SCH_PART_W0 k) 35 0 = bitsOf x 35 0 ∧ (t.flag (Reg.SCH_PART_W0 k) 63 = true ↔ e = 0) ∧ t.cores = s.cores)
        (bitOf x 63 = false → Ends (.partitionWrite fn k 0 v) s (fun t => t = { s with regs := t.regs } ∧
          Takes (Reg.SCH_PART_W0 k) 0x8000000FFFFFFFFF v s t)) ∧
        (bitOf x 63 = true → (shared → errs 1) ∧ (¬ shared → gran → errs 2) ∧ (¬ shared → ¬ gran → que → errs 3) ∧
          (¬ shared → ¬ gran → ¬ que → ctx → errs 4) ∧ (¬ shared → ¬ gran → ¬ que → ¬ ctx → none' → errs 5) ∧
          (¬ shared → ¬ gran → ¬ que → ¬ ctx → ¬ none' → errs 0)))) ∧
    (∀ (k : PartId) (v : DWord), s.partEn k = true →
      (Reaches fn (Reg.SCH_PART_W1 k) 64 v s → exec (.partitionWrite fn k 1 v) s = .next s) ∧
      (Reaches fn (Reg.SCH_PART_W0 k) 64 v s → exec (.partitionWrite fn k 0 v) s =
        .next (if bitOf v.toNat 63 = false ∧ (∀ q ∈ s.enabledQueues, s.qIn k q = false) then s.setFlag (Reg.SCH_PART_W0 k) 63 false else s))) ∧
    (∀ (n : CtxId) (v : DWord), Reaches fn (Reg.SCH_CTX_CFG n) 64 v s →
      let busy := s.ctxBusy n = true ∨ ∃ q ∈ s.enabledQueues, s.qCtx q = n
      let k := bitsOf v.toNat 62 60
      let base := 2 ^ 20 * bitsOf v.toNat 43 20
      let size := 2 ^ 23 * (List.range 8).countP (fun i => s.partHas k i)
      let ok := s.partEn k = true ∧ s.ctxIn k n = true ∧ s.fld (Reg.MEM_AS n) 58 56 = k ∧ s.inCarve k base size = true
      (s.flag (Reg.SCH_CTX_CFG n) 63 = true → bitOf v.toNat 63 = true ∨ busy → Ends (.contextConfigWrite fn n v) s (fun t =>
        t = { s with regs := t.regs } ∧ Takes (Reg.SCH_CTX_CFG n) 0x0FFF000000000000 v s t)) ∧
      (s.flag (Reg.SCH_CTX_CFG n) 63 = true → bitOf v.toNat 63 = false → ¬ busy → Ends (.contextConfigWrite fn n v) s (fun t =>
        t.flag (Reg.SCH_CTX_CFG n) 63 = false ∧ ∀ w ∈ t.saved, w.ctx ≠ n.val)) ∧
      (s.flag (Reg.SCH_CTX_CFG n) 63 = false → bitOf v.toNat 63 = true → ok → Ends (.contextConfigWrite fn n v) s (fun t =>
        (∀ i < 64, (t.reg (Reg.SCH_CTX_CFG n)).getLsbD i =
          if (0xFFFF0FFFFFF00000 : Nat).testBit i then v.getLsbD i else (s.reg (Reg.SCH_CTX_CFG n)).getLsbD i) ∧ t.reg (Reg.SCH_CTX_NDCOUNT n) = 0 ∧ t.fld (Reg.SCH_CTX_PERF n) 63 32 = 0 ∧
        (∀ i < 7, t.reg (Reg.SCH_CTX_ACCT n i) = 0) ∧ (∀ i < 2, t.reg (Reg.SCH_CTX_LEGACY n i) = 0) ∧ tabGet 0 t.astat n = 0 ∧ t.mem = s.mem)) ∧
      (s.flag (Reg.SCH_CTX_CFG n) 63 = false → bitOf v.toNat 63 = false ∨ ¬ ok → Ends (.contextConfigWrite fn n v) s (fun t =>
        RegOnly (Reg.SCH_CTX_CFG n) s t ∧ t.flag (Reg.SCH_CTX_CFG n) 63 = false))) ∧
    (∀ (n : CtxId) (w : Fin 3) (v : DWord),
      let off := if w = 2 then Reg.SCH_CTX_STEP n else Reg.SCH_CTX_SEED n w
      Reaches fn off 64 v s → exec (.contextStepWrite fn n w v) s = .next (if s.ctxBusy n then s else s.setReg off v))

/-- READMIT takes a marked unit while none is tested; its completion initialises the unit, raises its cores' generations and
clears its mark, or sets FAIL and leaves the mark. A watchdog expiry marks its unit and stops what runs on it, where the
unit has held a token for 100 µs outside an architectural wait; a marked or unpowered unit has none (R41, R42, R216, R380 to
R382). -/
def Obligations.UnitsAreMarkedAndReadmitted : Prop :=
  ∀ (s : State),
    (∀ (fn : Fn) (c : CoreId), Reaches fn Reg.SCH_READMIT 32 (BitVec.ofNat 64 c.val) s →
      (s.flag Reg.SCH_READMIT_STAT 15 = false → s.flag Reg.GLB_TC_MARKED c = true → Ends (.readmitCore fn c) s (fun t =>
        RegOnly Reg.SCH_READMIT_STAT s t ∧ t.fld Reg.SCH_READMIT_STAT 7 0 = c ∧
        t.flag Reg.SCH_READMIT_STAT 15 = true ∧ t.fld Reg.SCH_READMIT_STAT 14 13 = s.fld Reg.SCH_READMIT_STAT 14 13)) ∧
      (s.flag Reg.SCH_READMIT_STAT 15 = true ∨ s.flag Reg.GLB_TC_MARKED c = false → exec (.readmitCore fn c) s = .next s)) ∧
    (∀ (fn : Fn) (n : IslandId), Reaches fn Reg.SCH_READMIT 32 (BitVec.ofNat 64 (64 + n.val)) s →
      (s.flag Reg.SCH_READMIT_STAT 15 = false → s.flag Reg.GLB_STATE (8 + n) = true → Ends (.readmitIsland fn n) s (fun t =>
        RegOnly Reg.SCH_READMIT_STAT s t ∧ t.fld Reg.SCH_READMIT_STAT 7 0 = 64 + n ∧
        t.flag Reg.SCH_READMIT_STAT 15 = true ∧ t.fld Reg.SCH_READMIT_STAT 14 13 = s.fld Reg.SCH_READMIT_STAT 14 13)) ∧
      (s.flag Reg.SCH_READMIT_STAT 15 = true ∨ s.flag Reg.GLB_STATE (8 + n) = false → exec (.readmitIsland fn n) s = .next s)) ∧
    (∀ failed : Byte,
      let unit := s.fld Reg.SCH_READMIT_STAT 5 0
      let tested := fun (ok : Bool) (t : State) => t.flag Reg.SCH_READMIT_STAT 15 = false ∧ t.flag Reg.SCH_READMIT_STAT 13 = true ∧
        t.fld Reg.LHS_EVT_PTR 31 0 = (s.fld Reg.LHS_EVT_PTR 31 0 + 1) % 2 ^ 32 ∧ (ok = false → t.flag Reg.SCH_READMIT_STAT 14 = true)
      let anew := fun (c : Nat) (t : State) => (∀ a, (t.core c).lgn.read a = 0) ∧ (t.core c).tags = 0 ∧ (t.core c).mode = .idle ∧ (t.core c).resident = none ∧
        (t.core c).gen = ((s.core c).gen + 1) % 65536 ∧ (t.core c).regs.rings = [] ∧ (t.core c).regs.fh = []
      (s.flag Reg.SCH_READMIT_STAT 15 = false → exec (.readmitComplete failed) s = .next s) ∧
      (s.flag Reg.SCH_READMIT_STAT 15 = true → s.fld Reg.SCH_READMIT_STAT 7 6 = 0 →
        (failed.toNat % 128 = 0 → Ends (.readmitComplete failed) s (fun t => tested true t ∧ anew unit t ∧ t.flag Reg.GLB_TC_MARKED unit = false)) ∧
        (failed.toNat % 128 ≠ 0 → Ends (.readmitComplete failed) s (fun t => tested false t ∧ t.cores = s.cores ∧
          t.reg Reg.GLB_TC_MARKED = s.reg Reg.GLB_TC_MARKED))) ∧
      (s.flag Reg.SCH_READMIT_STAT 15 = true → s.fld Reg.SCH_READMIT_STAT 7 6 = 1 → unit < 8 → tabRising s.cores = true →
        (failed.toNat % 32 = 0 → Ends (.readmitComplete failed) s (fun t => tested true t ∧ (∀ j < 8, anew (8 * unit + j) t) ∧
          t.flag Reg.GLB_STATE (8 + unit) = false)) ∧
        (failed.toNat % 32 ≠ 0 → Ends (.readmitComplete failed) s (fun t => tested false t ∧ t.cores = s.cores ∧ t.reg Reg.GLB_STATE = s.reg Reg.GLB_STATE)))) ∧
    (let cores := fun (c : Nat) (t : State) =>
        t.flag Reg.GLB_TC_MARKED c = true ∧ (t.core c).queue = [] ∧ (t.core c).resident = none ∧
        (QuietLog s → t.fld Reg.LHS_EVT_PTR 31 0 = (s.fld Reg.LHS_EVT_PTR 31 0 + 1) % 2 ^ 32) ∧
        ∀ sl m, (s.core c).slice = some sl → s.cmd sl.q = some m → m.phase ≠ .ended → tabRising s.cores = true → (t.core c).slice = none ∧
          ∃ m', t.cmd sl.q = some m' ∧ m'.phase = .ended ∧ m'.status = if m.status = 0 then 0x0103 else m.status
      let isl := fun (n : Nat) (t : State) =>
        t.flag Reg.GLB_STATE (8 + n) = true ∧ (∀ j < 8, (t.core (8 * n + j)).queue = [] ∧ (t.core (8 * n + j)).resident = none) ∧
        (QuietLog s → t.fld Reg.LHS_EVT_PTR 31 0 = (s.fld Reg.LHS_EVT_PTR 31 0 + 1) % 2 ^ 32)
      (∀ (c : CoreId) (g : Nat),
        (s.coreToken c = false ∨ s.flag Reg.GLB_TC_MARKED c = true ∨ s.islandOn (c / 8) = false →
          exec (.handshakeWatchdogExpiry (.core c) g) s = .next s) ∧
        (s.coreToken c = true → s.flag Reg.GLB_TC_MARKED c = false → s.islandOn (c / 8) = true →
          Ends (.handshakeWatchdogExpiry (.core c) g) s (cores c))) ∧
      (∀ (f : FerryId) (g : Nat), s.ferryToken f = false → exec (.handshakeWatchdogExpiry (.ferry f) g) s = .next s) ∧
      (∀ (f : FerryId) (g : Nat) (c : CoreId), c.val = f / 2 → f.val < 128 → s.ferryToken f = true →
        (s.flag Reg.GLB_TC_MARKED c = true ∨ s.islandOn (c / 8) = false → exec (.handshakeWatchdogExpiry (.ferry f) g) s = .next s) ∧
        (s.flag Reg.GLB_TC_MARKED c = false → s.islandOn (c / 8) = true → Ends (.handshakeWatchdogExpiry (.ferry f) g) s (cores c))) ∧
      (∀ (f : FerryId) (g : Nat) (n : IslandId), n.val = (f - 128) / 4 → 128 ≤ f.val → s.ferryToken f = true →
        (s.flag Reg.GLB_STATE (8 + n) = true ∨ s.islandOn n = false → exec (.handshakeWatchdogExpiry (.ferry f) g) s = .next s) ∧
        (s.flag Reg.GLB_STATE (8 + n) = false → s.islandOn n = true → Ends (.handshakeWatchdogExpiry (.ferry f) g) s (isl n))) ∧
      (∀ (n : IslandId) (g : Nat),
        let busy := (∃ c : CoreId, c / 8 = n.val ∧ s.coreToken c = true) ∨ ∃ f : FerryId, ferryIsland f = n ∧ s.ferryToken f = true
        (¬ busy ∨ s.flag Reg.GLB_STATE (8 + n) = true ∨ s.islandOn n = false → exec (.handshakeWatchdogExpiry (.harbour n) g) s = .next s) ∧
        (busy → s.flag Reg.GLB_STATE (8 + n) = false → s.islandOn n = true → Ends (.handshakeWatchdogExpiry (.harbour n) g) s (isl n))))


/-! ## Voltage, power, temperature -/

/-- The floor monitor sets BELOW_NOW, and on its rise BELOW_STICKY with one log record and one event; a window's end writes the lowest
samples once the window has lasted its time, a rate of 0 where the island was gated in it; the power limit moves VDD_ISL by 5 mV
within 600 to 900 mV and engages throttling at the bottom, whose budget moves by 4 cores each millisecond (R44 to R49).
THERMAL_SAMPLE keeps the hottest sensor, its number and the highest value, declares the emergency on a second sample at 120 °C,
clears it after 10 ms at or below 115 °C, and moves THERM_N at 130 and 125 °C; THERMAL_STEP lowers VDD_ISL by 25 mV every 10 ms in
which the temperature has not fallen (R570 to R572). -/
def Obligations.PowerAndHeatAreControlled : Prop :=
  (∀ (s : State),
    let r := Reg.PWR_FLOOR_STAT
    let lim := 10 * max 120 (min 400 (s.fld Reg.PWR_LIMIT 8 0))
    (∀ (n : IslandId) (rate mv : Nat), let below := decide (rate < s.fld Reg.PWR_BEAT_CTRL 31 16 ∨ mv < max 600 (s.fld Reg.PWR_BEAT_CTRL 13 4))
      let low := fun (x : Nat) (t : State) => tabFind t.beatMin n = some (match tabFind s.beatMin n with
        | some m => (min m.1 x, min m.2 mv) | none => (x, mv))
      (s.islandOn n = false → Ends (.floorSample n rate mv) s (fun t => t.flag r (8 + n) = false ∧ t.flag r n = s.flag r n ∧ low 0 t ∧
        t = { s with regs := t.regs, beatMin := t.beatMin })) ∧
      (s.islandOn n = true → Ends (.floorSample n rate mv) s (fun t => t.flag r (8 + n) = below ∧ low rate t ∧ SameCores s t ∧
        ((below = false ∨ s.flag r (8 + n) = true) → t.flag r n = s.flag r n ∧ t = { s with regs := t.regs, beatMin := t.beatMin }) ∧
        (below = true → s.flag r (8 + n) = false → t.flag r n = true ∧
          (QuietLog s → t.fld Reg.LHS_EVT_PTR 31 0 = (s.fld Reg.LHS_EVT_PTR 31 0 + 1) % 2 ^ 32) ∧
          t.fld Reg.FWM_LOG_PTR 63 32 = (s.fld Reg.FWM_LOG_PTR 63 32 + 1) % 2 ^ 32)))) ∧
    (∀ (n : IslandId) (beats : Word),
      let w := (tabFind s.beatWin n).getD (0, 7)
      let fin := w.1 + 5000 * 2 ^ (if 13 < w.2 then 13 else w.2)
      (s.cyc < fin → exec (.beatWindowEnd n beats) s = .next s) ∧
      (fin ≤ s.cyc → Ends (.beatWindowEnd n beats) s (fun t => t.fld (Reg.PWR_BEAT_ISL n) 31 0 = beats.toNat ∧
        (∀ m, tabFind s.beatMin n = some m → t.fld (Reg.PWR_BEAT_ISL n) 63 48 = m.2 % 65536 ∧
          (n.val ∉ s.beatGated → s.islandOn n = true → t.fld (Reg.PWR_BEAT_ISL n) 47 32 = m.1 % 65536)) ∧
        (n.val ∈ s.beatGated ∨ s.islandOn n = false → t.fld (Reg.PWR_BEAT_ISL n) 47 32 = 0) ∧
        tabFind t.beatMin n = none ∧ tabFind t.beatWin n = some (fin, s.fld Reg.PWR_BEAT_CTRL 3 0) ∧ (n.val ∈ t.beatGated ↔ s.islandOn n = false) ∧
        t = { s with regs := t.regs, beatMin := t.beatMin, beatWin := t.beatWin, beatGated := t.beatGated, free := t.free } ∧
        ∀ o, o ≠ Reg.PWR_BEAT_ISL n → t.reg o = s.reg o))) ∧
    (∀ dw : Nat,
      (s.restarting 1 0 = true ∨ s.standby = true → exec (.powerLimitControl dw) s = .next s ) ∧
      (s.restarting 1 0 = false → s.standby = false → Ends (.powerLimitControl dw) s (fun t => t.fld Reg.PWR_LIMIT 31 16 = min 65535 dw ∧
        t.fld Reg.PWR_LIMIT 8 0 = s.fld Reg.PWR_LIMIT 8 0 ∧ t.cores = s.cores ∧ t.mem = s.mem ∧
        (lim < dw → 600 < s.vdd → t.vdd = max 600 (s.vdd - 5) ∧ t.throttled = s.throttled) ∧
        (lim < dw → s.vdd ≤ 600 → t.vdd = s.vdd ∧ t.throttled = true ∧ (s.throttled = false → t.thrBudget = t.thrStart ∧ t.thrAt = s.cyc ∧
          t.thrStart = ((List.range 64).filter (fun c => s.usable c && (s.partOfIsland (c / 8)).isSome)).length)) ∧
        (dw ≤ lim → t.throttled = s.throttled ∧ (t.vdd = s.vdd ∨ (dw < lim ∧ s.throttled = false ∧ s.flag Reg.PWR_THERM 20 = false ∧
          t.vdd = max s.vdd (min 900 (s.vdd + 5)))))))) ∧
    (∀ dw : Nat, let b := if lim < dw then s.thrBudget - 4 else if dw < lim then min s.thrStart (s.thrBudget + 4) else s.thrBudget
      (s.throttled = false ∨ s.restarting 1 0 = true ∨ s.cyc < s.thrAt + 500000 → exec (.throttleTick dw) s = .next s) ∧
      (s.throttled = true → s.restarting 1 0 = false → s.thrAt + 500000 ≤ s.cyc → Ends (.throttleTick dw) s (fun t => t.thrBudget = b ∧
        t.thrAt = s.thrAt + 500000 ∧ t.thrRot = s.thrRot + 1 ∧
        (t.throttled = false ↔ b = s.thrStart ∧ dw < lim ∧ s.vdd = 600) ∧ t.cores = s.cores ∧ ∀ o, o ≠ r → t.reg o = s.reg o)))) ∧
  (∀ (s : State), (∀ t, s.standby = true → exec (.thermalSample t) s = .next s) ∧
    (∀ l : List Int, l.length = 10 → (∀ x ∈ l, -32768 ≤ x ∧ x < 32768) → s.standby = false → ∀ i top, i < 10 → l[i]? = some top →
      let read := fun (j : Nat) (x : Int) => j < 10 ∧ l[j]? = some x ∧ (8 ≤ j ∨ s.islandOn j = true)
      let crit := s.flag Reg.PWR_THERM 21
      let emerg := s.flag Reg.PWR_THERM 20
      let twice := ∃ j x, read j x ∧ 960 ≤ x ∧ bitOf s.thHot j = true
      read i top → (∀ j x, read j x → x < top ∨ (x = top ∧ i ≤ j)) → Ends (.thermalSample l) s (fun t =>
        signedOf 16 (t.fld Reg.PWR_THERM 15 0) = top ∧ t.fld Reg.PWR_THERM 19 16 = i ∧
        signedOf 16 (t.fld Reg.PWR_THERM 47 32) = max top (signedOf 16 (s.fld Reg.PWR_THERM 47 32)) ∧
        (t.flag Reg.PWR_THERM 21 = if crit then decide (1000 ≤ top) else decide (1040 ≤ top)) ∧
        (emerg = false → (t.flag Reg.PWR_THERM 20 = true ↔ twice) ∧
          (twice → t.fld Reg.PWR_THERM 31 24 = (s.fld Reg.PWR_THERM 31 24 + 1) % 256)) ∧
        (emerg = true → (t.flag Reg.PWR_THERM 20 = false ↔ top ≤ 920 ∧ ∃ c, s.thCool = some c ∧ c + 5000000 ≤ s.cyc)) ∧
        (∀ j x, read j x → (bitOf t.thHot j = true ↔ 960 ≤ x)) ∧ t.vdd = s.vdd ∧ SameCores s t)) ∧
    (let due := s.flag Reg.PWR_THERM 20 = true ∧ s.restarting 1 0 = false ∧ s.thStep + 5000000 ≤ s.cyc
     let hot := signedOf 16 (s.fld Reg.PWR_THERM 15 0)
     (¬ due → exec .thermalStep s = .next s) ∧
     (due → Ends .thermalStep s (fun t => t.thTop = hot ∧ t.thStep = s.cyc ∧ t.cores = s.cores ∧
       (hot < s.thTop → t.vdd = s.vdd ∧ t.throttled = s.throttled) ∧
       (s.thTop ≤ hot → 600 < s.vdd → t.vdd = max 600 (s.vdd - 25) ∧ t.throttled = s.throttled) ∧
       (s.thTop ≤ hot → s.vdd ≤ 600 → t.vdd = s.vdd ∧ t.throttled = (s.throttled || decide (960 ≤ hot)))))))

/-! ## Power states -/

/-- Core `c` has been initialised: its lagoon zero, its berths E0, nothing resident, its generation risen (R216). -/
def Sys2Proof.Claims.CoreAnew (s : State) (c : Nat) (t : State) : Prop :=
  (∀ a, (t.core c).lgn.read a = 0) ∧ (t.core c).tags = 0 ∧ (t.core c).mode = .idle ∧ (t.core c).resident = none ∧
  (t.core c).gen = ((s.core c).gen + 1) % 65536

/-- No partition has a notice mailbox. -/
abbrev Sys2Proof.Claims.NoMail (s : State) : Prop := ∀ k < 8, s.flag (Reg.FWM_PMB k) 63 = false

/-- PWR_MODE selects islands and device-level states; an idle selected island is gated and loses its harbour and cores; one
that does not drain by GATE_TMO is reported and its cores are asked to stop; once all are gated P3 is entered, and from it P4
with the CAN controllers in INIT, the pads held and LPDDR5X kept (R558, R559, R561 to R564, R569). -/
def Obligations.PowerStatesAreEntered : Prop :=
  ∀ (s : State),
    let st := s.fld Reg.PWR_STAT 2 0
    let word := fun d => BitVec.ofNat 64 (bitsPut (s.reg Reg.PWR_MODE).toNat 2 0 d)
    (let enters := fun (d : Nat) (t : State) => t.fld Reg.PWR_MODE 2 0 = d ∧ t.fld Reg.PWR_MODE 23 3 = s.fld Reg.PWR_MODE 23 3 ∧
        t.fld Reg.PWR_STAT 2 0 = (if st = 6 then 6 else 5) ∧ t.fld Reg.PWR_STAT 31 3 = s.fld Reg.PWR_STAT 31 3 ∧
        (∀ n < 8, s.islandOn n = true → s.gateSel n = false → tabFind t.gateAt n = some s.cyc) ∧ t.cores = s.cores ∧ t.mem = s.mem
     (∀ fn, Reaches fn Reg.PWR_MODE 32 (word 3) s → s.standby = false → st ≠ 3 → Ends (.enterP3 fn) s (enters 3)) ∧
     ∀ fn, Reaches fn Reg.PWR_MODE 32 (word 4) s → s.standby = false → st ≠ 3 → Ends (.enterP4 fn) s (enters 4)) ∧
    (∀ fn, Reaches fn Reg.PWR_MODE 32 (word 0) s → s.standby = false → st = 3 → Ends (.devClear fn) s (fun t =>
      t.fld Reg.PWR_MODE 2 0 = 0 ∧ t.fld Reg.PWR_MODE 15 8 = 0 ∧ t.fld Reg.PWR_STAT 7 4 = 4 ∧ t.fld Reg.PWR_STAT 2 0 = 6 ∧
      t.wake.length = 9 ∧ t.wake.head? = some (1, s.cyc, s.cyc + 30000) ∧ t.cores = s.cores ∧ t.mem = s.mem)) ∧
    (∀ fn, Reaches fn Reg.PWR_MODE 32 (word 0) s → s.standby = false → st = 5 → s.fld Reg.PWR_MODE 15 8 = 0 → s.fld Reg.PWR_STAT 15 8 = 255 →
      (∀ c, (s.core c).mode ≠ .asleep) → Ends (.devClear fn) s (fun t => t.fld Reg.PWR_MODE 2 0 = 0 ∧ t.fld Reg.PWR_STAT 2 0 = 0 ∧
        t.heldWake = 0 ∧ t.cores = s.cores ∧ t.mem = s.mem)) ∧
    (∀ fn (v : Word), Reaches fn Reg.PWR_MODE 32 (BitVec.ofNat 64 v.toNat) s → s.standby = false → st = 0 ∨ st = 2 →
      s.fld Reg.PWR_MODE 2 0 = 0 → v.toNat % 8 = 0 → (∀ c, (s.core c).mode ≠ .asleep) → Ends (.islandSelect fn v) s (fun t =>
        t.fld Reg.PWR_MODE 15 8 = bitsOf v.toNat 15 8 ∧ t.fld Reg.PWR_MODE 23 16 = bitsOf v.toNat 23 16 ∧
        (∀ n < 8, (s.flag Reg.PWR_MODE (8 + n) = false → v.getLsbD (8 + n) = true → s.islandOn n = true → tabFind t.gateAt n = some s.cyc) ∧
          (s.flag Reg.PWR_MODE (8 + n) = true → v.getLsbD (8 + n) = false → (tabFind t.gateAt n = none) ∧
            (s.islandOn n = false → t.waking n = true ∧ (s.waking n = false → t.fld Reg.PWR_STAT 2 0 = 6)))) ∧
        t.cores = s.cores ∧ t.mem = s.mem)) ∧
    (∀ n : IslandId,
      (s.mayGate n = false → exec (.islandGate n) s = .next s) ∧
      (s.mayGate n = true → tabRising s.cores = true → Ends (.islandGate n) s (fun t => t.islandOn n = false ∧ t.flag Reg.PWR_FLOOR_STAT (8 + n) = false ∧
        t.fld Reg.PWR_STAT 2 0 = (if st = 0 then 2 else st) ∧ (∀ m < 8, m ≠ n.val → t.islandOn m = s.islandOn m) ∧
        (∀ j < 8, t.core (8 * n + j) = { Core.init with gen := (s.core (8 * n + j)).gen, mode := .asleep, lastPart := (s.core (8 * n + j)).lastPart }) ∧ n.val ∈ t.beatGated ∧
        ∀ a, (a < hbrAddr n 0 ∨ hbrAddr (n + 1) 0 ≤ a) → t.mem.read a = s.mem.read a))) ∧
    (∀ (n : IslandId) (a : Nat), tabFind s.gateAt n = some a →
      let tmo := s.fld Reg.PWR_MODE 23 16
      let due := tmo ≠ 0 ∧ a + 500000 * tmo ≤ s.cyc ∧ s.islandOn n = true ∧ s.gateSel n = true ∧ s.schPaused = false
      (¬ due → exec (.gateTimeout n) s = .next s) ∧
      (due → Ends (.gateTimeout n) s (fun t => t.flag Reg.PWR_STAT 3 = true ∧ tabFind t.gateAt n = none ∧
        (∀ j < 8, (t.core (8 * n + j)).queue = [] ∧ (t.core (8 * n + j)).slice = (s.core (8 * n + j)).slice) ∧
        (∀ c sl, c / 8 = n.val → (s.core c).slice = some sl → sl.pwr = false → sl.gang = false → (t.core c).preempt = true) ∧
        t.fld Reg.FWM_LOG_PTR 63 32 = (s.fld Reg.FWM_LOG_PTR 63 32 + 1) % 2 ^ 32))) ∧
    (∀ n : IslandId, tabFind s.gateAt n = none → exec (.gateTimeout n) s = .next s) ∧
    (let ready := st = 5 ∧ s.dev ≠ 0 ∧ s.fld Reg.PWR_STAT 15 8 = 0 ∧ s.wake = [] ∧ s.restarting 1 0 = false
     (¬ ready → exec .p3Entry s = .next s) ∧
     (ready → s.heldWake = 0 → Ends .p3Entry s (fun t => t.fld Reg.PWR_STAT 2 0 = 3 ∧ t.flag Reg.GLB_STATE 4 = false ∧ t.entryAt = s.cyc ∧
       t = { s with regs := t.regs, entryAt := t.entryAt } ∧ ∀ o, o ≠ Reg.PWR_STAT → o ≠ Reg.GLB_STATE → t.reg o = s.reg o))) ∧
    (let may := st = 3 ∧ s.standby = false ∧ s.fld Reg.PWR_MODE 2 0 = 4
     (¬ may → exec .p4Entry s = .next s) ∧
     (may → s.heldWake = 0 → (∀ k < 8, s.flag (canCtrl k) 0 = true ∧ s.canState k = 3) → Ends .p4Entry s (fun t =>
       t.standby = true ∧ t.fld Reg.PWR_STAT 2 0 = 3 ∧ t.fld Reg.PAD_HOLD_STAT 3 0 = 15 ∧ t.fld Reg.PAD_HOLD_STAT 5 4 = 1 ∧ t.cores = [] ∧
       t.ferries = [] ∧ t.reg Reg.MEM_XTS = s.reg Reg.MEM_XTS ∧ t.reg Reg.PWR_WAKE = s.reg Reg.PWR_WAKE ∧
       t.flag Reg.MEM_CFG 2 = s.flag Reg.MEM_CFG 2 ∧ t.lpUe = s.lpUe ∧ (∀ i : SyncId, t.reg (Reg.SYN_CNT i) = 0) ∧
       (∀ a, (a < hbrAddr 0 0 ∨ hbrAddr 8 0 ≤ a) → t.mem.read a = s.mem.read a))))

/-- A wake from source `src` has begun: DEV and ISL_GATE are 0, LAST_WAKE is `src`, STATE is 6, and the domains follow in
the order of Table 20.3, the straits and islands alone from P3 (R566, R567). -/
def Sys2Proof.Claims.Wakes (src : Nat) (s t : State) : Prop :=
  t.fld Reg.PWR_MODE 2 0 = 0 ∧ t.fld Reg.PWR_MODE 15 8 = 0 ∧ t.fld Reg.PWR_STAT 7 4 = src ∧ t.fld Reg.PWR_STAT 2 0 = 6 ∧
  t.wake.map (·.1) = (if s.standby then [0] else []) ++ [1, 2, 3, 4, 5, 6, 7, 8, 9] ∧ t.cores = s.cores ∧ t.mem = s.mem

/-- An enabled wake source wakes P3 or P4, and one that fires while a state is being entered is held; the next domain is
released when its time has come, an island with its harbour zero and its cores initialised; a rail that does not rise stops
the wake with its number (R565 to R568). -/
def Obligations.WakesReleaseTheDomains : Prop :=
  ∀ (s : State),
    let st := s.fld Reg.PWR_STAT 2 0
    let dev4 := s.fld Reg.PWR_MODE 2 0 = 4
    let due := s.flag Reg.PWR_WAKE 1 = true ∧ s.fld Reg.PWR_WAKE 63 32 ≠ 0 ∧ st = 3 ∧ s.entryAt + 500000 * s.fld Reg.PWR_WAKE 63 32 ≤ s.cyc
    (s.flag Reg.PWR_WAKE 0 = false → exec .wakePin s = .next s) ∧
    (s.flag Reg.PWR_WAKE 0 = true →
      (st = 3 → s.standby = true ∨ ¬ dev4 → Ends .wakePin s (Wakes 1 s)) ∧
      (st = 5 ∨ (st = 3 ∧ s.standby = false ∧ dev4) → exec .wakePin s = .next { s with heldWake := if s.heldWake = 0 then 1 else s.heldWake }) ∧
      (st ≠ 3 → st ≠ 5 → exec .wakePin s = .next s)) ∧
    (¬ due → exec .wakeTimer s = .next s) ∧
    (due → s.standby = true ∨ ¬ dev4 → Ends .wakeTimer s (Wakes 2 s)) ∧
    (s.wakeSig = false → exec .wakeSyncSignal s = .next s) ∧
    (s.wakeSig = true → s.flag Reg.PWR_WAKE 2 = true → ¬ dev4 → st = 3 → Ends .wakeSyncSignal s (Wakes 3 s)) ∧
    (s.wakeSig = true → s.flag Reg.PWR_WAKE 2 = false ∨ dev4 → exec .wakeSyncSignal s = .next { s with wakeSig := false }) ∧
    (s.wake = [] → exec .domainRelease s = .next s) ∧
    (∀ d en rel l, s.wake = (d, en, rel) :: l →
      (s.cyc < rel ∨ s.fld Reg.PWR_STAT 19 16 ≠ 0 → exec .domainRelease s = .next s) ∧
      (rel ≤ s.cyc → s.fld Reg.PWR_STAT 19 16 = 0 → l ≠ [] →
        (d = 0 → Ends .domainRelease s (fun t => t.standby = false ∧ t.wake = l ∧ t.cores = s.cores ∧ t.mem = s.mem)) ∧
        (d = 1 → exec .domainRelease s = .next { s with wake := l }) ∧
        (∀ n < 8, d = n + 2 → Ends .domainRelease s (fun t => t.wake = l ∧ t.islandOn n = true ∧ (∀ j < 8, CoreAnew s (8 * n + j) t) ∧
          (NoMail s → ∀ a, t.mem.read a = if hbrAddr n 0 ≤ a ∧ a < hbrAddr (n + 1) 0 then 0 else s.mem.read a)))) ∧
      (∀ rail : Fin 3, let ours := d = (if rail.val = 1 then 1 else 0) ∧ en + 500000 ≤ s.cyc ∧ s.fld Reg.PWR_STAT 19 16 = 0
        (ours → Ends (.wakeError rail) s (fun t => RegOnly Reg.PWR_STAT s t ∧ t.fld Reg.PWR_STAT 19 16 = rail.val + 1)) ∧
        (¬ ours → exec (.wakeError rail) s = .next s))) ∧
    (∀ rail, s.wake = [] → exec (.wakeError rail) s = .next s)

/-- PORST returns every register to its reset value and keeps the boot flash and the secure element; SYSRST and PWR_RESET keep
the security core, the power-management core and the manifest, hold the pads, zero the harbours and start the wake order; the
TAP's reset selects IDCODE and touches nothing else; PAD_HOLD_REL lets the named groups go (R498, R569, R573, R574, R580,
Table 20.6; that a TAP reset selects IDCODE is Log 68's). -/
def Obligations.ResetsKeepWhatTheyMust : Prop :=
  ∀ (s : State),
    let host := fun (t : State) => ∀ a, hostKey ≤ a → a < 2 * hostKey → tabFind t.mem.cells a = tabFind s.mem.cells a
    let harbours := fun (t : State) => ∀ a, hbrAddr 0 0 ≤ a → a < hbrAddr 8 0 → t.mem.read a = 0
    Ends .porst s (fun t => (∀ o, t.reg o = regReset o) ∧ t.cores = [] ∧ t.ferries = [] ∧ t.queues = [] ∧ t.halted = [] ∧ t.lockstep = false ∧
      t.flash = s.flash ∧ t.seCnt = s.seCnt ∧ t.sePaired = s.sePaired ∧ host t ∧ harbours t) ∧
    Ends .sysrst s (fun t => t.fld Reg.GLB_STATE 3 0 = 1 ∧ t.fld Reg.GLB_HOST 63 32 = (s.fld Reg.GLB_HOST 63 32 + 1) % 2 ^ 32 ∧
      t.fld Reg.PAD_HOLD_STAT 3 0 = 15 ∧ t.fld Reg.PAD_HOLD_STAT 5 4 = 2 ∧ t.cores = [] ∧ t.ferries = [] ∧ t.queues = [] ∧
      (∀ o ∈ [Reg.PWR_WAKE, Reg.PWR_LIMIT, Reg.PWR_THERM, Reg.PWR_BEAT_CTRL, Reg.FWM_DEVID 0, Reg.FWM_DEVID 1], t.reg o = s.reg o) ∧
      (∀ c < 5, t.fld (Reg.FWM_COMP c) 63 16 = s.fld (Reg.FWM_COMP c) 63 16) ∧ (∀ c, 2 ≤ c → c < 5 → t.flag (Reg.FWM_COMP c) 0 = false) ∧
      t.beatMin = s.beatMin ∧ t.beatWin = s.beatWin ∧ t.beatGated = s.beatGated ∧ t.regions = s.regions ∧ t.mpLock = s.mpLock ∧
      t.manifest = s.manifest ∧ t.floors = s.floors ∧ t.mr = s.mr ∧ t.halted = s.halted ∧ t.flash = s.flash ∧ t.standby = false ∧
      t.wake.map (·.1) = [0, 1, 2, 3, 4, 5, 6, 7, 8, 9] ∧ host t ∧ harbours t ∧ ∀ i : SyncId, t.reg (Reg.SYN_CNT i) = 0) ∧
    (∀ (fn : Fn) (key : Byte), Reaches fn Reg.PWR_RESET 32 (BitVec.ofNat 64 (2 ^ 24 * key.toNat)) s →
      exec (.pwrReset fn key) s = if key = 0xA5 then exec .sysrst s else .next s) ∧
    exec .tapReset s = .next { s with tapOut := leBytes 4 (0x08640B47 + 0x10000000 * s.fld Reg.GLB_IDENT 7 4) } ∧
    (∀ (fn : Fn) (rel : Fin 16), Reaches fn Reg.PAD_HOLD_REL 32 (BitVec.ofNat 64 rel.val) s → Ends (.padRelease fn rel) s (fun t =>
      (∀ g < 4, t.flag Reg.PAD_HOLD_STAT g = (s.flag Reg.PAD_HOLD_STAT g && !(rel.val.testBit g))) ∧
      (t.fld Reg.PAD_HOLD_STAT 3 0 = 0 → t.fld Reg.PAD_HOLD_STAT 5 4 = 0) ∧
      (t.fld Reg.PAD_HOLD_STAT 3 0 ≠ 0 → t.fld Reg.PAD_HOLD_STAT 5 4 = s.fld Reg.PAD_HOLD_STAT 5 4) ∧
      (∀ p ∈ t.heldPads, p ∈ s.heldPads ∧ t.flag Reg.PAD_HOLD_STAT (p.1 / 64) = true) ∧ t.cores = s.cores ∧ t.mem = s.mem ∧
      (s.flag Reg.PAD_HOLD_STAT 3 = false ∨ rel.val.testBit 3 = false → t.out = s.out) ∧ ∀ o, o ≠ Reg.PAD_HOLD_STAT → t.reg o = s.reg o))

/-- A write by an agent of the shore takes effect: the host's where R480 lets it, the firmware's own while it runs. -/
abbrev Sys2Proof.Claims.WhoReaches (w : Who) (off width : Nat) (v : DWord) (s : State) : Prop :=
  (∀ fn, w = .host fn → s.accessKind fn true off width v = none) ∧ (w = .sch → s.schPaused = false) ∧ (w = .lhs → s.compHalted 4 = false)

/-- The number of an agent's window (Table 13.7). -/
abbrev Sys2Proof.Claims.winOf (w : Who) : Nat := match w with | .host _ => 0 | .sch => 1 | .icc => 2 | .lhs => 3

/-- A claim takes a free resource whose conflicting ones are free, a release gives up one's own, a query changes nothing; each
reports its status, the holder and the channel; of two claims in one shore cycle that of the agent first in the order of R576
wins, whichever came first (R575 to R577). -/
def Obligations.ClaimsAnswerTheirWindow : Prop :=
  ∀ (w : Who) (res : BitVec 12) (s : State),
    let r := res.toNat
    let reg := Reg.PAD_CLAIM (winOf w)
    let word := fun a => BitVec.ofNat 64 (2 ^ 30 * a + r)
    let valid := r < 0x0C ∨ (0x10 ≤ r ∧ r < 0x24) ∨ r = 0x28 ∨ r = 0x29 ∨ (0x400 ≤ r ∧ r < 0x800)
    let balls : List (Nat × Nat) := [(0x0A, 0x20), (0x0A, 0x21), (0x0B, 0x22), (0x0B, 0x23)]
    let taken := ∃ x, (x = r ∨ (x, r) ∈ balls ∨ (r, x) ∈ balls) ∧ (tabGet (0, 0) s.claims x).1 ≠ 0
    let own := tabGet (0, 0) s.claims r = (winOf w + 1, 0)
    let free := (tabGet (0, 0) s.claims r).1 = 0
    let tells := fun (status : Nat) (t : State) => t = { s with regs := t.regs, claims := t.claims, claimNow := t.claimNow } ∧ (∀ o, o ≠ reg → t.reg o = s.reg o) ∧
      t.fld reg 63 48 = status ∧ t.fld reg 11 0 = r ∧ t.fld reg 38 36 = (tabGet (0, 0) t.claims r).1 % 8 ∧
      t.fld reg 45 40 = (tabGet (0, 0) t.claims r).2 % 64 ∧ ∀ x, x ≠ r → tabGet (0, 0) t.claims x = tabGet (0, 0) s.claims x
    let same := fun (t : State) => t.claims = s.claims
    (WhoReaches w reg 64 (word 1) s → s.claimNow = [] →
      (¬ valid → Ends (.claim w res) s (fun t => tells 0x0001 t ∧ same t)) ∧
      (valid → taken → Ends (.claim w res) s (fun t => tells 0x0401 t ∧ same t)) ∧
      (valid → ¬ taken → Ends (.claim w res) s (fun t => tells 0 t ∧ tabGet (0, 0) t.claims r = (winOf w + 1, 0) ∧
        ∀ w' : Who, winOf w' < winOf w → WhoReaches w' (Reg.PAD_CLAIM (winOf w')) 64 (word 1) s → Ends (.claim w' res) t (fun u =>
          tabGet (0, 0) u.claims r = (winOf w' + 1, 0) ∧ u.fld (Reg.PAD_CLAIM (winOf w')) 63 48 = 0 ∧ u.fld reg 63 48 = 0x0401)))) ∧
    (WhoReaches w reg 64 (word 2) s →
      (¬ valid → Ends (.claimRelease w res) s (fun t => tells 0x0001 t ∧ same t)) ∧
      (valid → ¬ free → ¬ own → Ends (.claimRelease w res) s (fun t => tells 0x0401 t ∧ same t)) ∧
      (valid → free → Ends (.claimRelease w res) s (fun t => tells 0 t ∧ same t)) ∧
      (valid → own → Ends (.claimRelease w res) s (fun t => tells 0 t ∧ tabGet (0, 0) t.claims r = (0, 0)))) ∧
    (WhoReaches w reg 64 (word 3) s → Ends (.claimQuery w res) s (fun t => tells (if valid then 0 else 0x0001) t ∧ same t))

/-- Boot answers at once where it cannot run; an attempt ends at BOOT_STAGE 0x4 with an injection pass begun, or at 0xF, and at
0x4 only with the identity reconstructed, every component's image valid, and after a power-on the secure element answering and
a manifest in force. The test access port hands out challenges and takes tokens only while the security core serves (R539,
R540, R548, R554, R555). -/
def Obligations.BootChecksWhatItRuns : Prop :=
  ∀ (s : State),
    (∀ (puf : Bool) (se : Fin 3), let st := s.fld Reg.GLB_STATE 3 0
      let may := s.wake = [] ∧ s.standby = false ∧ st ≤ 1 ∧ s.compHalted 0 = false
      (¬ may → exec (.boot puf se) s = .next s) ∧
      (may → Ends (.boot puf se) s (fun t =>
        (t.fld Reg.GLB_STATE 3 0 = 4 ∨ t.fld Reg.GLB_STATE 3 0 = 0xF) ∧ t.flash = s.flash ∧ t.seCnt = s.seCnt ∧ SameCores s t ∧
        (t.fld Reg.GLB_STATE 3 0 = 4 → st = 0 → t.mpLock = true) ∧ (t.fld Reg.GLB_STATE 3 0 = 4 → t.tapPend = []) ∧
        (puf = false → t.fld Reg.GLB_STATE 3 0 = 0xF) ∧ (st = 0 → se ≠ 0 → t.fld Reg.GLB_STATE 3 0 = 0xF) ∧
        (t.fld Reg.GLB_STATE 3 0 = 4 → t.flag Reg.LHS_INJ 63 = true ∧ t.flag Reg.FWM_SEC_STAT 6 = true ∧
          (∀ c, 2 ≤ c → c < 5 → s.slotCheck c 0 = 0 ∨ s.slotCheck c 1 = 0) ∧
          (st = 0 → (s.slotCheck 0 0 = 0 ∨ s.slotCheck 0 1 = 0) ∧ (s.slotCheck 1 0 = 0 ∨ s.slotCheck 1 1 = 0) ∧ t.manCheck t.manifest = 0) ∧
          ∀ c < 5, t.compHalted c = false → t.flag (Reg.FWM_COMP c) 0 = true)))) ∧
    (s.mbxServes 0 = false → exec .tapDbgChal s = .next s) ∧
    (s.mbxServes 0 = true → Ends .tapDbgChal s (fun t => ∃ c, c.length = 32 ∧ t.chal = some c ∧ t.tapOut = s.deviceId ++ c ∧
      t.out = s.out ++ [.tap (s.deviceId ++ c)] ∧ t.flag Reg.FWM_SEC_STAT 19 = true ∧ (∀ o, o ≠ Reg.FWM_SEC_STAT → t.reg o = s.reg o) ∧
      t.cores = s.cores ∧ t.mem = s.mem)) ∧
    (∀ tok, s.mbxServes 0 = false → exec (.tapDbgToken tok) s = .next { s with tapOut := [3], tapPend := s.tapPend ++ [tok] }) ∧
    (∀ tok, s.mbxServes 0 = true → Ends (.tapDbgToken tok) s (fun t => t.chal = none ∧ t.flag Reg.FWM_SEC_STAT 19 = false ∧
      (t.tapOut = if s.tokenOk tok then [1] else [2]) ∧
      t.fld Reg.FWM_SEC_STAT 23 20 = (if s.tokenOk tok then s.fld Reg.FWM_SEC_STAT 23 20 ||| recNat tok 4 1 else s.fld Reg.FWM_SEC_STAT 23 20) ∧
      t.mem = s.mem ∧ t.cores = s.cores)) ∧
    (∀ tok, s.tokenOk tok = true → tok.length = 3392 ∧ recNat tok 4 1 < 16 ∧ part tok 8 16 = s.deviceId ∧ s.chal = some (part tok 24 32) ∧
      sigOk (if recNat tok 5 1 = 0 then s.rootKey else part s.manifest 64 1952) "GSN8640-DEBUG" (tok.take 64) (part tok 64 3309) = true)

/-! ## Time -/

/-- The timebase in units of 2^-32 ns (R441). -/
abbrev Sys2Proof.Claims.tbOf (s : State) : Nat := 2 ^ 32 * (1000000000 * s.tbS + s.tbNs) + s.tbFrac

/-- One step of the timebase on its value (R443). -/
def Sys2Proof.Claims.stepped (v : Nat) : TbOp → Nat
  | .step d => ((v : Int) + 2 ^ 32 * d).toNat
  | .set sec ns => 2 ^ 32 * (1000000000 * sec + ns)

/-- Nothing of the shore cycle just over is noted any more. -/
abbrev Sys2Proof.Claims.freshCycle (s : State) : State := { s with
  evt := [], synEvt := [], fnow := [], lnow := [], winNow := [], claimNow := [], canNow := [], enow := [], dlNow := [] }

/-- Each tick adds INCR and then takes the steps written since the tick before, counting them; only the owner's writes act, and INCR
out of range, a step below zero and a set that is not armed or has too many nanoseconds set their flags; reading the seconds
latches the rest. A tick also ends a shore cycle, in which the mailboxes between components keep their order and their depth (R12,
R441 to R446, R500; that the commands between two ticks fall in one cycle is Log 60's). A trigger fires at the first tick at or
after its time, signals, drives its pad for WIDTH ticks where a claim covers it, and moves its time by one period, or past the
value that a step forward gave, or clears EN; an edge that EDGE selects latches the time less 8 ns and counts; reading the seconds
latches the nanoseconds (R447, R448). -/
def Obligations.TimebaseTriggersAndCaptures : Prop :=
  ((∀ s : State, Ends .timebaseTick s (fun t => t.cyc = s.cyc + 2 ∧ SameCores s t ∧ t.claimNow = [] ∧ t.winNow = [] ∧
    (∀ a b, (s.mailbox a b).length ≤ 16 → (t.mailbox a b).length ≤ 16) ∧
    ∀ a b, ∃ new d, new.length ≤ 2 ∧ d ≤ 1 ∧ t.mailbox a b = (s.mailbox a b ++ new).drop d)) ∧
  (∀ s : State, s.standby = false → Ends .timebaseTick s (fun t => t.tbNs < 1000000000 ∧ t.tbFrac < 2 ^ 32 ∧ t.tbOps = [] ∧
    tbOf t = s.tbOps.foldl stepped (tbOf s + (s.reg Reg.TIM_INCR).toNat) ∧ t.tbLast = 1000000000 * s.tbS + s.tbNs ∧
    t.fld Reg.TIM_SYNC 31 16 = (s.fld Reg.TIM_SYNC 31 16 + s.tbOps.length) % 65536 ∧
    (s.tbOps = [] → s.dlEntries = [] → s.tdlDue = [] → s.canTx = [] → s.tracePoints = [] → t = { freshCycle s with
      cyc := t.cyc, tbS := t.tbS, tbNs := t.tbNs, tbFrac := t.tbFrac, tbJump := none, tbLast := t.tbLast, tbPast := t.tbPast,
      mail := t.mail, mailWait := t.mailWait, free := t.free }))) ∧
  (∀ s : State, s.standby = true → s.tracePoints = [] → Ends .timebaseTick s (fun t => t = { freshCycle s with
    cyc := s.cyc + 2, tbJump := none, mail := t.mail, mailWait := t.mailWait, free := t.free })) ∧
  (∀ (w : Who) (s : State),
    let owner := (∃ fn, w = .host fn ∧ s.flag Reg.TIM_SYNC 1 = true) ∨ (w = .sch ∧ s.flag Reg.TIM_SYNC 1 = false)
    let next := s.tbOps.foldl stepped (tbOf s + (s.reg Reg.TIM_INCR).toNat)
    (∀ v : DWord,
      (WhoReaches w Reg.TIM_INCR 64 v s →
        (¬ owner → exec (.timebaseIncrWrite w v) s = .next s) ∧
        (owner → 0x3C0000000 ≤ v.toNat → v.toNat ≤ 0x440000000 → exec (.timebaseIncrWrite w v) s = .next (s.setReg Reg.TIM_INCR v)) ∧
        (owner → v.toNat < 0x3C0000000 ∨ 0x440000000 < v.toNat → exec (.timebaseIncrWrite w v) s = .next (s.setFlag Reg.TIM_SYNC 3 true))) ∧
      (WhoReaches w Reg.TIM_STEP 64 v s →
        (¬ owner → exec (.timebaseStep w v) s = .next s) ∧
        (owner → 0 ≤ (next : Int) + 2 ^ 32 * v.toInt → exec (.timebaseStep w v) s = .next { s with tbOps := s.tbOps ++ [.step v.toInt] }) ∧
        (owner → (next : Int) + 2 ^ 32 * v.toInt < 0 → exec (.timebaseStep w v) s = .next (s.setFlag Reg.TIM_SYNC 2 true))) ∧
      (WhoReaches w Reg.TIM_SET_S 64 v s →
        (¬ owner → exec (.timebaseSetArm w v) s = .next s) ∧
        (owner → exec (.timebaseSetArm w v) s = .next { s with timArm := some v.toNat })) ∧
      (WhoReaches w Reg.TIM_SYNC 64 v s → Ends (.timesyncWrite w v) s (fun t => t = { s with regs := t.regs } ∧
        (∀ o, o ≠ Reg.TIM_SYNC → t.reg o = s.reg o) ∧ t.fld Reg.TIM_SYNC 31 16 = s.fld Reg.TIM_SYNC 31 16 ∧
        (∀ i, i = 2 ∨ i = 3 → t.flag Reg.TIM_SYNC i = ((s.flag Reg.TIM_SYNC i && !(v.getLsbD i)) || bitOf (s.events Reg.TIM_SYNC) i)) ∧
        (∀ fn, w = .host fn → t.flag Reg.TIM_SYNC 1 = v.getLsbD 1) ∧ ((∀ fn, w ≠ .host fn) → t.flag Reg.TIM_SYNC 1 = s.flag Reg.TIM_SYNC 1) ∧
        (owner → t.flag Reg.TIM_SYNC 0 = v.getLsbD 0 ∧ t.fld Reg.TIM_SYNC 63 32 = v.toNat / 2 ^ 32) ∧
        (¬ owner → t.flag Reg.TIM_SYNC 0 = s.flag Reg.TIM_SYNC 0 ∧ t.fld Reg.TIM_SYNC 63 32 = s.fld Reg.TIM_SYNC 63 32)))) ∧
    (∀ v : Word, WhoReaches w Reg.TIM_SET_NS 32 (BitVec.ofNat 64 v.toNat) s → let ns := v.toNat % 2 ^ 30
      (¬ owner → exec (.timebaseSet w v) s = .next s) ∧
      (owner → s.timArm = none → exec (.timebaseSet w v) s = .next (s.setFlag Reg.TIM_SYNC 2 true)) ∧
      (∀ sec, owner → s.timArm = some sec →
        (ns < 1000000000 → exec (.timebaseSet w v) s = .next { s with tbOps := s.tbOps ++ [.set sec ns], timArm := none }) ∧
        (1000000000 ≤ ns → Ends (.timebaseSet w v) s (fun t => t.timArm = none ∧ t.flag Reg.TIM_SYNC 2 = true ∧ t.tbOps = s.tbOps))))) ∧
  ∀ (fn : Fn) (s : State), s.accessKind fn false Reg.TIM_NOW_S 64 0 = none → Ends (.timNowLatch fn) s (fun t =>
    t.readData = s.tbS ∧ t.readOk = true ∧ tabFind t.timLatch (fnNum fn) = some (2 ^ 32 * s.tbNs + s.tbFrac) ∧
    t = { s with readData := s.tbS, readOk := true, timLatch := t.timLatch })) ∧
  (∀ (s : State),
    (∀ k : Fin 4,
      let r := Reg.TIM_TRIG_CTL k
      let time := fun (u : State) => 1000000000 * (u.reg (Reg.TIM_TRIG_S k)).toNat + u.fld (Reg.TIM_TRIG_NS k) 29 0
      let now := 1000000000 * s.tbS + s.tbNs
      let p := s.fld (Reg.TIM_TRIG_NS k) 63 32
      let driven := (tabGet (0, 0) s.claims (0x20 + k)).1 ≠ 0 ∧ s.flag Reg.PAD_HOLD_STAT 3 = false
      let due := s.flag r 31 = true ∧ time s ≤ now
      (¬ due → exec (.triggerFire k) s = .next s) ∧
      let quiet := s.flag r 30 = false ∨ s.dlEntries = []
      (due → now + p < 2 ^ 64 * 1000000000 → (∀ v, tabFind s.trigPast k = some v → v ≤ now) → Ends (.triggerFire k) s (fun t =>
        (tabFind s.synEvt (s.fld r 27 14) = none →
          t.reg (Reg.SYN_CNT (s.fld r 27 14)) = s.reg (Reg.SYN_CNT (s.fld r 27 14)) + (if s.flag r 30 then 1 else 0)) ∧
        (s.flag r 29 = true → s.fld r 13 0 ≠ 0 → tabFind t.trigEnd k = some (s.cyc + 2 * s.fld r 13 0) ∧
          (quiet → driven → t.out = s.out ++ [.pad 3 k true]) ∧ (quiet → ¬ driven → t.out = s.out)) ∧
        (s.flag r 29 = false ∨ s.fld r 13 0 = 0 → t.trigEnd = s.trigEnd ∧ (quiet → t.out = s.out)) ∧
        (p = 0 → t.flag r 31 = false ∧ time t = time s) ∧ tabFind t.trigPast k = none ∧
        (p ≠ 0 → t.flag r 31 = true ∧ (tabFind s.trigPast k = none → time t = time s + p) ∧
          ∀ v, tabFind s.trigPast k = some v → v < time t ∧ (time t - time s) % p = 0 ∧ time s + p ≤ time t ∧ (time t = time s + p ∨ time t ≤ v + p)) ∧ t.cores = s.cores ∧ t.mem = s.mem)) ∧
      (tabFind s.trigEnd k = none → exec (.triggerPulseEnd k) s = .next s) ∧
      (∀ e, tabFind s.trigEnd k = some e →
        (s.cyc < e → exec (.triggerPulseEnd k) s = .next s) ∧
        (e ≤ s.cyc → Ends (.triggerPulseEnd k) s (fun t => t = { s with trigEnd := t.trigEnd, out := t.out } ∧ tabFind t.trigEnd k = none ∧
          (driven → t.out = s.out ++ [.pad 3 k false]) ∧ (¬ driven → t.out = s.out))))) ∧
    (∀ (k : Fin 2) (rising : Bool),
      let r := Reg.TIM_CAP_CTL k
      let ns := Reg.TIM_CAP_NS k
      let at' := 1000000000 * s.tbS + s.tbNs - 8
      let selected := s.flag r 31 = true ∧ ((s.fld r 29 28 = 0 → rising = true) ∧ (s.fld r 29 28 = 1 → rising = false))
      (¬ selected → exec (.captureEdge k rising) s = .next s) ∧
      (selected → at' < 2 ^ 64 * 1000000000 → Ends (.captureEdge k rising) s (fun t =>
        (t.reg (Reg.TIM_CAP_S k)).toNat = at' / 1000000000 ∧ t.fld ns 29 0 = at' % 1000000000 ∧
        t.fld ns 63 48 = (s.fld ns 63 48 + 1) % 65536 ∧ t.flag ns 47 = (s.flag ns 47 || s.capUnread.contains k.val) ∧
        t.capUnread.contains k.val = true ∧ t.cores = s.cores ∧ t.mem = s.mem ∧
        (tabFind s.synEvt (s.fld r 13 0) = none →
          t.reg (Reg.SYN_CNT (s.fld r 13 0)) = s.reg (Reg.SYN_CNT (s.fld r 13 0)) + (if s.flag r 30 then 1 else 0))))) ∧
    (∀ (fn : Fn) (k : Fin 2), s.accessKind fn false (Reg.TIM_CAP_S k) 64 0 = none → Ends (.captureLatch fn k) s (fun t =>
      t.readData = (s.reg (Reg.TIM_CAP_S k)).toNat ∧ t.readOk = true ∧
      tabFind t.timLatch (16 * (k.val + 1) + fnNum fn) = some (s.fld (Reg.TIM_CAP_NS k) 29 0) ∧ t.capUnread.contains k.val = false ∧
      t = { s with readData := t.readData, readOk := true, timLatch := t.timLatch, capUnread := t.capUnread })))

/-! ## Tideline -/

/-- Enabling Tideline numbers the frame in progress; a frame starts at its time with ALIGN formed, re-anchored beyond 5,000 ns,
the next frame slewed by at most 2 cycles, and the enables come into force; the capture, the learning table, the PWM carriers
and the encoders follow their writes, periods and edges; the global registers are the host's and the scheduler's alone, no
other write of the cycle reaching them (R16, R385, R387, R402, R406, R410, R411, R416, R417). -/
def Obligations.TidelineFramesCarriersAndEncoders : Prop :=
  ∀ (s : State),
    let now := 1000000000 * s.tbS + s.tbNs
    (∀ w : Who, w = .icc ∨ w = .lhs → exec (.tidelineEnable w) s = .next s) ∧
    (∀ w : Who, w ≠ .icc → w ≠ .lhs → WhoReaches w Reg.TDL_CTRL 32 1 s → (∀ x ∈ s.winNow, x.key ≠ Reg.TDL_CTRL) →
      (s.flag Reg.TDL_CTRL 0 = false → Ends (.tidelineEnable w) s (fun t => t.flag Reg.TDL_CTRL 0 = true ∧ t.tdlNext = 0 ∧
        t.reg Reg.TDL_FRAME = BitVec.ofNat 64 (now / 10000) ∧ t.fld Reg.TDL_CTRL 31 1 = s.fld Reg.TDL_CTRL 31 1 ∧
        (∀ o, o ≠ Reg.TDL_CTRL → o ≠ Reg.TDL_FRAME → t.reg o = s.reg o) ∧ t.tdl = s.tdl)) ∧
      (s.flag Reg.TDL_CTRL 0 = true → Ends (.tidelineEnable w) s (fun t => t = { s with regs := t.regs, winNow := t.winNow } ∧
        (∀ o, o ≠ Reg.TDL_CTRL → t.reg o = s.reg o) ∧ t.fld Reg.TDL_CTRL 31 0 = s.fld Reg.TDL_CTRL 31 0))) ∧
    (let f := (s.reg Reg.TDL_FRAME).toNat + 1
     let due := s.flag Reg.TDL_CTRL 0 = true ∧ (s.tdlNext = 0 → 10000 * f ≤ now) ∧ (s.tdlNext ≠ 0 → s.tdlNext ≤ s.cyc + 1)
     let start := if s.tdlNext = 0 then s.cyc else s.tdlNext
     let far := 5000 < now - 10000 * f ∨ 5000 < 10000 * f - now
     let g := if far then (now + 4999) / 10000 else f
     let late := now - 10000 * g
     let early := 10000 * g - now
     (¬ due → exec .tidelineFrameStart s = .next s) ∧
     (due → Ends .tidelineFrameStart s (fun t => t.reg Reg.TDL_FRAME = BitVec.ofNat 64 g ∧ t.tdlStart = start ∧
       t.tdlNext + min 2 (late / 2) = start + 5000 + min 2 (early / 2) ∧
       signedOf 16 (t.fld Reg.TDL_CTRL 31 16) = (late : Int) - early ∧ (t.flag Reg.TDL_CTRL 2 = true ↔ late ≤ 4 ∧ early ≤ 4) ∧
       t.fld Reg.TDL_CTRL 15 8 = (if far then (s.fld Reg.TDL_CTRL 15 8 + 1) % 256 else s.fld Reg.TDL_CTRL 15 8) ∧
       (∀ c k, tabFind s.tdl c = some k → t.chan c = { k with live := s.chEn c }) ∧ t.cores = s.cores ∧ t.mem = s.mem ∧ t.out = s.out))) ∧
    (∀ (w : Who) (v : DWord), w = .icc ∨ w = .lhs → exec (.captureArm w v) s = .next s) ∧
    (∀ (w : Who) (v : DWord), w ≠ .icc → w ≠ .lhs → WhoReaches w Reg.TDL_CAP 64 (BitVec.ofNat 64 (bitsPut v.toNat 63 63 1)) s →
      (∀ x ∈ s.winNow, x.key ≠ Reg.TDL_CAP) →
      (s.flag Reg.TDL_CAP 61 = true → Ends (.captureArm w v) s (fun t => t = { s with winNow := t.winNow })) ∧
      (s.flag Reg.TDL_CAP 61 = false → s.flag Reg.TDL_CAP 63 = false → Ends (.captureArm w v) s (fun t => t.flag Reg.TDL_CAP 63 = true ∧
        t.fld Reg.TDL_CAP 13 0 = 0 ∧ (t.flag Reg.TDL_CAP 61 = true ↔ bitsOf v.toNat 57 56 = 0) ∧ t.fld Reg.TDL_CAP 57 42 = bitsOf v.toNat 57 42 ∧
        t.fld Reg.TDL_CAP 41 29 = bitsOf v.toNat 41 29 ∧ (∀ o, o ≠ Reg.TDL_CAP → t.reg o = s.reg o)))) ∧
    (∀ (w : Who) (i : Fin 16384) (v : Word), WhoReaches w (Reg.TDL_RC i) 32 (BitVec.ofNat 64 v.toNat) s →
      let learns := ∃ c < 64, s.chEn c = true ∧ s.flag (chRc c) 63 = true ∧ s.flag (chRc c) 62 = true ∧ s.fld (chRc c) 47 34 ≤ i ∧
        i.val < s.fld (chRc c) 47 34 + s.fld (chRc c) 33 20 + 1
      (learns → exec (.rcEntryWrite w i v) s = .next s) ∧
      (¬ learns → Ends (.rcEntryWrite w i v) s (fun t => RegOnly (Reg.TDL_RC i) s t ∧ t.fld (Reg.TDL_RC i) 31 0 = v.toNat))) ∧
    (∀ p : Fin 12, let r := Reg.TDL_PWM p
      let k := tabGet ⟨0, 0, false, 0, none, 0, none, none⟩ s.pwm p
      let due := s.flag r 0 = true ∧ k.next ≤ s.cyc + 1
      let per := if s.flag r 39 then 2 * s.fld r 63 48 else s.fld r 63 48
      (¬ due → exec (.pwmCarrierStart p) s = .next s) ∧
      (due → Ends (.pwmCarrierStart p) s (fun t => t = { s with regs := t.regs, pwm := t.pwm } ∧
        (∃ a b, tabFind t.pwm p = some ⟨k.next, s.fld r 63 48, s.flag r 39, k.next + max 1 per, none, k.next, a, b⟩ ∧
          (a.isSome = true ↔ 0 < t.fld r 31 16) ∧ (b.isSome = true ↔ t.fld r 31 16 = 0)) ∧
        (∀ v, k.cmp = some v → t.fld r 31 16 = v % 65536) ∧ (k.cmp = none → t.regs = s.regs) ∧ ∀ o, o ≠ r → t.reg o = s.reg o))) ∧
    (∀ (e : Fin 16) (d : Fin 3), s.standby = true → exec (.encoderEdge e d) s = .next s) ∧
    (∀ e : Fin 16, let r := Reg.TDL_ENC e
      s.standby = false →
      (s.flag r 7 = false → exec (.encoderEdge e 2) s = .next s) ∧
      (s.flag r 7 = true → Ends (.encoderEdge e 2) s (fun t => RegOnly r s t ∧ t.fld r 63 32 = 0 ∧ t.fld r 31 0 = s.fld r 31 0)) ∧
      (∀ d : Fin 3, d ≠ 2 → Ends (.encoderEdge e d) s (fun t => RegOnly r s t ∧ t.fld r 31 0 = s.fld r 31 0 ∧
        t.fld r 63 32 = (s.fld r 63 32 + if (d = 0 ↔ s.flag r 6 = false) then 1 else 2 ^ 32 - 1) % 2 ^ 32)))

/-- A channel samples at its slot in the frames that DIV and PH name: with no commit or record waiting, no injection and no
learned feed-forward, the control law of R391 forms INTEG, the derivative and the output, which CH_OBS shows with the input,
whatever the output drives, which it does at the cycle of Table 13.4; at any other time nothing happens (R386, R388, R391,
R394, R395). The channel's output fields are as R387 lets them be, and nothing else is due. -/
def Obligations.ChannelsSampleTheControlLaw : Prop :=
  ∀ (ch : Fin 64) (s : State),
    let c := ch.val
    let f := (s.reg Reg.TDL_FRAME).toNat
    let slot := s.tdlStart + 40 * s.fld (chSched c) 62 56
    let k := s.chan c
    let due := s.flag Reg.TDL_CTRL 0 = true ∧ k.live = true ∧ slot ≤ s.cyc + 1 ∧ k.last ≠ some f ∧ f % s.fld (chSched c) 47 32 = s.fld (chSched c) 31 16
    let r := s32 (if s.flag (chSched c) 15 then s.uAt (s.fld (chSched c) 13 8) slot else s.sfld (chSpff c) 63 32)
    let y := s32 (s.inputOf c slot).1
    let e := s32 (r - y)
    let exact := s.sfld (chInteg c) 63 0 + s.sfld (chGain c) 31 0 * e
    let integ := signedOf 64 (wrapOf 64 exact)
    let raw := if s.flag (chKd c) 3 then s32 ((if k.fresh then y else k.yp) - y) else s32 (e - (if k.fresh then e else k.ep))
    let df0 := if k.fresh then 0 else k.df
    let df := df0 + (2 ^ 16 * raw - df0) / 2 ^ s.fld (chKd c) 7 4
    let sum := s.sfld (chGain c) 63 32 * e + integ + s.sfld (chKd c) 63 32 * df / 2 ^ 16 + s.sfld (chSpff c) 31 0 * 2 ^ 16
    let at' := slot + (match s.fld (chIo c) 31 28 with | 2 => 52 | 3 => 60 | _ => 50)
    let u := min (max (sum / 2 ^ 16) (s.sfld (chLim c) 31 0)) (s.sfld (chLim c) 63 32)
    (¬ due → exec (.channelSample ch) s = .next s) ∧
    (due → k.commits = [] → k.pend = [] → s.flag (chTest c) 63 = false → s.flag (chRc c) 63 = false → s.ioOk c = true →
      (∀ d ∈ s.tdlDue, s.cyc < d.cyc) → Ends (.channelSample ch) s (fun t =>
      (s.fld (chIo c) 31 28 ≠ 0 → s.cyc < at' → t.tdlDue = s.tdlDue ++ [⟨at', c, slot, (s.reg (chIo c)).toNat, u, none⟩]) ∧
      t.fld (chObs c) 31 0 = wrapOf 32 u ∧ t.fld (chObs c) 63 32 = wrapOf 32 y ∧ t.reg (chInteg c) = BitVec.ofInt 64 exact ∧
      t.flag (chStat c) 6 = (s.flag (chStat c) 6 || decide (u ≠ sum / 2 ^ 16)) ∧
      t.flag (chStat c) 0 = (s.flag (chStat c) 0 || decide (integ ≠ exact)) ∧
      t.flag (chStat c) 5 = (s.flag (chStat c) 5 || (s.inputOf c slot).2.1) ∧
      (t.chan c).last = some f ∧ (t.chan c).fresh = false ∧ (t.chan c).ep = e ∧ (t.chan c).yp = y ∧ (t.chan c).df = df ∧
      (t.chan c).count = k.count + 1 ∧ (t.chan c).rd = none ∧ (∀ d, d ≠ c → t.chan d = s.chan d) ∧ SameCores s t))

/-- A window selects a channel, losing what was written for another; a commit that passes the checks of R387 waits for the channel's
sample, or enables the channel and claims its output, or disables it; one that fails sets FAIL and the channel's ERR and changes
nothing else (R387, R407 to R409). An SPI input's read runs on its master when that is free, after LEAD slots, shifting TEMPLATE
out; a drop binding copies the records of a FULL slot up to the first of kind 0, the end or a full crossing; a landed record of a
wrong form or channel is counted and discarded, any other joins its channel's four (R390, R396, R398). -/
def Obligations.TidelineCommitsAndReadsTakeEffect : Prop :=
  (∀ (w : Who) (s : State),
    let n := winOf w
    let sel := Reg.TDL_CHSEL n
    let c := s.fld sel 5 0
    let dirty := fun (i : Nat) => tabFind s.tdlDirty (16 * n + i)
    let old := s.allPending
    let new := old.putVals c (s.dirtyOf n)
    let out := new.outRes c
    let cl := fun (x : Nat) => (⟨x, 5, c, false, n, s.dirtyOf n, (s.dirtyOf n).map (fun p => (p.1, s.reg (chReg c p.1)))⟩ : ClaimNow)
    let takes := fun (t : State) => ∀ i < 10, t.reg (chReg c i) = (dirty i).getD (s.reg (chReg c i))
    let clean := fun (t : State) => ∀ i < 10, tabFind t.tdlDirty (16 * n + i) = none
    let refused := fun (e : Nat) (t : State) => t.flag sel 29 = true ∧ t.fld (chStat c) 47 40 = e ∧ t = { s with regs := t.regs, evt := t.evt } ∧
      ∀ o, o ≠ sel → o ≠ chStat c → t.reg o = s.reg o
    (∀ v : Word, WhoReaches w sel 32 (BitVec.ofNat 64 v.toNat) s → Ends (.channelSelect w v) s (fun t => t.fld sel 5 0 = v.toNat % 64 ∧
      t = { s with regs := t.regs, tdlDirty := t.tdlDirty, evt := t.evt } ∧ (∀ o, o ≠ sel → t.reg o = s.reg o) ∧
      (v.toNat % 64 = c ∨ (∀ i < 10, dirty i = none) → t.tdlDirty = s.tdlDirty) ∧
      (v.toNat % 64 ≠ c → (∃ i < 10, (dirty i).isSome = true) → t.flag sel 30 = true ∧ clean t))) ∧
    (WhoReaches w (Reg.CH_COMMIT n) 32 1 s →
      (new.chEn c = true → ∀ e, commitErr old new c = e → e ≠ 0 → Ends (.channelCommit w) s (refused (e % 256))) ∧
      (new.chEn c = true → commitErr old new c = 0 → s.chEn c = true → Ends (.channelCommit w) s (fun t => clean t ∧
        t.chan c = { s.chan c with commits := (s.chan c).commits ++ [⟨n, s.cyc, s.dirtyOf n⟩] } ∧ t.regs = s.regs ∧ t.claims = s.claims)) ∧
      (new.chEn c = true → commitErr old new c = 0 → s.chEn c = false → ∀ r, out = some r → (s.claim (cl r)).1 ≠ 0 →
        Ends (.channelCommit w) s (refused 4)) ∧
      (new.chEn c = true → commitErr old new c = 0 → s.chEn c = false → s.claimNow = [] → (∀ r, out = some r → (s.claim (cl r)).1 = 0) →
        Ends (.channelCommit w) s (fun t => takes t ∧ clean t ∧ (∀ r, out = some r → tabGet (0, 0) t.claims r = (5, c)) ∧
          (t.chan c).fresh = true ∧ (t.chan c).live = false ∧ (t.chan c).commits = [] ∧ ∀ d, d ≠ c → t.chan d = s.chan d)) ∧
      (new.chEn c = false → (s.chan c).commits = [] → Ends (.channelCommit w) s (fun t => takes t ∧ clean t ∧
        (s.chEn c = true → (t.chan c).live = false ∧ (t.chan c).pend = [] ∧ ∀ p ∈ t.claims, p.2 ≠ (5, c)) ∧ ∀ d, d ≠ c → t.chan d = s.chan d)))) ∧
  (∀ (s : State),
    (∀ (ch : Fin 64) (data : Word), let k := s.chan ch
      let d := s.fld (chIo ch) 59 49
      let begins := max s.cyc (tabGet 0 s.spiBusy (d / 4))
      let len := s.fld (Reg.TDL_SPIDEV d) 31 27 + 1
      let ends := begins + 4 + 2 * max 4 (s.fld (Reg.TDL_SPIDEV d) 26 19) * len
      let ready := k.live = true ∧ s.fld (chIo ch) 63 60 = 3 ∧ k.rd = none ∧
        ∃ t, s.nextSlot ch = some t ∧ t ≤ s.cyc + 1 + 40 * s.fld (Reg.TDL_SPIDEV d) 15 12
      (¬ ready → exec (.spiRead ch data) s = .next s) ∧
      (ready → Ends (.spiRead ch data) s (fun t => t.chan ch = { k with rd := some ends } ∧ tabGet 0 t.spiBusy (d / 4) = ends ∧
        (∃ l, tabGet [] t.spiRead d = l ++ [(ends, data.toNat % 2 ^ len)]) ∧
        t.out = (if s.flag Reg.PAD_HOLD_STAT 1 then s.out else s.out ++ [.spi d (s.fld (Reg.TDL_SPIDEV d) 63 32 % 2 ^ len)]) ∧
        t = { s with tdl := t.tdl, spiBusy := t.spiBusy, spiRead := t.spiRead, out := t.out }))) ∧
    (∀ b : Fin 4, let r := Reg.TDL_DROP b
      let h := s.fld r 51 48
      (s.flag r 63 = false ∨ s.dropRingOf b = none → exec (.dropCopy b) s = .next s) ∧
      (∀ c x, s.flag r 63 = true → s.dropRingOf b = some (c, x) → tabFind s.drops b = none → x.st.getD x.acq .e ≠ .f →
        exec (.dropCopy b) s = .next s) ∧
      (∀ c x, s.flag r 63 = true → s.dropRingOf b = some (c, x) → tabFind s.drops b = none → x.st.getD x.acq .e = .f →
        x.base + x.sb * x.acq + x.sb ≤ 2048 → x.tail = x.acq → x.acq < x.st.length → s.hbrUe = [] → s.hbrCe = [] → s.islandOn (s.fld r 62 60) = true →
        let a := hbrAddr (s.fld r 62 60) (4096 * (x.base + x.sb * x.acq))
        Ends (.dropCopy b) s (fun t => ∃ n, n ≤ 128 * x.sb ∧
          t.dropRing = s.dropRing ++ (List.range n).map (fun j => (⟨b, s.mem.readN (a + 32 * j) 32, 1000000000 * s.tbS + s.tbNs⟩ : LandedRec)) ∧
          (∀ j < n, (s.mem.read (a + 32 * j)).toNat % 4 ≠ 0) ∧
          t.fld (Reg.TDL_DROP_STAT b) 63 32 = (s.fld (Reg.TDL_DROP_STAT b) 63 32 + n) % 2 ^ 32 ∧ t.mem = s.mem ∧
          (∀ d, d ≠ c → t.core d = s.core d) ∧
          ((n = 128 * x.sb ∨ (s.dropRing.length + n < 1024 ∧ (s.mem.read (a + 32 * n)).toNat % 4 = 0)) ∧
              t.ring c h = some { x with st := (x.st.set x.acq .c).set x.acq .e, acq := (x.acq + 1) % x.slots, tail := (x.tail + 1) % x.slots } ∧
              tabFind t.drops b = none ∨
            n < 128 * x.sb ∧ 1024 ≤ s.dropRing.length + n ∧ tabFind t.drops b = some ⟨32 * n, true⟩ ∧
              t.ring c h = some { x with st := x.st.set x.acq .c, acq := (x.acq + 1) % x.slots })))) ∧
    (s.dropRing = [] → exec .setpointRecord s = .next s) ∧
    (∀ l rest, s.dropRing = l :: rest →
      let c := recNat l.bytes 1 1 % 64
      let at' := recNat l.bytes 8 8 * 1000000000 + recNat l.bytes 4 4
      let bad := 4 ≤ recNat l.bytes 0 1 ∨ 64 ≤ recNat l.bytes 1 1 ∨ recZero l.bytes 24 8 = false ∨ 1000000000 ≤ recNat l.bytes 4 4 ∨
        s.chEn c = false ∨ s.flag (Reg.TDL_DROP_MASK l.b) c = false
      let rec' : TdlRec := ⟨at', recNat l.bytes 0 1 % 4, BitVec.ofNat 32 (recNat l.bytes 16 4), BitVec.ofNat 32 (recNat l.bytes 20 4), recNat l.bytes 2 2⟩
      let pend := (s.chan c).pend
      (bad → Ends .setpointRecord s (fun t => t = { s with dropRing := rest, regs := t.regs, evt := t.evt } ∧
        t.fld (Reg.TDL_DROP_STAT l.b) 31 16 = min 65535 (s.fld (Reg.TDL_DROP_STAT l.b) 31 16 + 1) ∧
        ∀ o, o ≠ Reg.TDL_DROP_STAT l.b → t.reg o = s.reg o)) ∧
      (¬ bad → Ends .setpointRecord s (fun t => t.dropRing = rest ∧
        t.chan c = { s.chan c with pend := (if 4 ≤ pend.length then pend.dropLast else pend) ++ [rec'] } ∧
        t.flag (chStat c) 3 = (s.flag (chStat c) 3 || decide (4 ≤ pend.length)) ∧
        t.flag (chStat c) 2 = (s.flag (chStat c) 2 || decide (at' < l.ns)) ∧ (∀ d, d ≠ c → t.chan d = s.chan d) ∧
        (∀ o, o ≠ chStat c → t.reg o = s.reg o) ∧ t.mem = s.mem ∧ t.cores = s.cores))))

/-! ## CAN -/

/-- INIT is set at once or at the end of the frame on the bus, and cleared only with a bit timing that R426 permits, the
counters then 0; the controller joins the bus error-active; RECOVER acts in bus-off and its end clears the counters. No other
window writes the controller's CAN_CTRL in the cycle (R425, R426, R437 to R439). -/
def Obligations.CanControllersInitAndRecover : Prop :=
  ∀ (s : State),
    (∀ (w : Who) (v : Word), let n := winOf w
      let k := s.canSel n
      let c := canCtrl k
      let st := s.fld (canStat k) 47 46
      let word := fun i b => BitVec.ofNat 64 (bitsPut v.toNat i i b)
      let reg := fun o => (s.reg (canBank k o)).toNat
      let nbt := reg (Reg.CAN_NBT 0)
      let dbt := reg (Reg.CAN_DBT 0)
      let nseg := bitsOf nbt 24 17 + bitsOf nbt 16 10 + 3
      let dseg := bitsOf dbt 27 23 + bitsOf dbt 22 19 + 3
      let timing := 8 ≤ nseg ∧ 5 ≤ dseg ∧ bitsOf nbt 31 25 ≤ bitsOf nbt 16 10 ∧ bitsOf dbt 31 28 ≤ bitsOf dbt 22 19 ∧
        160 ≤ nseg * (bitsOf nbt 7 0 + 1) ∧ 20 ≤ dseg * (bitsOf dbt 4 0 + 1) ∧
        (bitOf (reg (Reg.CAN_TDC 0)) 31 = true → bitsOf dbt 4 0 + 1 ≤ 2)
      let fields := fun (t : State) => ∀ i ∈ [2, 3, 4, 5, 16, 17, 18, 19, 20, 21, 22, 23, 24, 25, 26, 27, 28, 29, 31], t.flag c i = v.getLsbD i
      let s' := fun (t : State) => { s with regs := t.regs, evt := t.evt, winNow := t.winNow }
      (∀ x ∈ s.winNow, x.key ≠ c) →
      (∀ busy, WhoReaches w (Reg.CAN_CTRL n) 32 (word 0 1) s → Ends (.canInitSet w v busy) s (fun t => t.flag c 0 = true ∧ fields t ∧
        (s.flag c 0 = false → busy = false → tabFind s.canTx k = none → t.fld (canStat k) 47 46 = 3 ∧ t.flag (canStat k) 45 = false) ∧
        (s.flag c 0 = false → busy = true ∨ tabFind s.canTx k ≠ none → st < 2 → t.fld (canStat k) 47 46 = st) ∧
        t.canQ = s.canQ ∧ t.mem = s.mem ∧ t.cores = s.cores)) ∧
      (WhoReaches w (Reg.CAN_CTRL n) 32 (word 0 0) s →
        (s.flag c 0 = true → timing → Ends (.canInitClear w v) s (fun t => t.flag c 0 = false ∧ fields t ∧ t.fld (canStat k) 63 48 = 0 ∧
          (2 ≤ st → t.fld (canStat k) 47 46 = st ∧ t = s' t) ∧ (st < 2 → t.fld (canStat k) 47 46 = 0) ∧ t.mem = s.mem ∧ t.cores = s.cores)) ∧
        (s.flag c 0 = true → ¬ timing → Ends (.canInitClear w v) s (fun t => t.flag c 0 = true ∧ fields t ∧ t.flag (Reg.CAN_WSTAT n) 4 = true ∧
          t.fld (canStat k) 63 48 = s.fld (canStat k) 63 48 ∧ t = s' t))) ∧
      (WhoReaches w (Reg.CAN_CTRL n) 32 (word 6 1) s → s.flag c 0 = false → v.getLsbD 0 = false →
        (st = 2 → s.flag (canStat k) 45 = false → Ends (.canRecover w v) s (fun t => t.flag (canStat k) 45 = true ∧ t.flag c 6 = false ∧ fields t ∧
          t.fld (canStat k) 47 46 = 2 ∧ t = s' t)))) ∧
    (∀ k : Fin 8, let c := canCtrl k
      let st := s.fld (canStat k) 47 46
      (s.flag c 0 = true ∨ st ≠ 3 → exec (.canBusJoin k) s = .next s) ∧
      (s.flag c 0 = false → st = 3 → Ends (.canBusJoin k) s (fun t => t.fld (canStat k) 47 46 = 0 ∧
        t.fld (canStat k) 63 48 = s.fld (canStat k) 63 48 ∧ t.cores = s.cores ∧ t.mem = s.mem ∧ (s.flag c 31 = false → RegOnly (canStat k) s t) ∧
        (s.flag c 31 = true → tabFind s.synEvt (s.fld c 29 16) = none → let o := Reg.SYN_CNT (s.fld c 29 16)
          t.reg o = s.reg o + 1))) ∧
      (st ≠ 2 ∨ s.flag (canStat k) 45 = false → exec (.canRecoveryComplete k) s = .next s) ∧
      (st = 2 → s.flag (canStat k) 45 = true → Ends (.canRecoveryComplete k) s (fun t => t.fld (canStat k) 63 45 = 0 ∧ t.cores = s.cores ∧
        t.mem = s.mem ∧ (s.flag c 31 = false → RegOnly (canStat k) s t))))

/-- A valid frame goes to the first buffer whose filter it passes, stamped, its sequence number one higher and NEW in every window, or
raises NOMATCH; it is acknowledged but with LOM, and heard but with LBK; REC falls by one, to 119 to 127 from above 127. Reading a
buffer's header latches it for the window (R422, R428 to R432, R437, R439). A request joins the queue once, refused for a template
another agent holds, those of one cycle in the order of their windows; a cancellation takes a waiting entry out of it, refused for
Tideline's; the head starts with its frame copied, and at its end is stamped and gone with TEC one lower; an error returns it to
the head with TEC 8 higher, or raises REC (R422, R427, R428, R430, R433 to R437, R439). -/
def Obligations.CanFramesAreReceivedAndSent : Prop :=
  (∀ (s : State),
    (∀ (k : Fin 8) (rtr : Bool) (f : CanFrame) (ago : Nat), let r := canStat k
      let time := s.tbBack ago / 2 ^ 32
      let g : CanFrame := { f with brs := f.fdf && f.brs, esi := f.fdf && f.esi, id := if f.ide then f.id else 2 ^ 18 * (f.id / 2 ^ 18) }
      let acked := fun (t : State) => ∃ l, t.out = (if s.flag (canCtrl k) 2 || s.flag Reg.PAD_HOLD_STAT 2 then s.out else s.out ++ [.canAck k]) ++ l
      let flt := fun (i : Nat) => (s.reg (canBank k (Reg.RXB_FLT 0 i))).toNat
      let passes := fun (i : Nat) => bitOf (flt i) 63 = true ∧ bitOf (flt i) 62 = f.ide ∧
        ∀ j < 29, bitOf (flt i) j = true → g.id.testBit j = bitOf (flt i) (32 + j)
      let bytes := if f.dlc % 16 ≤ 8 then f.dlc % 16 else if f.fdf then [12, 16, 20, 24, 32, 48, 64].getD (f.dlc % 16 - 9) 64 else 8
      let rec0 := s.fld r 55 48
      let counts := fun (t : State) => (s.flag (canCtrl k) 4 = true ∨ rec0 = 0 → t.fld r 55 48 = rec0) ∧
        (s.flag (canCtrl k) 4 = false → 0 < rec0 → rec0 ≤ 127 → t.fld r 55 48 = rec0 - 1) ∧
        (s.flag (canCtrl k) 4 = false → 127 < rec0 → 119 ≤ t.fld r 55 48 ∧ t.fld r 55 48 ≤ 127) ∧ t.fld r 63 56 = s.fld r 63 56
      (2 ≤ s.fld r 47 46 ∨ s.flag (canCtrl k) 3 = true → exec (.canFrameReceived k rtr f ago) s = .next s) ∧
      (s.fld r 47 46 < 2 → s.flag (canCtrl k) 3 = false →
        (∀ i, rtr = false → i < 128 → passes i → (∀ j < i, ¬ passes j) → Ends (.canFrameReceived k rtr f ago) s (fun t => counts t ∧ acked t ∧
          (∃ x, tabFind t.canRx (128 * k + i) = some x ∧ x.cyc = s.cyc ∧ x.frame = { g with data := x.frame.data } ∧ x.frame.data.length = bytes ∧
            (∀ j, j < bytes → j < f.data.length → x.frame.data.getD j 0 = f.data.getD j 0) ∧ x.sec = time / 1000000000 ∧
            x.ns = time % 1000000000 ∧ x.seq = (((tabFind s.canRx (128 * k + i)).map (·.seq)).getD 0 + 1) % 256) ∧
          (∀ w < 4, t.canNew.contains (1024 * w + (128 * k + i)) = true) ∧
          (∀ j, j ≠ 128 * k + i → tabFind t.canRx j = tabFind s.canRx j) ∧ t.fld r 31 16 = s.fld r 31 16 ∧ t.canQ = s.canQ)) ∧
        (rtr = true ∨ (∀ i < 128, ¬ passes i) → Ends (.canFrameReceived k rtr f ago) s (fun t => counts t ∧ acked t ∧ t.canRx = s.canRx ∧
          t.canNew = s.canNew ∧ t.fld r 31 16 = min 65535 (s.fld r 31 16 + 1) ∧ t.canQ = s.canQ)))) ∧
    (∀ (w : Who) (v : Fin 4) (i : Fin 128), let k := s.canSel v
      let x := tabGet CanRx.none s.canRx (128 * k + i)
      let key := 1024 * v.val + (128 * k + i)
      ((∀ fn, w = .host fn → s.accessKind fn false (Reg.RXB_HDR v i) 64 0 = none) → (∃ fn, w = .host fn) ∨ winOf w = v.val →
        Ends (.rxbHdrLatch w v i) s (fun t => t.readOk = true ∧ bitsOf t.readData 63 35 = x.frame.id % 2 ^ 29 ∧ bitOf t.readData 34 = x.frame.ide ∧
          bitOf t.readData 33 = x.frame.fdf ∧ bitOf t.readData 32 = x.frame.brs ∧ bitOf t.readData 31 = x.frame.esi ∧
          bitsOf t.readData 30 27 = x.frame.dlc % 16 ∧ bitOf t.readData 26 = s.canNew.contains key ∧ bitsOf t.readData 25 18 = x.seq % 256 ∧
          tabFind t.canLatch v = some x ∧ t.canNew.contains key = false ∧ (∀ j, j ≠ key → t.canNew.contains j = s.canNew.contains j) ∧
          t = { s with readData := t.readData, readOk := t.readOk, canLatch := t.canLatch, canNew := t.canNew })) ∧
      ((∀ fn, w ≠ .host fn) → winOf w ≠ v.val → exec (.rxbHdrLatch w v i) s = .next s))) ∧
  (∀ (s : State),
    (∀ (w : Who) (m : Fin 128), let n := winOf w
      let k := s.canSel n
      let q := tabGet [] s.canQ k
      let holder := (tabGet (0, 0) s.claims (0x400 + 128 * k + m)).1
      let denied := holder ≠ 0 ∧ holder ≠ n + 1
      let flags := fun (b : Nat) (t : State) => RegOnly (Reg.CAN_WSTAT n) s t ∧ t.flag (Reg.CAN_WSTAT n) b = true
      (WhoReaches w (Reg.CAN_TXREQ n) 32 (BitVec.ofNat 64 m.val) s →
        (denied → Ends (.canTxRequest w m) s (flags 3)) ∧
        (¬ denied → s.canNow = [] → m.val ∈ q → exec (.canTxRequest w m) s = .next s) ∧
        (¬ denied → s.canNow = [] → m.val ∉ q → Ends (.canTxRequest w m) s (fun t => t = { s with canQ := t.canQ, canNow := t.canNow } ∧
          tabGet [] t.canQ k = q ++ [m.val] ∧ (∀ j, j ≠ k → tabGet [] t.canQ j = tabGet [] s.canQ j) ∧
          ∀ (w' : Who) (m' : Fin 128), winOf w' < winOf w → s.canSel (winOf w') = k → m' ≠ m → m'.val ∉ q →
            WhoReaches w' (Reg.CAN_TXREQ (winOf w')) 32 (BitVec.ofNat 64 m'.val) s → s.tplDenied (winOf w') k m' = false →
            Ends (.canTxRequest w' m') t (fun u => tabGet [] u.canQ k = q ++ [m'.val, m.val])))) ∧
      (WhoReaches w (Reg.CAN_TXREQ n) 32 (BitVec.ofNat 64 (m.val + 2 ^ 31)) s →
        (holder = 5 ∨ m.val ∉ q → Ends (.canTxCancel w m) s (flags 2)) ∧
        (holder ≠ 5 → m.val ∈ q → Ends (.canTxCancel w m) s (fun t => t.flag (Reg.CAN_WSTAT n) 1 = true ∧
          t = { s with canQ := t.canQ, regs := t.regs, evt := t.evt } ∧ tabGet [] t.canQ k = q.filter (fun x => x != m.val) ∧
          ∀ o, o ≠ Reg.CAN_WSTAT n → t.reg o = s.reg o)))) ∧
    (∀ k : Fin 8, let r := canStat k
      let st := s.fld r 47 46
      let q := tabGet [] s.canQ k
      let may := st < 2 ∧ s.flag (canCtrl k) 0 = false ∧ s.flag (canCtrl k) 2 = false ∧ s.flag (canCtrl k) 4 = false ∧ tabFind s.canTx k = none
      (q = [] ∨ ¬ may → exec (.canTxStart k) s = .next s) ∧
      (∀ m l, q = m :: l → may → let h := (s.reg (canBank k (Reg.TPL_HDR 0 m))).toNat
        let nbt := (s.reg (canBank k (Reg.CAN_NBT 0))).toNat
        Ends (.canTxStart k) s (fun t => ∃ x, tabFind t.canTx k = some x ∧ x.tpl = m ∧ x.stamp = none ∧
          x.sof = s.cyc + ((2 + bitsOf nbt 24 17) * (bitsOf nbt 7 0 + 1) * 25 + 7) / 8 ∧
          x.frame.id = (if bitOf h 34 then bitsOf h 63 35 else 2 ^ 18 * bitsOf h 63 53) ∧ x.frame.ide = bitOf h 34 ∧ x.frame.fdf = bitOf h 33 ∧
          x.frame.brs = (bitOf h 33 && bitOf h 32) ∧ x.frame.dlc = bitsOf h 30 27 ∧ (x.frame.esi = true ↔ bitOf h 33 = true ∧ st = 1) ∧
          (∀ i < x.frame.data.length, x.frame.data.getD i 0 = BitVec.ofNat 8 ((s.reg (canBank k (Reg.TPL_DATA 0 m (i / 4)))).toNat / 256 ^ (i % 4))) ∧
          tabGet [] t.canQ k = l ∧ t = { s with canQ := t.canQ, canTx := t.canTx, out := t.out } ∧
          (t.out = if s.flag Reg.PAD_HOLD_STAT 2 || s.flag (canCtrl k) 3 then s.out else s.out ++ [.can k x.frame]))) ∧
      (∀ d, tabFind s.canTx k = none → exec (.canTxComplete k d) s = .next s) ∧
      (∀ d x, tabFind s.canTx k = some x → x.tpl < 128 →
        let stamp := x.stamp.getD (s.tbS, s.tbNs)
        let blind := s.flag (canBank k (Reg.CAN_TDC 0)) 31 = true ∧ x.frame.brs = true ∧ d = none
        (blind → st < 2 → exec (.canTxComplete k d) s = exec (.canBusError k ⟨false, 5, false, false, 0, none⟩) s) ∧
        (¬ blind → stamp.1 < 2 ^ 64 → stamp.2 < 2 ^ 30 → Ends (.canTxComplete k d) s (fun t => tabFind t.canTx k = none ∧
        (t.reg (canBank k (Reg.TPL_TS_S 0 x.tpl))).toNat = stamp.1 ∧ (t.reg (canBank k (Reg.TPL_TS_NS 0 x.tpl))).toNat = stamp.2 ∧
        t.fld r 63 56 = s.fld r 63 56 - 1 ∧ t.canQ = s.canQ ∧ (s.flag (canCtrl k) 3 = false → t.canRx = s.canRx ∧ t.fld r 55 48 = s.fld r 55 48)))) ∧
      (∀ e : CanErr, 2 ≤ st ∨ (tabFind s.canTx k = none ∧ s.flag (canCtrl k) 3 = true) → exec (.canBusError k e) s = .next s) ∧
      (∀ e : CanErr, st < 2 → tabFind s.canTx k ≠ none ∨ s.flag (canCtrl k) 3 = false →
        let back := fun (t : State) => (∀ x, tabFind s.canTx k = some x → tabFind t.canTx k = none ∧ tabGet [] t.canQ k = x.tpl :: q.filter (fun y => y != x.tpl)) ∧
          (tabFind s.canTx k = none → t.canQ = s.canQ ∧ t.canTx = s.canTx)
        (e.lost = true → Ends (.canBusError k e) s (fun t => back t ∧ t = { s with canQ := t.canQ, canTx := t.canTx, regs := t.regs } ∧
          (e.delay = none → t.regs = s.regs))) ∧
        (e.lost = false → Ends (.canBusError k e) s (fun t => back t ∧
          (t.fld r 44 42 = if e.dataPhase then e.code.val else s.fld r 44 42) ∧ (t.fld r 41 39 = if e.dataPhase then s.fld r 41 39 else e.code.val) ∧
          (s.flag (canCtrl k) 4 = true → t.fld r 63 48 = s.fld r 63 48) ∧
          (s.flag (canCtrl k) 4 = false → (∀ x, tabFind s.canTx k = some x → t.fld r 55 48 = s.fld r 55 48 ∧
              let tec := s.fld r 63 56 + (if e.exempt then 0 else 8) + 8 * e.more
              t.fld r 63 56 = min 255 tec ∧ (s.flag (canCtrl k) 0 = false → t.fld r 47 46 = if 255 < tec then 2 else if 127 < max tec (s.fld r 55 48) then 1 else 0)) ∧
            (tabFind s.canTx k = none → t.fld r 63 56 = s.fld r 63 56 ∧ t.fld r 55 48 = min 255 (s.fld r 55 48 + (if e.exempt then 0 else 1) + 8 * e.more))))))))

/-! ## The sensor ports -/

/-- Of all registers only bits `hi` to `lo` of the one at `off` have changed, to `v`; nothing else has. -/
def Sys2Proof.Claims.FldOnly (off hi lo v : Nat) (s t : State) : Prop :=
  RegOnly off s t ∧ t.fld off hi lo = v ∧ ∀ b, b < lo ∨ hi < b → t.flag off b = s.flag off b

/-- The harbour bytes from `a` on are `bs` and every other byte of memory is as it was. -/
def Sys2Proof.Claims.BytesAt (a : Nat) (bs : List Byte) (s t : State) : Prop :=
  ∀ x, t.mem.read x = if a ≤ x ∧ x < a + bs.length then bs.getD (x - a) 0 else s.mem.read x

/-- A harbour with no word in error, and a slot of `n` bytes at `a` that lies in a powered harbour. -/
abbrev Sys2Proof.Claims.GoodSlot (s : State) (a n : Nat) : Prop :=
  s.hbrUe = [] ∧ s.hbrCe = [] ∧ hbrAddr 0 0 ≤ a ∧ a + n ≤ hbrAddr 8 0 ∧ ∀ x, a ≤ x → x < a + n → s.memOn x = true

/-- A sensor port takes the frames addressed to it, counts bad and unbound ones, and puts a matched one behind its header into
the slot its binding fills, or into a new one, or drops it; COAL_US after its first frame the slot is committed behind a
terminator, with the binding's signal; a FULL send slot goes out frame by frame, stamped where asked, and is released; the PHY
announces the link and its rate; every frame sent ends in the MAC's FCS. A causeway port keeps, stamped, a PTP frame that its
encapsulation lets it hear (R446, R449, R451 to R455; that what else it hears is discarded is Log 70's). -/
def Obligations.SensorPortsReceiveAndSendFrames : Prop :=
  ∀ (p : Fin 4) (s : State),
    let stat := Reg.NET_SP_STAT p
    let cfg := Reg.NET_SP_CFG p
    let on := s.flag cfg 63 = true ∧ s.flag stat 63 = true
    let counts := fun (hi lo : Nat) => FldOnly stat hi lo (min (2 ^ (hi + 1 - lo) - 1) (s.fld stat hi lo + 1)) s
    (∀ (p' : Fin 16) (bad : Bool) (data : List Byte) (ago : Nat), p'.val = p.val →
      let dst := beAt data 0 6
      let tag := beAt data 12 2 == 0x8100
      let etype := if tag then beAt data 16 2 else beAt data 12 2
      let mine := data.length + 4 ≤ 9216 ∧ 14 ≤ data.length ∧ ¬ (tag = true ∧ etype = 0x8100) ∧
        (dst = s.fld cfg 47 0 ∨ dst = 0xFFFFFFFFFFFF ∨ (s.flag cfg 62 = true ∧ bitOf dst 40 = true))
      let fits := fun (r : Nat) => let g := Reg.NET_SP_RX_MATCH p r
        s.flag g 63 = true ∧ (s.flag g 62 = true → tag = true ∧ beAt data 14 2 % 4096 = s.fld g 59 48) ∧
        (s.fld g 47 32 = 0 ∨ s.fld g 47 32 = etype) ∧ (s.fld g 31 16 = 0 ∨ udpPort data etype (if tag then 18 else 14) = some (s.fld g 31 16))
      (¬ on → exec (.ethFrameReceived p' bad data ago) s = .next s) ∧
      (on → bad = true → Ends (.ethFrameReceived p' bad data ago) s (counts 15 0)) ∧
      (on → bad = false → ¬ mine → exec (.ethFrameReceived p' bad data ago) s = .next s) ∧
      (on → bad = false → mine → (∀ r < 8, ¬ fits r) → Ends (.ethFrameReceived p' bad data ago) s (counts 31 16)) ∧
      (∀ r < 8, on → bad = false → mine → fits r → (∀ j < r, ¬ fits j) →
        let k := 8 * p.val + r
        let st := s.ethBack ago (signedOf 32 (s.fld (Reg.NET_SP_CORR p) 31 0))
        let bs := leBytes 2 data.length ++ leBytes 1 p ++ leBytes 1 (if tag then 9 else 8) ++ leBytes 4 0 ++ timeBytes st.1 st.2.1 ++ leBytes 2 st.2.2 ++
          leBytes 10 0 ++ data
        let isl := s.fld (Reg.NET_SP_RX_RING p r) 63 61
        let others := fun (t : State) => ∀ j, j ≠ k → tabFind t.ethRx j = tabFind s.ethRx j
        (s.ethRing p r = none → Ends (.ethFrameReceived p' bad data ago) s (counts 47 32)) ∧
        (∀ c ring, s.ethRing p r = some (c, ring) →
          let h := s.fld (Reg.NET_SP_RX_RING p r) 52 49
          let a := ring.hbrSlot isl ring.head
          (ring.slotBytes < bs.length → Ends (.ethFrameReceived p' bad data ago) s (counts 47 32)) ∧
          (∀ x, tabFind s.ethRx k = some x → x.off + bs.length ≤ ring.slotBytes → GoodSlot s a ring.slotBytes → Ends (.ethFrameReceived p' bad data ago) s (fun t =>
            BytesAt (a + x.off) bs s t ∧ tabFind t.ethRx k = some ⟨up64 (x.off + bs.length), x.since⟩ ∧ others t ∧ SameCores s t ∧ t.regs = s.regs)) ∧
          (bs.length ≤ ring.slotBytes → tabFind s.ethRx k = none →
            (ring.st.getD ring.rsv .e ≠ .e → Ends (.ethFrameReceived p' bad data ago) s (counts 47 32)) ∧
            (ring.st.getD ring.rsv .e = .e → ring.rsv < ring.st.length → GoodSlot s a ring.slotBytes → Ends (.ethFrameReceived p' bad data ago) s (fun t => BytesAt a bs s t ∧
              tabFind t.ethRx k = some ⟨up64 bs.length, s.cyc⟩ ∧ others t ∧ t.regs = s.regs ∧ (∀ d, d ≠ c → ButCache (s.core d) (t.core d)) ∧
              t.ring c h = some { ring with st := ring.st.set ring.rsv .p, rsv := (ring.rsv + 1) % ring.slots })))))) ∧
    (∀ r : Fin 8, let g := Reg.NET_SP_RX_RING p r
      let k := 8 * p.val + r.val
      (tabFind s.ethRx k = none → exec (.ethCoalesceTimeout p r) s = .next s) ∧
      (∀ x, tabFind s.ethRx k = some x → s.cyc < x.since + 500 * s.fld g 15 0 → exec (.ethCoalesceTimeout p r) s = .next s) ∧
      (∀ x c ring, tabFind s.ethRx k = some x → x.since + 500 * s.fld g 15 0 ≤ s.cyc → s.ethRing p r = some (c, ring) →
        ring.st.getD ring.head .e = .p → GoodSlot s (ring.hbrSlot (s.fld g 63 61) ring.head) ring.slotBytes → Ends (.ethCoalesceTimeout p r) s (fun t =>
          BytesAt (ring.hbrSlot (s.fld g 63 61) ring.head + x.off) (if x.off + 32 ≤ ring.slotBytes then leBytes 32 0 else []) s t ∧
          tabFind t.ethRx k = none ∧ (∀ d, d ≠ c → ButCache (s.core d) (t.core d)) ∧
          t.ring c (s.fld g 52 49) = some { ring with st := ring.st.set ring.head .f, head := (ring.head + 1) % ring.slots } ∧
          (s.flag g 48 = false → t.regs = s.regs) ∧
          (s.flag g 48 = true → tabFind s.synEvt (s.fld g 47 34) = none → t.reg (Reg.SYN_CNT (s.fld g 47 34)) = s.reg (Reg.SYN_CNT (s.fld g 47 34)) + 1)))) ∧
    (∀ sfd : List Nat, let g := Reg.NET_SP_TX p
      let isl := s.fld g 62 60
      let h := s.fld g 51 48
      (s.flag g 63 = false ∨ ¬ on ∨ s.shoreRing isl (s.fld g 59 52) h false = none → exec (.ethTxSlot p sfd) s = .next s) ∧
      (∀ c ring, s.shoreRing isl (s.fld g 59 52) h false = some (c, ring) →
        let a := ring.hbrSlot isl ring.acq
        let hd := s.mem.readN a 32
        let len := recNat hd 0 2
        let flags := recNat hd 3 1
        let legal := flags < 16 ∧ recZero hd 6 2 = true ∧ recZero hd 22 10 = true ∧ 32 + len ≤ ring.slotBytes
        let gone := fun (t : State) => (∀ d, d ≠ c → ButCache (s.core d) (t.core d)) ∧ t.ethRx = s.ethRx ∧
          t.ring c h = some { ring with st := ring.st.set ring.acq .e, acq := (ring.acq + 1) % ring.slots, tail := (ring.acq + 1) % ring.slots }
        let ends := ring.slotBytes < up64 (32 + len) + 32 ∨ recNat (s.mem.readN (a + up64 (32 + len)) 32) 0 2 = 0
        (ring.st.getD ring.acq .e ≠ .f → exec (.ethTxSlot p sfd) s = .next s) ∧
        (s.flag g 63 = true → on → ring.st.getD ring.acq .e = .f → ring.tail = ring.acq → GoodSlot s a ring.slotBytes → 32 ≤ ring.slotBytes →
          (len = 0 → Ends (.ethTxSlot p sfd) s (fun t => gone t ∧ t.out = s.out ∧ t.mem = s.mem ∧ t.regs = s.regs)) ∧
          (len ≠ 0 → ¬ legal → Ends (.ethTxSlot p sfd) s (fun t => gone t ∧ t.out = s.out ∧ t.mem = s.mem ∧
            t.fld Reg.NET_CW_STAT 31 16 = min 65535 (s.fld Reg.NET_CW_STAT 31 16 + 1) ∧ ∀ o, o ≠ Reg.NET_CW_STAT → t.reg o = s.reg o)) ∧
          (len ≠ 0 → legal → ends → let fr := s.mem.readN (a + 32) len
            let st := s.ethStamp (signedOf 32 (s.fld (Reg.NET_SP_CORR p) 63 32) + (sfd.headD 0 : Nat))
            (bitsOf flags 2 1 = 0 → Ends (.ethTxSlot p sfd) s (fun t => gone t ∧ t.out = s.out ++ [.frame p (fr ++ frameFcs fr)] ∧ t.mem = s.mem ∧ t.regs = s.regs)) ∧
            (bitsOf flags 2 1 ≠ 0 → Ends (.ethTxSlot p sfd) s (fun t => gone t ∧ t.regs = s.regs ∧
              BytesAt a (hd.take 3 ++ leBytes 1 (flags ||| 8) ++ (hd.drop 4).take 4 ++ timeBytes st.1 st.2.1 ++ leBytes 2 st.2.2 ++ leBytes 10 0) s t ∧
              ∃ sent, t.out = s.out ++ [.frame p (sent ++ frameFcs sent)] ∧ (bitOf flags 2 = false → sent = fr) ∧
                (bitOf flags 2 = true → recNat hd 4 2 + 10 ≤ len → sent = fr.take (recNat hd 4 2) ++ (leBytes 6 st.1).reverse ++
                  (leBytes 4 st.2.1).reverse ++ fr.drop (recNat hd 4 2 + 10)))))))) ∧
    (∀ (up : Bool) (rate : Fin 4), Ends (.sensorLinkChange p up rate) s (fun t => RegOnly stat s t ∧ t.flag stat 63 = up ∧
      t.fld stat 62 61 = (if up then rate.val else 0) ∧ t.fld stat 60 0 = s.fld stat 60 0)) ∧
    (∀ (q : Fin 16) (bad : Bool) (data : List Byte) (ago : Nat), 4 ≤ q.val →
      let ptp := beAt data 12 2 = 0x88F7 ∨ (beAt data 12 2 = 0x8100 ∧ beAt data 16 2 = 0x88F7)
      let o := if beAt data 12 2 = 0x8100 then 18 else 14
      let overUdp := s.flag Reg.NET_CW_CFG 60 = true ∧ beAt data (o - 2) 2 = 0x86DD ∧ beAt data (o + 6) 1 = 17 ∧
        (beAt data (o + 42) 2 = 319 ∨ beAt data (o + 42) 2 = 320)
      let hears := 8 ≤ q.val ∧ bad = false ∧ s.portUp (q.val - 8) = true ∧ (ptp ∨ overUdp)
      (hears → exec (.ethFrameReceived q bad data ago) s = .next { s with
        ptpRx := tabPut s.ptpRx (q.val - 8) ⟨s.ethBack ago (tabGet (0, 0) s.cwCorr (q.val - 8)).2, data⟩ }) ∧
      (¬ hears → exec (.ethFrameReceived q bad data ago) s = .next s))

/-! ## The causeway -/

/-- A packet that this device takes on port `q`: the port has link, the frame is addressed to it, the system and the device
number are this device's (R457). -/
abbrev Sys2Proof.Claims.Addressed (s : State) (m : CwPkt) : Prop :=
  m.mine = true ∧ m.system = s.fld Reg.NET_CW_CFG 31 16 ∧ m.dst = s.fld Reg.NET_CW_CFG 5 0 ∧ m.src < 64

/-- What a packet that is not for this device does: it is counted as FOREIGN; on a port without link nothing happens. -/
def Sys2Proof.Claims.Turned (i : Instr) (q : Nat) (m : CwPkt) (s : State) : Prop :=
  (s.portUp q = false → exec i s = .next s) ∧
  (s.portUp q = true → ¬ Addressed s m → Ends i s (FldOnly Reg.NET_CW_STAT 63 48 (min 65535 (s.fld Reg.NET_CW_STAT 63 48 + 1)) s))

/-- A packet of this device on port `q` to device `d` with the given fields. -/
abbrev Sys2Proof.Claims.packet (s : State) (q d sch dch arg arg2 : Nat) : CwPkt :=
  ⟨true, 0, s.fld Reg.NET_CW_CFG 31 16, s.fld Reg.NET_CW_CFG 5 0, d, q, 0, sch, dch, 0, 0, arg, arg2, []⟩

/-- A CREDIT packet of receive side `c` has gone out on a usable port of its source, or none where no port is usable. -/
def Sys2Proof.Claims.CreditSent (s : State) (c size granted : Nat) (t : State) : Prop :=
  let r := Reg.NET_CH_RECV c
  let d := s.fld r 37 32
  (s.portsTo d 7 = [] → t.out = s.out) ∧
  (s.portsTo d 7 ≠ [] → ∃ q ∈ s.portsTo d 7, t.out = s.out ++ [.packet q (s.cwFrame q 4 (packet s q d c (s.fld r 7 0) (granted % 2 ^ 32) size))])

/-- A port that comes up takes the stamp corrections of its mode with ADJ; one that goes down is LEARNED nowhere; HELLO goes out
every period, teaches a route, clears its DOWN and sends again what was stranded, and three periods without one unlearn it; an
EMPTY slot is reserved and granted, CREDIT is repeated while credits are unused, and a received one raises the send side's
(R450, R458 to R461). -/
def Obligations.CausewayLinksRoutesAndCredits : Prop :=
  ∀ (s : State),
    (∀ q : Fin 8, let ps := Reg.NET_CW_PORT_STAT q
      let mode := s.fld Reg.NET_CW_CFG 62 61
      let has := s.flag Reg.NET_CW_CFG 63 = true ∧ q.val < (if mode = 0 then 2 else if mode = 1 then 4 else 8)
      let corr : Int × Int := if mode = 0 then (2719744, 6356992) else if mode = 1 then (3014656, 7110656) else (3637248, 8126464)
      (¬ has → exec (.cwLinkUp q) s = .next s) ∧
      (has → Ends (.cwLinkUp q) s (fun t => FldOnly ps 63 62 3 s { t with cwCorr := s.cwCorr } ∧
        tabFind t.cwCorr q = some (corr.1 + signedOf 32 (s.fld (Reg.NET_CW_PORT_ADJ q) 63 32), corr.2 + signedOf 32 (s.fld (Reg.NET_CW_PORT_ADJ q) 31 0)) ∧
        ∀ j, j ≠ q.val → tabFind t.cwCorr j = tabFind s.cwCorr j)) ∧
      Ends (.cwLinkDown q) s (fun t => t = { s with regs := t.regs, evt := t.evt } ∧ t.fld ps 63 62 = 0 ∧ t.fld ps 61 0 = s.fld ps 61 0 ∧
        (∀ d < 64, ∀ b, t.flag (Reg.NET_ROUTE d) b = (b != 8 + q.val && s.flag (Reg.NET_ROUTE d) b)) ∧
        ∀ o, o ≠ ps → (∀ d < 64, o ≠ Reg.NET_ROUTE d) → t.reg o = s.reg o)) ∧
    (∀ q : Fin 8, let due := ∀ x, tabFind s.helloSent q = some x → x + 500000 * max 1 (s.fld Reg.NET_CW_XPORT 31 24) ≤ s.cyc
      (s.portUp q = false ∨ ¬ due → exec (.helloSend q) s = .next s) ∧
      (s.portUp q = true → due → exec (.helloSend q) s = .next { s with helloSent := tabPut s.helloSent q s.cyc, out := s.out ++ [.packet q (s.cwFrame q 0 (packet s q 0 0 0 0 0))] })) ∧
    (∀ (q : Fin 8) (m : CwPkt),
      let r := Reg.NET_ROUTE m.src
      let own := s.fld Reg.NET_CW_CFG 5 0
      let known := s.portUp q = true ∧ m.mine = true ∧ m.system = s.fld Reg.NET_CW_CFG 31 16 ∧ m.src < 64
      let learns := fun (t : State) => t.flag r (8 + q.val) = true ∧ t.flag r (16 + q.val) = false ∧ tabFind t.helloAt (64 * q.val + m.src) = some s.cyc ∧
        (∀ j, j ≠ 64 * q.val + m.src → tabFind t.helloAt j = tabFind s.helloAt j)
      (s.portUp q = true → m.mine = false → Ends (.helloReceived q m) s (FldOnly Reg.NET_CW_STAT 63 48 (min 65535 (s.fld Reg.NET_CW_STAT 63 48 + 1)) s)) ∧
      (s.portUp q = false ∨ m.mine = true → ¬ known → exec (.helloReceived q m) s = .next s) ∧
      (known → m.src ≠ own → m.sport ≠ q.val → Ends (.helloReceived q m) s (FldOnly Reg.NET_CW_STAT 47 32 (min 65535 (s.fld Reg.NET_CW_STAT 47 32 + 1)) s)) ∧
      (known → m.src ≠ own → m.sport = q.val → s.flag r (16 + q.val) = false → Ends (.helloReceived q m) s (fun t => learns t ∧ t = { s with regs := t.regs, evt := t.evt, helloAt := t.helloAt } ∧
        ∀ o, o ≠ r → t.reg o = s.reg o)) ∧
      (known → m.src ≠ own → m.sport = q.val → s.flag r (16 + q.val) = true → Ends (.helloReceived q m) s (fun t => learns t ∧
        t.out = s.out ++ (s.path q m.src).unacked.map (fun u => .packet q (s.cwFrame q u.typ u.pkt)) ∧
        t.fld Reg.NET_CW_STAT 15 0 = max (s.fld Reg.NET_CW_STAT 15 0) (min 65535 (s.fld Reg.NET_CW_STAT 15 0 + (s.path q m.src).unacked.length)) ∧
        t = { s with regs := t.regs, evt := t.evt, helloAt := t.helloAt, out := t.out, cwPath := t.cwPath })) ∧
      (known → m.src = own → Ends (.helloReceived q m) s (fun t => t.flag r 24 = true ∧ (m.sport = q.val → learns t) ∧
        t.fld Reg.FWM_LOG_PTR 63 32 = (s.fld Reg.FWM_LOG_PTR 63 32 + 1) % 2 ^ 32))) ∧
    (∀ (q : Fin 8) (d : Fin 64), let due := tabGet 0 s.helloAt (64 * q.val + d.val) + 3 * (500000 * max 1 (s.fld Reg.NET_CW_XPORT 31 24)) ≤ s.cyc
      (¬ due → exec (.helloTimeout q d) s = .next s) ∧
      (due → Ends (.helloTimeout q d) s (FldOnly (Reg.NET_ROUTE d) (8 + q.val) (8 + q.val) 0 s))) ∧
    (∀ c : Fin 256, let x := s.cwRxOf c
      (s.recvRing c = none → exec (.creditGrant c) s = .next s ∧ exec (.creditRepeat c) s = .next s) ∧
      (x.granted ≤ x.done ∨ s.cyc < x.sent + 5000 → exec (.creditRepeat c) s = .next s) ∧
      (∀ k ring, s.recvRing c = some (k, ring) →
        let rest := fun (t : State) => t.regs = s.regs ∧ t.mem = s.mem ∧ (∀ j, j ≠ c.val → tabFind t.cwRx j = tabFind s.cwRx j)
        (ring.st.getD ring.rsv .e ≠ .e → exec (.creditGrant c) s = .next s) ∧
        (ring.st.getD ring.rsv .e = .e → Ends (.creditGrant c) s (fun t => rest t ∧ CreditSent s c ring.slotBytes (x.granted + 1) t ∧
          t.cwRxOf c = { x with granted := x.granted + 1, sent := s.cyc } ∧ (∀ g, g ≠ k → t.core g = s.core g) ∧
          t.ring k (s.fld (Reg.NET_CH_RECV c) 51 48) = some { ring with st := ring.st.set ring.rsv .p, rsv := (ring.rsv + 1) % ring.slots })) ∧
        (x.done < x.granted → x.sent + 5000 ≤ s.cyc → Ends (.creditRepeat c) s (fun t => rest t ∧ CreditSent s c ring.slotBytes x.granted t ∧
          t.cwRxOf c = { x with sent := s.cyc } ∧ t.cores = s.cores)))) ∧
    (∀ (q : Fin 8) (m : CwPkt),
      let r := Reg.NET_CH_SEND m.dch
      let x := s.cwTxOf m.dch
      let ours := m.dch < 256 ∧ s.flag r 63 = true ∧ s.fld r 37 32 = m.src ∧ s.fld r 7 0 = m.sch
      Turned (.creditReceived q m) q m s ∧
      (s.portUp q = true → Addressed s m → ¬ ours → exec (.creditReceived q m) s = .next s) ∧
      (∀ k, k < 2 ^ 31 → s.portUp q = true → Addressed s m → ours →
        (m.arg = (x.credits + k) % 2 ^ 32 → exec (.creditReceived q m) s = .next (s.setCwTx m.dch { x with credits := x.credits + k, size := m.arg2 })) ∧
        ((m.arg + k) % 2 ^ 32 = x.credits % 2 ^ 32 → exec (.creditReceived q m) s = .next (s.setCwTx m.dch { x with size := m.arg2 }))))

/-- The packets of channel `c`'s slot `n` to device `d`. -/
abbrev Sys2Proof.Claims.OfSlot (s : State) (c d n : Nat) (m : CwPkt) : Prop :=
  m.sch = c ∧ m.dch = s.fld (Reg.NET_CH_SEND c) 7 0 ∧ m.slot = n % 65536 ∧ m.prio = s.fld (Reg.NET_CH_SEND c) 47 45 ∧ m.dst = d ∧
  m.src = s.fld Reg.NET_CW_CFG 5 0 ∧ m.system = s.fld Reg.NET_CW_CFG 31 16 ∧ m.sport ∈ s.portsTo d 7

/-- A send side acquires a FULL slot when it has a credit and a slot with a legal header goes out as its payload in order, cut
into packets of at most 2,112 bytes, then its header with the stamp; a bad one is released and counted; without a port it is
held. Acknowledged packets are retired, the slot whose packets all are is released and SENT rises; those reported missing or
RTO_US old are sent again; after RETRY_MAX the path is DOWN, and what waits on a DOWN path goes out on another port
(R462 to R465). -/
def Obligations.CausewaySlotsAreSentAndAcknowledged : Prop :=
  ∀ (s : State),
    let emits := fun (q : Nat) (u : CwUnack) => OutMsg.packet q (s.cwFrame q u.typ u.pkt)
    (∀ c : Fin 256,
      let r := Reg.NET_CH_SEND c
      let x := s.cwTxOf c
      let d := s.fld r 37 32
      (s.sendRing c = none → exec (.cwSlotSend c) s = .next s) ∧
      (∀ n, x.cur = some (true, n) → exec (.cwSlotSend c) s = .next s) ∧
      (∀ k ring, s.sendRing c = some (k, ring) → x.cur = none →
        let a := ring.hbrSlot (s.fld r 62 60) ring.acq
        let hd := s.mem.readN a 64
        let len := recNat hd 0 4
        let kind := recNat hd 4 1
        let blocks := recNat hd 6 2
        let legal := recZero hd 13 1 = true ∧ recZero hd 40 24 = true ∧ len + 64 ≤ ring.slotBytes ∧ len + 64 ≤ x.size ∧
          ((kind = 0 ∧ recNat hd 5 1 ≤ 2 ∧ 1 ≤ blocks ∧ blocks ≤ 64 ∧ len % 33 = 0) ∨ (kind = 1 ∧ recNat hd 5 1 = 0 ∧ blocks = 0))
        let slotTo := fun (b : SlotSt) (t : State) => (∀ g, g ≠ k → ButCache (s.core g) (t.core g)) ∧ ∃ y, t.ring k (s.fld r 51 48) = some y ∧
          y.st = ring.st.set ring.acq b ∧ y.acq = (ring.acq + 1) % ring.slots ∧ y.tail = if b = .e then (ring.acq + 1) % ring.slots else ring.tail
        (ring.st.getD ring.acq .e ≠ .f ∨ x.credits ≤ x.n → exec (.cwSlotSend c) s = .next s) ∧
        (ring.st.getD ring.acq .e = .f → x.n < x.credits → ring.tail = ring.acq → GoodSlot s a ring.slotBytes →
          (¬ legal → Ends (.cwSlotSend c) s (fun t => slotTo .e t ∧ t.cwTxOf c = x ∧ t.fld Reg.NET_CW_STAT 31 16 = min 65535 (s.fld Reg.NET_CW_STAT 31 16 + 1))) ∧
          (legal → s.portsTo d 7 = [] → Ends (.cwSlotSend c) s (fun t => slotTo .c t ∧ t.cwTxOf c = { x with cur := some (false, 0) } ∧ t.out = s.out ∧ t.mem = s.mem)) ∧
          (legal → s.portsTo d 7 ≠ [] → Ends (.cwSlotSend c) s (fun t => slotTo .c t ∧ (t.cwTxOf c).cur = some (true, len) ∧ (t.cwTxOf c).n = x.n ∧ t.mem = s.mem ∧
            ∃ (ms : List CwPkt) (h : CwPkt), t.out = s.out ++ ms.map (fun m => .packet m.sport (s.cwFrame m.sport 1 m)) ++ [.packet h.sport (s.cwFrame h.sport 2 h)] ∧
              (ms.map (·.data)).flatten = s.mem.readN (a + 64) len ∧ (∀ m ∈ ms, OfSlot s c d x.n m ∧ 1 ≤ m.data.length ∧ m.data.length ≤ 2112) ∧
              (∀ (j : Nat) (m : CwPkt), ms[j]? = some m → m.offset = ((ms.take j).map (·.data.length)).sum ∧
                (kind = 0 → m.offset % (33 * blocks) = 0)) ∧ OfSlot s c d x.n h ∧ h.data.length = 64 ∧ h.data.take 12 = hd.take 12)))) ∧
      (∀ k ring n, s.sendRing c = some (k, ring) → x.cur = some (false, n) → s.portsTo d 7 = [] →
        let hd := s.mem.readN (ring.hbrSlot (s.fld r 62 60) ring.tail) 64
        cwHeaderOk hd ring.slotBytes x.size = true → GoodSlot s (ring.hbrSlot (s.fld r 62 60) ring.tail) ring.slotBytes → exec (.cwSlotSend c) s = .next s)) ∧
    (∀ (q : Fin 8) (d : Fin 64), let p := s.path q d
      let due := 8 ≤ p.owed ∨ (0 < p.owed ∧ p.since + 500 ≤ s.cyc)
      (¬ due ∨ s.portUp q = false → exec (.ackSend q d) s = .next s) ∧
      (due → s.portUp q = true → Ends (.ackSend q d) s (fun t => ∃ map, let arg := (p.rx + 2 ^ 32 - 1) % 2 ^ 32
        t.out = s.out ++ [.packet q (s.cwFrame q 3 (packet s q d 0 0 arg map))] ∧ (∀ j < 32, bitOf map j = p.ooo.contains ((arg + 1 + j) % 2 ^ 32)) ∧
        map < 2 ^ 32 ∧ t.path q d = { p with owed := 0 } ∧ t = { s with cwPath := t.cwPath, out := t.out }))) ∧
    (∀ (q : Fin 8) (m : CwPkt),
      let p := s.path q m.src
      let left := p.unacked.filter (fun u => !(ackedBy m.arg m.arg2 u.pkt.psn))
      Turned (.ackReceived q m) q m s ∧
      (s.portUp q = true → Addressed s m →
        (m.arg2 = 0 → Ends (.ackReceived q m) s (fun t => t.path q m.src = { p with unacked := left } ∧ t.out = s.out ∧ t.mem = s.mem)) ∧
        (∀ top < 32, bitOf m.arg2 top = true → (∀ j, top < j → j < 32 → bitOf m.arg2 j = false) → let again := left.filter (fun u => decide (seqDiff u.pkt.psn m.arg ≤ top))
          s.flag (Reg.NET_ROUTE m.src) (16 + q.val) = false → (∀ u ∈ again, u.tries < max 1 (s.fld Reg.NET_CW_XPORT 23 20)) → Ends (.ackReceived q m) s (fun t =>
            t.out = s.out ++ again.map (emits q) ∧ t.fld Reg.NET_CW_STAT 15 0 = max (s.fld Reg.NET_CW_STAT 15 0) (min 65535 (s.fld Reg.NET_CW_STAT 15 0 + again.length)))) ∧
        (∀ c < 256, ∀ x k ring len, s.cwTx = [(c, x)] → x.cur = some (true, len) → s.sendRing c = some (k, ring) → m.arg2 = 0 →
          ring.st.getD ring.tail .e = .c → s.cwPath = [(64 * q.val + m.src, p)] → (left.any (fun u => u.of c x.n) = true → Ends (.ackReceived q m) s (fun t => t.cwTx = s.cwTx ∧ t.cores = s.cores)) ∧
          (left.any (fun u => u.of c x.n) = false → Ends (.ackReceived q m) s (fun t => t.cwTxOf c = { x with cur := none, n := x.n + 1 } ∧
            t.fld (Reg.NET_CH_STAT c) 63 48 = (s.fld (Reg.NET_CH_STAT c) 63 48 + 1) % 65536 ∧
            (let o := Reg.SCH_CTX_ACCT (s.fld (Reg.NET_CH_SEND c) 59 52) 4
             t.reg o = s.reg o + BitVec.ofNat 64 len) ∧
            t.ring k (s.fld (Reg.NET_CH_SEND c) 51 48) = some { ring with st := ring.st.set ring.tail .e, tail := (ring.tail + 1) % ring.slots }))))) ∧
    (∀ (q : Fin 8) (d : Fin 64),
      let p := s.path q d
      let r := Reg.NET_ROUTE d
      let old := fun (u : CwUnack) => decide (u.sent + 500 * max 1 (s.fld Reg.NET_CW_XPORT 15 0) ≤ s.cyc)
      let due := p.unacked.filter old
      let spent := ∃ u ∈ due, max 1 (s.fld Reg.NET_CW_XPORT 23 20) ≤ u.tries
      (due = [] → exec (.retransmitTimeout q d) s = .next s) ∧
      (due ≠ [] → s.flag r (16 + q.val) = false → ¬ spent → (p.unacked.map (·.pkt.psn)).Nodup → Ends (.retransmitTimeout q d) s (fun t =>
        t.out = s.out ++ (if s.portUp q then due.map (emits q) else []) ∧
        (t.path q d).unacked = p.unacked.map (fun u => if old u then { u with sent := s.cyc, tries := u.tries + 1 } else u) ∧
        t.fld Reg.NET_CW_STAT 15 0 = max (s.fld Reg.NET_CW_STAT 15 0) (min 65535 (s.fld Reg.NET_CW_STAT 15 0 + due.length)))) ∧
      (s.flag r (16 + q.val) = false → spent → Ends (.retransmitTimeout q d) s (fun t => t.flag r (16 + q.val) = true ∧
        t.fld Reg.FWM_LOG_PTR 63 32 = (s.fld Reg.FWM_LOG_PTR 63 32 + 1) % 2 ^ 32 ∧ ((∀ q2, q2 ≠ q.val → s.portUsable d q2 = false) → t.cwPath = s.cwPath))) ∧
      (s.flag r (16 + q.val) = true → due ≠ [] → s.portsTo d q = [] → exec (.retransmitTimeout q d) s = .next s) ∧
      (∀ q2 l, s.flag r (16 + q.val) = true → due ≠ [] → s.portsTo d q = q2 :: l → (s.path q2 d).psn < 2 ^ 32 → Ends (.retransmitTimeout q d) s (fun t =>
        t.out = s.out ++ (p.unacked.filter (fun u => !u.void)).zipIdx.map (fun u => OutMsg.packet q2
          (s.cwFrame q2 u.1.typ { u.1.pkt with psn := ((s.path q2 d).psn + u.2) % 2 ^ 32, sport := q2 })) ∧
        t = { s with cwPath := t.cwPath, out := t.out })))

/-- The receive side of a packet's channel takes it: enabled, with the packet's source as its own (R460). -/
abbrev Sys2Proof.Claims.Channel (s : State) (m : CwPkt) : Prop :=
  m.dch < 256 ∧ s.flag (Reg.NET_CH_RECV m.dch) 63 = true ∧ s.fld (Reg.NET_CH_RECV m.dch) 37 32 = m.src ∧ s.fld (Reg.NET_CH_RECV m.dch) 7 0 = m.sch

/-- The packet is the next of its path, and the path owes one more acknowledgement (R464). -/
abbrev Sys2Proof.Claims.NextPsn (p : CwPath) (m : CwPkt) : Prop := m.psn = p.rx ∧ m.psn < 2 ^ 32 ∧ p.ooo = []

/-- A path after its next packet. -/
abbrev Sys2Proof.Claims.onwardPath (p : CwPath) (now : Nat) : CwPath :=
  { p with rx := (p.rx + 1) % 2 ^ 32, owed := p.owed + 1, since := if p.owed = 0 then now else p.since }

/-- DATA goes to its place in the credited slot it names, a packet of another source is discarded and counted, one beyond the
credits is not taken, a duplicate only acknowledged; the slot is committed with its header when all of its payload is there, RCVD
rises and its signal is given; ABORT discards what a slot has (R460, R463, R467). -/
def Obligations.CausewaySlotsAreReceived : Prop :=
  ∀ (q : Fin 8) (m : CwPkt) (s : State),
    let r := Reg.NET_CH_RECV m.dch
    let x := s.cwRxOf m.dch
    let p := s.path q m.src
    let key := 64 * q.val + m.src
    let owed : CwPath := { p with owed := p.owed + 1, since := if p.owed = 0 then s.cyc else p.since }
    let pathTo := fun (y : CwPath) (t : State) => t.path q m.src = y ∧ ∀ j, j ≠ key → tabFind t.cwPath j = tabFind s.cwPath j
    Turned (.cwDataReceived q m) q m s ∧ Turned (.cwHeaderReceived q m) q m s ∧ Turned (.cwAbortReceived q m) q m s ∧
    (s.portUp q = true → Addressed s m →
      (∀ i ∈ [Instr.cwDataReceived q m, Instr.cwHeaderReceived q m],
        (¬ Channel s m → NextPsn p m → Ends i s (fun t => pathTo (onwardPath p s.cyc) t ∧ t = { s with cwPath := t.cwPath, regs := t.regs, evt := t.evt } ∧
          t.fld Reg.NET_CW_STAT 63 48 = min 65535 (s.fld Reg.NET_CW_STAT 63 48 + 1) ∧ ∀ o, o ≠ Reg.NET_CW_STAT → t.reg o = s.reg o)) ∧
        (Channel s m → s.recvRing m.dch = none → exec i s = .next s) ∧
        (Channel s m → (s.recvRing m.dch).isSome = true → ∀ n, x.slotOf m.slot = some n → 
          (m.data ≠ [] → x.granted ≤ n → exec i s = .next s) ∧
          (n < x.granted → seqDiff m.psn p.rx < 0 ∨ m.psn ∈ p.ooo → Ends i s (fun t => pathTo owed t ∧ t = { s with cwPath := t.cwPath })))) ∧
      (¬ Channel s m → exec (.cwAbortReceived q m) s = .next s) ∧
      (∀ k ring, Channel s m → s.recvRing m.dch = some (k, ring) →
        let isl := s.fld r 62 60
        (∀ j, j < 32768 → m.slot < 65536 → m.slot = (x.done + j) % 65536 →
          exec (.cwAbortReceived q m) s = .next (s.setCwRx m.dch { x with slots := x.slots.filter (fun z => z.n != x.done + j) }) ∧
          (NextPsn p m → x.done + j < x.granted → let a := ring.hbrSlot isl ((ring.head + j) % ring.slots)
            let y := (x.slots.find? (fun z => z.n == x.done + j)).getD ⟨x.done + j, [], none⟩
            (m.data ≠ [] → 64 + m.offset + m.data.length ≤ ring.slotBytes → (∀ g ∈ y.got, g.1 ≠ m.offset) → (∀ z ∈ x.slots, z.hdr = none) →
              GoodSlot s a ring.slotBytes → Ends (.cwDataReceived q m) s (fun t => BytesAt (a + 64 + m.offset) m.data s t ∧
                pathTo (onwardPath p s.cyc) t ∧ SameCores s t ∧ t.regs = s.regs ∧ t.out = s.out ∧
                t.cwRxOf m.dch = { x with slots := x.slots.filter (fun z => z.n != x.done + j) ++ [{ y with got := y.got ++ [(m.offset, m.data.length)] }] })))) ∧
        (NextPsn p m → x.slots.length ≤ 1 → m.slot = x.done % 65536 → x.done < x.granted →
          let y := (x.slots.find? (fun z => z.n == x.done)).getD ⟨x.done, [], none⟩
          let len := recNat m.data 0 4
          (∀ z ∈ x.slots, z.n = x.done) → ring.st.getD ring.head .e = .p → GoodSlot s (ring.hbrSlot isl ring.head) ring.slotBytes → 64 ≤ ring.slotBytes → m.data.length = 64 →
          ((y.got.map (·.2)).sum < len → Ends (.cwHeaderReceived q m) s (fun t => pathTo (onwardPath p s.cyc) t ∧ t.cores = s.cores ∧ t.mem = s.mem ∧
            t.regs = s.regs ∧ t.cwRxOf m.dch = { x with slots := [{ y with hdr := some m.data }] })) ∧
          (len ≤ (y.got.map (·.2)).sum → Ends (.cwHeaderReceived q m) s (fun t => pathTo (onwardPath p s.cyc) t ∧
            t.cwRxOf m.dch = { x with done := x.done + 1, slots := [] } ∧ (∀ g, g ≠ k → ButCache (s.core g) (t.core g)) ∧
            t.ring k (s.fld r 51 48) = some { ring with st := ring.st.set ring.head .f, head := (ring.head + 1) % ring.slots } ∧
            BytesAt (ring.hbrSlot isl ring.head) (m.data.take 12 ++ leBytes 1 m.src ++ leBytes 1 0 ++ leBytes 2 (x.done % 65536) ++ (m.data.drop 16).take 12 ++
              timeBytes s.tbS s.tbNs ++ leBytes 24 0) s t ∧
            t.fld (Reg.NET_CH_STAT m.dch) 47 32 = (s.fld (Reg.NET_CH_STAT m.dch) 47 32 + 1) % 65536 ∧
            (s.flag r 47 = true → tabFind s.synEvt (s.fld r 29 16) = none → t.reg (Reg.SYN_CNT (s.fld r 29 16)) = s.reg (Reg.SYN_CNT (s.fld r 29 16)) + 1))))))

/-- An access over the proxy goes to a device with a usable port as a request with a number of its own, or ends at once with its
ERR; the response to it ends it with its ERR and the data of a read, no response within 1 ms with ERR 3; a request is carried out
as the physical function's own access where ALLOW permits its source, else refused, and answered either way (R468, R469). -/
def Obligations.ProxyAccessesAreCarriedOut : Prop :=
  ∀ (s : State),
    let cmd := Reg.NET_PXY_CMD
    let stat := Reg.NET_PXY_STAT
    let ended := fun (err : Nat) (t : State) => t.fld stat 31 30 = 1 ∧ t.fld stat 2 0 = err
    (∀ (fn : Fn) (v : DWord), let d := bitsOf v.toNat 53 48
      let bad := bitsOf v.toNat 25 0 % (if bitOf v.toNat 60 then 8 else 4) ≠ 0 ∨ (bitOf v.toNat 61 = true ∧ bitOf v.toNat 60 = true)
      let takes := fun (t : State) => t.fld cmd 25 0 = bitsOf v.toNat 25 0 ∧ t.fld cmd 53 48 = d ∧ t.fld cmd 62 60 = bitsOf v.toNat 62 60 ∧ t.flag cmd 63 = false
      Reaches fn cmd 64 v s →
        (s.flag stat 31 = true → Ends (.proxyAccess fn v) s (fun t => takes t ∧ RegOnly cmd s t)) ∧
        (s.flag stat 31 = false → bad → Ends (.proxyAccess fn v) s (fun t => takes t ∧ ended 4 t ∧ t = { s with regs := t.regs, evt := t.evt })) ∧
        (s.flag stat 31 = false → ¬ bad → s.portsTo d 7 = [] → Ends (.proxyAccess fn v) s (fun t => takes t ∧ ended 1 t ∧ t = { s with regs := t.regs, evt := t.evt })) ∧
        (s.flag stat 31 = false → ¬ bad → s.portsTo d 7 ≠ [] → Ends (.proxyAccess fn v) s (fun t => takes t ∧ t.flag stat 31 = true ∧ t.pxyAt = s.cyc ∧
          t.pxyId = (s.pxyId + 1) % 2 ^ 32 ∧ ∃ q ∈ s.portsTo d 7, ∃ m : CwPkt, t.out = s.out ++ [.packet q (s.cwFrame q 5 m)] ∧ m.dst = d ∧ m.arg = t.pxyId ∧ m.sport = q ∧
            m.psn = (s.path q d).psn ∧ m.data = (leBytes 8 (t.reg cmd).toNat).reverse ++ (leBytes 8 (s.reg Reg.NET_PXY_DATA).toNat).reverse))) ∧
    (∀ (q : Fin 8) (m : CwPkt),
      let p := s.path q m.src
      let ours := s.flag stat 31 = true ∧ m.arg = s.pxyId ∧ m.src = s.fld cmd 53 48
      let err := leNat (m.data.take 8).reverse % 8
      Turned (.proxyResponseReceived q m) q m s ∧
      (s.portUp q = true → Addressed s m → NextPsn p m →
        (¬ ours → Ends (.proxyResponseReceived q m) s (fun t => t.path q m.src = onwardPath p s.cyc ∧ t = { s with cwPath := t.cwPath })) ∧
        (ours → Ends (.proxyResponseReceived q m) s (fun t => t.path q m.src = onwardPath p s.cyc ∧ ended err t ∧ t = { s with cwPath := t.cwPath, regs := t.regs, evt := t.evt } ∧
          (t.reg Reg.NET_PXY_DATA).toNat = (if err = 0 ∧ s.flag cmd 62 = false then leNat ((m.data.drop 8).take 8).reverse else (s.reg Reg.NET_PXY_DATA).toNat) ∧
          ∀ o, o ≠ stat → o ≠ Reg.NET_PXY_DATA → t.reg o = s.reg o)))) ∧
    (s.flag stat 31 = false ∨ s.cyc < s.pxyAt + 500000 → exec .proxyTimeout s = .next s) ∧
    (s.flag stat 31 = true → s.pxyAt + 500000 ≤ s.cyc → Ends .proxyTimeout s (fun t => ended 3 t ∧ RegOnly stat s t)) ∧
    (∀ (q : Fin 8) (m : CwPkt),
      let p := s.path q m.src
      let c := leNat (m.data.take 8).reverse
      let data := leNat ((m.data.drop 8).take 8).reverse
      let back := fun (s' : State) (err x : Nat) (t : State) => ∃ n, t.out = s'.out ++ [.packet q (s'.cwFrame q 6 { packet s' q m.src 0 0 m.arg 0 with
        psn := n, data := (leBytes 8 err).reverse ++ (leBytes 8 x).reverse })]
      Turned (.proxyRequestReceived q m) q m s ∧
      (s.portUp q = true → Addressed s m → NextPsn p m →
        (s.flag Reg.NET_PXY_ALLOW m.src = false → Ends (.proxyRequestReceived q m) s (fun t => back s 2 0 t ∧ t = { s with cwPath := t.cwPath, out := t.out })) ∧
        (s.flag Reg.NET_PXY_ALLOW m.src = true → let s1 := s.setPath q m.src (onwardPath p s.cyc)
          let off := bitsOf c 25 0
          let width := if bitOf c 60 then 64 else 32
          let v := BitVec.ofNat 64 (data % 2 ^ width)
          let err := if s1.accessKind .proxy (bitOf c 62) off width v = some 0 then 4 else 0
          (bitOf c 61 = false → bitOf c 62 = true → Ends (.proxyRequestReceived q m) s (fun t => back (s1.barWrite (.host .proxy) off width v) err 0 t)) ∧
          (bitOf c 61 = false → bitOf c 62 = false → Ends (.proxyRequestReceived q m) s (fun t => back (s1.barRead (.host .proxy) off width) err (s1.barRead (.host .proxy) off width).readData t ∧
            t.readData = s.readData ∧ t.readOk = s.readOk)) ∧
          (bitOf c 61 = true → bitOf c 62 = true → ∀ u, exec (.doorbell .proxy off width (BitVec.ofNat 32 data)) s1 = .next u → Ends (.proxyRequestReceived q m) s (fun t => back u 0 0 t)) ∧
          (bitOf c 61 = true → bitOf c 62 = false → Ends (.proxyRequestReceived q m) s (fun t => back s1 0 0 t)))))

/-! ## The host link -/

/-- Host loss is declared with `cause`: LOST, CAUSE, the next EPOCH; where no command is fetched and the scheduler runs, each
enabled queue that is not autonomous is disabled, or ends what it has submitted with HOST_LOST and is then (R485 to R487). -/
def Sys2Proof.Claims.Lost (cause : Nat) (s t : State) : Prop :=
  t.flag Reg.GLB_HOST 0 = true ∧ t.fld Reg.GLB_HOST 2 1 = cause ∧ t.fld Reg.GLB_HOST 63 32 = (s.fld Reg.GLB_HOST 63 32 + 1) % 2 ^ 32 ∧
  (s.schPaused = true → t.lossDue = true ∧ ∀ q, t.reg (Reg.SCH_QCFG q) = s.reg (Reg.SCH_QCFG q)) ∧
  (s.schPaused = false → (∀ q, s.cmd q = none) → ∀ q : QueueId, let r := Reg.SCH_QCFG q
    let stops := s.flag r 15 = true ∧ s.flag r 10 = false
    (¬ stops → t.reg r = s.reg r ∧ tabFind t.flush q = tabFind s.flush q) ∧
    (stops → s.qTail q = s.qDone q → t.flag r 15 = false) ∧
    (stops → s.qTail q ≠ s.qDone q → t.flag r 15 = true ∧ tabFind t.flush q = some ⟨s.qTail q, 0x0601, true⟩))

/-- The functions as a reset of the link leaves them (Log 15): no bus mastering, no MSI-X, the MSI-X registers at reset, no
virtual function. -/
def Sys2Proof.Claims.FunctionsReset (t : State) : Prop :=
  t.bme = 0 ∧ t.msixEn = 0 ∧ t.fld Reg.GLB_LINK 7 4 = 0 ∧ ∀ n < 9, ∀ o, 0xF0000 ≤ o → o < 0x100000 → t.reg (o + 0x4000000 * n) = regReset o

/-- A heartbeat is taken while the host is there; silence for LOSS_MS, a heartbeat of the same shore cycle notwithstanding, UNLOAD and a function-level reset of the physical function
declare the host lost once; REARM with the EPOCH takes it back and with another is reported; a reset of a virtual function stops
its partition's queues, when the scheduler runs; Bus Master Enable and MSI-X Enable are the function's; a link that changes is shown, counted and
signalled (R482, R484 to R494; what a function reset clears is the model's choice, Log 15). -/
def Obligations.HostLinkIsWatched : Prop :=
  ∀ (s : State),
    let lost := s.flag Reg.GLB_HOST 0 = true
    let before := if s.hbAt = s.cyc then s.hbOld else s.hbAt
    let silent := before + 500000 * max 20 (min 1000 (s.fld Reg.GLB_HOST 31 16)) ≤ s.cyc
    (∀ fn : Fn, Reaches fn Reg.GLB_HOSTCTL 64 1 s →
      exec (.heartbeat fn) s = .next (if s.flag Reg.GLB_HOST 0 then s else { s with hbAt := s.cyc, hbOld := before })) ∧
    (∀ fn : Fn, Reaches fn Reg.GLB_HOSTCTL 64 2 s → (lost → exec (.unload fn) s = .next s) ∧ (¬ lost → Ends (.unload fn) s (Lost 2 s))) ∧
    (∀ (fn : Fn) (e : Word), Reaches fn Reg.GLB_HOSTCTL 64 (BitVec.ofNat 64 (4 + 2 ^ 32 * e.toNat)) s →
      (e.toNat = s.fld Reg.GLB_HOST 63 32 → Ends (.rearm fn e) s (fun t => t.flag Reg.GLB_HOST 0 = false ∧ t.fld Reg.GLB_HOST 63 1 = s.fld Reg.GLB_HOST 63 1 ∧
        t = { s with regs := t.regs, evt := t.evt, hbAt := s.cyc, hbOld := s.cyc } ∧ ∀ o, o ≠ Reg.GLB_HOST → t.reg o = s.reg o)) ∧
      (e.toNat ≠ s.fld Reg.GLB_HOST 63 32 → Ends (.rearm fn e) s (Reported (fnNumber fn) 3 true Reg.GLB_HOSTCTL s))) ∧
    (¬ silent ∨ lost → exec .heartbeatTimeout s = .next s) ∧
    (silent → ¬ lost → Ends .heartbeatTimeout s (Lost (if s.flag Reg.GLB_LINK 3 then 1 else 3) s)) ∧
    Ends .pcieHotReset s (fun t => FunctionsReset t ∧ t = { s with regs := t.regs, evt := t.evt, bme := t.bme, msixEn := t.msixEn } ∧
      t.reg Reg.GLB_HOST = s.reg Reg.GLB_HOST) ∧
    (lost → exec .pfFlr s = exec .pcieHotReset s) ∧
    (¬ lost → Ends .pfFlr s (fun t => FunctionsReset t ∧ Lost 2 s t)) ∧
    (∀ (k : PartId) (flr : Bool), s.fld Reg.GLB_LINK 7 4 ≤ k.val → exec (.vfFlr k flr) s = .next s) ∧
    (∀ (k : PartId) (flr : Bool), k.val < s.fld Reg.GLB_LINK 7 4 → Ends (.vfFlr k flr) s (fun t =>
      (∀ i < 9, t.bme.getLsbD i = (i != k.val + 1 && s.bme.getLsbD i)) ∧
      (∀ i < 9, t.msixEn.getLsbD i = (!(flr && i == k.val + 1) && s.msixEn.getLsbD i)) ∧
      (flr = true → ∀ o, 0xF0000 ≤ o → o < 0x100000 → t.reg (o + 0x4000000 * (k.val + 1)) = regReset o) ∧
      (s.schPaused = true → k.val ∈ t.vfDue ∧ ∀ q, t.reg (Reg.SCH_QCFG q) = s.reg (Reg.SCH_QCFG q)) ∧
      (s.schPaused = false → (∀ q, s.cmd q = none) → t.reg Reg.GLB_HOST = s.reg Reg.GLB_HOST ∧ ∀ q : QueueId, let r := Reg.SCH_QCFG q
        let stops := s.qIn k q = true ∧ s.flag r 15 = true ∧ s.flag r 10 = false
        (¬ stops → t.reg r = s.reg r) ∧ (stops → s.qTail q = s.qDone q → t.flag r 15 = false) ∧
        (stops → s.qTail q ≠ s.qDone q → tabFind t.flush q = some ⟨s.qTail q, 0x0601, true⟩)))) ∧
    (∀ (fn : Fn) (m : Bool), let n := fnNumber fn
      (n = 15 ∨ s.fld Reg.GLB_LINK 7 4 < n → exec (.busMasterEnableSet fn m) s = .next s) ∧
      (n ≠ 15 → n ≤ s.fld Reg.GLB_LINK 7 4 → Ends (.busMasterEnableSet fn m) s (fun t => t = { s with bme := t.bme, msixEn := t.msixEn } ∧
        ∀ i < 9, t.bme.getLsbD i = (i == n || s.bme.getLsbD i) ∧ t.msixEn.getLsbD i = if i = n then m else s.msixEn.getLsbD i))) ∧
    (∀ (gen : Fin 4) (tun : Bool) (vf : Fin 9), let r := Reg.GLB_LINK
      let g := if gen.val = 1 then s.fld r 1 0 else gen.val
      let down := (s.fld r 1 0 ≠ 0 ∧ g = 0) ∨ (s.flag r 3 = true ∧ tun = false)
      Ends (.usb4LinkChange gen tun vf) s (fun t => t.fld r 1 0 = g ∧ t.flag r 3 = tun ∧ t.fld r 7 4 = vf.val ∧
        (down → t.fld r 15 8 = min 255 (s.fld r 15 8 + 1)) ∧ (¬ down → t.fld r 15 8 = s.fld r 15 8) ∧
        (∀ o, o ≠ r → o ≠ Reg.MSIX_PBA 0 → t.reg o = s.reg o) ∧ t = { s with regs := t.regs, evt := t.evt, out := t.out } ∧
        (g = s.fld r 1 0 → tun = s.flag r 3 → t.out = s.out) ∧
        (g ≠ s.fld r 1 0 ∨ tun ≠ s.flag r 3 → s.msixEn.getLsbD 0 = true → s.bme.getLsbD 0 = true → s.flag Reg.GLB_HOST 0 = false →
          (s.flag (Reg.MSIX_CTRL 0) 0 = false → t.out = s.out ++ [.msix 0 0]) ∧
          (s.flag (Reg.MSIX_CTRL 0) 0 = true → t.out = s.out ∧ t.flag (Reg.MSIX_PBA 0) 0 = true))))

/-! ## Firmware and the security core -/

/-- Mailbox `k` holds a request of operation `op` that its component serves and has not answered (R501). -/
abbrev Sys2Proof.Claims.Asked (k op : Nat) (s : State) : Prop :=
  s.flag (mbxCtl k) 30 = true ∧ s.mbxServes k = true ∧ s.fld (mbxReq k 0) 31 0 = op ∧ tabFind s.mbxAns k = none

/-- Nothing but the answer of mailbox `k` differs: the status and the words that follow it. -/
abbrev Sys2Proof.Claims.Answers (k st : Nat) (ws : List Nat) (i : Instr) (s : State) : Prop :=
  exec i s = .next { s with mbxAns := tabPut s.mbxAns k (st, ws) }

/-- Every request word of mailbox `k` but those named, and word 0, is 0. -/
abbrev Sys2Proof.Claims.RestZero (k : Nat) (used : List Nat) (s : State) : Prop :=
  ∀ i, 0 < i → i < 16 → i ∉ used → s.fld (mbxReq k i) 31 0 = 0

/-- Words `i` and `i + 1` of the SEC's request as one number. -/
abbrev Sys2Proof.Claims.wordPair (s : State) (i : Nat) : Nat := s.fld (mbxReq 0 i) 31 0 + 2 ^ 32 * s.fld (mbxReq 0 (i + 1)) 31 0

/-- A memory without a sector in error, and a range of it that is powered and does not make an access wait. -/
abbrev Sys2Proof.Claims.Ready (p n : Nat) (s : State) : Prop := s.lpUe = [] ∧ s.lpCe = [] ∧ s.memOn p = true ∧ s.memBusy p n = false

/-- PHASE of FWM_UPD_STAT. -/
abbrev Sys2Proof.Claims.phaseOf (s : State) : Nat := s.fld Reg.FWM_UPD_STAT 47 44

/-- An activation has begun: the bundle is active, its restarts follow in the order PMC, ICCs, SCH, and the SEC and the LHS wait for a
reset; with no restart to make it has ended (R508, R509). -/
def Sys2Proof.Claims.Activated (s t : State) : Prop :=
  let l := s.bundle
  t.active = l ∧ t.bundle = [] ∧ t.revert = false ∧
  t.restarts = s.restarts ++ ((if 1 ∈ l then [⟨1, 0, 0⟩] else []) ++ (if 3 ∈ l then (List.range 8).map (fun n => ⟨3, n, 0⟩) else []) ++
    (if 2 ∈ l then [⟨2, 0, 0⟩] else [])) ∧
  (phaseOf t = if t.restarts.any (fun r => r.reason != 1) then 5 else 0) ∧
  (∀ c ∈ l, c = 0 ∨ c = 4 → t.flag (Reg.FWM_COMP c) 3 = true) ∧ (∀ a, 0x2000 ≤ a → t.flash.read a = s.flash.read a)

/-- Requests are answered with their status in the response words, DONE and vector 3: VERSION with the component's version and slot,
an unknown OP with INVALID_COMMAND; STAGE writes a bundle that verifies into the inactive slots and PHASE becomes 3, ACTIVATE starts
its restarts or is deferred in an emergency, ABANDON ends a deferral; a deferral starts or expires in its time; restarts follow one
another, one that cannot start reverts the activation, and one that waits for KV requests does not end; a fault halts or restarts its component, one outside its regions once they are locked; the log ring is enabled outside every
carve-out only (R499, R501, R502, R504, R508 to R511). -/
def Obligations.FirmwareIsServedAndUpdated : Prop :=
  ∀ (s : State),
    let quiet := s.flag Reg.FWM_LOG_BASE 0 = false
    let emergency := s.flag Reg.PWR_THERM 20 = true ∨ s.flag Reg.PWR_FLOOR_STAT 16 = true
    (∀ k : Fin 11, let r := Reg.FWM_COMP (min k 3)
      (¬ Asked k 1 s → exec (.version k) s = .next s) ∧
      (Asked k 1 s → RestZero k [] s → Answers k 0 [s.fld r 63 48, s.fld r 1 1] (.version k) s) ∧
      (Asked k 1 s → ¬ RestZero k [] s → Answers k 1 [] (.version k) s) ∧
      (s.flag (mbxCtl k) 30 = false ∨ s.mbxServes k = false → exec (.mailboxResponse k) s = .next s) ∧
      (∀ st ws, s.flag (mbxCtl k) 30 = true → s.mbxServes k = true →
        (tabFind s.mbxAns k = some (st, ws) ∨ (tabFind s.mbxAns k = none ∧ s.fld (mbxReq k 0) 31 0 ∉ (if k.val = 0 then
          [0x0001, 0x0101, 0x0102, 0x0103, 0x0104, 0x0201, 0x0202, 0x0203, 0x0301, 0x0302, 0x0303] else [0x0001]) ∧ st = 1 ∧ ws = [])) →
        Ends (.mailboxResponse k) s (fun t => (∀ i < 16, t.reg (mbxResp k i) = BitVec.ofNat 64 ((st :: ws).getD i 0)) ∧
          t.fld (mbxCtl k) 15 0 = st % 65536 ∧ t.flag (mbxCtl k) 30 = false ∧ t.flag (mbxCtl k) 29 = true ∧ tabFind t.mbxAns k = none ∧
          (s.msixEn.getLsbD 0 = true → s.bme.getLsbD 0 = true → s.flag Reg.GLB_HOST 0 = false → s.flag (Reg.MSIX_CTRL 3) 0 = false →
            t.out = s.out ++ [.msix 0 3]) ∧ t = { s with mbxAns := t.mbxAns, regs := t.regs, evt := t.evt, out := t.out }))) ∧
    (¬ Asked 0 0x0101 s → exec .stage s = .next s) ∧
    (Asked 0 0x0101 s → let p := wordPair s 1
      let n := s.fld (mbxReq 0 3) 31 0
      let l := bundleImages (s.mem.readN p n) 6
      let bad := ¬ RestZero 0 [1, 2, 3] s ∨ phaseOf s = 5 ∨ phaseOf s = 6
      let no := fun (st : Nat) (t : State) => tabFind t.mbxAns 0 = some (st, []) ∧ t.fld Reg.FWM_UPD_STAT 63 48 = st ∧ t.flash = s.flash ∧
        t.bundle = s.bundle ∧ phaseOf t = if phaseOf s = 4 then 3 else phaseOf s
      (bad → Answers 0 1 [] .stage s) ∧ (¬ bad → 0x800000 < n → Ends .stage s (no 1)) ∧
      (¬ bad → n ≤ 0x800000 → s.visible < p + n → Ends .stage s (no 0x0202)) ∧
      (¬ bad → n ≤ 0x800000 → p + n ≤ s.visible → s.memOn p = true → s.memBusy p n = true → exec .stage s = .next s) ∧
      (¬ bad → n ≤ 0x800000 → p + n ≤ s.visible → quiet → Ready p n s → Ends .stage s (fun t => t.mem = s.mem ∧ t.cores = s.cores ∧
        (s.bundleOk l = false → t.flash = s.flash ∧ t.bundle = s.bundle ∧ phaseOf t = (if s.bundle = [] then 0 else 3) ∧
          t.fld Reg.FWM_UPD_STAT 63 48 = 1 ∧ tabFind t.mbxAns 0 = some (1, [])) ∧
        (s.bundleOk l = true → t.bundle = l.map (fun x => imgComp x.1) ∧ phaseOf t = 3 ∧ t.fld Reg.FWM_UPD_STAT 63 48 = 0 ∧ tabFind t.mbxAns 0 = some (0, []) ∧
          ∀ a, (∀ x ∈ l, let b := imgBase (imgComp x.1) (1 - s.slotOf (imgComp x.1))
            a < b ∨ b + (x.1 ++ x.2).length ≤ a) → t.flash.read a = s.flash.read a)))) ∧
    (¬ Asked 0 0x0102 s → exec .activate s = .next s) ∧
    (Asked 0 0x0102 s →
      (¬ RestZero 0 [] s → Answers 0 1 [] .activate s) ∧
      (RestZero 0 [] s → phaseOf s = 4 → Answers 0 0x0501 [] .activate s) ∧
      (RestZero 0 [] s → phaseOf s ≠ 4 → phaseOf s ≠ 3 → Answers 0 1 [] .activate s) ∧
      (RestZero 0 [] s → phaseOf s = 3 → emergency → Ends .activate s (fun t => phaseOf t = 4 ∧ t.deferAt = s.cyc + 5000000000 ∧
        tabFind t.mbxAns 0 = some (0x0501, []) ∧ t.bundle = s.bundle ∧ t.flash = s.flash)) ∧
      (RestZero 0 [] s → phaseOf s = 3 → ¬ emergency → (∀ c ∈ s.bundle, c < 5) → (∀ r ∈ s.restarts, r.comp < 5) →
        Ends .activate s (fun t => Activated s t ∧ tabFind t.mbxAns 0 = some (0, [])))) ∧
    (¬ Asked 0 0x0103 s → exec .abandon s = .next s) ∧
    (Asked 0 0x0103 s → (¬ RestZero 0 [] s ∨ phaseOf s ≠ 4 → Answers 0 1 [] .abandon s) ∧
      (RestZero 0 [] s → phaseOf s = 4 → Ends .abandon s (fun t => phaseOf t = 3 ∧ tabFind t.mbxAns 0 = some (0, []) ∧ t.bundle = s.bundle ∧ t.flash = s.flash))) ∧
    (let starts := phaseOf s = 4 ∧ ¬ emergency ∧ s.emgEnd + 50000000 ≤ s.cyc ∧ s.cyc ≤ s.deferAt ∧ s.compHalted 0 = false
     ; (¬ starts → exec .deferredActivationStart s = .next s) ∧
      (starts → (∀ c ∈ s.bundle, c < 5) → (∀ r ∈ s.restarts, r.comp < 5) → Ends .deferredActivationStart s (Activated s))) ∧
    (phaseOf s ≠ 4 ∨ s.cyc < s.deferAt → exec .deferralExpiry s = .next s) ∧
    (phaseOf s = 4 → s.deferAt ≤ s.cyc → Ends .deferralExpiry s (fun t => phaseOf t = 3 ∧ t.flag Reg.FWM_UPD_STAT 32 = true ∧ t.bundle = s.bundle ∧ t.flash = s.flash)) ∧
    (s.restarts = [] → exec .restartComplete s = .next s) ∧
    (∀ r l, s.restarts = r :: l → r.comp < 5 → (∀ x ∈ l, x.comp < 5) → s.lossDue = false → s.vfDue = [] →
      let stuck := s.restartHold ≠ [] ∨ (r.comp, r.inst) ∈ s.down
      let slot := if r.reason = 0 then 1 - s.slotOf r.comp else s.slotOf r.comp
      let loads := r.comp ≠ 3 ∨ r.inst = 0 ∨ r.reason = 1
      let good := ¬ loads ∨ s.slotCheck r.comp slot = 0 ∨ s.slotCheck r.comp (1 - slot) = 0
      (stuck ∨ (s.compHalted 0 = true ∧ r.reason ≠ 1) → exec .restartComplete s = .next s) ∧
      (¬ stuck → s.compHalted 0 = false ∨ r.reason = 1 → Ends .restartComplete s (fun t => SameCores s t ∧ t.flash = s.flash ∧
        (¬ good → t.restarts = s.restarts ∧ (r.reason = 0 → t.revert = true)) ∧
        (good → t.restarts = l ∧ t.flag (Reg.FWM_COMP r.comp) 0 = !(l.any (fun x => x.comp == r.comp)) ∧
          t.fld (Reg.FWM_COMP r.comp) 31 16 = (s.fld (Reg.FWM_COMP r.comp) 31 16 + 1) % 65536 ∧
          (∀ x m, l = x :: m → (x.comp = 3 → ∀ q ∈ s.kv, q.island ≠ x.inst) → t.flag (Reg.FWM_COMP x.comp) 0 = false ∧ t.restartAt = s.cyc) ∧
          (phaseOf s = 5 ∨ phaseOf s = 6 → l.any (fun x => x.reason != 1) = false → phaseOf t = 0))))) ∧
    (let slow := ∃ r l, s.restarts = r :: l ∧ r.reason = 0 ∧ s.restartHold = [] ∧ s.restartAt + 500000000 ≤ s.cyc
     let acts := (s.revert = true ∨ slow) ∧ s.compHalted 0 = false
     ; (¬ acts → exec .activationRevert s = .next s) ∧
      (acts → (∀ c ∈ s.active, c < 5) → (∀ r ∈ s.restarts, r.comp < 5) → (∀ p ∈ s.down, p.1 < 5) → Ends .activationRevert s (fun t => t.active = [] ∧ t.revert = false ∧ t.fbEver = true ∧
        (∀ r ∈ t.restarts, (r.reason = 1 ∧ (r ∈ s.restarts ∨ (r.comp, r.inst) ∈ s.down)) ∨ (r.reason = 2 ∧ r.comp ∈ s.active)) ∧ (∀ r ∈ s.restarts, r.reason = 1 → r ∈ t.restarts) ∧
        (phaseOf t = if t.restarts.any (fun r => r.reason != 1) then 6 else 0) ∧
        (∀ c ∈ s.active, t.flag (Reg.FWM_COMP c) 4 = true ∧ t.flag (Reg.FWM_COMP c) 3 = false) ∧ (∀ a, 0x2000 ≤ a → t.flash.read a = s.flash.read a)))) ∧
    (∀ (c : Fin 5) (inst : IslandId) (cause : Fin 3) (pc : DWord), let n := if c.val = 3 then inst.val else 0
      let due := ∃ r ∈ s.restarts, r.comp = c.val ∧ r.inst = n
      let down := s.compHalted c = true ∨ (c.val, n) ∈ s.down ∨ (cause.val = 0 ∧ s.mpLock = false)
      let fresh := c.val ∈ s.active ∧ (s.restarting c n = true ∨ (¬ due ∧ s.cyc < tabGet 0 s.ranSince c + 500000000))
      let seen := fun (t : State) => t.flag (Reg.FWM_COMP c) 0 = false ∧ SameCores s t ∧ t.lockstep = s.lockstep ∧
        (QuietLog s → t.fld Reg.LHS_EVT_PTR 31 0 = (s.fld Reg.LHS_EVT_PTR 31 0 + 1) % 2 ^ 32) ∧ t.fld Reg.FWM_LOG_PTR 63 32 = (s.fld Reg.FWM_LOG_PTR 63 32 + 1) % 2 ^ 32
      (down → exec (.compFault c inst cause pc) s = .next s) ∧
      (¬ down → c.val = 0 ∨ c.val = 4 → Ends (.compFault c inst cause pc) s (fun t => seen t ∧ t.compHalted c = true ∧ t.restarts = s.restarts)) ∧
      (¬ down → c.val ≠ 0 → c.val ≠ 4 → fresh → Ends (.compFault c inst cause pc) s (fun t => seen t ∧ t.revert = true ∧ (c.val, n) ∈ t.down ∧ t.restarts = s.restarts)) ∧
      (¬ down → c.val ≠ 0 → c.val ≠ 4 → ¬ fresh → due → Ends (.compFault c inst cause pc) s (fun t => seen t ∧ t.restarts = s.restarts)) ∧
      (¬ down → c.val ≠ 0 → c.val ≠ 4 → ¬ fresh → ¬ due → Ends (.compFault c inst cause pc) s (fun t => seen t ∧ t.restarts = s.restarts ++ [⟨c, n, 1⟩] ∧
        c.val ∉ t.active ∧ t.restarting c n = true ∧ (s.restarts = [] → t.restartAt = s.cyc)))) ∧
    (∀ (fn : Fn) (v : DWord), let r := Reg.FWM_LOG_BASE
      let base := 2 ^ 20 * bitsOf v.toNat 43 20
      let meets := ∃ k < 8, s.partEn k = true ∧ base < 2 ^ 29 * (s.fld (Reg.SCH_PART_W0 k) 25 16 + s.fld (Reg.SCH_PART_W0 k) 35 26) ∧
        2 ^ 29 * s.fld (Reg.SCH_PART_W0 k) 25 16 < base + 2 ^ 20
      Reaches fn r 64 v s →
        (s.flag r 0 = true → Ends (.logEnableWrite fn v) s (FldOnly r 0 0 (boolNat (v.getLsbD 0)) s)) ∧
        (s.flag r 0 = false → Ends (.logEnableWrite fn v) s (fun t => RegOnly r s t ∧ t.fld r 43 20 = bitsOf v.toNat 43 20 ∧
          (t.flag r 0 = true ↔ v.getLsbD 0 = true ∧ base + 2 ^ 20 ≤ s.visible ∧ ¬ meets))))

/-- A manifest that verifies is staged in the other slot; IDENTITY and ATTEST write the key and certificate, and the signed report, to
the buffer; MEASURE extends its context's register by the range's digest; a challenge is replaced by the next one and used up by a
token, which opens its scopes when it verifies; a buffer in memory that is not ready makes the request wait; DBG_LOCK closes them; a floor follows what has run a second, once the secure element
is paired (R543 to R547, R550 to R556). -/
def Obligations.SecurityServicesAnswer : Prop :=
  ∀ (s : State),
    let p := wordPair s 1
    let stat := Reg.FWM_SEC_STAT
    let done := fun (t : State) => tabFind t.mbxAns 0 = some (0, [])
    (∀ op i, (op, i) ∈ [(0x0104, Instr.stageManifest), (0x0201, Instr.identity), (0x0202, Instr.measure), (0x0203, Instr.attest),
      (0x0301, Instr.dbgChallenge), (0x0302, Instr.dbgUnlock), (0x0303, Instr.dbgLock)] → ¬ Asked 0 op s → exec i s = .next s) ∧
    (∀ op i ws, (op, i, ws) ∈ [(0x0104, Instr.stageManifest, [1, 2]), (0x0201, Instr.identity, [1, 2]), (0x0202, Instr.measure, [1, 2, 3, 4, 5, 6, 7]),
      (0x0301, Instr.dbgChallenge, [1, 2]), (0x0302, Instr.dbgUnlock, [1, 2, 3]), (0x0303, Instr.dbgLock, [])] →
      Asked 0 op s → ¬ RestZero 0 ws s → Answers 0 1 [] i s) ∧
    (∀ op i ws n, (op, i, ws, n) ∈ [(0x0104, Instr.stageManifest, [1, 2], 8768), (0x0201, Instr.identity, [1, 2], 7328), (0x0301, Instr.dbgChallenge, [1, 2], 48),
      (0x0302, Instr.dbgUnlock, [1, 2, 3], s.fld (mbxReq 0 3) 31 0)] → Asked 0 op s → RestZero 0 ws s → phaseOf s < 5 → s.visible < p + n → Answers 0 0x0202 [] i s) ∧
    (Asked 0 0x0104 s → RestZero 0 [1, 2] s → phaseOf s ≠ 5 → phaseOf s ≠ 6 → p + 8768 ≤ s.visible → Ready p 8768 s → let m := s.mem.readN p 8768
      let b := 0x2900000 + 0x10000 * (1 - s.fld stat 16 16)
      Ends .stageManifest s (fun t => (s.manCheck m ≠ 0 → t = s.answer 0 1 []) ∧ (s.manCheck m = 0 → done t ∧ t.flag stat 17 = true ∧
        (∀ o, o ≠ stat → t.reg o = s.reg o) ∧ ∀ a, 0x2000 ≤ a → t.flash.read a = if b ≤ a ∧ a < b + 8768 then m.getD (a - b) 0 else s.flash.read a))) ∧
    (Asked 0 0x0201 s → RestZero 0 [1, 2] s → p + 7328 ≤ s.visible → Ready p 7328 s → Ends .identity s (fun t => done t ∧ t.regs = s.regs ∧
      BytesAt p (s.idKey ++ s.flash.readN 0x4000 5376) s t)) ∧
    (Asked 0 0x0202 s → RestZero 0 [1, 2, 3, 4, 5, 6, 7] s → let q := wordPair s 3
      let n := wordPair s 5
      let w := s.fld (mbxReq 0 7) 31 0
      let inside := s.inCarve (s.fld (Reg.SCH_CTX_CFG (w % 256)) 62 60) q n
      (2 ^ 40 < n ∨ 2 < w / 256 → Answers 0 1 [] .measure s) ∧
      (n ≤ 2 ^ 40 → w / 256 ≤ 2 → inside = false → Answers 0 0x0202 [] .measure s) ∧
      (n ≤ 2 ^ 40 → w / 256 ≤ 2 → inside = true → Ready q n s → q + n ≤ s.visible → Ends .measure s (fun t => done t ∧
        tabFind t.mr (w % 256) = some (digest64 (tabGet (leBytes 64 0) s.mr (w % 256) ++ leBytes 1 (w / 256) ++ leBytes 8 n ++ digest64 (s.mem.readN q n))) ∧
        tabFind t.mrCnt (w % 256) = some ((tabGet 0 s.mrCnt (w % 256) + 1) % 2 ^ 32) ∧ (∀ j, j ≠ w % 256 → tabFind t.mr j = tabFind s.mr j ∧ tabFind t.mrCnt j = tabFind s.mrCnt j) ∧
        t = { s with mbxAns := t.mbxAns, mr := t.mr, mrCnt := t.mrCnt }))) ∧
    (Asked 0 0x0203 s → let mask := s.reqBytes 11 5
      let size := 512 + 80 * popCount 256 (leNat mask) + 3309
      let r := s.report (s.reqBytes 3 8) mask
      (s.visible < p + size → Answers 0 0x0202 [] .attest s) ∧
      (p + size ≤ s.visible → Ready p size s → r.length + 3309 ≤ size → Ends .attest s (fun t => done t ∧ t.regs = s.regs ∧ t.mr = s.mr ∧ ∃ n, BytesAt p (r ++ fixLen 3309
        (Config.mldsaSign s.seed (mldsaMsg "GSN8640-ATTEST" r) n)) s t))) ∧
    (Asked 0 0x0301 s → RestZero 0 [1, 2] s → p + 48 ≤ s.visible → Ready p 48 s → Ends .dbgChallenge s (fun t => done t ∧ ∃ c, c.length = 32 ∧ t.chal = some c ∧
      t.flag stat 19 = true ∧ (∀ o, o ≠ stat → t.reg o = s.reg o) ∧ BytesAt p (s.deviceId ++ c) s t)) ∧
    (Asked 0 0x0302 s → RestZero 0 [1, 2, 3] s → p + s.fld (mbxReq 0 3) 31 0 ≤ s.visible → Ready p (s.fld (mbxReq 0 3) 31 0) s → let tok := s.mem.readN p (s.fld (mbxReq 0 3) 31 0)
      Ends .dbgUnlock s (fun t => t.chal = none ∧ t.flag stat 19 = false ∧ t.mem = s.mem ∧ (∀ o, o ≠ stat → t.reg o = s.reg o) ∧
        (s.tokenOk tok = true → done t ∧ t.fld stat 23 20 = s.fld stat 23 20 ||| recNat tok 4 1) ∧
        (s.tokenOk tok = false → t.fld stat 23 20 = s.fld stat 23 20 ∧ (tabFind t.mbxAns 0 = some (0x0001, []) ∨ tabFind t.mbxAns 0 = some (0x0202, []))))) ∧
    (∀ op i ws n, (op, i, ws, n) ∈ [(0x0104, Instr.stageManifest, [1, 2], 8768), (0x0201, Instr.identity, [1, 2], 7328), (0x0301, Instr.dbgChallenge, [1, 2], 48),
      (0x0302, Instr.dbgUnlock, [1, 2, 3], s.fld (mbxReq 0 3) 31 0)] → Asked 0 op s → RestZero 0 ws s → phaseOf s < 5 → p + n ≤ s.visible →
      s.memOn p = true → s.memBusy p n = true → exec i s = .next s) ∧
    (Asked 0 0x0303 s → RestZero 0 [] s → Ends .dbgLock s (fun t => done t ∧ FldOnly stat 23 20 0 s { t with mbxAns := s.mbxAns })) ∧
    (∀ (c : Fin 6) (ok : Bool),
      (tabFind s.ranSince c = none → exec (.floorRaise c ok) s = .next s) ∧
      (∀ x, tabFind s.ranSince c = some x → let due := x + 500000000 ≤ s.cyc ∧ tabGet 0 s.raiseAt c ≤ s.cyc ∧ s.compHalted 0 = false
        let again := fun (t : State) => tabFind t.raiseAt c = some (s.cyc + 5000000000) ∧ tabFind t.ranSince c = some x ∧ t.seCnt = s.seCnt
        (¬ due → exec (.floorRaise c ok) s = .next s) ∧ (due → ok = false → Ends (.floorRaise c ok) s (fun t => again t ∧ t.sePaired = s.sePaired)) ∧
        (due → ok = true → s.sePaired = false → bitOf (recNat s.manifest 32 1) 3 = false → Ends (.floorRaise c ok) s (fun t => again t ∧ t.sePaired = false)) ∧
        (due → ok = true → s.sePaired = true ∨ bitOf (recNat s.manifest 32 1) 3 = true → Ends (.floorRaise c ok) s (fun t => t.sePaired = true ∧
          (s.sePaired = false → t.flag stat 7 = true) ∧ tabFind t.ranSince c = none ∧ tabFind t.raiseAt c = none ∧
          tabFind t.seCnt c = some (max (tabGet 0 s.seCnt c) (tabGet ⟨leBytes 64 0, 0, 0⟩ s.images c).floor) ∧
          ∀ j, j ≠ c.val → tabFind t.seCnt j = tabFind s.seCnt j))))

/-! ## The Lighthouse -/

/-- `k` event records have been written: NEXT_SEQ is `k` higher (R513). -/
abbrev Sys2Proof.Claims.Events (k : Nat) (s t : State) : Prop :=
  t.fld Reg.LHS_EVT_PTR 31 0 = (s.fld Reg.LHS_EVT_PTR 31 0 + k) % 2 ^ 32

/-- STATE and CAUSE of the pins after an event of code `code` that takes them to `lvl`, the first of its shore cycle: SUPERVISOR over
FAULT over HEALTHY, CAUSE from the event that left HEALTHY (R514, R515). -/
abbrev Sys2Proof.Claims.PinsAfter (lvl code : Nat) (s t : State) : Prop :=
  let st := s.fld Reg.LHS_PINS 1 0
  s.enow = [] → st ≠ 0 → t.fld Reg.LHS_PINS 1 0 = max st lvl ∧ t.fld Reg.LHS_PINS 15 8 = if st = 1 then code else s.fld Reg.LHS_PINS 15 8

/-- A lockstep difference halts the pair, writes LOCKSTEP with both program counters and takes the pins to SUPERVISOR; CLR takes FAULT
back to HEALTHY unless LOCK is 1 or a pin event comes in its cycle, ERRA going high at the next 500 µs of the reference count; an injection pass ends with its failures marked and reported, LOCK where a shared checker failed,
the boot ready, the pins out of RESET (R512 to R519, R540). -/
def Obligations.CheckersAndPinsReport : Prop :=
  ∀ (s : State),
    let pins := s.fld Reg.LHS_PINS 1 0
    (∀ (a b : Word), s.compHalted 4 = true → exec (.lockstepDiff a b) s = .next s) ∧
    (∀ (a b : Word), s.compHalted 4 = false → Ends (.lockstepDiff a b) s (fun t => t.lockstep = true ∧ t.compHalted 4 = true ∧ Events 1 s t ∧
      PinsAfter 3 0x0B s t ∧ t.cores = s.cores ∧ t.mem = s.mem ∧
      (s.enow = [] → pins = 0 → t.fld Reg.LHS_PINS 1 0 = 0 ∧ t.pinPend = max s.pinPend 3 ∧ t.pinCause = if s.pinPend ≤ 1 then 0x0B else s.pinCause) ∧
      (s.enow = [] → let o := 0x508000 + 32 * (s.fld Reg.LHS_EVT_PTR 31 0 % 1024)
      (t.reg o).toNat = s.fld Reg.LHS_EVT_PTR 31 0 ∧ (t.reg (o + 4)).toNat % 256 = 0x0B ∧ (t.reg (o + 20)).toNat = 0 ∧
        (t.reg (o + 24)).toNat = a.toNat ∧ (t.reg (o + 28)).toNat = b.toNat))) ∧
    (∀ fn : Fn, Reaches fn Reg.LHS_PINS 32 0x80000000 s →
      (pins = 2 → s.flag Reg.LHS_PINS 2 = false → (∀ e ∈ s.enow, e.eff = 0) → Ends (.pinsClear fn) s (fun t => t.errPins = s.errPins ∧
        t.pinHigh % 250000 = 0 ∧ s.cyc < t.pinHigh ∧ t.pinHigh ≤ s.cyc + 250000 ∧
        FldOnly Reg.LHS_PINS 1 0 1 s { t with pinBase := s.pinBase, pinFrom := s.pinFrom, pinHigh := s.pinHigh })) ∧
      (pins ≠ 2 ∨ s.flag Reg.LHS_PINS 2 = true ∨ (∃ e ∈ s.enow, e.eff ≠ 0) → exec (.pinsClear fn) s = .next s)) ∧
    (∀ fails, s.flag Reg.LHS_INJ 63 = false → exec (.injectionComplete fails) s = .next s) ∧
    (∀ fails, s.flag Reg.LHS_INJ 63 = true → Ends (.injectionComplete fails) s (fun t =>
      t.flag Reg.LHS_INJ 63 = false ∧ t.flag Reg.GLB_STATE 4 = true ∧ t.fld Reg.LHS_INJ 55 40 = min 0xFFFF ((s.cyc - s.injAt) / 500) ∧ (t.flag Reg.LHS_PINS 2 = true ↔ t.fld Reg.LHS_INJ 22 0 ≠ 0) ∧
      (fails = [] → t.fld Reg.GLB_STATE 3 0 = (if s.fld Reg.GLB_STATE 3 0 = 4 then 5 else s.fld Reg.GLB_STATE 3 0) ∧ t.cores = s.cores ∧ t.mem = s.mem ∧
        (pins ≠ 0 → t.fld Reg.LHS_PINS 1 0 = pins) ∧
        (pins = 0 → t.fld Reg.LHS_PINS 1 0 = s.pinPend % 4 ∧ t.fld Reg.LHS_PINS 15 8 = s.pinCause % 256 ∧ t.pinPend = 1 ∧ t.pinCause = 0)) ∧
      (∀ f : CheckerFail, fails = [f] → f.kind = 1 → f.unit < 64 → f.cls < 7 → (QuietLog s → Events 1 s t) ∧ t.flag Reg.LHS_INJ_CORE f.unit = true ∧
        t.flag Reg.GLB_TC_MARKED f.unit = true ∧ PinsAfter 2 0x01 s t) ∧
      (∀ f : CheckerFail, fails = [f] → f.kind = 2 → f.unit < 8 → f.cls < 5 → (QuietLog s → Events 1 s t) ∧ t.flag Reg.LHS_INJ (32 + f.unit) = true ∧
        t.flag Reg.GLB_STATE (8 + f.unit) = true ∧ PinsAfter 2 0x01 s t) ∧
      (∀ f : CheckerFail, fails = [f] → f.kind = 3 → f.unit < 23 → Events 1 s t ∧ t.flag Reg.LHS_INJ f.unit = true ∧ t.flag Reg.LHS_PINS 2 = true ∧
        PinsAfter (if f.unit = 19 then 3 else 2) 0x01 s t)))

/-- A beacon starts on a core that it may take, once its slice is saved; it ends with its digest compared, a mismatch counted and
recorded; it is abandoned for an urgent slice or a reserved window. At its end a frame counts a deferral for each usable core without
its beacon, and the next begins with FRAME_MS (R520 to R524, R534). -/
def Obligations.BeaconsAndSafetyFrames : Prop :=
  ∀ (s : State),
    (∀ c : CoreId,
      let k := s.core c
      (s.beaconMay c = false → exec (.beaconStart c) s = .next s) ∧
      (s.beaconMay c = true → k.slice = none → Ends (.beaconStart c) s (fun t => (t.core c).mode = .beacon ∧
        (k.resident = none → t = s.setCore c { k with mode := .beacon }) ∧ (∀ r, k.resident = some r → r ≠ 256 → (t.core c).resident = none))) ∧
      (∀ sl, s.beaconMay c = true → k.slice = some sl → let asked := s.setCore c { k with preempt := true }
        (asked.canSave c = false ∨ k.parity ≠ [] → exec (.beaconStart c) s = .next s) ∧
        (asked.canSave c = true → k.parity = [] → Ends (.beaconStart c) s (fun t => (t.core c).mode = .beacon ∧ (t.core c).slice = none ∧ (t.core c).resident = none ∧
          ∃ v ∈ t.saved, v.core = c.val ∧ v.slice = some sl)))) ∧
    (∀ c : CoreId, s.beaconMay c = true → s.flag Reg.LHS_CFG 63 = true ∧ s.compHalted 4 = false ∧ s.usable c = true ∧ s.bcnDone.getLsbD c = false ∧
      s.frameStart + 1000000 * (c * s.frameMs) / 64 ≤ s.nowNs ∧ s.nowNs < s.frameStart + 1000000 * s.frameMs ∧
      (∀ sl ∈ (s.core c).queue, s.fld Reg.LHS_CFG 46 44 < sl.prio) ∧ ∀ sl, (s.core c).slice = some sl → sl.gang = false ∧ s.fld Reg.LHS_CFG 46 44 < sl.prio) ∧
    (∀ (c : CoreId) (obs : List Byte),
      let r := Reg.LHS_BCN c
      let var := Config.beaconVariant s.frameNo % 16
      let same := (obs ++ leBytes 16 0).take 16 = (Config.beaconExpected var ++ leBytes 16 0).take 16
      ((s.core c).mode ≠ .beacon → exec (.beaconComplete c obs) s = .next s) ∧
      ((s.core c).mode = .beacon → Ends (.beaconComplete c obs) s (fun t => (t.core c).mode = .idle ∧ (t.core c).tags = 0 ∧ (∀ d, d ≠ c.val → t.core d = s.core d) ∧
        t.fld r 31 0 = (s.fld r 31 0 + 1) % 2 ^ 32 ∧ t.fld r 63 56 = 0 ∧ t.flag r 47 = false ∧ t.fld r 44 41 = var ∧
        t.bcnDone.getLsbD c = true ∧ (∀ d < 64, d ≠ c.val → t.bcnDone.getLsbD d = s.bcnDone.getLsbD d) ∧
        (same → t.fld r 46 45 = 1 ∧ Events 0 s t ∧ t.reg Reg.LHS_MM_INFO = s.reg Reg.LHS_MM_INFO) ∧
        (¬ same → t.fld r 46 45 = 2 ∧ (s.compHalted 4 = false → Events 1 s t ∧ t.fld Reg.LHS_MM_INFO 63 58 = c ∧ t.fld Reg.LHS_MM_INFO 57 54 = var ∧
          t.fld Reg.LHS_MM_INFO 47 32 = min 65535 (s.fld Reg.LHS_MM_INFO 47 32 + 1) ∧
          ∀ q m, s.cmd q = some m → c.val ∈ m.ranOn → ∃ m', t.cmd q = some m' ∧ m'.bcn = true))))) ∧
    (∀ c : CoreId,
      let now := s.urgentFor c = true ∨ s.reserved (c / 8) s.nowNs s.nowNs = true
      ((s.core c).mode ≠ .beacon ∨ ¬ now → exec (.beaconAbandon c) s = .next s) ∧
      ((s.core c).mode = .beacon → now → Ends (.beaconAbandon c) s (fun t => (t.core c).mode = .idle ∧ t.fld (Reg.LHS_BCN c) 46 45 = 3 ∧ t.bcnDone = s.bcnDone ∧
        (∀ d, d ≠ c.val → t.core d = s.core d) ∧ ∀ o, o ≠ Reg.LHS_BCN c → t.reg o = s.reg o))) ∧
    (let len := 1000000 * s.frameMs
     let next := max 1 (min 1000 (s.fld Reg.LHS_CFG 57 48))
     ; (s.nowNs / len * len = s.frameStart → exec .safetyFrameEnd s = .next s) ∧
      (s.nowNs / len * len ≠ s.frameStart → Ends .safetyFrameEnd s (fun t => t.frameMs = next ∧ t.frameStart = s.nowNs / (1000000 * next) * (1000000 * next) ∧
        t.frameNo = s.frameNo + 1 ∧ t.bcnDone = 0 ∧ t.bcnSeen = 0 ∧ t.cores = s.cores ∧ t.mem = s.mem ∧
        ∀ c < 64, let r := Reg.LHS_BCN c
          let counts := s.flag Reg.LHS_CFG 63 = true ∧ (s.usable c = true ∨ s.bcnSeen.getLsbD c = true) ∧ s.bcnDone.getLsbD c = false
          let d := min 255 (s.fld r 63 56 + 1)
          (¬ counts → t.fld r 63 56 = s.fld r 63 56 ∧ t.flag r 47 = s.flag r 47) ∧
          (counts → t.fld r 63 56 = d ∧ (t.flag r 47 = true ↔ s.flag r 47 = true ∨ (max 1 (s.fld Reg.LHS_CFG 43 36) < d ∧ s.compHalted 4 = false))))))

/-- A periodic entry opens an instance at its deadline, which moves on by PERIOD_NS, or sets OVR with four open; THRESH rises by END_STEP.
At a judging the open instances whose threshold is reached are met, those whose deadline tick's cycle is over are missed, once each, with
an event, and one missed before it is met leaves its lateness;
an entry that is disabled closes its instances, and with EN 1 nothing else of it can be written (R525, R526, R534). -/
def Obligations.DeadlinesAreWatched : Prop :=
  ∀ (n : Fin 256) (s : State),
    let cfg := Reg.LHS_DL_CFG n
    let thr := Reg.LHS_DL_THR n
    let stat := Reg.LHS_DL_STAT n
    let count := (s.reg (Reg.SYN_CNT (s.fld cfg 45 32))).toNat
    let l := tabGet [] s.dl n
    let at' := 1000000000 * (s.reg (Reg.LHS_DL_TS n)).toNat + s.fld (Reg.LHS_DL_TNS n) 29 0
    let period := s.fld (Reg.LHS_DL_TNS n) 63 32
    let due := s.flag cfg 63 = true ∧ s.flag cfg 62 = true ∧ at' ≤ s.nowNs ∧ n.val ∉ s.dlOnce
    let others := fun (t : State) => ∀ j, j ≠ n.val → tabGet [] t.dl j = tabGet [] s.dl j
    (¬ due → exec (.deadlinePeriodicOpen n) s = .next s) ∧
    (due → (∀ d ∈ l, count < d.thr) → count < s.fld thr 47 0 → Ends (.deadlinePeriodicOpen n) s (fun t => others t ∧
      (l.length < 4 → tabGet [] t.dl n = l ++ [⟨at' / 1000000000, at' % 1000000000, s.fld thr 47 0, false⟩] ∧ t.fld stat 2 0 = l.length + 1 ∧
        t.flag stat 7 = s.flag stat 7) ∧
      (4 ≤ l.length → tabGet [] t.dl n = l ∧ t.flag stat 7 = true) ∧
      t.fld thr 47 0 = (s.fld thr 47 0 + s.fld thr 63 48) % 2 ^ 48 ∧ t.fld thr 63 48 = s.fld thr 63 48 ∧
      (period = 0 → n.val ∈ t.dlOnce) ∧
      (period ≠ 0 → t.dlOnce = s.dlOnce ∧ (t.reg (Reg.LHS_DL_TS n)).toNat = (at' + period) / 1000000000 % 2 ^ 64 ∧
        t.fld (Reg.LHS_DL_TNS n) 29 0 = (at' + period) % 1000000000 ∧ t.fld (Reg.LHS_DL_TNS n) 63 32 = period) ∧
      t = { s with regs := t.regs, evt := t.evt, dl := t.dl, dlOnce := t.dlOnce })) ∧
    (let met := l.filter (fun d => decide (d.thr ≤ count))
     let open' := l.filter (fun d => decide (count < d.thr))
     let late := fun (d : DlInst) => !d.missed && decide (1000000000 * d.sec + d.ns ≤ s.tbLast)
     let k := (l.filter late).length
     ; (met = [] → k = 0 → exec (.deadlineExpiry n) s = .next s) ∧
      (met ≠ [] ∨ k ≠ 0 → Ends (.deadlineExpiry n) s (fun t => others t ∧
        tabGet [] t.dl n = open'.map (fun d => if late d then { d with missed := true } else d) ∧
        t.fld stat 47 32 = (s.fld stat 47 32 + met.length) % 65536 ∧ Events k s t ∧
        t.fld stat 63 48 = max (s.fld stat 63 48) (min 65535 (s.fld stat 63 48 + k)) ∧ t.fld stat 6 3 = max (s.fld stat 6 3) (min 15 (s.fld stat 6 3 + k)) ∧
        (∀ d, met = [d] → d.missed = true ∨ late d = true → t.fld stat 31 16 = min 65535 ((s.nowNs - (1000000000 * d.sec + d.ns)) / 1000)) ∧
        t.cores = s.cores ∧ t.mem = s.mem))) ∧
    (∀ fn : Fn, Reaches fn cfg 64 0 s →
      (s.flag cfg 63 = true → Ends (.deadlineEntryDisable fn n) s (fun t => others t ∧ tabGet [] t.dl n = [] ∧ t.flag cfg 63 = false ∧
        (∀ b, b ≠ 63 → t.flag cfg b = s.flag cfg b) ∧ t.fld stat 2 0 = 0 ∧ t.fld stat 6 3 = 0 ∧ t.fld stat 63 16 = s.fld stat 63 16 ∧
        (∀ o, o ≠ cfg → o ≠ stat → t.reg o = s.reg o) ∧ t = { s with regs := t.regs, evt := t.evt, dl := t.dl })) ∧
      (s.flag cfg 63 = false → Ends (.deadlineEntryDisable fn n) s (fun t => RegOnly cfg s t ∧ t.fld cfg 63 62 = 0 ∧ t.fld cfg 59 0 = 0)))

/-! ## Reset, and what every step keeps -/

/-- The block right after reset: every register at its table's value (shown for some that are not 0), the pins in RESET, no core
running, no queue, claim, fault or record open, the harbours and lagoons zero, FRAME_MS 20 and the timebase 0 (R12, R110, R216,
R347, R441, R515, R523, R584). -/
def Obligations.ResetLeavesTheStatedValues : Prop :=
  let s := State.reset
  (∀ o, s.reg o = regReset o) ∧ (s.reg Reg.LHS_CFG).toNat = 0x801410410000057C ∧ (∀ d < 64, (s.reg (Reg.NET_ROUTE d)).toNat = 0xFF) ∧
  s.fld Reg.GLB_STATE 3 0 = 0 ∧ s.fld Reg.LHS_PINS 1 0 = 0 ∧ s.pending = [] ∧
  (∀ c, (s.core c).mode = .idle ∧ (s.core c).slice = none ∧ (s.core c).tags = 0 ∧ (s.core c).gen = 0 ∧ ∀ a, (s.core c).lgn.read a = 0) ∧
  (∀ f, (s.ferry f).bound = none ∧ (s.ferry f).stream = none) ∧ (∀ q, s.cmd q = none) ∧ s.claims = [] ∧ s.faults = [] ∧
  (∀ a, hbrAddr 0 0 ≤ a → a < hbrAddr 8 0 → s.mem.read a = 0) ∧ s.frameMs = 20 ∧ s.tbS = 0 ∧ s.tbNs = 0 ∧ s.tbFrac = 0

/-- The invariants hold at reset: the timebase's nanoseconds and fraction are in range, memory is in its
canonical form, and no command holds it. -/
def Obligations.InvariantsHoldAtReset : Prop := TimeWf State.reset ∧ MemWf State.reset ∧ State.reset.memHeld = false

/-- Every command answers a next state, and on an empty queue the block idles (Log 2): what a command does wrong, the block reports in
its own state and goes on (R4). -/
def Obligations.EveryStepAnswersANextState : Prop :=
  (∀ (i : Instr) (s : State), ∃ t, exec i s = .next t) ∧ ∀ s, Safe s

/-- Whatever command runs, the timebase stays a count of seconds with nanoseconds below 10^9 and a fraction below 2^32 (R441, R442). -/
def Obligations.EveryStepKeepsTheTimebase : Prop := ∀ s t : State, TimeWf s → step s = .next t → TimeWf t

/-- Whatever command runs, memory keeps its one canonical form, so that equal memories are equal data, and the commands that wait
keep their places: one step takes the front one away and touches no other. -/
def Obligations.EveryStepKeepsMemoryAndQueue : Prop :=
  ∀ s t : State, step s = .next t → (MemWf s → MemWf t) ∧ t.pending = s.pending.tail

/-- Whatever command runs, an access that had to wait for the memory holds up no later command: the mark of a waiting access is the
model's own (Log 66), and no step leaves it set (R329, R584). -/
def Obligations.NoStepLeavesTheMemoryHeld : Prop := ∀ s t : State, s.memHeld = false → step s = .next t → t.memHeld = false

/-! ## Completion -/

/-- Where the conditions hold that the spec sets on them, each of these commands completes with its own effect, whatever else
the state holds. Register writes and reads take effect (R10 to R13, R480), doorbells set the tail (R349), BAR4 reads and
writes memory (R479). MMA, MMAZ, MMAT, ZPC, KVAPPEND and KVEVICT go on to the next instruction with their effect (R134 to
R140, R187, R189). Invalidations are queued (R335), the six commands are fetched (R353) and a NOP whose waits are satisfied ends
(R354). LPDDR5X is initialised (R584), frames and packets are taken and sent (R452, R455, R459 to R469). Faults of components
restart them (R538), floors rise (R551), beacons run (R521 to R524), the power states are entered (R561), and the resets act
(R573, R580). -/
def Obligations.CommandsCompleteWithTheirEffect : Prop :=
  (∀ (fn : Fn) (off width : Nat) (v : DWord) (s : State) (g : RegGroup) (ix : List Nat),
    msixWide (.host fn) off width = false → regAt off = some (g, ix) → ¬ inWindow off →
    (s.accessKind fn true off width v = none → g.name ∉ actingWrites → ∃ t, exec (.registerWrite (.host fn) off width v) s = .next t ∧
      ∀ f ∈ g.fields, f.acc = .rw → t.fld off f.hi f.lo = bitsOf v.toNat f.hi f.lo) ∧
    (s.accessKind fn false off width 0 = none → g.name ∉ actingReads → ∃ t, exec (.rcRead (.host fn) off width) s = .next t ∧ t.readOk = true ∧
      ∀ f ∈ g.fields, f.acc = .rc → bitsOf t.readData f.hi f.lo = bitsOf (s.before off) f.hi f.lo ∧
        (bitsOf (s.events off) f.hi f.lo = 0 → t.fld off f.hi f.lo = f.reset))) ∧
  (∀ (fn : Fn) (q : QueueId) (v : Word) (s : State), (∀ k, fn = .vf k → s.qIn k q = true) → s.flag Reg.GLB_HOST 0 = false →
    s.fld Reg.GLB_STATE 3 0 = 5 → (v.toNat + 2 ^ 32 - s.qDone q) % 2 ^ 32 ≤ s.qDepth q →
    ∃ t, exec (.doorbell fn (64 * q.val) 32 v) s = .next t ∧ t.fld (Reg.SCH_QPTR q) 31 0 = v.toNat) ∧
  (∀ (fn : Fn) (addr len : Nat) (data : List Byte) (s : State), s.bar4q = [] → s.lpUe = [] → s.lpCe = [] →
    (∀ x, addr ≤ x → x < addr + len → x < s.visible ∧ s.memOn x = true ∧ s.memBusy x 1 = false ∧ ∀ k, fn = .vf k → s.inCarve k x 1 = true) →
    (∃ t, exec (.bar4Access fn false addr len data) s = .next t ∧ t.readData = leNat (s.mem.readN addr len)) ∧
    (data.length = len → ∃ t, exec (.bar4Access fn true addr len data) s = .next t ∧ t.mem.readN addr len = data)) ∧
  (∀ (c : CoreId) (w : IWord) (s0 : State),
    let s := s0.fetched c w
    let k := s.core c
    let r := k.regs
    let grants := fun (m : MatOp) => m.ok = true ∧ ∀ kb < m.kb, ∀ x < m.m, Granted k m.u false (m.statCells kb ++ m.rowCells kb x)
    let onward := fun (t : State) => RegsOnly c s (AccOnly r) t
    (Issues 0x20 c w s0 → Calm k → grants (MatOp.of r w false false) → ∃ t, exec (.mma c) s0 = .next t ∧ onward t) ∧
    (Issues 0x21 c w s0 → Calm k → grants (MatOp.of r w false true) → ∃ t, exec (.mmaz c) s0 = .next t ∧ onward t) ∧
    (Issues 0x22 c w s0 → Calm k → grants (MatOp.of r w true (w.mod 50)) → ∃ t, exec (.mmat c) s0 = .next t ∧ onward t) ∧
    (let m := EpiOp.of r w true
     Issues 0x23 c w s0 → Calm k → m.ok = true → (∀ x < m.m, Granted k m.u false (m.readCells x)) → m.csEn = true ∨ (∀ x < m.m, k.zeroPoint m.xs x = 0) →
       ∃ t, exec (.zpc c) s0 = .next t ∧ onward t) ∧
    (let x := r.getT (w.src2 - 0x30)
     let nt := bitsOf w.imm 5 0 + 1
     Issues 0xC1 c w s0 → Sound k → tileOk x = true → x.fmt = some .bf16 → x.rows = 128 → Granted k (w.mod 48) false (kvSrcCells x nt) →
       ∃ t, exec (.kvappend c) s0 = .next t ∧ ∃ q : KvReq, t.kv = s.kv ++ [q] ∧ q.append = true ∧ q.entry = (r.getS w.src1).toNat ∧ q.toks.length = nt) ∧
    (Issues 0xC3 c w s0 → ∃ t, exec (.kvevict c) s0 = .next t ∧
      ∃ q : KvReq, t.kv = s.kv ++ [q] ∧ q.append = false ∧ q.entry = (r.getS w.src1).toNat ∧ q.target = (r.getS w.src2).toNat)) ∧
  (∀ (fn : Fn) (asid : Byte) (page : Word) (p : BitVec 16) (s : State),
    let takes := fun (v : Nat) => Reaches fn Reg.MEM_INV 64 (BitVec.ofNat 64 v) s ∧ s.invq.length < 16
    (takes 0 → ∃ t, exec (.invalidateAll fn) s = .next t ∧ t.invq = s.invq ++ [⟨0, 0, 0, 1⟩]) ∧
    (takes (2 ^ 54 * asid.toNat + 2 ^ 62) → ∃ t, exec (.invalidateAsid fn asid) s = .next t ∧ t.invq = s.invq ++ [⟨1, asid.toNat, 0, 1⟩]) ∧
    (takes (p.toNat + 2 ^ 16 * page.toNat + 2 ^ 54 * asid.toNat + 2 ^ 63) →
      ∃ t, exec (.invalidateRange fn asid page p) s = .next t ∧ t.invq = s.invq ++ [⟨2, asid.toNat, page.toNat, p.toNat + 1⟩])) ∧
  (∀ (q : QueueId) (r : List Byte) (s u : State), s.memHeld = false → s.canFetch q = true →
    let a := 1024 * s.fld (Reg.SCH_QRING q) 43 10 + 64 * (s.qDone q % s.qDepth q)
    let part := s.ctxPart (s.qCtx q)
    let n := recNat r 2 2
    let pwr := u.flag (Reg.SCH_QCFG q) 9
    let record := fun (k : Nat) => recNat r 0 1 = k ∧ recNat r 1 1 = 0 ∧ recZero r 16 48 = true ∧ u.flushFor q (u.qDone q) = none
    let waits := fun (k : Nat) (t : State) => ∃ m, t.cmd q = some m ∧ m.kind = k ∧ m.phase = .waiting ∧ m.nslice = n
    s.partCheck part a 64 = 0 → s.readPhys 0 a 64 = (some r, u) → u.memHeld = false →
    (record 0 → n = 0 → recZero r 8 8 = true → ∃ t, exec (.cmdNop q) s = .next t ∧ waits 0 t) ∧
    (record 1 → n ≠ 0 → ∃ t, exec (.cmdSlices q) s = .next t ∧ waits 1 t) ∧
    (record 2 → n ≠ 0 → n ≤ 64 → pwr = true ∨ n ≤ (u.coresUsable part).length → ∃ t, exec (.cmdGang q) s = .next t ∧ waits 2 t) ∧
    (record 3 → n = 0 → recNat r 14 2 = 0 → pwr = false → ∃ t, exec (.cmdChain q) s = .next t ∧ waits 3 t) ∧
    (record 4 → n ≠ 0 → pwr = false → ∃ t, exec (.cmdConv q) s = .next t ∧ waits 4 t) ∧
    (record 5 → n = 0 → pwr = false → ∃ t, exec (.cmdRagged q) s = .next t ∧ waits 5 t)) ∧
  (∀ (q : QueueId) (m : Cmd) (s : State), s.cmd q = some m → s.memHeld = false → m.phase = .waiting → s.schPaused = false →
    (∀ w ∈ m.waits, w.2 ≤ (s.reg (Reg.SYN_CNT w.1)).toNat) → bitOf m.flags 2 = false → m.kind = 0 → s.flag (Reg.SCH_QCFG q) 47 = false →
    ∃ t, exec (.commandWaitsSatisfied q) s = .next t ∧ t.cmd q = some { m with phase := .ended, status := 0, todo := [] }) ∧
  (∀ s : State, 3 ≤ s.fld Reg.GLB_STATE 3 0 → s.fld Reg.GLB_STATE 3 0 ≤ 5 → s.bar4q = [] →
    ∃ t, exec .lpddrInitComplete s = .next t ∧ t.flag Reg.MEM_CFG 2 = true) ∧
  (∀ (p : Fin 4) (s : State), s.flag (Reg.NET_SP_CFG p) 63 = true → s.flag (Reg.NET_SP_STAT p) 63 = true →
    (∀ c ring, s.ethRing p 0 = some (c, ring) → ∀ (data : List Byte) (ago : Nat) (p' : Fin 16), p'.val = p.val →
      let g := Reg.NET_SP_RX_MATCH p 0
      let isl := s.fld (Reg.NET_SP_RX_RING p 0) 63 61
      14 ≤ data.length → data.length + 4 ≤ 9216 → beAt data 0 6 = 0xFFFFFFFFFFFF → beAt data 12 2 ≠ 0x8100 →
      s.flag g 63 = true → s.flag g 62 = false → s.fld g 47 32 = 0 → s.fld g 31 16 = 0 → tabFind s.ethRx (8 * p.val) = none →
      32 + data.length ≤ ring.slotBytes → ring.st.getD ring.rsv .e = .e → ring.rsv < ring.st.length → GoodSlot s (ring.hbrSlot isl ring.head) ring.slotBytes →
      ∃ t, exec (.ethFrameReceived p' false data ago) s = .next t ∧ (tabFind t.ethRx (8 * p.val)).isSome = true ∧
        t.ring c (s.fld (Reg.NET_SP_RX_RING p 0) 52 49) = some { ring with st := ring.st.set ring.rsv .p, rsv := (ring.rsv + 1) % ring.slots }) ∧
    (∀ sfd : List Nat, let g := Reg.NET_SP_TX p
     ∀ c ring, s.shoreRing (s.fld g 62 60) (s.fld g 59 52) (s.fld g 51 48) false = some (c, ring) →
      let a := ring.hbrSlot (s.fld g 62 60) ring.acq
      let hd := s.mem.readN a 32
      let len := recNat hd 0 2
      s.flag g 63 = true → ring.st.getD ring.acq .e = .f → ring.tail = ring.acq → GoodSlot s a ring.slotBytes → 32 ≤ ring.slotBytes →
      len ≠ 0 → recNat hd 3 1 = 0 → recZero hd 6 2 = true → recZero hd 22 10 = true → 32 + len ≤ ring.slotBytes →
      ring.slotBytes < up64 (32 + len) + 32 ∨ recNat (s.mem.readN (a + up64 (32 + len)) 32) 0 2 = 0 →
      ∃ t, exec (.ethTxSlot p sfd) s = .next t ∧ t.out = s.out ++ [.frame p (s.mem.readN (a + 32) len ++ frameFcs (s.mem.readN (a + 32) len))])) ∧
  (∀ (q : Fin 8) (m : CwPkt) (s : State), s.portUp q = true → Addressed s m →
    let p := s.path q m.src
    let stat := Reg.NET_PXY_STAT
    (∀ k, k < 2 ^ 31 → m.dch < 256 → s.flag (Reg.NET_CH_SEND m.dch) 63 = true → s.fld (Reg.NET_CH_SEND m.dch) 37 32 = m.src →
      s.fld (Reg.NET_CH_SEND m.dch) 7 0 = m.sch → m.arg = ((s.cwTxOf m.dch).credits + k) % 2 ^ 32 →
      ∃ t, exec (.creditReceived q m) s = .next t ∧ (t.cwTxOf m.dch).credits = (s.cwTxOf m.dch).credits + k) ∧
    (m.arg2 = 0 → ∃ t, exec (.ackReceived q m) s = .next t ∧ t.path q m.src = { p with unacked := p.unacked.filter (fun u => !(ackedBy m.arg 0 u.pkt.psn)) }) ∧
    (NextPsn p m → s.flag stat 31 = true → m.arg = s.pxyId → m.src = s.fld Reg.NET_PXY_CMD 53 48 →
      ∃ t, exec (.proxyResponseReceived q m) s = .next t ∧ t.fld stat 31 30 = 1 ∧ t.fld stat 2 0 = leNat (m.data.take 8).reverse % 8) ∧
    (NextPsn p m → s.flag Reg.NET_PXY_ALLOW m.src = true → ∃ t, exec (.proxyRequestReceived q m) s = .next t ∧ ∃ b, t.out.getLast? = some (.packet q b))) ∧
  (∀ (q : Fin 8) (m : CwPkt) (s : State), let r := Reg.NET_ROUTE m.src
    s.portUp q = true → m.mine = true → m.system = s.fld Reg.NET_CW_CFG 31 16 → m.src < 64 → m.src ≠ s.fld Reg.NET_CW_CFG 5 0 → m.sport = q.val →
    ∃ t, exec (.helloReceived q m) s = .next t ∧ t.flag r (8 + q.val) = true ∧ t.flag r (16 + q.val) = false) ∧
  (∀ (c : Fin 256) (s : State), let r := Reg.NET_CH_SEND c
    let x := s.cwTxOf c
    ∀ k ring, s.sendRing c = some (k, ring) → let a := ring.hbrSlot (s.fld r 62 60) ring.acq
    x.cur = none → ring.st.getD ring.acq .e = .f → x.n < x.credits → ring.tail = ring.acq → GoodSlot s a ring.slotBytes →
    cwHeaderOk (s.mem.readN a 64) ring.slotBytes x.size = true → s.portsTo (s.fld r 37 32) 7 ≠ [] →
    ∃ t, exec (.cwSlotSend c) s = .next t ∧ (t.cwTxOf c).cur = some (true, recNat (s.mem.readN a 64) 0 4)) ∧
  (∀ (q : Fin 8) (d : Fin 64) (s : State), let p := s.path q d
    let due := p.unacked.filter (fun u => decide (u.sent + 500 * max 1 (s.fld Reg.NET_CW_XPORT 15 0) ≤ s.cyc))
    due ≠ [] → s.flag (Reg.NET_ROUTE d) (16 + q.val) = false → (∀ u ∈ due, u.tries < max 1 (s.fld Reg.NET_CW_XPORT 23 20)) →
    (p.unacked.map (·.pkt.psn)).Nodup → s.portUp q = true →
    ∃ t, exec (.retransmitTimeout q d) s = .next t ∧ t.out = s.out ++ due.map (fun u => OutMsg.packet q (s.cwFrame q u.typ u.pkt))) ∧
  (∀ (c : Fin 5) (inst : IslandId) (cause : Fin 3) (pc : DWord) (s : State), let n := if c.val = 3 then inst.val else 0
    s.compHalted c = false → cause.val ≠ 0 ∨ s.mpLock = true → c.val ≠ 0 → c.val ≠ 4 → c.val ∉ s.active → (c.val, n) ∉ s.down → (∀ r ∈ s.restarts, r.comp ≠ c.val ∨ r.inst ≠ n) →
    ∃ t, exec (.compFault c inst cause pc) s = .next t ∧ t.restarts = s.restarts ++ [⟨c, n, 1⟩] ∧ t.flag (Reg.FWM_COMP c) 0 = false) ∧
  (∀ (c : Fin 6) (x : Nat) (s : State), tabFind s.ranSince c = some x → x + 500000000 ≤ s.cyc → tabGet 0 s.raiseAt c ≤ s.cyc → s.compHalted 0 = false →
    s.sePaired = true → ∃ t, exec (.floorRaise c true) s = .next t ∧
      tabFind t.seCnt c = some (max (tabGet 0 s.seCnt c) (tabGet ⟨leBytes 64 0, 0, 0⟩ s.images c).floor)) ∧
  (∀ (c : CoreId) (obs : List Byte) (s : State),
    (s.beaconMay c = true → (s.core c).slice = none → ∃ t, exec (.beaconStart c) s = .next t ∧ (t.core c).mode = .beacon) ∧
    ((s.core c).mode = .beacon → ∃ t, exec (.beaconComplete c obs) s = .next t ∧ (t.core c).mode = .idle ∧ t.bcnDone.getLsbD c = true) ∧
    ((s.core c).mode = .beacon → s.urgentFor c = true ∨ s.reserved (c / 8) s.nowNs s.nowNs = true →
      ∃ t, exec (.beaconAbandon c) s = .next t ∧ (t.core c).mode = .idle ∧ t.fld (Reg.LHS_BCN c) 46 45 = 3)) ∧
  (∀ (fn : Fn) (s : State), let word := fun d => BitVec.ofNat 64 (bitsPut (s.reg Reg.PWR_MODE).toNat 2 0 d)
    (s.standby = false → s.fld Reg.PWR_STAT 2 0 ≠ 3 →
      (Reaches fn Reg.PWR_MODE 32 (word 3) s → ∃ t, exec (.enterP3 fn) s = .next t ∧ t.fld Reg.PWR_MODE 2 0 = 3) ∧
      (Reaches fn Reg.PWR_MODE 32 (word 4) s → ∃ t, exec (.enterP4 fn) s = .next t ∧ t.fld Reg.PWR_MODE 2 0 = 4)) ∧
    (Reaches fn Reg.PWR_RESET 32 (BitVec.ofNat 64 (2 ^ 24 * 0xA5)) s → ∃ t, exec (.pwrReset fn 0xA5) s = .next t ∧ t.fld Reg.GLB_STATE 3 0 = 1 ∧ t.cores = []) ∧
    ∃ t, exec .tapReset s = .next t ∧ t.tapOut = leBytes 4 (0x08640B47 + 0x10000000 * s.fld Reg.GLB_IDENT 7 4))
end

