-- ==== Sys2Proof/Laws/State.lean ====
section
/-! SUPPORT. The field lemmas of the state's updates: what each named update leaves in every field, true by definition, so
that a proof never unfolds a record update. -/
namespace Sys2Proof.Machine

/-! ## setReg -/

@[simp] theorem State.setReg_pending (s : State) (off : Nat) (v : DWord) : (s.setReg off v).pending = s.pending := rfl
@[simp] theorem State.setReg_readData (s : State) (off : Nat) (v : DWord) : (s.setReg off v).readData = s.readData := rfl
@[simp] theorem State.setReg_readOk (s : State) (off : Nat) (v : DWord) : (s.setReg off v).readOk = s.readOk := rfl
@[simp] theorem State.setReg_regs (s : State) (off : Nat) (v : DWord) : (s.setReg off v).regs = tabSet (regReset off) s.regs off v := rfl
@[simp] theorem State.setReg_cores (s : State) (off : Nat) (v : DWord) : (s.setReg off v).cores = s.cores := rfl
@[simp] theorem State.setReg_ferries (s : State) (off : Nat) (v : DWord) : (s.setReg off v).ferries = s.ferries := rfl
@[simp] theorem State.setReg_mem (s : State) (off : Nat) (v : DWord) : (s.setReg off v).mem = s.mem := rfl
@[simp] theorem State.setReg_bar4q (s : State) (off : Nat) (v : DWord) : (s.setReg off v).bar4q = s.bar4q := rfl
@[simp] theorem State.setReg_lpUe (s : State) (off : Nat) (v : DWord) : (s.setReg off v).lpUe = s.lpUe := rfl
@[simp] theorem State.setReg_lpCe (s : State) (off : Nat) (v : DWord) : (s.setReg off v).lpCe = s.lpCe := rfl
@[simp] theorem State.setReg_hbrUe (s : State) (off : Nat) (v : DWord) : (s.setReg off v).hbrUe = s.hbrUe := rfl
@[simp] theorem State.setReg_hbrCe (s : State) (off : Nat) (v : DWord) : (s.setReg off v).hbrCe = s.hbrCe := rfl
@[simp] theorem State.setReg_queues (s : State) (off : Nat) (v : DWord) : (s.setReg off v).queues = s.queues := rfl
@[simp] theorem State.setReg_flush (s : State) (off : Nat) (v : DWord) : (s.setReg off v).flush = s.flush := rfl
@[simp] theorem State.setReg_saved (s : State) (off : Nat) (v : DWord) : (s.setReg off v).saved = s.saved := rfl
@[simp] theorem State.setReg_gangRes (s : State) (off : Nat) (v : DWord) : (s.setReg off v).gangRes = s.gangRes := rfl
@[simp] theorem State.setReg_islGen (s : State) (off : Nat) (v : DWord) : (s.setReg off v).islGen = s.islGen := rfl
@[simp] theorem State.setReg_drr (s : State) (off : Nat) (v : DWord) : (s.setReg off v).drr = s.drr := rfl
@[simp] theorem State.setReg_drrCur (s : State) (off : Nat) (v : DWord) : (s.setReg off v).drrCur = s.drrCur := rfl
@[simp] theorem State.setReg_thrBudget (s : State) (off : Nat) (v : DWord) : (s.setReg off v).thrBudget = s.thrBudget := rfl
@[simp] theorem State.setReg_thrRot (s : State) (off : Nat) (v : DWord) : (s.setReg off v).thrRot = s.thrRot := rfl
@[simp] theorem State.setReg_thrStart (s : State) (off : Nat) (v : DWord) : (s.setReg off v).thrStart = s.thrStart := rfl
@[simp] theorem State.setReg_thrAt (s : State) (off : Nat) (v : DWord) : (s.setReg off v).thrAt = s.thrAt := rfl
@[simp] theorem State.setReg_kv (s : State) (off : Nat) (v : DWord) : (s.setReg off v).kv = s.kv := rfl
@[simp] theorem State.setReg_live (s : State) (off : Nat) (v : DWord) : (s.setReg off v).live = s.live := rfl
@[simp] theorem State.setReg_jobs (s : State) (off : Nat) (v : DWord) : (s.setReg off v).jobs = s.jobs := rfl
@[simp] theorem State.setReg_jobLast (s : State) (off : Nat) (v : DWord) : (s.setReg off v).jobLast = s.jobLast := rfl
@[simp] theorem State.setReg_tlb (s : State) (off : Nat) (v : DWord) : (s.setReg off v).tlb = s.tlb := rfl
@[simp] theorem State.setReg_invq (s : State) (off : Nat) (v : DWord) : (s.setReg off v).invq = s.invq := rfl
@[simp] theorem State.setReg_xtsKeys (s : State) (off : Nat) (v : DWord) : (s.setReg off v).xtsKeys = s.xtsKeys := rfl
@[simp] theorem State.setReg_granOwner (s : State) (off : Nat) (v : DWord) : (s.setReg off v).granOwner = s.granOwner := rfl
@[simp] theorem State.setReg_faults (s : State) (off : Nat) (v : DWord) : (s.setReg off v).faults = s.faults := rfl
@[simp] theorem State.setReg_frecs (s : State) (off : Nat) (v : DWord) : (s.setReg off v).frecs = s.frecs := rfl
@[simp] theorem State.setReg_fid (s : State) (off : Nat) (v : DWord) : (s.setReg off v).fid = s.fid := rfl
@[simp] theorem State.setReg_patrolAt (s : State) (off : Nat) (v : DWord) : (s.setReg off v).patrolAt = s.patrolAt := rfl
@[simp] theorem State.setReg_initDone (s : State) (off : Nat) (v : DWord) : (s.setReg off v).initDone = s.initDone := rfl
@[simp] theorem State.setReg_dl (s : State) (off : Nat) (v : DWord) : (s.setReg off v).dl = s.dl := rfl
@[simp] theorem State.setReg_dlOnce (s : State) (off : Nat) (v : DWord) : (s.setReg off v).dlOnce = s.dlOnce := rfl
@[simp] theorem State.setReg_lockstep (s : State) (off : Nat) (v : DWord) : (s.setReg off v).lockstep = s.lockstep := rfl
@[simp] theorem State.setReg_frameMs (s : State) (off : Nat) (v : DWord) : (s.setReg off v).frameMs = s.frameMs := rfl
@[simp] theorem State.setReg_frameStart (s : State) (off : Nat) (v : DWord) : (s.setReg off v).frameStart = s.frameStart := rfl
@[simp] theorem State.setReg_frameNo (s : State) (off : Nat) (v : DWord) : (s.setReg off v).frameNo = s.frameNo := rfl
@[simp] theorem State.setReg_bcnDone (s : State) (off : Nat) (v : DWord) : (s.setReg off v).bcnDone = s.bcnDone := rfl
@[simp] theorem State.setReg_bcnSeen (s : State) (off : Nat) (v : DWord) : (s.setReg off v).bcnSeen = s.bcnSeen := rfl
@[simp] theorem State.setReg_mmHist (s : State) (off : Nat) (v : DWord) : (s.setReg off v).mmHist = s.mmHist := rfl
@[simp] theorem State.setReg_tbS (s : State) (off : Nat) (v : DWord) : (s.setReg off v).tbS = s.tbS := rfl
@[simp] theorem State.setReg_tbNs (s : State) (off : Nat) (v : DWord) : (s.setReg off v).tbNs = s.tbNs := rfl
@[simp] theorem State.setReg_tbFrac (s : State) (off : Nat) (v : DWord) : (s.setReg off v).tbFrac = s.tbFrac := rfl
@[simp] theorem State.setReg_tbJump (s : State) (off : Nat) (v : DWord) : (s.setReg off v).tbJump = s.tbJump := rfl
@[simp] theorem State.setReg_hbAt (s : State) (off : Nat) (v : DWord) : (s.setReg off v).hbAt = s.hbAt := rfl
@[simp] theorem State.setReg_hbOld (s : State) (off : Nat) (v : DWord) : (s.setReg off v).hbOld = s.hbOld := rfl
@[simp] theorem State.setReg_lossDue (s : State) (off : Nat) (v : DWord) : (s.setReg off v).lossDue = s.lossDue := rfl
@[simp] theorem State.setReg_vfDue (s : State) (off : Nat) (v : DWord) : (s.setReg off v).vfDue = s.vfDue := rfl
@[simp] theorem State.setReg_cyc (s : State) (off : Nat) (v : DWord) : (s.setReg off v).cyc = s.cyc := rfl
@[simp] theorem State.setReg_tbOps (s : State) (off : Nat) (v : DWord) : (s.setReg off v).tbOps = s.tbOps := rfl
@[simp] theorem State.setReg_tbPast (s : State) (off : Nat) (v : DWord) : (s.setReg off v).tbPast = s.tbPast := rfl
@[simp] theorem State.setReg_timArm (s : State) (off : Nat) (v : DWord) : (s.setReg off v).timArm = s.timArm := rfl
@[simp] theorem State.setReg_timLatch (s : State) (off : Nat) (v : DWord) : (s.setReg off v).timLatch = s.timLatch := rfl
@[simp] theorem State.setReg_capUnread (s : State) (off : Nat) (v : DWord) : (s.setReg off v).capUnread = s.capUnread := rfl
@[simp] theorem State.setReg_trigEnd (s : State) (off : Nat) (v : DWord) : (s.setReg off v).trigEnd = s.trigEnd := rfl
@[simp] theorem State.setReg_trigPast (s : State) (off : Nat) (v : DWord) : (s.setReg off v).trigPast = s.trigPast := rfl
@[simp] theorem State.setReg_claims (s : State) (off : Nat) (v : DWord) : (s.setReg off v).claims = s.claims := rfl
@[simp] theorem State.setReg_tdl (s : State) (off : Nat) (v : DWord) : (s.setReg off v).tdl = s.tdl := rfl
@[simp] theorem State.setReg_tdlDirty (s : State) (off : Nat) (v : DWord) : (s.setReg off v).tdlDirty = s.tdlDirty := rfl
@[simp] theorem State.setReg_tdlStart (s : State) (off : Nat) (v : DWord) : (s.setReg off v).tdlStart = s.tdlStart := rfl
@[simp] theorem State.setReg_tdlNext (s : State) (off : Nat) (v : DWord) : (s.setReg off v).tdlNext = s.tdlNext := rfl
@[simp] theorem State.setReg_drops (s : State) (off : Nat) (v : DWord) : (s.setReg off v).drops = s.drops := rfl
@[simp] theorem State.setReg_dropRing (s : State) (off : Nat) (v : DWord) : (s.setReg off v).dropRing = s.dropRing := rfl
@[simp] theorem State.setReg_spiRead (s : State) (off : Nat) (v : DWord) : (s.setReg off v).spiRead = s.spiRead := rfl
@[simp] theorem State.setReg_spiBusy (s : State) (off : Nat) (v : DWord) : (s.setReg off v).spiBusy = s.spiBusy := rfl
@[simp] theorem State.setReg_tdlDue (s : State) (off : Nat) (v : DWord) : (s.setReg off v).tdlDue = s.tdlDue := rfl
@[simp] theorem State.setReg_pwm (s : State) (off : Nat) (v : DWord) : (s.setReg off v).pwm = s.pwm := rfl
@[simp] theorem State.setReg_capDec (s : State) (off : Nat) (v : DWord) : (s.setReg off v).capDec = s.capDec := rfl
@[simp] theorem State.setReg_canRx (s : State) (off : Nat) (v : DWord) : (s.setReg off v).canRx = s.canRx := rfl
@[simp] theorem State.setReg_canOld (s : State) (off : Nat) (v : DWord) : (s.setReg off v).canOld = s.canOld := rfl
@[simp] theorem State.setReg_canNew (s : State) (off : Nat) (v : DWord) : (s.setReg off v).canNew = s.canNew := rfl
@[simp] theorem State.setReg_canLatch (s : State) (off : Nat) (v : DWord) : (s.setReg off v).canLatch = s.canLatch := rfl
@[simp] theorem State.setReg_canQ (s : State) (off : Nat) (v : DWord) : (s.setReg off v).canQ = s.canQ := rfl
@[simp] theorem State.setReg_canTx (s : State) (off : Nat) (v : DWord) : (s.setReg off v).canTx = s.canTx := rfl
@[simp] theorem State.setReg_ethRx (s : State) (off : Nat) (v : DWord) : (s.setReg off v).ethRx = s.ethRx := rfl
@[simp] theorem State.setReg_helloAt (s : State) (off : Nat) (v : DWord) : (s.setReg off v).helloAt = s.helloAt := rfl
@[simp] theorem State.setReg_helloSent (s : State) (off : Nat) (v : DWord) : (s.setReg off v).helloSent = s.helloSent := rfl
@[simp] theorem State.setReg_cwRx (s : State) (off : Nat) (v : DWord) : (s.setReg off v).cwRx = s.cwRx := rfl
@[simp] theorem State.setReg_cwTx (s : State) (off : Nat) (v : DWord) : (s.setReg off v).cwTx = s.cwTx := rfl
@[simp] theorem State.setReg_cwPath (s : State) (off : Nat) (v : DWord) : (s.setReg off v).cwPath = s.cwPath := rfl
@[simp] theorem State.setReg_cwCorr (s : State) (off : Nat) (v : DWord) : (s.setReg off v).cwCorr = s.cwCorr := rfl
@[simp] theorem State.setReg_ptpRx (s : State) (off : Nat) (v : DWord) : (s.setReg off v).ptpRx = s.ptpRx := rfl
@[simp] theorem State.setReg_pxyId (s : State) (off : Nat) (v : DWord) : (s.setReg off v).pxyId = s.pxyId := rfl
@[simp] theorem State.setReg_pxyAt (s : State) (off : Nat) (v : DWord) : (s.setReg off v).pxyAt = s.pxyAt := rfl
@[simp] theorem State.setReg_msixEn (s : State) (off : Nat) (v : DWord) : (s.setReg off v).msixEn = s.msixEn := rfl
@[simp] theorem State.setReg_bme (s : State) (off : Nat) (v : DWord) : (s.setReg off v).bme = s.bme := rfl
@[simp] theorem State.setReg_seq (s : State) (off : Nat) (v : DWord) : (s.setReg off v).seq = s.seq := rfl
@[simp] theorem State.setReg_free (s : State) (off : Nat) (v : DWord) : (s.setReg off v).free = s.free := rfl
@[simp] theorem State.setReg_out (s : State) (off : Nat) (v : DWord) : (s.setReg off v).out = s.out := rfl
@[simp] theorem State.setReg_astat (s : State) (off : Nat) (v : DWord) : (s.setReg off v).astat = s.astat := rfl
@[simp] theorem State.setReg_pinPend (s : State) (off : Nat) (v : DWord) : (s.setReg off v).pinPend = s.pinPend := rfl
@[simp] theorem State.setReg_pinFrom (s : State) (off : Nat) (v : DWord) : (s.setReg off v).pinFrom = s.pinFrom := rfl
@[simp] theorem State.setReg_pinHigh (s : State) (off : Nat) (v : DWord) : (s.setReg off v).pinHigh = s.pinHigh := rfl
@[simp] theorem State.setReg_tbLast (s : State) (off : Nat) (v : DWord) : (s.setReg off v).tbLast = s.tbLast := rfl
@[simp] theorem State.setReg_pinCause (s : State) (off : Nat) (v : DWord) : (s.setReg off v).pinCause = s.pinCause := rfl
@[simp] theorem State.setReg_memHeld (s : State) (off : Nat) (v : DWord) : (s.setReg off v).memHeld = s.memHeld := rfl
@[simp] theorem State.setReg_fnow (s : State) (off : Nat) (v : DWord) : (s.setReg off v).fnow = s.fnow := rfl
@[simp] theorem State.setReg_lnow (s : State) (off : Nat) (v : DWord) : (s.setReg off v).lnow = s.lnow := rfl
@[simp] theorem State.setReg_evt (s : State) (off : Nat) (v : DWord) : (s.setReg off v).evt = s.evt := rfl
@[simp] theorem State.setReg_synEvt (s : State) (off : Nat) (v : DWord) : (s.setReg off v).synEvt = s.synEvt := rfl
@[simp] theorem State.setReg_winNow (s : State) (off : Nat) (v : DWord) : (s.setReg off v).winNow = s.winNow := rfl
@[simp] theorem State.setReg_claimNow (s : State) (off : Nat) (v : DWord) : (s.setReg off v).claimNow = s.claimNow := rfl
@[simp] theorem State.setReg_canNow (s : State) (off : Nat) (v : DWord) : (s.setReg off v).canNow = s.canNow := rfl
@[simp] theorem State.setReg_enow (s : State) (off : Nat) (v : DWord) : (s.setReg off v).enow = s.enow := rfl
@[simp] theorem State.setReg_pinBase (s : State) (off : Nat) (v : DWord) : (s.setReg off v).pinBase = s.pinBase := rfl
@[simp] theorem State.setReg_pendBase (s : State) (off : Nat) (v : DWord) : (s.setReg off v).pendBase = s.pendBase := rfl
@[simp] theorem State.setReg_dlNow (s : State) (off : Nat) (v : DWord) : (s.setReg off v).dlNow = s.dlNow := rfl
@[simp] theorem State.setReg_flash (s : State) (off : Nat) (v : DWord) : (s.setReg off v).flash = s.flash := rfl
@[simp] theorem State.setReg_seCnt (s : State) (off : Nat) (v : DWord) : (s.setReg off v).seCnt = s.seCnt := rfl
@[simp] theorem State.setReg_sePaired (s : State) (off : Nat) (v : DWord) : (s.setReg off v).sePaired = s.sePaired := rfl
@[simp] theorem State.setReg_floors (s : State) (off : Nat) (v : DWord) : (s.setReg off v).floors = s.floors := rfl
@[simp] theorem State.setReg_seed (s : State) (off : Nat) (v : DWord) : (s.setReg off v).seed = s.seed := rfl
@[simp] theorem State.setReg_manifest (s : State) (off : Nat) (v : DWord) : (s.setReg off v).manifest = s.manifest := rfl
@[simp] theorem State.setReg_images (s : State) (off : Nat) (v : DWord) : (s.setReg off v).images = s.images := rfl
@[simp] theorem State.setReg_seAtBoot (s : State) (off : Nat) (v : DWord) : (s.setReg off v).seAtBoot = s.seAtBoot := rfl
@[simp] theorem State.setReg_fbEver (s : State) (off : Nat) (v : DWord) : (s.setReg off v).fbEver = s.fbEver := rfl
@[simp] theorem State.setReg_dbgEver (s : State) (off : Nat) (v : DWord) : (s.setReg off v).dbgEver = s.dbgEver := rfl
@[simp] theorem State.setReg_chal (s : State) (off : Nat) (v : DWord) : (s.setReg off v).chal = s.chal := rfl
@[simp] theorem State.setReg_mr (s : State) (off : Nat) (v : DWord) : (s.setReg off v).mr = s.mr := rfl
@[simp] theorem State.setReg_mrCnt (s : State) (off : Nat) (v : DWord) : (s.setReg off v).mrCnt = s.mrCnt := rfl
@[simp] theorem State.setReg_mbxAns (s : State) (off : Nat) (v : DWord) : (s.setReg off v).mbxAns = s.mbxAns := rfl
@[simp] theorem State.setReg_regions (s : State) (off : Nat) (v : DWord) : (s.setReg off v).regions = s.regions := rfl
@[simp] theorem State.setReg_mpLock (s : State) (off : Nat) (v : DWord) : (s.setReg off v).mpLock = s.mpLock := rfl
@[simp] theorem State.setReg_mail (s : State) (off : Nat) (v : DWord) : (s.setReg off v).mail = s.mail := rfl
@[simp] theorem State.setReg_mailWait (s : State) (off : Nat) (v : DWord) : (s.setReg off v).mailWait = s.mailWait := rfl
@[simp] theorem State.setReg_restarts (s : State) (off : Nat) (v : DWord) : (s.setReg off v).restarts = s.restarts := rfl
@[simp] theorem State.setReg_restartAt (s : State) (off : Nat) (v : DWord) : (s.setReg off v).restartAt = s.restartAt := rfl
@[simp] theorem State.setReg_restartHold (s : State) (off : Nat) (v : DWord) : (s.setReg off v).restartHold = s.restartHold := rfl
@[simp] theorem State.setReg_down (s : State) (off : Nat) (v : DWord) : (s.setReg off v).down = s.down := rfl
@[simp] theorem State.setReg_cplOwed (s : State) (off : Nat) (v : DWord) : (s.setReg off v).cplOwed = s.cplOwed := rfl
@[simp] theorem State.setReg_halted (s : State) (off : Nat) (v : DWord) : (s.setReg off v).halted = s.halted := rfl
@[simp] theorem State.setReg_bundle (s : State) (off : Nat) (v : DWord) : (s.setReg off v).bundle = s.bundle := rfl
@[simp] theorem State.setReg_active (s : State) (off : Nat) (v : DWord) : (s.setReg off v).active = s.active := rfl
@[simp] theorem State.setReg_actEnd (s : State) (off : Nat) (v : DWord) : (s.setReg off v).actEnd = s.actEnd := rfl
@[simp] theorem State.setReg_revert (s : State) (off : Nat) (v : DWord) : (s.setReg off v).revert = s.revert := rfl
@[simp] theorem State.setReg_deferAt (s : State) (off : Nat) (v : DWord) : (s.setReg off v).deferAt = s.deferAt := rfl
@[simp] theorem State.setReg_emgEnd (s : State) (off : Nat) (v : DWord) : (s.setReg off v).emgEnd = s.emgEnd := rfl
@[simp] theorem State.setReg_ranSince (s : State) (off : Nat) (v : DWord) : (s.setReg off v).ranSince = s.ranSince := rfl
@[simp] theorem State.setReg_injAt (s : State) (off : Nat) (v : DWord) : (s.setReg off v).injAt = s.injAt := rfl
@[simp] theorem State.setReg_raiseAt (s : State) (off : Nat) (v : DWord) : (s.setReg off v).raiseAt = s.raiseAt := rfl
@[simp] theorem State.setReg_tapOut (s : State) (off : Nat) (v : DWord) : (s.setReg off v).tapOut = s.tapOut := rfl
@[simp] theorem State.setReg_tapPend (s : State) (off : Nat) (v : DWord) : (s.setReg off v).tapPend = s.tapPend := rfl
@[simp] theorem State.setReg_vdd (s : State) (off : Nat) (v : DWord) : (s.setReg off v).vdd = s.vdd := rfl
@[simp] theorem State.setReg_beatMin (s : State) (off : Nat) (v : DWord) : (s.setReg off v).beatMin = s.beatMin := rfl
@[simp] theorem State.setReg_beatWin (s : State) (off : Nat) (v : DWord) : (s.setReg off v).beatWin = s.beatWin := rfl
@[simp] theorem State.setReg_beatGated (s : State) (off : Nat) (v : DWord) : (s.setReg off v).beatGated = s.beatGated := rfl
@[simp] theorem State.setReg_wake (s : State) (off : Nat) (v : DWord) : (s.setReg off v).wake = s.wake := rfl
@[simp] theorem State.setReg_wakeKind (s : State) (off : Nat) (v : DWord) : (s.setReg off v).wakeKind = s.wakeKind := rfl
@[simp] theorem State.setReg_standby (s : State) (off : Nat) (v : DWord) : (s.setReg off v).standby = s.standby := rfl
@[simp] theorem State.setReg_gateAt (s : State) (off : Nat) (v : DWord) : (s.setReg off v).gateAt = s.gateAt := rfl
@[simp] theorem State.setReg_heldWake (s : State) (off : Nat) (v : DWord) : (s.setReg off v).heldWake = s.heldWake := rfl
@[simp] theorem State.setReg_wakeSig (s : State) (off : Nat) (v : DWord) : (s.setReg off v).wakeSig = s.wakeSig := rfl
@[simp] theorem State.setReg_entryAt (s : State) (off : Nat) (v : DWord) : (s.setReg off v).entryAt = s.entryAt := rfl
@[simp] theorem State.setReg_thHot (s : State) (off : Nat) (v : DWord) : (s.setReg off v).thHot = s.thHot := rfl
@[simp] theorem State.setReg_thCool (s : State) (off : Nat) (v : DWord) : (s.setReg off v).thCool = s.thCool := rfl
@[simp] theorem State.setReg_thTop (s : State) (off : Nat) (v : DWord) : (s.setReg off v).thTop = s.thTop := rfl
@[simp] theorem State.setReg_thStep (s : State) (off : Nat) (v : DWord) : (s.setReg off v).thStep = s.thStep := rfl
@[simp] theorem State.setReg_heldPads (s : State) (off : Nat) (v : DWord) : (s.setReg off v).heldPads = s.heldPads := rfl

/-! ## setFld -/

@[simp] theorem State.setFld_pending (s : State) (off hi lo v : Nat) : (s.setFld off hi lo v).pending = s.pending := rfl
@[simp] theorem State.setFld_readData (s : State) (off hi lo v : Nat) : (s.setFld off hi lo v).readData = s.readData := rfl
@[simp] theorem State.setFld_readOk (s : State) (off hi lo v : Nat) : (s.setFld off hi lo v).readOk = s.readOk := rfl
@[simp] theorem State.setFld_regs (s : State) (off hi lo v : Nat) : (s.setFld off hi lo v).regs = tabSet (regReset off) s.regs off (BitVec.ofNat 64 (bitsPut (s.reg off).toNat hi lo v)) := rfl
@[simp] theorem State.setFld_cores (s : State) (off hi lo v : Nat) : (s.setFld off hi lo v).cores = s.cores := rfl
@[simp] theorem State.setFld_ferries (s : State) (off hi lo v : Nat) : (s.setFld off hi lo v).ferries = s.ferries := rfl
@[simp] theorem State.setFld_mem (s : State) (off hi lo v : Nat) : (s.setFld off hi lo v).mem = s.mem := rfl
@[simp] theorem State.setFld_bar4q (s : State) (off hi lo v : Nat) : (s.setFld off hi lo v).bar4q = s.bar4q := rfl
@[simp] theorem State.setFld_lpUe (s : State) (off hi lo v : Nat) : (s.setFld off hi lo v).lpUe = s.lpUe := rfl
@[simp] theorem State.setFld_lpCe (s : State) (off hi lo v : Nat) : (s.setFld off hi lo v).lpCe = s.lpCe := rfl
@[simp] theorem State.setFld_hbrUe (s : State) (off hi lo v : Nat) : (s.setFld off hi lo v).hbrUe = s.hbrUe := rfl
@[simp] theorem State.setFld_hbrCe (s : State) (off hi lo v : Nat) : (s.setFld off hi lo v).hbrCe = s.hbrCe := rfl
@[simp] theorem State.setFld_queues (s : State) (off hi lo v : Nat) : (s.setFld off hi lo v).queues = s.queues := rfl
@[simp] theorem State.setFld_flush (s : State) (off hi lo v : Nat) : (s.setFld off hi lo v).flush = s.flush := rfl
@[simp] theorem State.setFld_saved (s : State) (off hi lo v : Nat) : (s.setFld off hi lo v).saved = s.saved := rfl
@[simp] theorem State.setFld_gangRes (s : State) (off hi lo v : Nat) : (s.setFld off hi lo v).gangRes = s.gangRes := rfl
@[simp] theorem State.setFld_islGen (s : State) (off hi lo v : Nat) : (s.setFld off hi lo v).islGen = s.islGen := rfl
@[simp] theorem State.setFld_drr (s : State) (off hi lo v : Nat) : (s.setFld off hi lo v).drr = s.drr := rfl
@[simp] theorem State.setFld_drrCur (s : State) (off hi lo v : Nat) : (s.setFld off hi lo v).drrCur = s.drrCur := rfl
@[simp] theorem State.setFld_thrBudget (s : State) (off hi lo v : Nat) : (s.setFld off hi lo v).thrBudget = s.thrBudget := rfl
@[simp] theorem State.setFld_thrRot (s : State) (off hi lo v : Nat) : (s.setFld off hi lo v).thrRot = s.thrRot := rfl
@[simp] theorem State.setFld_thrStart (s : State) (off hi lo v : Nat) : (s.setFld off hi lo v).thrStart = s.thrStart := rfl
@[simp] theorem State.setFld_thrAt (s : State) (off hi lo v : Nat) : (s.setFld off hi lo v).thrAt = s.thrAt := rfl
@[simp] theorem State.setFld_kv (s : State) (off hi lo v : Nat) : (s.setFld off hi lo v).kv = s.kv := rfl
@[simp] theorem State.setFld_live (s : State) (off hi lo v : Nat) : (s.setFld off hi lo v).live = s.live := rfl
@[simp] theorem State.setFld_jobs (s : State) (off hi lo v : Nat) : (s.setFld off hi lo v).jobs = s.jobs := rfl
@[simp] theorem State.setFld_jobLast (s : State) (off hi lo v : Nat) : (s.setFld off hi lo v).jobLast = s.jobLast := rfl
@[simp] theorem State.setFld_tlb (s : State) (off hi lo v : Nat) : (s.setFld off hi lo v).tlb = s.tlb := rfl
@[simp] theorem State.setFld_invq (s : State) (off hi lo v : Nat) : (s.setFld off hi lo v).invq = s.invq := rfl
@[simp] theorem State.setFld_xtsKeys (s : State) (off hi lo v : Nat) : (s.setFld off hi lo v).xtsKeys = s.xtsKeys := rfl
@[simp] theorem State.setFld_granOwner (s : State) (off hi lo v : Nat) : (s.setFld off hi lo v).granOwner = s.granOwner := rfl
@[simp] theorem State.setFld_faults (s : State) (off hi lo v : Nat) : (s.setFld off hi lo v).faults = s.faults := rfl
@[simp] theorem State.setFld_frecs (s : State) (off hi lo v : Nat) : (s.setFld off hi lo v).frecs = s.frecs := rfl
@[simp] theorem State.setFld_fid (s : State) (off hi lo v : Nat) : (s.setFld off hi lo v).fid = s.fid := rfl
@[simp] theorem State.setFld_patrolAt (s : State) (off hi lo v : Nat) : (s.setFld off hi lo v).patrolAt = s.patrolAt := rfl
@[simp] theorem State.setFld_initDone (s : State) (off hi lo v : Nat) : (s.setFld off hi lo v).initDone = s.initDone := rfl
@[simp] theorem State.setFld_dl (s : State) (off hi lo v : Nat) : (s.setFld off hi lo v).dl = s.dl := rfl
@[simp] theorem State.setFld_dlOnce (s : State) (off hi lo v : Nat) : (s.setFld off hi lo v).dlOnce = s.dlOnce := rfl
@[simp] theorem State.setFld_lockstep (s : State) (off hi lo v : Nat) : (s.setFld off hi lo v).lockstep = s.lockstep := rfl
@[simp] theorem State.setFld_frameMs (s : State) (off hi lo v : Nat) : (s.setFld off hi lo v).frameMs = s.frameMs := rfl
@[simp] theorem State.setFld_frameStart (s : State) (off hi lo v : Nat) : (s.setFld off hi lo v).frameStart = s.frameStart := rfl
@[simp] theorem State.setFld_frameNo (s : State) (off hi lo v : Nat) : (s.setFld off hi lo v).frameNo = s.frameNo := rfl
@[simp] theorem State.setFld_bcnDone (s : State) (off hi lo v : Nat) : (s.setFld off hi lo v).bcnDone = s.bcnDone := rfl
@[simp] theorem State.setFld_bcnSeen (s : State) (off hi lo v : Nat) : (s.setFld off hi lo v).bcnSeen = s.bcnSeen := rfl
@[simp] theorem State.setFld_mmHist (s : State) (off hi lo v : Nat) : (s.setFld off hi lo v).mmHist = s.mmHist := rfl
@[simp] theorem State.setFld_tbS (s : State) (off hi lo v : Nat) : (s.setFld off hi lo v).tbS = s.tbS := rfl
@[simp] theorem State.setFld_tbNs (s : State) (off hi lo v : Nat) : (s.setFld off hi lo v).tbNs = s.tbNs := rfl
@[simp] theorem State.setFld_tbFrac (s : State) (off hi lo v : Nat) : (s.setFld off hi lo v).tbFrac = s.tbFrac := rfl
@[simp] theorem State.setFld_tbJump (s : State) (off hi lo v : Nat) : (s.setFld off hi lo v).tbJump = s.tbJump := rfl
@[simp] theorem State.setFld_hbAt (s : State) (off hi lo v : Nat) : (s.setFld off hi lo v).hbAt = s.hbAt := rfl
@[simp] theorem State.setFld_hbOld (s : State) (off hi lo v : Nat) : (s.setFld off hi lo v).hbOld = s.hbOld := rfl
@[simp] theorem State.setFld_lossDue (s : State) (off hi lo v : Nat) : (s.setFld off hi lo v).lossDue = s.lossDue := rfl
@[simp] theorem State.setFld_vfDue (s : State) (off hi lo v : Nat) : (s.setFld off hi lo v).vfDue = s.vfDue := rfl
@[simp] theorem State.setFld_cyc (s : State) (off hi lo v : Nat) : (s.setFld off hi lo v).cyc = s.cyc := rfl
@[simp] theorem State.setFld_tbOps (s : State) (off hi lo v : Nat) : (s.setFld off hi lo v).tbOps = s.tbOps := rfl
@[simp] theorem State.setFld_tbPast (s : State) (off hi lo v : Nat) : (s.setFld off hi lo v).tbPast = s.tbPast := rfl
@[simp] theorem State.setFld_timArm (s : State) (off hi lo v : Nat) : (s.setFld off hi lo v).timArm = s.timArm := rfl
@[simp] theorem State.setFld_timLatch (s : State) (off hi lo v : Nat) : (s.setFld off hi lo v).timLatch = s.timLatch := rfl
@[simp] theorem State.setFld_capUnread (s : State) (off hi lo v : Nat) : (s.setFld off hi lo v).capUnread = s.capUnread := rfl
@[simp] theorem State.setFld_trigEnd (s : State) (off hi lo v : Nat) : (s.setFld off hi lo v).trigEnd = s.trigEnd := rfl
@[simp] theorem State.setFld_trigPast (s : State) (off hi lo v : Nat) : (s.setFld off hi lo v).trigPast = s.trigPast := rfl
@[simp] theorem State.setFld_claims (s : State) (off hi lo v : Nat) : (s.setFld off hi lo v).claims = s.claims := rfl
@[simp] theorem State.setFld_tdl (s : State) (off hi lo v : Nat) : (s.setFld off hi lo v).tdl = s.tdl := rfl
@[simp] theorem State.setFld_tdlDirty (s : State) (off hi lo v : Nat) : (s.setFld off hi lo v).tdlDirty = s.tdlDirty := rfl
@[simp] theorem State.setFld_tdlStart (s : State) (off hi lo v : Nat) : (s.setFld off hi lo v).tdlStart = s.tdlStart := rfl
@[simp] theorem State.setFld_tdlNext (s : State) (off hi lo v : Nat) : (s.setFld off hi lo v).tdlNext = s.tdlNext := rfl
@[simp] theorem State.setFld_drops (s : State) (off hi lo v : Nat) : (s.setFld off hi lo v).drops = s.drops := rfl
@[simp] theorem State.setFld_dropRing (s : State) (off hi lo v : Nat) : (s.setFld off hi lo v).dropRing = s.dropRing := rfl
@[simp] theorem State.setFld_spiRead (s : State) (off hi lo v : Nat) : (s.setFld off hi lo v).spiRead = s.spiRead := rfl
@[simp] theorem State.setFld_spiBusy (s : State) (off hi lo v : Nat) : (s.setFld off hi lo v).spiBusy = s.spiBusy := rfl
@[simp] theorem State.setFld_tdlDue (s : State) (off hi lo v : Nat) : (s.setFld off hi lo v).tdlDue = s.tdlDue := rfl
@[simp] theorem State.setFld_pwm (s : State) (off hi lo v : Nat) : (s.setFld off hi lo v).pwm = s.pwm := rfl
@[simp] theorem State.setFld_capDec (s : State) (off hi lo v : Nat) : (s.setFld off hi lo v).capDec = s.capDec := rfl
@[simp] theorem State.setFld_canRx (s : State) (off hi lo v : Nat) : (s.setFld off hi lo v).canRx = s.canRx := rfl
@[simp] theorem State.setFld_canOld (s : State) (off hi lo v : Nat) : (s.setFld off hi lo v).canOld = s.canOld := rfl
@[simp] theorem State.setFld_canNew (s : State) (off hi lo v : Nat) : (s.setFld off hi lo v).canNew = s.canNew := rfl
@[simp] theorem State.setFld_canLatch (s : State) (off hi lo v : Nat) : (s.setFld off hi lo v).canLatch = s.canLatch := rfl
@[simp] theorem State.setFld_canQ (s : State) (off hi lo v : Nat) : (s.setFld off hi lo v).canQ = s.canQ := rfl
@[simp] theorem State.setFld_canTx (s : State) (off hi lo v : Nat) : (s.setFld off hi lo v).canTx = s.canTx := rfl
@[simp] theorem State.setFld_ethRx (s : State) (off hi lo v : Nat) : (s.setFld off hi lo v).ethRx = s.ethRx := rfl
@[simp] theorem State.setFld_helloAt (s : State) (off hi lo v : Nat) : (s.setFld off hi lo v).helloAt = s.helloAt := rfl
@[simp] theorem State.setFld_helloSent (s : State) (off hi lo v : Nat) : (s.setFld off hi lo v).helloSent = s.helloSent := rfl
@[simp] theorem State.setFld_cwRx (s : State) (off hi lo v : Nat) : (s.setFld off hi lo v).cwRx = s.cwRx := rfl
@[simp] theorem State.setFld_cwTx (s : State) (off hi lo v : Nat) : (s.setFld off hi lo v).cwTx = s.cwTx := rfl
@[simp] theorem State.setFld_cwPath (s : State) (off hi lo v : Nat) : (s.setFld off hi lo v).cwPath = s.cwPath := rfl
@[simp] theorem State.setFld_cwCorr (s : State) (off hi lo v : Nat) : (s.setFld off hi lo v).cwCorr = s.cwCorr := rfl
@[simp] theorem State.setFld_ptpRx (s : State) (off hi lo v : Nat) : (s.setFld off hi lo v).ptpRx = s.ptpRx := rfl
@[simp] theorem State.setFld_pxyId (s : State) (off hi lo v : Nat) : (s.setFld off hi lo v).pxyId = s.pxyId := rfl
@[simp] theorem State.setFld_pxyAt (s : State) (off hi lo v : Nat) : (s.setFld off hi lo v).pxyAt = s.pxyAt := rfl
@[simp] theorem State.setFld_msixEn (s : State) (off hi lo v : Nat) : (s.setFld off hi lo v).msixEn = s.msixEn := rfl
@[simp] theorem State.setFld_bme (s : State) (off hi lo v : Nat) : (s.setFld off hi lo v).bme = s.bme := rfl
@[simp] theorem State.setFld_seq (s : State) (off hi lo v : Nat) : (s.setFld off hi lo v).seq = s.seq := rfl
@[simp] theorem State.setFld_free (s : State) (off hi lo v : Nat) : (s.setFld off hi lo v).free = s.free := rfl
@[simp] theorem State.setFld_out (s : State) (off hi lo v : Nat) : (s.setFld off hi lo v).out = s.out := rfl
@[simp] theorem State.setFld_astat (s : State) (off hi lo v : Nat) : (s.setFld off hi lo v).astat = s.astat := rfl
@[simp] theorem State.setFld_pinPend (s : State) (off hi lo v : Nat) : (s.setFld off hi lo v).pinPend = s.pinPend := rfl
@[simp] theorem State.setFld_pinFrom (s : State) (off hi lo v : Nat) : (s.setFld off hi lo v).pinFrom = s.pinFrom := rfl
@[simp] theorem State.setFld_pinHigh (s : State) (off hi lo v : Nat) : (s.setFld off hi lo v).pinHigh = s.pinHigh := rfl
@[simp] theorem State.setFld_tbLast (s : State) (off hi lo v : Nat) : (s.setFld off hi lo v).tbLast = s.tbLast := rfl
@[simp] theorem State.setFld_pinCause (s : State) (off hi lo v : Nat) : (s.setFld off hi lo v).pinCause = s.pinCause := rfl
@[simp] theorem State.setFld_memHeld (s : State) (off hi lo v : Nat) : (s.setFld off hi lo v).memHeld = s.memHeld := rfl
@[simp] theorem State.setFld_fnow (s : State) (off hi lo v : Nat) : (s.setFld off hi lo v).fnow = s.fnow := rfl
@[simp] theorem State.setFld_lnow (s : State) (off hi lo v : Nat) : (s.setFld off hi lo v).lnow = s.lnow := rfl
@[simp] theorem State.setFld_synEvt (s : State) (off hi lo v : Nat) : (s.setFld off hi lo v).synEvt = s.synEvt := rfl
@[simp] theorem State.setFld_winNow (s : State) (off hi lo v : Nat) : (s.setFld off hi lo v).winNow = s.winNow := rfl
@[simp] theorem State.setFld_claimNow (s : State) (off hi lo v : Nat) : (s.setFld off hi lo v).claimNow = s.claimNow := rfl
@[simp] theorem State.setFld_canNow (s : State) (off hi lo v : Nat) : (s.setFld off hi lo v).canNow = s.canNow := rfl
@[simp] theorem State.setFld_enow (s : State) (off hi lo v : Nat) : (s.setFld off hi lo v).enow = s.enow := rfl
@[simp] theorem State.setFld_pinBase (s : State) (off hi lo v : Nat) : (s.setFld off hi lo v).pinBase = s.pinBase := rfl
@[simp] theorem State.setFld_pendBase (s : State) (off hi lo v : Nat) : (s.setFld off hi lo v).pendBase = s.pendBase := rfl
@[simp] theorem State.setFld_dlNow (s : State) (off hi lo v : Nat) : (s.setFld off hi lo v).dlNow = s.dlNow := rfl
@[simp] theorem State.setFld_flash (s : State) (off hi lo v : Nat) : (s.setFld off hi lo v).flash = s.flash := rfl
@[simp] theorem State.setFld_seCnt (s : State) (off hi lo v : Nat) : (s.setFld off hi lo v).seCnt = s.seCnt := rfl
@[simp] theorem State.setFld_sePaired (s : State) (off hi lo v : Nat) : (s.setFld off hi lo v).sePaired = s.sePaired := rfl
@[simp] theorem State.setFld_floors (s : State) (off hi lo v : Nat) : (s.setFld off hi lo v).floors = s.floors := rfl
@[simp] theorem State.setFld_seed (s : State) (off hi lo v : Nat) : (s.setFld off hi lo v).seed = s.seed := rfl
@[simp] theorem State.setFld_manifest (s : State) (off hi lo v : Nat) : (s.setFld off hi lo v).manifest = s.manifest := rfl
@[simp] theorem State.setFld_images (s : State) (off hi lo v : Nat) : (s.setFld off hi lo v).images = s.images := rfl
@[simp] theorem State.setFld_seAtBoot (s : State) (off hi lo v : Nat) : (s.setFld off hi lo v).seAtBoot = s.seAtBoot := rfl
@[simp] theorem State.setFld_fbEver (s : State) (off hi lo v : Nat) : (s.setFld off hi lo v).fbEver = s.fbEver := rfl
@[simp] theorem State.setFld_dbgEver (s : State) (off hi lo v : Nat) : (s.setFld off hi lo v).dbgEver = s.dbgEver := rfl
@[simp] theorem State.setFld_chal (s : State) (off hi lo v : Nat) : (s.setFld off hi lo v).chal = s.chal := rfl
@[simp] theorem State.setFld_mr (s : State) (off hi lo v : Nat) : (s.setFld off hi lo v).mr = s.mr := rfl
@[simp] theorem State.setFld_mrCnt (s : State) (off hi lo v : Nat) : (s.setFld off hi lo v).mrCnt = s.mrCnt := rfl
@[simp] theorem State.setFld_mbxAns (s : State) (off hi lo v : Nat) : (s.setFld off hi lo v).mbxAns = s.mbxAns := rfl
@[simp] theorem State.setFld_regions (s : State) (off hi lo v : Nat) : (s.setFld off hi lo v).regions = s.regions := rfl
@[simp] theorem State.setFld_mpLock (s : State) (off hi lo v : Nat) : (s.setFld off hi lo v).mpLock = s.mpLock := rfl
@[simp] theorem State.setFld_mail (s : State) (off hi lo v : Nat) : (s.setFld off hi lo v).mail = s.mail := rfl
@[simp] theorem State.setFld_mailWait (s : State) (off hi lo v : Nat) : (s.setFld off hi lo v).mailWait = s.mailWait := rfl
@[simp] theorem State.setFld_restarts (s : State) (off hi lo v : Nat) : (s.setFld off hi lo v).restarts = s.restarts := rfl
@[simp] theorem State.setFld_restartAt (s : State) (off hi lo v : Nat) : (s.setFld off hi lo v).restartAt = s.restartAt := rfl
@[simp] theorem State.setFld_restartHold (s : State) (off hi lo v : Nat) : (s.setFld off hi lo v).restartHold = s.restartHold := rfl
@[simp] theorem State.setFld_down (s : State) (off hi lo v : Nat) : (s.setFld off hi lo v).down = s.down := rfl
@[simp] theorem State.setFld_cplOwed (s : State) (off hi lo v : Nat) : (s.setFld off hi lo v).cplOwed = s.cplOwed := rfl
@[simp] theorem State.setFld_halted (s : State) (off hi lo v : Nat) : (s.setFld off hi lo v).halted = s.halted := rfl
@[simp] theorem State.setFld_bundle (s : State) (off hi lo v : Nat) : (s.setFld off hi lo v).bundle = s.bundle := rfl
@[simp] theorem State.setFld_active (s : State) (off hi lo v : Nat) : (s.setFld off hi lo v).active = s.active := rfl
@[simp] theorem State.setFld_actEnd (s : State) (off hi lo v : Nat) : (s.setFld off hi lo v).actEnd = s.actEnd := rfl
@[simp] theorem State.setFld_revert (s : State) (off hi lo v : Nat) : (s.setFld off hi lo v).revert = s.revert := rfl
@[simp] theorem State.setFld_deferAt (s : State) (off hi lo v : Nat) : (s.setFld off hi lo v).deferAt = s.deferAt := rfl
@[simp] theorem State.setFld_emgEnd (s : State) (off hi lo v : Nat) : (s.setFld off hi lo v).emgEnd = s.emgEnd := rfl
@[simp] theorem State.setFld_ranSince (s : State) (off hi lo v : Nat) : (s.setFld off hi lo v).ranSince = s.ranSince := rfl
@[simp] theorem State.setFld_injAt (s : State) (off hi lo v : Nat) : (s.setFld off hi lo v).injAt = s.injAt := rfl
@[simp] theorem State.setFld_raiseAt (s : State) (off hi lo v : Nat) : (s.setFld off hi lo v).raiseAt = s.raiseAt := rfl
@[simp] theorem State.setFld_tapOut (s : State) (off hi lo v : Nat) : (s.setFld off hi lo v).tapOut = s.tapOut := rfl
@[simp] theorem State.setFld_tapPend (s : State) (off hi lo v : Nat) : (s.setFld off hi lo v).tapPend = s.tapPend := rfl
@[simp] theorem State.setFld_vdd (s : State) (off hi lo v : Nat) : (s.setFld off hi lo v).vdd = s.vdd := rfl
@[simp] theorem State.setFld_beatMin (s : State) (off hi lo v : Nat) : (s.setFld off hi lo v).beatMin = s.beatMin := rfl
@[simp] theorem State.setFld_beatWin (s : State) (off hi lo v : Nat) : (s.setFld off hi lo v).beatWin = s.beatWin := rfl
@[simp] theorem State.setFld_beatGated (s : State) (off hi lo v : Nat) : (s.setFld off hi lo v).beatGated = s.beatGated := rfl
@[simp] theorem State.setFld_wake (s : State) (off hi lo v : Nat) : (s.setFld off hi lo v).wake = s.wake := rfl
@[simp] theorem State.setFld_wakeKind (s : State) (off hi lo v : Nat) : (s.setFld off hi lo v).wakeKind = s.wakeKind := rfl
@[simp] theorem State.setFld_standby (s : State) (off hi lo v : Nat) : (s.setFld off hi lo v).standby = s.standby := rfl
@[simp] theorem State.setFld_gateAt (s : State) (off hi lo v : Nat) : (s.setFld off hi lo v).gateAt = s.gateAt := rfl
@[simp] theorem State.setFld_heldWake (s : State) (off hi lo v : Nat) : (s.setFld off hi lo v).heldWake = s.heldWake := rfl
@[simp] theorem State.setFld_wakeSig (s : State) (off hi lo v : Nat) : (s.setFld off hi lo v).wakeSig = s.wakeSig := rfl
@[simp] theorem State.setFld_entryAt (s : State) (off hi lo v : Nat) : (s.setFld off hi lo v).entryAt = s.entryAt := rfl
@[simp] theorem State.setFld_thHot (s : State) (off hi lo v : Nat) : (s.setFld off hi lo v).thHot = s.thHot := rfl
@[simp] theorem State.setFld_thCool (s : State) (off hi lo v : Nat) : (s.setFld off hi lo v).thCool = s.thCool := rfl
@[simp] theorem State.setFld_thTop (s : State) (off hi lo v : Nat) : (s.setFld off hi lo v).thTop = s.thTop := rfl
@[simp] theorem State.setFld_thStep (s : State) (off hi lo v : Nat) : (s.setFld off hi lo v).thStep = s.thStep := rfl
@[simp] theorem State.setFld_heldPads (s : State) (off hi lo v : Nat) : (s.setFld off hi lo v).heldPads = s.heldPads := rfl

/-! ## setFlag -/

@[simp] theorem State.setFlag_pending (s : State) (off i : Nat) (b : Bool) : (s.setFlag off i b).pending = s.pending := rfl
@[simp] theorem State.setFlag_readData (s : State) (off i : Nat) (b : Bool) : (s.setFlag off i b).readData = s.readData := rfl
@[simp] theorem State.setFlag_readOk (s : State) (off i : Nat) (b : Bool) : (s.setFlag off i b).readOk = s.readOk := rfl
@[simp] theorem State.setFlag_regs (s : State) (off i : Nat) (b : Bool) : (s.setFlag off i b).regs = tabSet (regReset off) s.regs off (BitVec.ofNat 64 (bitsPut (s.reg off).toNat i i (boolNat b))) := rfl
@[simp] theorem State.setFlag_cores (s : State) (off i : Nat) (b : Bool) : (s.setFlag off i b).cores = s.cores := rfl
@[simp] theorem State.setFlag_ferries (s : State) (off i : Nat) (b : Bool) : (s.setFlag off i b).ferries = s.ferries := rfl
@[simp] theorem State.setFlag_mem (s : State) (off i : Nat) (b : Bool) : (s.setFlag off i b).mem = s.mem := rfl
@[simp] theorem State.setFlag_bar4q (s : State) (off i : Nat) (b : Bool) : (s.setFlag off i b).bar4q = s.bar4q := rfl
@[simp] theorem State.setFlag_lpUe (s : State) (off i : Nat) (b : Bool) : (s.setFlag off i b).lpUe = s.lpUe := rfl
@[simp] theorem State.setFlag_lpCe (s : State) (off i : Nat) (b : Bool) : (s.setFlag off i b).lpCe = s.lpCe := rfl
@[simp] theorem State.setFlag_hbrUe (s : State) (off i : Nat) (b : Bool) : (s.setFlag off i b).hbrUe = s.hbrUe := rfl
@[simp] theorem State.setFlag_hbrCe (s : State) (off i : Nat) (b : Bool) : (s.setFlag off i b).hbrCe = s.hbrCe := rfl
@[simp] theorem State.setFlag_queues (s : State) (off i : Nat) (b : Bool) : (s.setFlag off i b).queues = s.queues := rfl
@[simp] theorem State.setFlag_flush (s : State) (off i : Nat) (b : Bool) : (s.setFlag off i b).flush = s.flush := rfl
@[simp] theorem State.setFlag_saved (s : State) (off i : Nat) (b : Bool) : (s.setFlag off i b).saved = s.saved := rfl
@[simp] theorem State.setFlag_gangRes (s : State) (off i : Nat) (b : Bool) : (s.setFlag off i b).gangRes = s.gangRes := rfl
@[simp] theorem State.setFlag_islGen (s : State) (off i : Nat) (b : Bool) : (s.setFlag off i b).islGen = s.islGen := rfl
@[simp] theorem State.setFlag_drr (s : State) (off i : Nat) (b : Bool) : (s.setFlag off i b).drr = s.drr := rfl
@[simp] theorem State.setFlag_drrCur (s : State) (off i : Nat) (b : Bool) : (s.setFlag off i b).drrCur = s.drrCur := rfl
@[simp] theorem State.setFlag_thrBudget (s : State) (off i : Nat) (b : Bool) : (s.setFlag off i b).thrBudget = s.thrBudget := rfl
@[simp] theorem State.setFlag_thrRot (s : State) (off i : Nat) (b : Bool) : (s.setFlag off i b).thrRot = s.thrRot := rfl
@[simp] theorem State.setFlag_thrStart (s : State) (off i : Nat) (b : Bool) : (s.setFlag off i b).thrStart = s.thrStart := rfl
@[simp] theorem State.setFlag_thrAt (s : State) (off i : Nat) (b : Bool) : (s.setFlag off i b).thrAt = s.thrAt := rfl
@[simp] theorem State.setFlag_kv (s : State) (off i : Nat) (b : Bool) : (s.setFlag off i b).kv = s.kv := rfl
@[simp] theorem State.setFlag_live (s : State) (off i : Nat) (b : Bool) : (s.setFlag off i b).live = s.live := rfl
@[simp] theorem State.setFlag_jobs (s : State) (off i : Nat) (b : Bool) : (s.setFlag off i b).jobs = s.jobs := rfl
@[simp] theorem State.setFlag_jobLast (s : State) (off i : Nat) (b : Bool) : (s.setFlag off i b).jobLast = s.jobLast := rfl
@[simp] theorem State.setFlag_tlb (s : State) (off i : Nat) (b : Bool) : (s.setFlag off i b).tlb = s.tlb := rfl
@[simp] theorem State.setFlag_invq (s : State) (off i : Nat) (b : Bool) : (s.setFlag off i b).invq = s.invq := rfl
@[simp] theorem State.setFlag_xtsKeys (s : State) (off i : Nat) (b : Bool) : (s.setFlag off i b).xtsKeys = s.xtsKeys := rfl
@[simp] theorem State.setFlag_granOwner (s : State) (off i : Nat) (b : Bool) : (s.setFlag off i b).granOwner = s.granOwner := rfl
@[simp] theorem State.setFlag_faults (s : State) (off i : Nat) (b : Bool) : (s.setFlag off i b).faults = s.faults := rfl
@[simp] theorem State.setFlag_frecs (s : State) (off i : Nat) (b : Bool) : (s.setFlag off i b).frecs = s.frecs := rfl
@[simp] theorem State.setFlag_fid (s : State) (off i : Nat) (b : Bool) : (s.setFlag off i b).fid = s.fid := rfl
@[simp] theorem State.setFlag_patrolAt (s : State) (off i : Nat) (b : Bool) : (s.setFlag off i b).patrolAt = s.patrolAt := rfl
@[simp] theorem State.setFlag_initDone (s : State) (off i : Nat) (b : Bool) : (s.setFlag off i b).initDone = s.initDone := rfl
@[simp] theorem State.setFlag_dl (s : State) (off i : Nat) (b : Bool) : (s.setFlag off i b).dl = s.dl := rfl
@[simp] theorem State.setFlag_dlOnce (s : State) (off i : Nat) (b : Bool) : (s.setFlag off i b).dlOnce = s.dlOnce := rfl
@[simp] theorem State.setFlag_lockstep (s : State) (off i : Nat) (b : Bool) : (s.setFlag off i b).lockstep = s.lockstep := rfl
@[simp] theorem State.setFlag_frameMs (s : State) (off i : Nat) (b : Bool) : (s.setFlag off i b).frameMs = s.frameMs := rfl
@[simp] theorem State.setFlag_frameStart (s : State) (off i : Nat) (b : Bool) : (s.setFlag off i b).frameStart = s.frameStart := rfl
@[simp] theorem State.setFlag_frameNo (s : State) (off i : Nat) (b : Bool) : (s.setFlag off i b).frameNo = s.frameNo := rfl
@[simp] theorem State.setFlag_bcnDone (s : State) (off i : Nat) (b : Bool) : (s.setFlag off i b).bcnDone = s.bcnDone := rfl
@[simp] theorem State.setFlag_bcnSeen (s : State) (off i : Nat) (b : Bool) : (s.setFlag off i b).bcnSeen = s.bcnSeen := rfl
@[simp] theorem State.setFlag_mmHist (s : State) (off i : Nat) (b : Bool) : (s.setFlag off i b).mmHist = s.mmHist := rfl
@[simp] theorem State.setFlag_tbS (s : State) (off i : Nat) (b : Bool) : (s.setFlag off i b).tbS = s.tbS := rfl
@[simp] theorem State.setFlag_tbNs (s : State) (off i : Nat) (b : Bool) : (s.setFlag off i b).tbNs = s.tbNs := rfl
@[simp] theorem State.setFlag_tbFrac (s : State) (off i : Nat) (b : Bool) : (s.setFlag off i b).tbFrac = s.tbFrac := rfl
@[simp] theorem State.setFlag_tbJump (s : State) (off i : Nat) (b : Bool) : (s.setFlag off i b).tbJump = s.tbJump := rfl
@[simp] theorem State.setFlag_hbAt (s : State) (off i : Nat) (b : Bool) : (s.setFlag off i b).hbAt = s.hbAt := rfl
@[simp] theorem State.setFlag_hbOld (s : State) (off i : Nat) (b : Bool) : (s.setFlag off i b).hbOld = s.hbOld := rfl
@[simp] theorem State.setFlag_lossDue (s : State) (off i : Nat) (b : Bool) : (s.setFlag off i b).lossDue = s.lossDue := rfl
@[simp] theorem State.setFlag_vfDue (s : State) (off i : Nat) (b : Bool) : (s.setFlag off i b).vfDue = s.vfDue := rfl
@[simp] theorem State.setFlag_cyc (s : State) (off i : Nat) (b : Bool) : (s.setFlag off i b).cyc = s.cyc := rfl
@[simp] theorem State.setFlag_tbOps (s : State) (off i : Nat) (b : Bool) : (s.setFlag off i b).tbOps = s.tbOps := rfl
@[simp] theorem State.setFlag_tbPast (s : State) (off i : Nat) (b : Bool) : (s.setFlag off i b).tbPast = s.tbPast := rfl
@[simp] theorem State.setFlag_timArm (s : State) (off i : Nat) (b : Bool) : (s.setFlag off i b).timArm = s.timArm := rfl
@[simp] theorem State.setFlag_timLatch (s : State) (off i : Nat) (b : Bool) : (s.setFlag off i b).timLatch = s.timLatch := rfl
@[simp] theorem State.setFlag_capUnread (s : State) (off i : Nat) (b : Bool) : (s.setFlag off i b).capUnread = s.capUnread := rfl
@[simp] theorem State.setFlag_trigEnd (s : State) (off i : Nat) (b : Bool) : (s.setFlag off i b).trigEnd = s.trigEnd := rfl
@[simp] theorem State.setFlag_trigPast (s : State) (off i : Nat) (b : Bool) : (s.setFlag off i b).trigPast = s.trigPast := rfl
@[simp] theorem State.setFlag_claims (s : State) (off i : Nat) (b : Bool) : (s.setFlag off i b).claims = s.claims := rfl
@[simp] theorem State.setFlag_tdl (s : State) (off i : Nat) (b : Bool) : (s.setFlag off i b).tdl = s.tdl := rfl
@[simp] theorem State.setFlag_tdlDirty (s : State) (off i : Nat) (b : Bool) : (s.setFlag off i b).tdlDirty = s.tdlDirty := rfl
@[simp] theorem State.setFlag_tdlStart (s : State) (off i : Nat) (b : Bool) : (s.setFlag off i b).tdlStart = s.tdlStart := rfl
@[simp] theorem State.setFlag_tdlNext (s : State) (off i : Nat) (b : Bool) : (s.setFlag off i b).tdlNext = s.tdlNext := rfl
@[simp] theorem State.setFlag_drops (s : State) (off i : Nat) (b : Bool) : (s.setFlag off i b).drops = s.drops := rfl
@[simp] theorem State.setFlag_dropRing (s : State) (off i : Nat) (b : Bool) : (s.setFlag off i b).dropRing = s.dropRing := rfl
@[simp] theorem State.setFlag_spiRead (s : State) (off i : Nat) (b : Bool) : (s.setFlag off i b).spiRead = s.spiRead := rfl
@[simp] theorem State.setFlag_spiBusy (s : State) (off i : Nat) (b : Bool) : (s.setFlag off i b).spiBusy = s.spiBusy := rfl
@[simp] theorem State.setFlag_tdlDue (s : State) (off i : Nat) (b : Bool) : (s.setFlag off i b).tdlDue = s.tdlDue := rfl
@[simp] theorem State.setFlag_pwm (s : State) (off i : Nat) (b : Bool) : (s.setFlag off i b).pwm = s.pwm := rfl
@[simp] theorem State.setFlag_capDec (s : State) (off i : Nat) (b : Bool) : (s.setFlag off i b).capDec = s.capDec := rfl
@[simp] theorem State.setFlag_canRx (s : State) (off i : Nat) (b : Bool) : (s.setFlag off i b).canRx = s.canRx := rfl
@[simp] theorem State.setFlag_canOld (s : State) (off i : Nat) (b : Bool) : (s.setFlag off i b).canOld = s.canOld := rfl
@[simp] theorem State.setFlag_canNew (s : State) (off i : Nat) (b : Bool) : (s.setFlag off i b).canNew = s.canNew := rfl
@[simp] theorem State.setFlag_canLatch (s : State) (off i : Nat) (b : Bool) : (s.setFlag off i b).canLatch = s.canLatch := rfl
@[simp] theorem State.setFlag_canQ (s : State) (off i : Nat) (b : Bool) : (s.setFlag off i b).canQ = s.canQ := rfl
@[simp] theorem State.setFlag_canTx (s : State) (off i : Nat) (b : Bool) : (s.setFlag off i b).canTx = s.canTx := rfl
@[simp] theorem State.setFlag_ethRx (s : State) (off i : Nat) (b : Bool) : (s.setFlag off i b).ethRx = s.ethRx := rfl
@[simp] theorem State.setFlag_helloAt (s : State) (off i : Nat) (b : Bool) : (s.setFlag off i b).helloAt = s.helloAt := rfl
@[simp] theorem State.setFlag_helloSent (s : State) (off i : Nat) (b : Bool) : (s.setFlag off i b).helloSent = s.helloSent := rfl
@[simp] theorem State.setFlag_cwRx (s : State) (off i : Nat) (b : Bool) : (s.setFlag off i b).cwRx = s.cwRx := rfl
@[simp] theorem State.setFlag_cwTx (s : State) (off i : Nat) (b : Bool) : (s.setFlag off i b).cwTx = s.cwTx := rfl
@[simp] theorem State.setFlag_cwPath (s : State) (off i : Nat) (b : Bool) : (s.setFlag off i b).cwPath = s.cwPath := rfl
@[simp] theorem State.setFlag_cwCorr (s : State) (off i : Nat) (b : Bool) : (s.setFlag off i b).cwCorr = s.cwCorr := rfl
@[simp] theorem State.setFlag_ptpRx (s : State) (off i : Nat) (b : Bool) : (s.setFlag off i b).ptpRx = s.ptpRx := rfl
@[simp] theorem State.setFlag_pxyId (s : State) (off i : Nat) (b : Bool) : (s.setFlag off i b).pxyId = s.pxyId := rfl
@[simp] theorem State.setFlag_pxyAt (s : State) (off i : Nat) (b : Bool) : (s.setFlag off i b).pxyAt = s.pxyAt := rfl
@[simp] theorem State.setFlag_msixEn (s : State) (off i : Nat) (b : Bool) : (s.setFlag off i b).msixEn = s.msixEn := rfl
@[simp] theorem State.setFlag_bme (s : State) (off i : Nat) (b : Bool) : (s.setFlag off i b).bme = s.bme := rfl
@[simp] theorem State.setFlag_seq (s : State) (off i : Nat) (b : Bool) : (s.setFlag off i b).seq = s.seq := rfl
@[simp] theorem State.setFlag_free (s : State) (off i : Nat) (b : Bool) : (s.setFlag off i b).free = s.free := rfl
@[simp] theorem State.setFlag_out (s : State) (off i : Nat) (b : Bool) : (s.setFlag off i b).out = s.out := rfl
@[simp] theorem State.setFlag_astat (s : State) (off i : Nat) (b : Bool) : (s.setFlag off i b).astat = s.astat := rfl
@[simp] theorem State.setFlag_pinPend (s : State) (off i : Nat) (b : Bool) : (s.setFlag off i b).pinPend = s.pinPend := rfl
@[simp] theorem State.setFlag_pinFrom (s : State) (off i : Nat) (b : Bool) : (s.setFlag off i b).pinFrom = s.pinFrom := rfl
@[simp] theorem State.setFlag_pinHigh (s : State) (off i : Nat) (b : Bool) : (s.setFlag off i b).pinHigh = s.pinHigh := rfl
@[simp] theorem State.setFlag_tbLast (s : State) (off i : Nat) (b : Bool) : (s.setFlag off i b).tbLast = s.tbLast := rfl
@[simp] theorem State.setFlag_pinCause (s : State) (off i : Nat) (b : Bool) : (s.setFlag off i b).pinCause = s.pinCause := rfl
@[simp] theorem State.setFlag_memHeld (s : State) (off i : Nat) (b : Bool) : (s.setFlag off i b).memHeld = s.memHeld := rfl
@[simp] theorem State.setFlag_fnow (s : State) (off i : Nat) (b : Bool) : (s.setFlag off i b).fnow = s.fnow := rfl
@[simp] theorem State.setFlag_lnow (s : State) (off i : Nat) (b : Bool) : (s.setFlag off i b).lnow = s.lnow := rfl
@[simp] theorem State.setFlag_synEvt (s : State) (off i : Nat) (b : Bool) : (s.setFlag off i b).synEvt = s.synEvt := rfl
@[simp] theorem State.setFlag_winNow (s : State) (off i : Nat) (b : Bool) : (s.setFlag off i b).winNow = s.winNow := rfl
@[simp] theorem State.setFlag_claimNow (s : State) (off i : Nat) (b : Bool) : (s.setFlag off i b).claimNow = s.claimNow := rfl
@[simp] theorem State.setFlag_canNow (s : State) (off i : Nat) (b : Bool) : (s.setFlag off i b).canNow = s.canNow := rfl
@[simp] theorem State.setFlag_enow (s : State) (off i : Nat) (b : Bool) : (s.setFlag off i b).enow = s.enow := rfl
@[simp] theorem State.setFlag_pinBase (s : State) (off i : Nat) (b : Bool) : (s.setFlag off i b).pinBase = s.pinBase := rfl
@[simp] theorem State.setFlag_pendBase (s : State) (off i : Nat) (b : Bool) : (s.setFlag off i b).pendBase = s.pendBase := rfl
@[simp] theorem State.setFlag_dlNow (s : State) (off i : Nat) (b : Bool) : (s.setFlag off i b).dlNow = s.dlNow := rfl
@[simp] theorem State.setFlag_flash (s : State) (off i : Nat) (b : Bool) : (s.setFlag off i b).flash = s.flash := rfl
@[simp] theorem State.setFlag_seCnt (s : State) (off i : Nat) (b : Bool) : (s.setFlag off i b).seCnt = s.seCnt := rfl
@[simp] theorem State.setFlag_sePaired (s : State) (off i : Nat) (b : Bool) : (s.setFlag off i b).sePaired = s.sePaired := rfl
@[simp] theorem State.setFlag_floors (s : State) (off i : Nat) (b : Bool) : (s.setFlag off i b).floors = s.floors := rfl
@[simp] theorem State.setFlag_seed (s : State) (off i : Nat) (b : Bool) : (s.setFlag off i b).seed = s.seed := rfl
@[simp] theorem State.setFlag_manifest (s : State) (off i : Nat) (b : Bool) : (s.setFlag off i b).manifest = s.manifest := rfl
@[simp] theorem State.setFlag_images (s : State) (off i : Nat) (b : Bool) : (s.setFlag off i b).images = s.images := rfl
@[simp] theorem State.setFlag_seAtBoot (s : State) (off i : Nat) (b : Bool) : (s.setFlag off i b).seAtBoot = s.seAtBoot := rfl
@[simp] theorem State.setFlag_fbEver (s : State) (off i : Nat) (b : Bool) : (s.setFlag off i b).fbEver = s.fbEver := rfl
@[simp] theorem State.setFlag_dbgEver (s : State) (off i : Nat) (b : Bool) : (s.setFlag off i b).dbgEver = s.dbgEver := rfl
@[simp] theorem State.setFlag_chal (s : State) (off i : Nat) (b : Bool) : (s.setFlag off i b).chal = s.chal := rfl
@[simp] theorem State.setFlag_mr (s : State) (off i : Nat) (b : Bool) : (s.setFlag off i b).mr = s.mr := rfl
@[simp] theorem State.setFlag_mrCnt (s : State) (off i : Nat) (b : Bool) : (s.setFlag off i b).mrCnt = s.mrCnt := rfl
@[simp] theorem State.setFlag_mbxAns (s : State) (off i : Nat) (b : Bool) : (s.setFlag off i b).mbxAns = s.mbxAns := rfl
@[simp] theorem State.setFlag_regions (s : State) (off i : Nat) (b : Bool) : (s.setFlag off i b).regions = s.regions := rfl
@[simp] theorem State.setFlag_mpLock (s : State) (off i : Nat) (b : Bool) : (s.setFlag off i b).mpLock = s.mpLock := rfl
@[simp] theorem State.setFlag_mail (s : State) (off i : Nat) (b : Bool) : (s.setFlag off i b).mail = s.mail := rfl
@[simp] theorem State.setFlag_mailWait (s : State) (off i : Nat) (b : Bool) : (s.setFlag off i b).mailWait = s.mailWait := rfl
@[simp] theorem State.setFlag_restarts (s : State) (off i : Nat) (b : Bool) : (s.setFlag off i b).restarts = s.restarts := rfl
@[simp] theorem State.setFlag_restartAt (s : State) (off i : Nat) (b : Bool) : (s.setFlag off i b).restartAt = s.restartAt := rfl
@[simp] theorem State.setFlag_restartHold (s : State) (off i : Nat) (b : Bool) : (s.setFlag off i b).restartHold = s.restartHold := rfl
@[simp] theorem State.setFlag_down (s : State) (off i : Nat) (b : Bool) : (s.setFlag off i b).down = s.down := rfl
@[simp] theorem State.setFlag_cplOwed (s : State) (off i : Nat) (b : Bool) : (s.setFlag off i b).cplOwed = s.cplOwed := rfl
@[simp] theorem State.setFlag_halted (s : State) (off i : Nat) (b : Bool) : (s.setFlag off i b).halted = s.halted := rfl
@[simp] theorem State.setFlag_bundle (s : State) (off i : Nat) (b : Bool) : (s.setFlag off i b).bundle = s.bundle := rfl
@[simp] theorem State.setFlag_active (s : State) (off i : Nat) (b : Bool) : (s.setFlag off i b).active = s.active := rfl
@[simp] theorem State.setFlag_actEnd (s : State) (off i : Nat) (b : Bool) : (s.setFlag off i b).actEnd = s.actEnd := rfl
@[simp] theorem State.setFlag_revert (s : State) (off i : Nat) (b : Bool) : (s.setFlag off i b).revert = s.revert := rfl
@[simp] theorem State.setFlag_deferAt (s : State) (off i : Nat) (b : Bool) : (s.setFlag off i b).deferAt = s.deferAt := rfl
@[simp] theorem State.setFlag_emgEnd (s : State) (off i : Nat) (b : Bool) : (s.setFlag off i b).emgEnd = s.emgEnd := rfl
@[simp] theorem State.setFlag_ranSince (s : State) (off i : Nat) (b : Bool) : (s.setFlag off i b).ranSince = s.ranSince := rfl
@[simp] theorem State.setFlag_injAt (s : State) (off i : Nat) (b : Bool) : (s.setFlag off i b).injAt = s.injAt := rfl
@[simp] theorem State.setFlag_raiseAt (s : State) (off i : Nat) (b : Bool) : (s.setFlag off i b).raiseAt = s.raiseAt := rfl
@[simp] theorem State.setFlag_tapOut (s : State) (off i : Nat) (b : Bool) : (s.setFlag off i b).tapOut = s.tapOut := rfl
@[simp] theorem State.setFlag_tapPend (s : State) (off i : Nat) (b : Bool) : (s.setFlag off i b).tapPend = s.tapPend := rfl
@[simp] theorem State.setFlag_vdd (s : State) (off i : Nat) (b : Bool) : (s.setFlag off i b).vdd = s.vdd := rfl
@[simp] theorem State.setFlag_beatMin (s : State) (off i : Nat) (b : Bool) : (s.setFlag off i b).beatMin = s.beatMin := rfl
@[simp] theorem State.setFlag_beatWin (s : State) (off i : Nat) (b : Bool) : (s.setFlag off i b).beatWin = s.beatWin := rfl
@[simp] theorem State.setFlag_beatGated (s : State) (off i : Nat) (b : Bool) : (s.setFlag off i b).beatGated = s.beatGated := rfl
@[simp] theorem State.setFlag_wake (s : State) (off i : Nat) (b : Bool) : (s.setFlag off i b).wake = s.wake := rfl
@[simp] theorem State.setFlag_wakeKind (s : State) (off i : Nat) (b : Bool) : (s.setFlag off i b).wakeKind = s.wakeKind := rfl
@[simp] theorem State.setFlag_standby (s : State) (off i : Nat) (b : Bool) : (s.setFlag off i b).standby = s.standby := rfl
@[simp] theorem State.setFlag_gateAt (s : State) (off i : Nat) (b : Bool) : (s.setFlag off i b).gateAt = s.gateAt := rfl
@[simp] theorem State.setFlag_heldWake (s : State) (off i : Nat) (b : Bool) : (s.setFlag off i b).heldWake = s.heldWake := rfl
@[simp] theorem State.setFlag_wakeSig (s : State) (off i : Nat) (b : Bool) : (s.setFlag off i b).wakeSig = s.wakeSig := rfl
@[simp] theorem State.setFlag_entryAt (s : State) (off i : Nat) (b : Bool) : (s.setFlag off i b).entryAt = s.entryAt := rfl
@[simp] theorem State.setFlag_thHot (s : State) (off i : Nat) (b : Bool) : (s.setFlag off i b).thHot = s.thHot := rfl
@[simp] theorem State.setFlag_thCool (s : State) (off i : Nat) (b : Bool) : (s.setFlag off i b).thCool = s.thCool := rfl
@[simp] theorem State.setFlag_thTop (s : State) (off i : Nat) (b : Bool) : (s.setFlag off i b).thTop = s.thTop := rfl
@[simp] theorem State.setFlag_thStep (s : State) (off i : Nat) (b : Bool) : (s.setFlag off i b).thStep = s.thStep := rfl
@[simp] theorem State.setFlag_heldPads (s : State) (off i : Nat) (b : Bool) : (s.setFlag off i b).heldPads = s.heldPads := rfl

/-! ## setCore -/

@[simp] theorem State.setCore_pending (s : State) (c : Nat) (k : Core) : (s.setCore c k).pending = s.pending := rfl
@[simp] theorem State.setCore_readData (s : State) (c : Nat) (k : Core) : (s.setCore c k).readData = s.readData := rfl
@[simp] theorem State.setCore_readOk (s : State) (c : Nat) (k : Core) : (s.setCore c k).readOk = s.readOk := rfl
@[simp] theorem State.setCore_regs (s : State) (c : Nat) (k : Core) : (s.setCore c k).regs = s.regs := rfl
@[simp] theorem State.setCore_cores (s : State) (c : Nat) (k : Core) : (s.setCore c k).cores = tabPut s.cores c k := rfl
@[simp] theorem State.setCore_ferries (s : State) (c : Nat) (k : Core) : (s.setCore c k).ferries = s.ferries := rfl
@[simp] theorem State.setCore_mem (s : State) (c : Nat) (k : Core) : (s.setCore c k).mem = s.mem := rfl
@[simp] theorem State.setCore_bar4q (s : State) (c : Nat) (k : Core) : (s.setCore c k).bar4q = s.bar4q := rfl
@[simp] theorem State.setCore_lpUe (s : State) (c : Nat) (k : Core) : (s.setCore c k).lpUe = s.lpUe := rfl
@[simp] theorem State.setCore_lpCe (s : State) (c : Nat) (k : Core) : (s.setCore c k).lpCe = s.lpCe := rfl
@[simp] theorem State.setCore_hbrUe (s : State) (c : Nat) (k : Core) : (s.setCore c k).hbrUe = s.hbrUe := rfl
@[simp] theorem State.setCore_hbrCe (s : State) (c : Nat) (k : Core) : (s.setCore c k).hbrCe = s.hbrCe := rfl
@[simp] theorem State.setCore_queues (s : State) (c : Nat) (k : Core) : (s.setCore c k).queues = s.queues := rfl
@[simp] theorem State.setCore_flush (s : State) (c : Nat) (k : Core) : (s.setCore c k).flush = s.flush := rfl
@[simp] theorem State.setCore_saved (s : State) (c : Nat) (k : Core) : (s.setCore c k).saved = s.saved := rfl
@[simp] theorem State.setCore_gangRes (s : State) (c : Nat) (k : Core) : (s.setCore c k).gangRes = s.gangRes := rfl
@[simp] theorem State.setCore_islGen (s : State) (c : Nat) (k : Core) : (s.setCore c k).islGen = s.islGen := rfl
@[simp] theorem State.setCore_drr (s : State) (c : Nat) (k : Core) : (s.setCore c k).drr = s.drr := rfl
@[simp] theorem State.setCore_drrCur (s : State) (c : Nat) (k : Core) : (s.setCore c k).drrCur = s.drrCur := rfl
@[simp] theorem State.setCore_thrBudget (s : State) (c : Nat) (k : Core) : (s.setCore c k).thrBudget = s.thrBudget := rfl
@[simp] theorem State.setCore_thrRot (s : State) (c : Nat) (k : Core) : (s.setCore c k).thrRot = s.thrRot := rfl
@[simp] theorem State.setCore_thrStart (s : State) (c : Nat) (k : Core) : (s.setCore c k).thrStart = s.thrStart := rfl
@[simp] theorem State.setCore_thrAt (s : State) (c : Nat) (k : Core) : (s.setCore c k).thrAt = s.thrAt := rfl
@[simp] theorem State.setCore_kv (s : State) (c : Nat) (k : Core) : (s.setCore c k).kv = s.kv := rfl
@[simp] theorem State.setCore_live (s : State) (c : Nat) (k : Core) : (s.setCore c k).live = s.live := rfl
@[simp] theorem State.setCore_jobs (s : State) (c : Nat) (k : Core) : (s.setCore c k).jobs = s.jobs := rfl
@[simp] theorem State.setCore_jobLast (s : State) (c : Nat) (k : Core) : (s.setCore c k).jobLast = s.jobLast := rfl
@[simp] theorem State.setCore_tlb (s : State) (c : Nat) (k : Core) : (s.setCore c k).tlb = s.tlb := rfl
@[simp] theorem State.setCore_invq (s : State) (c : Nat) (k : Core) : (s.setCore c k).invq = s.invq := rfl
@[simp] theorem State.setCore_xtsKeys (s : State) (c : Nat) (k : Core) : (s.setCore c k).xtsKeys = s.xtsKeys := rfl
@[simp] theorem State.setCore_granOwner (s : State) (c : Nat) (k : Core) : (s.setCore c k).granOwner = s.granOwner := rfl
@[simp] theorem State.setCore_faults (s : State) (c : Nat) (k : Core) : (s.setCore c k).faults = s.faults := rfl
@[simp] theorem State.setCore_frecs (s : State) (c : Nat) (k : Core) : (s.setCore c k).frecs = s.frecs := rfl
@[simp] theorem State.setCore_fid (s : State) (c : Nat) (k : Core) : (s.setCore c k).fid = s.fid := rfl
@[simp] theorem State.setCore_patrolAt (s : State) (c : Nat) (k : Core) : (s.setCore c k).patrolAt = s.patrolAt := rfl
@[simp] theorem State.setCore_initDone (s : State) (c : Nat) (k : Core) : (s.setCore c k).initDone = s.initDone := rfl
@[simp] theorem State.setCore_dl (s : State) (c : Nat) (k : Core) : (s.setCore c k).dl = s.dl := rfl
@[simp] theorem State.setCore_dlOnce (s : State) (c : Nat) (k : Core) : (s.setCore c k).dlOnce = s.dlOnce := rfl
@[simp] theorem State.setCore_lockstep (s : State) (c : Nat) (k : Core) : (s.setCore c k).lockstep = s.lockstep := rfl
@[simp] theorem State.setCore_frameMs (s : State) (c : Nat) (k : Core) : (s.setCore c k).frameMs = s.frameMs := rfl
@[simp] theorem State.setCore_frameStart (s : State) (c : Nat) (k : Core) : (s.setCore c k).frameStart = s.frameStart := rfl
@[simp] theorem State.setCore_frameNo (s : State) (c : Nat) (k : Core) : (s.setCore c k).frameNo = s.frameNo := rfl
@[simp] theorem State.setCore_bcnDone (s : State) (c : Nat) (k : Core) : (s.setCore c k).bcnDone = s.bcnDone := rfl
@[simp] theorem State.setCore_bcnSeen (s : State) (c : Nat) (k : Core) : (s.setCore c k).bcnSeen = s.bcnSeen := rfl
@[simp] theorem State.setCore_mmHist (s : State) (c : Nat) (k : Core) : (s.setCore c k).mmHist = s.mmHist := rfl
@[simp] theorem State.setCore_tbS (s : State) (c : Nat) (k : Core) : (s.setCore c k).tbS = s.tbS := rfl
@[simp] theorem State.setCore_tbNs (s : State) (c : Nat) (k : Core) : (s.setCore c k).tbNs = s.tbNs := rfl
@[simp] theorem State.setCore_tbFrac (s : State) (c : Nat) (k : Core) : (s.setCore c k).tbFrac = s.tbFrac := rfl
@[simp] theorem State.setCore_tbJump (s : State) (c : Nat) (k : Core) : (s.setCore c k).tbJump = s.tbJump := rfl
@[simp] theorem State.setCore_hbAt (s : State) (c : Nat) (k : Core) : (s.setCore c k).hbAt = s.hbAt := rfl
@[simp] theorem State.setCore_hbOld (s : State) (c : Nat) (k : Core) : (s.setCore c k).hbOld = s.hbOld := rfl
@[simp] theorem State.setCore_lossDue (s : State) (c : Nat) (k : Core) : (s.setCore c k).lossDue = s.lossDue := rfl
@[simp] theorem State.setCore_vfDue (s : State) (c : Nat) (k : Core) : (s.setCore c k).vfDue = s.vfDue := rfl
@[simp] theorem State.setCore_cyc (s : State) (c : Nat) (k : Core) : (s.setCore c k).cyc = s.cyc := rfl
@[simp] theorem State.setCore_tbOps (s : State) (c : Nat) (k : Core) : (s.setCore c k).tbOps = s.tbOps := rfl
@[simp] theorem State.setCore_tbPast (s : State) (c : Nat) (k : Core) : (s.setCore c k).tbPast = s.tbPast := rfl
@[simp] theorem State.setCore_timArm (s : State) (c : Nat) (k : Core) : (s.setCore c k).timArm = s.timArm := rfl
@[simp] theorem State.setCore_timLatch (s : State) (c : Nat) (k : Core) : (s.setCore c k).timLatch = s.timLatch := rfl
@[simp] theorem State.setCore_capUnread (s : State) (c : Nat) (k : Core) : (s.setCore c k).capUnread = s.capUnread := rfl
@[simp] theorem State.setCore_trigEnd (s : State) (c : Nat) (k : Core) : (s.setCore c k).trigEnd = s.trigEnd := rfl
@[simp] theorem State.setCore_trigPast (s : State) (c : Nat) (k : Core) : (s.setCore c k).trigPast = s.trigPast := rfl
@[simp] theorem State.setCore_claims (s : State) (c : Nat) (k : Core) : (s.setCore c k).claims = s.claims := rfl
@[simp] theorem State.setCore_tdl (s : State) (c : Nat) (k : Core) : (s.setCore c k).tdl = s.tdl := rfl
@[simp] theorem State.setCore_tdlDirty (s : State) (c : Nat) (k : Core) : (s.setCore c k).tdlDirty = s.tdlDirty := rfl
@[simp] theorem State.setCore_tdlStart (s : State) (c : Nat) (k : Core) : (s.setCore c k).tdlStart = s.tdlStart := rfl
@[simp] theorem State.setCore_tdlNext (s : State) (c : Nat) (k : Core) : (s.setCore c k).tdlNext = s.tdlNext := rfl
@[simp] theorem State.setCore_drops (s : State) (c : Nat) (k : Core) : (s.setCore c k).drops = s.drops := rfl
@[simp] theorem State.setCore_dropRing (s : State) (c : Nat) (k : Core) : (s.setCore c k).dropRing = s.dropRing := rfl
@[simp] theorem State.setCore_spiRead (s : State) (c : Nat) (k : Core) : (s.setCore c k).spiRead = s.spiRead := rfl
@[simp] theorem State.setCore_spiBusy (s : State) (c : Nat) (k : Core) : (s.setCore c k).spiBusy = s.spiBusy := rfl
@[simp] theorem State.setCore_tdlDue (s : State) (c : Nat) (k : Core) : (s.setCore c k).tdlDue = s.tdlDue := rfl
@[simp] theorem State.setCore_pwm (s : State) (c : Nat) (k : Core) : (s.setCore c k).pwm = s.pwm := rfl
@[simp] theorem State.setCore_capDec (s : State) (c : Nat) (k : Core) : (s.setCore c k).capDec = s.capDec := rfl
@[simp] theorem State.setCore_canRx (s : State) (c : Nat) (k : Core) : (s.setCore c k).canRx = s.canRx := rfl
@[simp] theorem State.setCore_canOld (s : State) (c : Nat) (k : Core) : (s.setCore c k).canOld = s.canOld := rfl
@[simp] theorem State.setCore_canNew (s : State) (c : Nat) (k : Core) : (s.setCore c k).canNew = s.canNew := rfl
@[simp] theorem State.setCore_canLatch (s : State) (c : Nat) (k : Core) : (s.setCore c k).canLatch = s.canLatch := rfl
@[simp] theorem State.setCore_canQ (s : State) (c : Nat) (k : Core) : (s.setCore c k).canQ = s.canQ := rfl
@[simp] theorem State.setCore_canTx (s : State) (c : Nat) (k : Core) : (s.setCore c k).canTx = s.canTx := rfl
@[simp] theorem State.setCore_ethRx (s : State) (c : Nat) (k : Core) : (s.setCore c k).ethRx = s.ethRx := rfl
@[simp] theorem State.setCore_helloAt (s : State) (c : Nat) (k : Core) : (s.setCore c k).helloAt = s.helloAt := rfl
@[simp] theorem State.setCore_helloSent (s : State) (c : Nat) (k : Core) : (s.setCore c k).helloSent = s.helloSent := rfl
@[simp] theorem State.setCore_cwRx (s : State) (c : Nat) (k : Core) : (s.setCore c k).cwRx = s.cwRx := rfl
@[simp] theorem State.setCore_cwTx (s : State) (c : Nat) (k : Core) : (s.setCore c k).cwTx = s.cwTx := rfl
@[simp] theorem State.setCore_cwPath (s : State) (c : Nat) (k : Core) : (s.setCore c k).cwPath = s.cwPath := rfl
@[simp] theorem State.setCore_cwCorr (s : State) (c : Nat) (k : Core) : (s.setCore c k).cwCorr = s.cwCorr := rfl
@[simp] theorem State.setCore_ptpRx (s : State) (c : Nat) (k : Core) : (s.setCore c k).ptpRx = s.ptpRx := rfl
@[simp] theorem State.setCore_pxyId (s : State) (c : Nat) (k : Core) : (s.setCore c k).pxyId = s.pxyId := rfl
@[simp] theorem State.setCore_pxyAt (s : State) (c : Nat) (k : Core) : (s.setCore c k).pxyAt = s.pxyAt := rfl
@[simp] theorem State.setCore_msixEn (s : State) (c : Nat) (k : Core) : (s.setCore c k).msixEn = s.msixEn := rfl
@[simp] theorem State.setCore_bme (s : State) (c : Nat) (k : Core) : (s.setCore c k).bme = s.bme := rfl
@[simp] theorem State.setCore_seq (s : State) (c : Nat) (k : Core) : (s.setCore c k).seq = s.seq := rfl
@[simp] theorem State.setCore_free (s : State) (c : Nat) (k : Core) : (s.setCore c k).free = s.free := rfl
@[simp] theorem State.setCore_out (s : State) (c : Nat) (k : Core) : (s.setCore c k).out = s.out := rfl
@[simp] theorem State.setCore_astat (s : State) (c : Nat) (k : Core) : (s.setCore c k).astat = s.astat := rfl
@[simp] theorem State.setCore_pinPend (s : State) (c : Nat) (k : Core) : (s.setCore c k).pinPend = s.pinPend := rfl
@[simp] theorem State.setCore_pinFrom (s : State) (c : Nat) (k : Core) : (s.setCore c k).pinFrom = s.pinFrom := rfl
@[simp] theorem State.setCore_pinHigh (s : State) (c : Nat) (k : Core) : (s.setCore c k).pinHigh = s.pinHigh := rfl
@[simp] theorem State.setCore_tbLast (s : State) (c : Nat) (k : Core) : (s.setCore c k).tbLast = s.tbLast := rfl
@[simp] theorem State.setCore_pinCause (s : State) (c : Nat) (k : Core) : (s.setCore c k).pinCause = s.pinCause := rfl
@[simp] theorem State.setCore_memHeld (s : State) (c : Nat) (k : Core) : (s.setCore c k).memHeld = s.memHeld := rfl
@[simp] theorem State.setCore_fnow (s : State) (c : Nat) (k : Core) : (s.setCore c k).fnow = s.fnow := rfl
@[simp] theorem State.setCore_lnow (s : State) (c : Nat) (k : Core) : (s.setCore c k).lnow = s.lnow := rfl
@[simp] theorem State.setCore_evt (s : State) (c : Nat) (k : Core) : (s.setCore c k).evt = s.evt := rfl
@[simp] theorem State.setCore_synEvt (s : State) (c : Nat) (k : Core) : (s.setCore c k).synEvt = s.synEvt := rfl
@[simp] theorem State.setCore_winNow (s : State) (c : Nat) (k : Core) : (s.setCore c k).winNow = s.winNow := rfl
@[simp] theorem State.setCore_claimNow (s : State) (c : Nat) (k : Core) : (s.setCore c k).claimNow = s.claimNow := rfl
@[simp] theorem State.setCore_canNow (s : State) (c : Nat) (k : Core) : (s.setCore c k).canNow = s.canNow := rfl
@[simp] theorem State.setCore_enow (s : State) (c : Nat) (k : Core) : (s.setCore c k).enow = s.enow := rfl
@[simp] theorem State.setCore_pinBase (s : State) (c : Nat) (k : Core) : (s.setCore c k).pinBase = s.pinBase := rfl
@[simp] theorem State.setCore_pendBase (s : State) (c : Nat) (k : Core) : (s.setCore c k).pendBase = s.pendBase := rfl
@[simp] theorem State.setCore_dlNow (s : State) (c : Nat) (k : Core) : (s.setCore c k).dlNow = s.dlNow := rfl
@[simp] theorem State.setCore_flash (s : State) (c : Nat) (k : Core) : (s.setCore c k).flash = s.flash := rfl
@[simp] theorem State.setCore_seCnt (s : State) (c : Nat) (k : Core) : (s.setCore c k).seCnt = s.seCnt := rfl
@[simp] theorem State.setCore_sePaired (s : State) (c : Nat) (k : Core) : (s.setCore c k).sePaired = s.sePaired := rfl
@[simp] theorem State.setCore_floors (s : State) (c : Nat) (k : Core) : (s.setCore c k).floors = s.floors := rfl
@[simp] theorem State.setCore_seed (s : State) (c : Nat) (k : Core) : (s.setCore c k).seed = s.seed := rfl
@[simp] theorem State.setCore_manifest (s : State) (c : Nat) (k : Core) : (s.setCore c k).manifest = s.manifest := rfl
@[simp] theorem State.setCore_images (s : State) (c : Nat) (k : Core) : (s.setCore c k).images = s.images := rfl
@[simp] theorem State.setCore_seAtBoot (s : State) (c : Nat) (k : Core) : (s.setCore c k).seAtBoot = s.seAtBoot := rfl
@[simp] theorem State.setCore_fbEver (s : State) (c : Nat) (k : Core) : (s.setCore c k).fbEver = s.fbEver := rfl
@[simp] theorem State.setCore_dbgEver (s : State) (c : Nat) (k : Core) : (s.setCore c k).dbgEver = s.dbgEver := rfl
@[simp] theorem State.setCore_chal (s : State) (c : Nat) (k : Core) : (s.setCore c k).chal = s.chal := rfl
@[simp] theorem State.setCore_mr (s : State) (c : Nat) (k : Core) : (s.setCore c k).mr = s.mr := rfl
@[simp] theorem State.setCore_mrCnt (s : State) (c : Nat) (k : Core) : (s.setCore c k).mrCnt = s.mrCnt := rfl
@[simp] theorem State.setCore_mbxAns (s : State) (c : Nat) (k : Core) : (s.setCore c k).mbxAns = s.mbxAns := rfl
@[simp] theorem State.setCore_regions (s : State) (c : Nat) (k : Core) : (s.setCore c k).regions = s.regions := rfl
@[simp] theorem State.setCore_mpLock (s : State) (c : Nat) (k : Core) : (s.setCore c k).mpLock = s.mpLock := rfl
@[simp] theorem State.setCore_mail (s : State) (c : Nat) (k : Core) : (s.setCore c k).mail = s.mail := rfl
@[simp] theorem State.setCore_mailWait (s : State) (c : Nat) (k : Core) : (s.setCore c k).mailWait = s.mailWait := rfl
@[simp] theorem State.setCore_restarts (s : State) (c : Nat) (k : Core) : (s.setCore c k).restarts = s.restarts := rfl
@[simp] theorem State.setCore_restartAt (s : State) (c : Nat) (k : Core) : (s.setCore c k).restartAt = s.restartAt := rfl
@[simp] theorem State.setCore_restartHold (s : State) (c : Nat) (k : Core) : (s.setCore c k).restartHold = s.restartHold := rfl
@[simp] theorem State.setCore_down (s : State) (c : Nat) (k : Core) : (s.setCore c k).down = s.down := rfl
@[simp] theorem State.setCore_cplOwed (s : State) (c : Nat) (k : Core) : (s.setCore c k).cplOwed = s.cplOwed := rfl
@[simp] theorem State.setCore_halted (s : State) (c : Nat) (k : Core) : (s.setCore c k).halted = s.halted := rfl
@[simp] theorem State.setCore_bundle (s : State) (c : Nat) (k : Core) : (s.setCore c k).bundle = s.bundle := rfl
@[simp] theorem State.setCore_active (s : State) (c : Nat) (k : Core) : (s.setCore c k).active = s.active := rfl
@[simp] theorem State.setCore_actEnd (s : State) (c : Nat) (k : Core) : (s.setCore c k).actEnd = s.actEnd := rfl
@[simp] theorem State.setCore_revert (s : State) (c : Nat) (k : Core) : (s.setCore c k).revert = s.revert := rfl
@[simp] theorem State.setCore_deferAt (s : State) (c : Nat) (k : Core) : (s.setCore c k).deferAt = s.deferAt := rfl
@[simp] theorem State.setCore_emgEnd (s : State) (c : Nat) (k : Core) : (s.setCore c k).emgEnd = s.emgEnd := rfl
@[simp] theorem State.setCore_ranSince (s : State) (c : Nat) (k : Core) : (s.setCore c k).ranSince = s.ranSince := rfl
@[simp] theorem State.setCore_injAt (s : State) (c : Nat) (k : Core) : (s.setCore c k).injAt = s.injAt := rfl
@[simp] theorem State.setCore_raiseAt (s : State) (c : Nat) (k : Core) : (s.setCore c k).raiseAt = s.raiseAt := rfl
@[simp] theorem State.setCore_tapOut (s : State) (c : Nat) (k : Core) : (s.setCore c k).tapOut = s.tapOut := rfl
@[simp] theorem State.setCore_tapPend (s : State) (c : Nat) (k : Core) : (s.setCore c k).tapPend = s.tapPend := rfl
@[simp] theorem State.setCore_vdd (s : State) (c : Nat) (k : Core) : (s.setCore c k).vdd = s.vdd := rfl
@[simp] theorem State.setCore_beatMin (s : State) (c : Nat) (k : Core) : (s.setCore c k).beatMin = s.beatMin := rfl
@[simp] theorem State.setCore_beatWin (s : State) (c : Nat) (k : Core) : (s.setCore c k).beatWin = s.beatWin := rfl
@[simp] theorem State.setCore_beatGated (s : State) (c : Nat) (k : Core) : (s.setCore c k).beatGated = s.beatGated := rfl
@[simp] theorem State.setCore_wake (s : State) (c : Nat) (k : Core) : (s.setCore c k).wake = s.wake := rfl
@[simp] theorem State.setCore_wakeKind (s : State) (c : Nat) (k : Core) : (s.setCore c k).wakeKind = s.wakeKind := rfl
@[simp] theorem State.setCore_standby (s : State) (c : Nat) (k : Core) : (s.setCore c k).standby = s.standby := rfl
@[simp] theorem State.setCore_gateAt (s : State) (c : Nat) (k : Core) : (s.setCore c k).gateAt = s.gateAt := rfl
@[simp] theorem State.setCore_heldWake (s : State) (c : Nat) (k : Core) : (s.setCore c k).heldWake = s.heldWake := rfl
@[simp] theorem State.setCore_wakeSig (s : State) (c : Nat) (k : Core) : (s.setCore c k).wakeSig = s.wakeSig := rfl
@[simp] theorem State.setCore_entryAt (s : State) (c : Nat) (k : Core) : (s.setCore c k).entryAt = s.entryAt := rfl
@[simp] theorem State.setCore_thHot (s : State) (c : Nat) (k : Core) : (s.setCore c k).thHot = s.thHot := rfl
@[simp] theorem State.setCore_thCool (s : State) (c : Nat) (k : Core) : (s.setCore c k).thCool = s.thCool := rfl
@[simp] theorem State.setCore_thTop (s : State) (c : Nat) (k : Core) : (s.setCore c k).thTop = s.thTop := rfl
@[simp] theorem State.setCore_thStep (s : State) (c : Nat) (k : Core) : (s.setCore c k).thStep = s.thStep := rfl
@[simp] theorem State.setCore_heldPads (s : State) (c : Nat) (k : Core) : (s.setCore c k).heldPads = s.heldPads := rfl

/-! ## setRegs -/

@[simp] theorem State.setRegs_pending (s : State) (c : Nat) (r : CoreRegs) : (s.setRegs c r).pending = s.pending := rfl
@[simp] theorem State.setRegs_readData (s : State) (c : Nat) (r : CoreRegs) : (s.setRegs c r).readData = s.readData := rfl
@[simp] theorem State.setRegs_readOk (s : State) (c : Nat) (r : CoreRegs) : (s.setRegs c r).readOk = s.readOk := rfl
@[simp] theorem State.setRegs_regs (s : State) (c : Nat) (r : CoreRegs) : (s.setRegs c r).regs = s.regs := rfl
@[simp] theorem State.setRegs_cores (s : State) (c : Nat) (r : CoreRegs) : (s.setRegs c r).cores = tabPut s.cores c { s.core c with regs := r } := rfl
@[simp] theorem State.setRegs_ferries (s : State) (c : Nat) (r : CoreRegs) : (s.setRegs c r).ferries = s.ferries := rfl
@[simp] theorem State.setRegs_mem (s : State) (c : Nat) (r : CoreRegs) : (s.setRegs c r).mem = s.mem := rfl
@[simp] theorem State.setRegs_bar4q (s : State) (c : Nat) (r : CoreRegs) : (s.setRegs c r).bar4q = s.bar4q := rfl
@[simp] theorem State.setRegs_lpUe (s : State) (c : Nat) (r : CoreRegs) : (s.setRegs c r).lpUe = s.lpUe := rfl
@[simp] theorem State.setRegs_lpCe (s : State) (c : Nat) (r : CoreRegs) : (s.setRegs c r).lpCe = s.lpCe := rfl
@[simp] theorem State.setRegs_hbrUe (s : State) (c : Nat) (r : CoreRegs) : (s.setRegs c r).hbrUe = s.hbrUe := rfl
@[simp] theorem State.setRegs_hbrCe (s : State) (c : Nat) (r : CoreRegs) : (s.setRegs c r).hbrCe = s.hbrCe := rfl
@[simp] theorem State.setRegs_queues (s : State) (c : Nat) (r : CoreRegs) : (s.setRegs c r).queues = s.queues := rfl
@[simp] theorem State.setRegs_flush (s : State) (c : Nat) (r : CoreRegs) : (s.setRegs c r).flush = s.flush := rfl
@[simp] theorem State.setRegs_saved (s : State) (c : Nat) (r : CoreRegs) : (s.setRegs c r).saved = s.saved := rfl
@[simp] theorem State.setRegs_gangRes (s : State) (c : Nat) (r : CoreRegs) : (s.setRegs c r).gangRes = s.gangRes := rfl
@[simp] theorem State.setRegs_islGen (s : State) (c : Nat) (r : CoreRegs) : (s.setRegs c r).islGen = s.islGen := rfl
@[simp] theorem State.setRegs_drr (s : State) (c : Nat) (r : CoreRegs) : (s.setRegs c r).drr = s.drr := rfl
@[simp] theorem State.setRegs_drrCur (s : State) (c : Nat) (r : CoreRegs) : (s.setRegs c r).drrCur = s.drrCur := rfl
@[simp] theorem State.setRegs_thrBudget (s : State) (c : Nat) (r : CoreRegs) : (s.setRegs c r).thrBudget = s.thrBudget := rfl
@[simp] theorem State.setRegs_thrRot (s : State) (c : Nat) (r : CoreRegs) : (s.setRegs c r).thrRot = s.thrRot := rfl
@[simp] theorem State.setRegs_thrStart (s : State) (c : Nat) (r : CoreRegs) : (s.setRegs c r).thrStart = s.thrStart := rfl
@[simp] theorem State.setRegs_thrAt (s : State) (c : Nat) (r : CoreRegs) : (s.setRegs c r).thrAt = s.thrAt := rfl
@[simp] theorem State.setRegs_kv (s : State) (c : Nat) (r : CoreRegs) : (s.setRegs c r).kv = s.kv := rfl
@[simp] theorem State.setRegs_live (s : State) (c : Nat) (r : CoreRegs) : (s.setRegs c r).live = s.live := rfl
@[simp] theorem State.setRegs_jobs (s : State) (c : Nat) (r : CoreRegs) : (s.setRegs c r).jobs = s.jobs := rfl
@[simp] theorem State.setRegs_jobLast (s : State) (c : Nat) (r : CoreRegs) : (s.setRegs c r).jobLast = s.jobLast := rfl
@[simp] theorem State.setRegs_tlb (s : State) (c : Nat) (r : CoreRegs) : (s.setRegs c r).tlb = s.tlb := rfl
@[simp] theorem State.setRegs_invq (s : State) (c : Nat) (r : CoreRegs) : (s.setRegs c r).invq = s.invq := rfl
@[simp] theorem State.setRegs_xtsKeys (s : State) (c : Nat) (r : CoreRegs) : (s.setRegs c r).xtsKeys = s.xtsKeys := rfl
@[simp] theorem State.setRegs_granOwner (s : State) (c : Nat) (r : CoreRegs) : (s.setRegs c r).granOwner = s.granOwner := rfl
@[simp] theorem State.setRegs_faults (s : State) (c : Nat) (r : CoreRegs) : (s.setRegs c r).faults = s.faults := rfl
@[simp] theorem State.setRegs_frecs (s : State) (c : Nat) (r : CoreRegs) : (s.setRegs c r).frecs = s.frecs := rfl
@[simp] theorem State.setRegs_fid (s : State) (c : Nat) (r : CoreRegs) : (s.setRegs c r).fid = s.fid := rfl
@[simp] theorem State.setRegs_patrolAt (s : State) (c : Nat) (r : CoreRegs) : (s.setRegs c r).patrolAt = s.patrolAt := rfl
@[simp] theorem State.setRegs_initDone (s : State) (c : Nat) (r : CoreRegs) : (s.setRegs c r).initDone = s.initDone := rfl
@[simp] theorem State.setRegs_dl (s : State) (c : Nat) (r : CoreRegs) : (s.setRegs c r).dl = s.dl := rfl
@[simp] theorem State.setRegs_dlOnce (s : State) (c : Nat) (r : CoreRegs) : (s.setRegs c r).dlOnce = s.dlOnce := rfl
@[simp] theorem State.setRegs_lockstep (s : State) (c : Nat) (r : CoreRegs) : (s.setRegs c r).lockstep = s.lockstep := rfl
@[simp] theorem State.setRegs_frameMs (s : State) (c : Nat) (r : CoreRegs) : (s.setRegs c r).frameMs = s.frameMs := rfl
@[simp] theorem State.setRegs_frameStart (s : State) (c : Nat) (r : CoreRegs) : (s.setRegs c r).frameStart = s.frameStart := rfl
@[simp] theorem State.setRegs_frameNo (s : State) (c : Nat) (r : CoreRegs) : (s.setRegs c r).frameNo = s.frameNo := rfl
@[simp] theorem State.setRegs_bcnDone (s : State) (c : Nat) (r : CoreRegs) : (s.setRegs c r).bcnDone = s.bcnDone := rfl
@[simp] theorem State.setRegs_bcnSeen (s : State) (c : Nat) (r : CoreRegs) : (s.setRegs c r).bcnSeen = s.bcnSeen := rfl
@[simp] theorem State.setRegs_mmHist (s : State) (c : Nat) (r : CoreRegs) : (s.setRegs c r).mmHist = s.mmHist := rfl
@[simp] theorem State.setRegs_tbS (s : State) (c : Nat) (r : CoreRegs) : (s.setRegs c r).tbS = s.tbS := rfl
@[simp] theorem State.setRegs_tbNs (s : State) (c : Nat) (r : CoreRegs) : (s.setRegs c r).tbNs = s.tbNs := rfl
@[simp] theorem State.setRegs_tbFrac (s : State) (c : Nat) (r : CoreRegs) : (s.setRegs c r).tbFrac = s.tbFrac := rfl
@[simp] theorem State.setRegs_tbJump (s : State) (c : Nat) (r : CoreRegs) : (s.setRegs c r).tbJump = s.tbJump := rfl
@[simp] theorem State.setRegs_hbAt (s : State) (c : Nat) (r : CoreRegs) : (s.setRegs c r).hbAt = s.hbAt := rfl
@[simp] theorem State.setRegs_hbOld (s : State) (c : Nat) (r : CoreRegs) : (s.setRegs c r).hbOld = s.hbOld := rfl
@[simp] theorem State.setRegs_lossDue (s : State) (c : Nat) (r : CoreRegs) : (s.setRegs c r).lossDue = s.lossDue := rfl
@[simp] theorem State.setRegs_vfDue (s : State) (c : Nat) (r : CoreRegs) : (s.setRegs c r).vfDue = s.vfDue := rfl
@[simp] theorem State.setRegs_cyc (s : State) (c : Nat) (r : CoreRegs) : (s.setRegs c r).cyc = s.cyc := rfl
@[simp] theorem State.setRegs_tbOps (s : State) (c : Nat) (r : CoreRegs) : (s.setRegs c r).tbOps = s.tbOps := rfl
@[simp] theorem State.setRegs_tbPast (s : State) (c : Nat) (r : CoreRegs) : (s.setRegs c r).tbPast = s.tbPast := rfl
@[simp] theorem State.setRegs_timArm (s : State) (c : Nat) (r : CoreRegs) : (s.setRegs c r).timArm = s.timArm := rfl
@[simp] theorem State.setRegs_timLatch (s : State) (c : Nat) (r : CoreRegs) : (s.setRegs c r).timLatch = s.timLatch := rfl
@[simp] theorem State.setRegs_capUnread (s : State) (c : Nat) (r : CoreRegs) : (s.setRegs c r).capUnread = s.capUnread := rfl
@[simp] theorem State.setRegs_trigEnd (s : State) (c : Nat) (r : CoreRegs) : (s.setRegs c r).trigEnd = s.trigEnd := rfl
@[simp] theorem State.setRegs_trigPast (s : State) (c : Nat) (r : CoreRegs) : (s.setRegs c r).trigPast = s.trigPast := rfl
@[simp] theorem State.setRegs_claims (s : State) (c : Nat) (r : CoreRegs) : (s.setRegs c r).claims = s.claims := rfl
@[simp] theorem State.setRegs_tdl (s : State) (c : Nat) (r : CoreRegs) : (s.setRegs c r).tdl = s.tdl := rfl
@[simp] theorem State.setRegs_tdlDirty (s : State) (c : Nat) (r : CoreRegs) : (s.setRegs c r).tdlDirty = s.tdlDirty := rfl
@[simp] theorem State.setRegs_tdlStart (s : State) (c : Nat) (r : CoreRegs) : (s.setRegs c r).tdlStart = s.tdlStart := rfl
@[simp] theorem State.setRegs_tdlNext (s : State) (c : Nat) (r : CoreRegs) : (s.setRegs c r).tdlNext = s.tdlNext := rfl
@[simp] theorem State.setRegs_drops (s : State) (c : Nat) (r : CoreRegs) : (s.setRegs c r).drops = s.drops := rfl
@[simp] theorem State.setRegs_dropRing (s : State) (c : Nat) (r : CoreRegs) : (s.setRegs c r).dropRing = s.dropRing := rfl
@[simp] theorem State.setRegs_spiRead (s : State) (c : Nat) (r : CoreRegs) : (s.setRegs c r).spiRead = s.spiRead := rfl
@[simp] theorem State.setRegs_spiBusy (s : State) (c : Nat) (r : CoreRegs) : (s.setRegs c r).spiBusy = s.spiBusy := rfl
@[simp] theorem State.setRegs_tdlDue (s : State) (c : Nat) (r : CoreRegs) : (s.setRegs c r).tdlDue = s.tdlDue := rfl
@[simp] theorem State.setRegs_pwm (s : State) (c : Nat) (r : CoreRegs) : (s.setRegs c r).pwm = s.pwm := rfl
@[simp] theorem State.setRegs_capDec (s : State) (c : Nat) (r : CoreRegs) : (s.setRegs c r).capDec = s.capDec := rfl
@[simp] theorem State.setRegs_canRx (s : State) (c : Nat) (r : CoreRegs) : (s.setRegs c r).canRx = s.canRx := rfl
@[simp] theorem State.setRegs_canOld (s : State) (c : Nat) (r : CoreRegs) : (s.setRegs c r).canOld = s.canOld := rfl
@[simp] theorem State.setRegs_canNew (s : State) (c : Nat) (r : CoreRegs) : (s.setRegs c r).canNew = s.canNew := rfl
@[simp] theorem State.setRegs_canLatch (s : State) (c : Nat) (r : CoreRegs) : (s.setRegs c r).canLatch = s.canLatch := rfl
@[simp] theorem State.setRegs_canQ (s : State) (c : Nat) (r : CoreRegs) : (s.setRegs c r).canQ = s.canQ := rfl
@[simp] theorem State.setRegs_canTx (s : State) (c : Nat) (r : CoreRegs) : (s.setRegs c r).canTx = s.canTx := rfl
@[simp] theorem State.setRegs_ethRx (s : State) (c : Nat) (r : CoreRegs) : (s.setRegs c r).ethRx = s.ethRx := rfl
@[simp] theorem State.setRegs_helloAt (s : State) (c : Nat) (r : CoreRegs) : (s.setRegs c r).helloAt = s.helloAt := rfl
@[simp] theorem State.setRegs_helloSent (s : State) (c : Nat) (r : CoreRegs) : (s.setRegs c r).helloSent = s.helloSent := rfl
@[simp] theorem State.setRegs_cwRx (s : State) (c : Nat) (r : CoreRegs) : (s.setRegs c r).cwRx = s.cwRx := rfl
@[simp] theorem State.setRegs_cwTx (s : State) (c : Nat) (r : CoreRegs) : (s.setRegs c r).cwTx = s.cwTx := rfl
@[simp] theorem State.setRegs_cwPath (s : State) (c : Nat) (r : CoreRegs) : (s.setRegs c r).cwPath = s.cwPath := rfl
@[simp] theorem State.setRegs_cwCorr (s : State) (c : Nat) (r : CoreRegs) : (s.setRegs c r).cwCorr = s.cwCorr := rfl
@[simp] theorem State.setRegs_ptpRx (s : State) (c : Nat) (r : CoreRegs) : (s.setRegs c r).ptpRx = s.ptpRx := rfl
@[simp] theorem State.setRegs_pxyId (s : State) (c : Nat) (r : CoreRegs) : (s.setRegs c r).pxyId = s.pxyId := rfl
@[simp] theorem State.setRegs_pxyAt (s : State) (c : Nat) (r : CoreRegs) : (s.setRegs c r).pxyAt = s.pxyAt := rfl
@[simp] theorem State.setRegs_msixEn (s : State) (c : Nat) (r : CoreRegs) : (s.setRegs c r).msixEn = s.msixEn := rfl
@[simp] theorem State.setRegs_bme (s : State) (c : Nat) (r : CoreRegs) : (s.setRegs c r).bme = s.bme := rfl
@[simp] theorem State.setRegs_seq (s : State) (c : Nat) (r : CoreRegs) : (s.setRegs c r).seq = s.seq := rfl
@[simp] theorem State.setRegs_free (s : State) (c : Nat) (r : CoreRegs) : (s.setRegs c r).free = s.free := rfl
@[simp] theorem State.setRegs_out (s : State) (c : Nat) (r : CoreRegs) : (s.setRegs c r).out = s.out := rfl
@[simp] theorem State.setRegs_astat (s : State) (c : Nat) (r : CoreRegs) : (s.setRegs c r).astat = s.astat := rfl
@[simp] theorem State.setRegs_pinPend (s : State) (c : Nat) (r : CoreRegs) : (s.setRegs c r).pinPend = s.pinPend := rfl
@[simp] theorem State.setRegs_pinFrom (s : State) (c : Nat) (r : CoreRegs) : (s.setRegs c r).pinFrom = s.pinFrom := rfl
@[simp] theorem State.setRegs_pinHigh (s : State) (c : Nat) (r : CoreRegs) : (s.setRegs c r).pinHigh = s.pinHigh := rfl
@[simp] theorem State.setRegs_tbLast (s : State) (c : Nat) (r : CoreRegs) : (s.setRegs c r).tbLast = s.tbLast := rfl
@[simp] theorem State.setRegs_pinCause (s : State) (c : Nat) (r : CoreRegs) : (s.setRegs c r).pinCause = s.pinCause := rfl
@[simp] theorem State.setRegs_memHeld (s : State) (c : Nat) (r : CoreRegs) : (s.setRegs c r).memHeld = s.memHeld := rfl
@[simp] theorem State.setRegs_fnow (s : State) (c : Nat) (r : CoreRegs) : (s.setRegs c r).fnow = s.fnow := rfl
@[simp] theorem State.setRegs_lnow (s : State) (c : Nat) (r : CoreRegs) : (s.setRegs c r).lnow = s.lnow := rfl
@[simp] theorem State.setRegs_evt (s : State) (c : Nat) (r : CoreRegs) : (s.setRegs c r).evt = s.evt := rfl
@[simp] theorem State.setRegs_synEvt (s : State) (c : Nat) (r : CoreRegs) : (s.setRegs c r).synEvt = s.synEvt := rfl
@[simp] theorem State.setRegs_winNow (s : State) (c : Nat) (r : CoreRegs) : (s.setRegs c r).winNow = s.winNow := rfl
@[simp] theorem State.setRegs_claimNow (s : State) (c : Nat) (r : CoreRegs) : (s.setRegs c r).claimNow = s.claimNow := rfl
@[simp] theorem State.setRegs_canNow (s : State) (c : Nat) (r : CoreRegs) : (s.setRegs c r).canNow = s.canNow := rfl
@[simp] theorem State.setRegs_enow (s : State) (c : Nat) (r : CoreRegs) : (s.setRegs c r).enow = s.enow := rfl
@[simp] theorem State.setRegs_pinBase (s : State) (c : Nat) (r : CoreRegs) : (s.setRegs c r).pinBase = s.pinBase := rfl
@[simp] theorem State.setRegs_pendBase (s : State) (c : Nat) (r : CoreRegs) : (s.setRegs c r).pendBase = s.pendBase := rfl
@[simp] theorem State.setRegs_dlNow (s : State) (c : Nat) (r : CoreRegs) : (s.setRegs c r).dlNow = s.dlNow := rfl
@[simp] theorem State.setRegs_flash (s : State) (c : Nat) (r : CoreRegs) : (s.setRegs c r).flash = s.flash := rfl
@[simp] theorem State.setRegs_seCnt (s : State) (c : Nat) (r : CoreRegs) : (s.setRegs c r).seCnt = s.seCnt := rfl
@[simp] theorem State.setRegs_sePaired (s : State) (c : Nat) (r : CoreRegs) : (s.setRegs c r).sePaired = s.sePaired := rfl
@[simp] theorem State.setRegs_floors (s : State) (c : Nat) (r : CoreRegs) : (s.setRegs c r).floors = s.floors := rfl
@[simp] theorem State.setRegs_seed (s : State) (c : Nat) (r : CoreRegs) : (s.setRegs c r).seed = s.seed := rfl
@[simp] theorem State.setRegs_manifest (s : State) (c : Nat) (r : CoreRegs) : (s.setRegs c r).manifest = s.manifest := rfl
@[simp] theorem State.setRegs_images (s : State) (c : Nat) (r : CoreRegs) : (s.setRegs c r).images = s.images := rfl
@[simp] theorem State.setRegs_seAtBoot (s : State) (c : Nat) (r : CoreRegs) : (s.setRegs c r).seAtBoot = s.seAtBoot := rfl
@[simp] theorem State.setRegs_fbEver (s : State) (c : Nat) (r : CoreRegs) : (s.setRegs c r).fbEver = s.fbEver := rfl
@[simp] theorem State.setRegs_dbgEver (s : State) (c : Nat) (r : CoreRegs) : (s.setRegs c r).dbgEver = s.dbgEver := rfl
@[simp] theorem State.setRegs_chal (s : State) (c : Nat) (r : CoreRegs) : (s.setRegs c r).chal = s.chal := rfl
@[simp] theorem State.setRegs_mr (s : State) (c : Nat) (r : CoreRegs) : (s.setRegs c r).mr = s.mr := rfl
@[simp] theorem State.setRegs_mrCnt (s : State) (c : Nat) (r : CoreRegs) : (s.setRegs c r).mrCnt = s.mrCnt := rfl
@[simp] theorem State.setRegs_mbxAns (s : State) (c : Nat) (r : CoreRegs) : (s.setRegs c r).mbxAns = s.mbxAns := rfl
@[simp] theorem State.setRegs_regions (s : State) (c : Nat) (r : CoreRegs) : (s.setRegs c r).regions = s.regions := rfl
@[simp] theorem State.setRegs_mpLock (s : State) (c : Nat) (r : CoreRegs) : (s.setRegs c r).mpLock = s.mpLock := rfl
@[simp] theorem State.setRegs_mail (s : State) (c : Nat) (r : CoreRegs) : (s.setRegs c r).mail = s.mail := rfl
@[simp] theorem State.setRegs_mailWait (s : State) (c : Nat) (r : CoreRegs) : (s.setRegs c r).mailWait = s.mailWait := rfl
@[simp] theorem State.setRegs_restarts (s : State) (c : Nat) (r : CoreRegs) : (s.setRegs c r).restarts = s.restarts := rfl
@[simp] theorem State.setRegs_restartAt (s : State) (c : Nat) (r : CoreRegs) : (s.setRegs c r).restartAt = s.restartAt := rfl
@[simp] theorem State.setRegs_restartHold (s : State) (c : Nat) (r : CoreRegs) : (s.setRegs c r).restartHold = s.restartHold := rfl
@[simp] theorem State.setRegs_down (s : State) (c : Nat) (r : CoreRegs) : (s.setRegs c r).down = s.down := rfl
@[simp] theorem State.setRegs_cplOwed (s : State) (c : Nat) (r : CoreRegs) : (s.setRegs c r).cplOwed = s.cplOwed := rfl
@[simp] theorem State.setRegs_halted (s : State) (c : Nat) (r : CoreRegs) : (s.setRegs c r).halted = s.halted := rfl
@[simp] theorem State.setRegs_bundle (s : State) (c : Nat) (r : CoreRegs) : (s.setRegs c r).bundle = s.bundle := rfl
@[simp] theorem State.setRegs_active (s : State) (c : Nat) (r : CoreRegs) : (s.setRegs c r).active = s.active := rfl
@[simp] theorem State.setRegs_actEnd (s : State) (c : Nat) (r : CoreRegs) : (s.setRegs c r).actEnd = s.actEnd := rfl
@[simp] theorem State.setRegs_revert (s : State) (c : Nat) (r : CoreRegs) : (s.setRegs c r).revert = s.revert := rfl
@[simp] theorem State.setRegs_deferAt (s : State) (c : Nat) (r : CoreRegs) : (s.setRegs c r).deferAt = s.deferAt := rfl
@[simp] theorem State.setRegs_emgEnd (s : State) (c : Nat) (r : CoreRegs) : (s.setRegs c r).emgEnd = s.emgEnd := rfl
@[simp] theorem State.setRegs_ranSince (s : State) (c : Nat) (r : CoreRegs) : (s.setRegs c r).ranSince = s.ranSince := rfl
@[simp] theorem State.setRegs_injAt (s : State) (c : Nat) (r : CoreRegs) : (s.setRegs c r).injAt = s.injAt := rfl
@[simp] theorem State.setRegs_raiseAt (s : State) (c : Nat) (r : CoreRegs) : (s.setRegs c r).raiseAt = s.raiseAt := rfl
@[simp] theorem State.setRegs_tapOut (s : State) (c : Nat) (r : CoreRegs) : (s.setRegs c r).tapOut = s.tapOut := rfl
@[simp] theorem State.setRegs_tapPend (s : State) (c : Nat) (r : CoreRegs) : (s.setRegs c r).tapPend = s.tapPend := rfl
@[simp] theorem State.setRegs_vdd (s : State) (c : Nat) (r : CoreRegs) : (s.setRegs c r).vdd = s.vdd := rfl
@[simp] theorem State.setRegs_beatMin (s : State) (c : Nat) (r : CoreRegs) : (s.setRegs c r).beatMin = s.beatMin := rfl
@[simp] theorem State.setRegs_beatWin (s : State) (c : Nat) (r : CoreRegs) : (s.setRegs c r).beatWin = s.beatWin := rfl
@[simp] theorem State.setRegs_beatGated (s : State) (c : Nat) (r : CoreRegs) : (s.setRegs c r).beatGated = s.beatGated := rfl
@[simp] theorem State.setRegs_wake (s : State) (c : Nat) (r : CoreRegs) : (s.setRegs c r).wake = s.wake := rfl
@[simp] theorem State.setRegs_wakeKind (s : State) (c : Nat) (r : CoreRegs) : (s.setRegs c r).wakeKind = s.wakeKind := rfl
@[simp] theorem State.setRegs_standby (s : State) (c : Nat) (r : CoreRegs) : (s.setRegs c r).standby = s.standby := rfl
@[simp] theorem State.setRegs_gateAt (s : State) (c : Nat) (r : CoreRegs) : (s.setRegs c r).gateAt = s.gateAt := rfl
@[simp] theorem State.setRegs_heldWake (s : State) (c : Nat) (r : CoreRegs) : (s.setRegs c r).heldWake = s.heldWake := rfl
@[simp] theorem State.setRegs_wakeSig (s : State) (c : Nat) (r : CoreRegs) : (s.setRegs c r).wakeSig = s.wakeSig := rfl
@[simp] theorem State.setRegs_entryAt (s : State) (c : Nat) (r : CoreRegs) : (s.setRegs c r).entryAt = s.entryAt := rfl
@[simp] theorem State.setRegs_thHot (s : State) (c : Nat) (r : CoreRegs) : (s.setRegs c r).thHot = s.thHot := rfl
@[simp] theorem State.setRegs_thCool (s : State) (c : Nat) (r : CoreRegs) : (s.setRegs c r).thCool = s.thCool := rfl
@[simp] theorem State.setRegs_thTop (s : State) (c : Nat) (r : CoreRegs) : (s.setRegs c r).thTop = s.thTop := rfl
@[simp] theorem State.setRegs_thStep (s : State) (c : Nat) (r : CoreRegs) : (s.setRegs c r).thStep = s.thStep := rfl
@[simp] theorem State.setRegs_heldPads (s : State) (c : Nat) (r : CoreRegs) : (s.setRegs c r).heldPads = s.heldPads := rfl

/-! ## setFerry -/

@[simp] theorem State.setFerry_pending (s : State) (f : Nat) (k : Ferry) : (s.setFerry f k).pending = s.pending := rfl
@[simp] theorem State.setFerry_readData (s : State) (f : Nat) (k : Ferry) : (s.setFerry f k).readData = s.readData := rfl
@[simp] theorem State.setFerry_readOk (s : State) (f : Nat) (k : Ferry) : (s.setFerry f k).readOk = s.readOk := rfl
@[simp] theorem State.setFerry_regs (s : State) (f : Nat) (k : Ferry) : (s.setFerry f k).regs = s.regs := rfl
@[simp] theorem State.setFerry_cores (s : State) (f : Nat) (k : Ferry) : (s.setFerry f k).cores = s.cores := rfl
@[simp] theorem State.setFerry_ferries (s : State) (f : Nat) (k : Ferry) : (s.setFerry f k).ferries = tabPut s.ferries f k := rfl
@[simp] theorem State.setFerry_mem (s : State) (f : Nat) (k : Ferry) : (s.setFerry f k).mem = s.mem := rfl
@[simp] theorem State.setFerry_bar4q (s : State) (f : Nat) (k : Ferry) : (s.setFerry f k).bar4q = s.bar4q := rfl
@[simp] theorem State.setFerry_lpUe (s : State) (f : Nat) (k : Ferry) : (s.setFerry f k).lpUe = s.lpUe := rfl
@[simp] theorem State.setFerry_lpCe (s : State) (f : Nat) (k : Ferry) : (s.setFerry f k).lpCe = s.lpCe := rfl
@[simp] theorem State.setFerry_hbrUe (s : State) (f : Nat) (k : Ferry) : (s.setFerry f k).hbrUe = s.hbrUe := rfl
@[simp] theorem State.setFerry_hbrCe (s : State) (f : Nat) (k : Ferry) : (s.setFerry f k).hbrCe = s.hbrCe := rfl
@[simp] theorem State.setFerry_queues (s : State) (f : Nat) (k : Ferry) : (s.setFerry f k).queues = s.queues := rfl
@[simp] theorem State.setFerry_flush (s : State) (f : Nat) (k : Ferry) : (s.setFerry f k).flush = s.flush := rfl
@[simp] theorem State.setFerry_saved (s : State) (f : Nat) (k : Ferry) : (s.setFerry f k).saved = s.saved := rfl
@[simp] theorem State.setFerry_gangRes (s : State) (f : Nat) (k : Ferry) : (s.setFerry f k).gangRes = s.gangRes := rfl
@[simp] theorem State.setFerry_islGen (s : State) (f : Nat) (k : Ferry) : (s.setFerry f k).islGen = s.islGen := rfl
@[simp] theorem State.setFerry_drr (s : State) (f : Nat) (k : Ferry) : (s.setFerry f k).drr = s.drr := rfl
@[simp] theorem State.setFerry_drrCur (s : State) (f : Nat) (k : Ferry) : (s.setFerry f k).drrCur = s.drrCur := rfl
@[simp] theorem State.setFerry_thrBudget (s : State) (f : Nat) (k : Ferry) : (s.setFerry f k).thrBudget = s.thrBudget := rfl
@[simp] theorem State.setFerry_thrRot (s : State) (f : Nat) (k : Ferry) : (s.setFerry f k).thrRot = s.thrRot := rfl
@[simp] theorem State.setFerry_thrStart (s : State) (f : Nat) (k : Ferry) : (s.setFerry f k).thrStart = s.thrStart := rfl
@[simp] theorem State.setFerry_thrAt (s : State) (f : Nat) (k : Ferry) : (s.setFerry f k).thrAt = s.thrAt := rfl
@[simp] theorem State.setFerry_kv (s : State) (f : Nat) (k : Ferry) : (s.setFerry f k).kv = s.kv := rfl
@[simp] theorem State.setFerry_live (s : State) (f : Nat) (k : Ferry) : (s.setFerry f k).live = s.live := rfl
@[simp] theorem State.setFerry_jobs (s : State) (f : Nat) (k : Ferry) : (s.setFerry f k).jobs = s.jobs := rfl
@[simp] theorem State.setFerry_jobLast (s : State) (f : Nat) (k : Ferry) : (s.setFerry f k).jobLast = s.jobLast := rfl
@[simp] theorem State.setFerry_tlb (s : State) (f : Nat) (k : Ferry) : (s.setFerry f k).tlb = s.tlb := rfl
@[simp] theorem State.setFerry_invq (s : State) (f : Nat) (k : Ferry) : (s.setFerry f k).invq = s.invq := rfl
@[simp] theorem State.setFerry_xtsKeys (s : State) (f : Nat) (k : Ferry) : (s.setFerry f k).xtsKeys = s.xtsKeys := rfl
@[simp] theorem State.setFerry_granOwner (s : State) (f : Nat) (k : Ferry) : (s.setFerry f k).granOwner = s.granOwner := rfl
@[simp] theorem State.setFerry_faults (s : State) (f : Nat) (k : Ferry) : (s.setFerry f k).faults = s.faults := rfl
@[simp] theorem State.setFerry_frecs (s : State) (f : Nat) (k : Ferry) : (s.setFerry f k).frecs = s.frecs := rfl
@[simp] theorem State.setFerry_fid (s : State) (f : Nat) (k : Ferry) : (s.setFerry f k).fid = s.fid := rfl
@[simp] theorem State.setFerry_patrolAt (s : State) (f : Nat) (k : Ferry) : (s.setFerry f k).patrolAt = s.patrolAt := rfl
@[simp] theorem State.setFerry_initDone (s : State) (f : Nat) (k : Ferry) : (s.setFerry f k).initDone = s.initDone := rfl
@[simp] theorem State.setFerry_dl (s : State) (f : Nat) (k : Ferry) : (s.setFerry f k).dl = s.dl := rfl
@[simp] theorem State.setFerry_dlOnce (s : State) (f : Nat) (k : Ferry) : (s.setFerry f k).dlOnce = s.dlOnce := rfl
@[simp] theorem State.setFerry_lockstep (s : State) (f : Nat) (k : Ferry) : (s.setFerry f k).lockstep = s.lockstep := rfl
@[simp] theorem State.setFerry_frameMs (s : State) (f : Nat) (k : Ferry) : (s.setFerry f k).frameMs = s.frameMs := rfl
@[simp] theorem State.setFerry_frameStart (s : State) (f : Nat) (k : Ferry) : (s.setFerry f k).frameStart = s.frameStart := rfl
@[simp] theorem State.setFerry_frameNo (s : State) (f : Nat) (k : Ferry) : (s.setFerry f k).frameNo = s.frameNo := rfl
@[simp] theorem State.setFerry_bcnDone (s : State) (f : Nat) (k : Ferry) : (s.setFerry f k).bcnDone = s.bcnDone := rfl
@[simp] theorem State.setFerry_bcnSeen (s : State) (f : Nat) (k : Ferry) : (s.setFerry f k).bcnSeen = s.bcnSeen := rfl
@[simp] theorem State.setFerry_mmHist (s : State) (f : Nat) (k : Ferry) : (s.setFerry f k).mmHist = s.mmHist := rfl
@[simp] theorem State.setFerry_tbS (s : State) (f : Nat) (k : Ferry) : (s.setFerry f k).tbS = s.tbS := rfl
@[simp] theorem State.setFerry_tbNs (s : State) (f : Nat) (k : Ferry) : (s.setFerry f k).tbNs = s.tbNs := rfl
@[simp] theorem State.setFerry_tbFrac (s : State) (f : Nat) (k : Ferry) : (s.setFerry f k).tbFrac = s.tbFrac := rfl
@[simp] theorem State.setFerry_tbJump (s : State) (f : Nat) (k : Ferry) : (s.setFerry f k).tbJump = s.tbJump := rfl
@[simp] theorem State.setFerry_hbAt (s : State) (f : Nat) (k : Ferry) : (s.setFerry f k).hbAt = s.hbAt := rfl
@[simp] theorem State.setFerry_hbOld (s : State) (f : Nat) (k : Ferry) : (s.setFerry f k).hbOld = s.hbOld := rfl
@[simp] theorem State.setFerry_lossDue (s : State) (f : Nat) (k : Ferry) : (s.setFerry f k).lossDue = s.lossDue := rfl
@[simp] theorem State.setFerry_vfDue (s : State) (f : Nat) (k : Ferry) : (s.setFerry f k).vfDue = s.vfDue := rfl
@[simp] theorem State.setFerry_cyc (s : State) (f : Nat) (k : Ferry) : (s.setFerry f k).cyc = s.cyc := rfl
@[simp] theorem State.setFerry_tbOps (s : State) (f : Nat) (k : Ferry) : (s.setFerry f k).tbOps = s.tbOps := rfl
@[simp] theorem State.setFerry_tbPast (s : State) (f : Nat) (k : Ferry) : (s.setFerry f k).tbPast = s.tbPast := rfl
@[simp] theorem State.setFerry_timArm (s : State) (f : Nat) (k : Ferry) : (s.setFerry f k).timArm = s.timArm := rfl
@[simp] theorem State.setFerry_timLatch (s : State) (f : Nat) (k : Ferry) : (s.setFerry f k).timLatch = s.timLatch := rfl
@[simp] theorem State.setFerry_capUnread (s : State) (f : Nat) (k : Ferry) : (s.setFerry f k).capUnread = s.capUnread := rfl
@[simp] theorem State.setFerry_trigEnd (s : State) (f : Nat) (k : Ferry) : (s.setFerry f k).trigEnd = s.trigEnd := rfl
@[simp] theorem State.setFerry_trigPast (s : State) (f : Nat) (k : Ferry) : (s.setFerry f k).trigPast = s.trigPast := rfl
@[simp] theorem State.setFerry_claims (s : State) (f : Nat) (k : Ferry) : (s.setFerry f k).claims = s.claims := rfl
@[simp] theorem State.setFerry_tdl (s : State) (f : Nat) (k : Ferry) : (s.setFerry f k).tdl = s.tdl := rfl
@[simp] theorem State.setFerry_tdlDirty (s : State) (f : Nat) (k : Ferry) : (s.setFerry f k).tdlDirty = s.tdlDirty := rfl
@[simp] theorem State.setFerry_tdlStart (s : State) (f : Nat) (k : Ferry) : (s.setFerry f k).tdlStart = s.tdlStart := rfl
@[simp] theorem State.setFerry_tdlNext (s : State) (f : Nat) (k : Ferry) : (s.setFerry f k).tdlNext = s.tdlNext := rfl
@[simp] theorem State.setFerry_drops (s : State) (f : Nat) (k : Ferry) : (s.setFerry f k).drops = s.drops := rfl
@[simp] theorem State.setFerry_dropRing (s : State) (f : Nat) (k : Ferry) : (s.setFerry f k).dropRing = s.dropRing := rfl
@[simp] theorem State.setFerry_spiRead (s : State) (f : Nat) (k : Ferry) : (s.setFerry f k).spiRead = s.spiRead := rfl
@[simp] theorem State.setFerry_spiBusy (s : State) (f : Nat) (k : Ferry) : (s.setFerry f k).spiBusy = s.spiBusy := rfl
@[simp] theorem State.setFerry_tdlDue (s : State) (f : Nat) (k : Ferry) : (s.setFerry f k).tdlDue = s.tdlDue := rfl
@[simp] theorem State.setFerry_pwm (s : State) (f : Nat) (k : Ferry) : (s.setFerry f k).pwm = s.pwm := rfl
@[simp] theorem State.setFerry_capDec (s : State) (f : Nat) (k : Ferry) : (s.setFerry f k).capDec = s.capDec := rfl
@[simp] theorem State.setFerry_canRx (s : State) (f : Nat) (k : Ferry) : (s.setFerry f k).canRx = s.canRx := rfl
@[simp] theorem State.setFerry_canOld (s : State) (f : Nat) (k : Ferry) : (s.setFerry f k).canOld = s.canOld := rfl
@[simp] theorem State.setFerry_canNew (s : State) (f : Nat) (k : Ferry) : (s.setFerry f k).canNew = s.canNew := rfl
@[simp] theorem State.setFerry_canLatch (s : State) (f : Nat) (k : Ferry) : (s.setFerry f k).canLatch = s.canLatch := rfl
@[simp] theorem State.setFerry_canQ (s : State) (f : Nat) (k : Ferry) : (s.setFerry f k).canQ = s.canQ := rfl
@[simp] theorem State.setFerry_canTx (s : State) (f : Nat) (k : Ferry) : (s.setFerry f k).canTx = s.canTx := rfl
@[simp] theorem State.setFerry_ethRx (s : State) (f : Nat) (k : Ferry) : (s.setFerry f k).ethRx = s.ethRx := rfl
@[simp] theorem State.setFerry_helloAt (s : State) (f : Nat) (k : Ferry) : (s.setFerry f k).helloAt = s.helloAt := rfl
@[simp] theorem State.setFerry_helloSent (s : State) (f : Nat) (k : Ferry) : (s.setFerry f k).helloSent = s.helloSent := rfl
@[simp] theorem State.setFerry_cwRx (s : State) (f : Nat) (k : Ferry) : (s.setFerry f k).cwRx = s.cwRx := rfl
@[simp] theorem State.setFerry_cwTx (s : State) (f : Nat) (k : Ferry) : (s.setFerry f k).cwTx = s.cwTx := rfl
@[simp] theorem State.setFerry_cwPath (s : State) (f : Nat) (k : Ferry) : (s.setFerry f k).cwPath = s.cwPath := rfl
@[simp] theorem State.setFerry_cwCorr (s : State) (f : Nat) (k : Ferry) : (s.setFerry f k).cwCorr = s.cwCorr := rfl
@[simp] theorem State.setFerry_ptpRx (s : State) (f : Nat) (k : Ferry) : (s.setFerry f k).ptpRx = s.ptpRx := rfl
@[simp] theorem State.setFerry_pxyId (s : State) (f : Nat) (k : Ferry) : (s.setFerry f k).pxyId = s.pxyId := rfl
@[simp] theorem State.setFerry_pxyAt (s : State) (f : Nat) (k : Ferry) : (s.setFerry f k).pxyAt = s.pxyAt := rfl
@[simp] theorem State.setFerry_msixEn (s : State) (f : Nat) (k : Ferry) : (s.setFerry f k).msixEn = s.msixEn := rfl
@[simp] theorem State.setFerry_bme (s : State) (f : Nat) (k : Ferry) : (s.setFerry f k).bme = s.bme := rfl
@[simp] theorem State.setFerry_seq (s : State) (f : Nat) (k : Ferry) : (s.setFerry f k).seq = s.seq := rfl
@[simp] theorem State.setFerry_free (s : State) (f : Nat) (k : Ferry) : (s.setFerry f k).free = s.free := rfl
@[simp] theorem State.setFerry_out (s : State) (f : Nat) (k : Ferry) : (s.setFerry f k).out = s.out := rfl
@[simp] theorem State.setFerry_astat (s : State) (f : Nat) (k : Ferry) : (s.setFerry f k).astat = s.astat := rfl
@[simp] theorem State.setFerry_pinPend (s : State) (f : Nat) (k : Ferry) : (s.setFerry f k).pinPend = s.pinPend := rfl
@[simp] theorem State.setFerry_pinFrom (s : State) (f : Nat) (k : Ferry) : (s.setFerry f k).pinFrom = s.pinFrom := rfl
@[simp] theorem State.setFerry_pinHigh (s : State) (f : Nat) (k : Ferry) : (s.setFerry f k).pinHigh = s.pinHigh := rfl
@[simp] theorem State.setFerry_tbLast (s : State) (f : Nat) (k : Ferry) : (s.setFerry f k).tbLast = s.tbLast := rfl
@[simp] theorem State.setFerry_pinCause (s : State) (f : Nat) (k : Ferry) : (s.setFerry f k).pinCause = s.pinCause := rfl
@[simp] theorem State.setFerry_memHeld (s : State) (f : Nat) (k : Ferry) : (s.setFerry f k).memHeld = s.memHeld := rfl
@[simp] theorem State.setFerry_fnow (s : State) (f : Nat) (k : Ferry) : (s.setFerry f k).fnow = s.fnow := rfl
@[simp] theorem State.setFerry_lnow (s : State) (f : Nat) (k : Ferry) : (s.setFerry f k).lnow = s.lnow := rfl
@[simp] theorem State.setFerry_evt (s : State) (f : Nat) (k : Ferry) : (s.setFerry f k).evt = s.evt := rfl
@[simp] theorem State.setFerry_synEvt (s : State) (f : Nat) (k : Ferry) : (s.setFerry f k).synEvt = s.synEvt := rfl
@[simp] theorem State.setFerry_winNow (s : State) (f : Nat) (k : Ferry) : (s.setFerry f k).winNow = s.winNow := rfl
@[simp] theorem State.setFerry_claimNow (s : State) (f : Nat) (k : Ferry) : (s.setFerry f k).claimNow = s.claimNow := rfl
@[simp] theorem State.setFerry_canNow (s : State) (f : Nat) (k : Ferry) : (s.setFerry f k).canNow = s.canNow := rfl
@[simp] theorem State.setFerry_enow (s : State) (f : Nat) (k : Ferry) : (s.setFerry f k).enow = s.enow := rfl
@[simp] theorem State.setFerry_pinBase (s : State) (f : Nat) (k : Ferry) : (s.setFerry f k).pinBase = s.pinBase := rfl
@[simp] theorem State.setFerry_pendBase (s : State) (f : Nat) (k : Ferry) : (s.setFerry f k).pendBase = s.pendBase := rfl
@[simp] theorem State.setFerry_dlNow (s : State) (f : Nat) (k : Ferry) : (s.setFerry f k).dlNow = s.dlNow := rfl
@[simp] theorem State.setFerry_flash (s : State) (f : Nat) (k : Ferry) : (s.setFerry f k).flash = s.flash := rfl
@[simp] theorem State.setFerry_seCnt (s : State) (f : Nat) (k : Ferry) : (s.setFerry f k).seCnt = s.seCnt := rfl
@[simp] theorem State.setFerry_sePaired (s : State) (f : Nat) (k : Ferry) : (s.setFerry f k).sePaired = s.sePaired := rfl
@[simp] theorem State.setFerry_floors (s : State) (f : Nat) (k : Ferry) : (s.setFerry f k).floors = s.floors := rfl
@[simp] theorem State.setFerry_seed (s : State) (f : Nat) (k : Ferry) : (s.setFerry f k).seed = s.seed := rfl
@[simp] theorem State.setFerry_manifest (s : State) (f : Nat) (k : Ferry) : (s.setFerry f k).manifest = s.manifest := rfl
@[simp] theorem State.setFerry_images (s : State) (f : Nat) (k : Ferry) : (s.setFerry f k).images = s.images := rfl
@[simp] theorem State.setFerry_seAtBoot (s : State) (f : Nat) (k : Ferry) : (s.setFerry f k).seAtBoot = s.seAtBoot := rfl
@[simp] theorem State.setFerry_fbEver (s : State) (f : Nat) (k : Ferry) : (s.setFerry f k).fbEver = s.fbEver := rfl
@[simp] theorem State.setFerry_dbgEver (s : State) (f : Nat) (k : Ferry) : (s.setFerry f k).dbgEver = s.dbgEver := rfl
@[simp] theorem State.setFerry_chal (s : State) (f : Nat) (k : Ferry) : (s.setFerry f k).chal = s.chal := rfl
@[simp] theorem State.setFerry_mr (s : State) (f : Nat) (k : Ferry) : (s.setFerry f k).mr = s.mr := rfl
@[simp] theorem State.setFerry_mrCnt (s : State) (f : Nat) (k : Ferry) : (s.setFerry f k).mrCnt = s.mrCnt := rfl
@[simp] theorem State.setFerry_mbxAns (s : State) (f : Nat) (k : Ferry) : (s.setFerry f k).mbxAns = s.mbxAns := rfl
@[simp] theorem State.setFerry_regions (s : State) (f : Nat) (k : Ferry) : (s.setFerry f k).regions = s.regions := rfl
@[simp] theorem State.setFerry_mpLock (s : State) (f : Nat) (k : Ferry) : (s.setFerry f k).mpLock = s.mpLock := rfl
@[simp] theorem State.setFerry_mail (s : State) (f : Nat) (k : Ferry) : (s.setFerry f k).mail = s.mail := rfl
@[simp] theorem State.setFerry_mailWait (s : State) (f : Nat) (k : Ferry) : (s.setFerry f k).mailWait = s.mailWait := rfl
@[simp] theorem State.setFerry_restarts (s : State) (f : Nat) (k : Ferry) : (s.setFerry f k).restarts = s.restarts := rfl
@[simp] theorem State.setFerry_restartAt (s : State) (f : Nat) (k : Ferry) : (s.setFerry f k).restartAt = s.restartAt := rfl
@[simp] theorem State.setFerry_restartHold (s : State) (f : Nat) (k : Ferry) : (s.setFerry f k).restartHold = s.restartHold := rfl
@[simp] theorem State.setFerry_down (s : State) (f : Nat) (k : Ferry) : (s.setFerry f k).down = s.down := rfl
@[simp] theorem State.setFerry_cplOwed (s : State) (f : Nat) (k : Ferry) : (s.setFerry f k).cplOwed = s.cplOwed := rfl
@[simp] theorem State.setFerry_halted (s : State) (f : Nat) (k : Ferry) : (s.setFerry f k).halted = s.halted := rfl
@[simp] theorem State.setFerry_bundle (s : State) (f : Nat) (k : Ferry) : (s.setFerry f k).bundle = s.bundle := rfl
@[simp] theorem State.setFerry_active (s : State) (f : Nat) (k : Ferry) : (s.setFerry f k).active = s.active := rfl
@[simp] theorem State.setFerry_actEnd (s : State) (f : Nat) (k : Ferry) : (s.setFerry f k).actEnd = s.actEnd := rfl
@[simp] theorem State.setFerry_revert (s : State) (f : Nat) (k : Ferry) : (s.setFerry f k).revert = s.revert := rfl
@[simp] theorem State.setFerry_deferAt (s : State) (f : Nat) (k : Ferry) : (s.setFerry f k).deferAt = s.deferAt := rfl
@[simp] theorem State.setFerry_emgEnd (s : State) (f : Nat) (k : Ferry) : (s.setFerry f k).emgEnd = s.emgEnd := rfl
@[simp] theorem State.setFerry_ranSince (s : State) (f : Nat) (k : Ferry) : (s.setFerry f k).ranSince = s.ranSince := rfl
@[simp] theorem State.setFerry_injAt (s : State) (f : Nat) (k : Ferry) : (s.setFerry f k).injAt = s.injAt := rfl
@[simp] theorem State.setFerry_raiseAt (s : State) (f : Nat) (k : Ferry) : (s.setFerry f k).raiseAt = s.raiseAt := rfl
@[simp] theorem State.setFerry_tapOut (s : State) (f : Nat) (k : Ferry) : (s.setFerry f k).tapOut = s.tapOut := rfl
@[simp] theorem State.setFerry_tapPend (s : State) (f : Nat) (k : Ferry) : (s.setFerry f k).tapPend = s.tapPend := rfl
@[simp] theorem State.setFerry_vdd (s : State) (f : Nat) (k : Ferry) : (s.setFerry f k).vdd = s.vdd := rfl
@[simp] theorem State.setFerry_beatMin (s : State) (f : Nat) (k : Ferry) : (s.setFerry f k).beatMin = s.beatMin := rfl
@[simp] theorem State.setFerry_beatWin (s : State) (f : Nat) (k : Ferry) : (s.setFerry f k).beatWin = s.beatWin := rfl
@[simp] theorem State.setFerry_beatGated (s : State) (f : Nat) (k : Ferry) : (s.setFerry f k).beatGated = s.beatGated := rfl
@[simp] theorem State.setFerry_wake (s : State) (f : Nat) (k : Ferry) : (s.setFerry f k).wake = s.wake := rfl
@[simp] theorem State.setFerry_wakeKind (s : State) (f : Nat) (k : Ferry) : (s.setFerry f k).wakeKind = s.wakeKind := rfl
@[simp] theorem State.setFerry_standby (s : State) (f : Nat) (k : Ferry) : (s.setFerry f k).standby = s.standby := rfl
@[simp] theorem State.setFerry_gateAt (s : State) (f : Nat) (k : Ferry) : (s.setFerry f k).gateAt = s.gateAt := rfl
@[simp] theorem State.setFerry_heldWake (s : State) (f : Nat) (k : Ferry) : (s.setFerry f k).heldWake = s.heldWake := rfl
@[simp] theorem State.setFerry_wakeSig (s : State) (f : Nat) (k : Ferry) : (s.setFerry f k).wakeSig = s.wakeSig := rfl
@[simp] theorem State.setFerry_entryAt (s : State) (f : Nat) (k : Ferry) : (s.setFerry f k).entryAt = s.entryAt := rfl
@[simp] theorem State.setFerry_thHot (s : State) (f : Nat) (k : Ferry) : (s.setFerry f k).thHot = s.thHot := rfl
@[simp] theorem State.setFerry_thCool (s : State) (f : Nat) (k : Ferry) : (s.setFerry f k).thCool = s.thCool := rfl
@[simp] theorem State.setFerry_thTop (s : State) (f : Nat) (k : Ferry) : (s.setFerry f k).thTop = s.thTop := rfl
@[simp] theorem State.setFerry_thStep (s : State) (f : Nat) (k : Ferry) : (s.setFerry f k).thStep = s.thStep := rfl
@[simp] theorem State.setFerry_heldPads (s : State) (f : Nat) (k : Ferry) : (s.setFerry f k).heldPads = s.heldPads := rfl

/-! ## bumpSat -/

@[simp] theorem State.bumpSat_pending (s : State) (off hi lo : Nat) : (s.bumpSat off hi lo).pending = s.pending := rfl
@[simp] theorem State.bumpSat_readData (s : State) (off hi lo : Nat) : (s.bumpSat off hi lo).readData = s.readData := rfl
@[simp] theorem State.bumpSat_readOk (s : State) (off hi lo : Nat) : (s.bumpSat off hi lo).readOk = s.readOk := rfl
@[simp] theorem State.bumpSat_cores (s : State) (off hi lo : Nat) : (s.bumpSat off hi lo).cores = s.cores := rfl
@[simp] theorem State.bumpSat_ferries (s : State) (off hi lo : Nat) : (s.bumpSat off hi lo).ferries = s.ferries := rfl
@[simp] theorem State.bumpSat_mem (s : State) (off hi lo : Nat) : (s.bumpSat off hi lo).mem = s.mem := rfl
@[simp] theorem State.bumpSat_bar4q (s : State) (off hi lo : Nat) : (s.bumpSat off hi lo).bar4q = s.bar4q := rfl
@[simp] theorem State.bumpSat_lpUe (s : State) (off hi lo : Nat) : (s.bumpSat off hi lo).lpUe = s.lpUe := rfl
@[simp] theorem State.bumpSat_lpCe (s : State) (off hi lo : Nat) : (s.bumpSat off hi lo).lpCe = s.lpCe := rfl
@[simp] theorem State.bumpSat_hbrUe (s : State) (off hi lo : Nat) : (s.bumpSat off hi lo).hbrUe = s.hbrUe := rfl
@[simp] theorem State.bumpSat_hbrCe (s : State) (off hi lo : Nat) : (s.bumpSat off hi lo).hbrCe = s.hbrCe := rfl
@[simp] theorem State.bumpSat_queues (s : State) (off hi lo : Nat) : (s.bumpSat off hi lo).queues = s.queues := rfl
@[simp] theorem State.bumpSat_flush (s : State) (off hi lo : Nat) : (s.bumpSat off hi lo).flush = s.flush := rfl
@[simp] theorem State.bumpSat_saved (s : State) (off hi lo : Nat) : (s.bumpSat off hi lo).saved = s.saved := rfl
@[simp] theorem State.bumpSat_gangRes (s : State) (off hi lo : Nat) : (s.bumpSat off hi lo).gangRes = s.gangRes := rfl
@[simp] theorem State.bumpSat_islGen (s : State) (off hi lo : Nat) : (s.bumpSat off hi lo).islGen = s.islGen := rfl
@[simp] theorem State.bumpSat_drr (s : State) (off hi lo : Nat) : (s.bumpSat off hi lo).drr = s.drr := rfl
@[simp] theorem State.bumpSat_drrCur (s : State) (off hi lo : Nat) : (s.bumpSat off hi lo).drrCur = s.drrCur := rfl
@[simp] theorem State.bumpSat_thrBudget (s : State) (off hi lo : Nat) : (s.bumpSat off hi lo).thrBudget = s.thrBudget := rfl
@[simp] theorem State.bumpSat_thrRot (s : State) (off hi lo : Nat) : (s.bumpSat off hi lo).thrRot = s.thrRot := rfl
@[simp] theorem State.bumpSat_thrStart (s : State) (off hi lo : Nat) : (s.bumpSat off hi lo).thrStart = s.thrStart := rfl
@[simp] theorem State.bumpSat_thrAt (s : State) (off hi lo : Nat) : (s.bumpSat off hi lo).thrAt = s.thrAt := rfl
@[simp] theorem State.bumpSat_kv (s : State) (off hi lo : Nat) : (s.bumpSat off hi lo).kv = s.kv := rfl
@[simp] theorem State.bumpSat_live (s : State) (off hi lo : Nat) : (s.bumpSat off hi lo).live = s.live := rfl
@[simp] theorem State.bumpSat_jobs (s : State) (off hi lo : Nat) : (s.bumpSat off hi lo).jobs = s.jobs := rfl
@[simp] theorem State.bumpSat_jobLast (s : State) (off hi lo : Nat) : (s.bumpSat off hi lo).jobLast = s.jobLast := rfl
@[simp] theorem State.bumpSat_tlb (s : State) (off hi lo : Nat) : (s.bumpSat off hi lo).tlb = s.tlb := rfl
@[simp] theorem State.bumpSat_invq (s : State) (off hi lo : Nat) : (s.bumpSat off hi lo).invq = s.invq := rfl
@[simp] theorem State.bumpSat_xtsKeys (s : State) (off hi lo : Nat) : (s.bumpSat off hi lo).xtsKeys = s.xtsKeys := rfl
@[simp] theorem State.bumpSat_granOwner (s : State) (off hi lo : Nat) : (s.bumpSat off hi lo).granOwner = s.granOwner := rfl
@[simp] theorem State.bumpSat_faults (s : State) (off hi lo : Nat) : (s.bumpSat off hi lo).faults = s.faults := rfl
@[simp] theorem State.bumpSat_frecs (s : State) (off hi lo : Nat) : (s.bumpSat off hi lo).frecs = s.frecs := rfl
@[simp] theorem State.bumpSat_fid (s : State) (off hi lo : Nat) : (s.bumpSat off hi lo).fid = s.fid := rfl
@[simp] theorem State.bumpSat_patrolAt (s : State) (off hi lo : Nat) : (s.bumpSat off hi lo).patrolAt = s.patrolAt := rfl
@[simp] theorem State.bumpSat_initDone (s : State) (off hi lo : Nat) : (s.bumpSat off hi lo).initDone = s.initDone := rfl
@[simp] theorem State.bumpSat_dl (s : State) (off hi lo : Nat) : (s.bumpSat off hi lo).dl = s.dl := rfl
@[simp] theorem State.bumpSat_dlOnce (s : State) (off hi lo : Nat) : (s.bumpSat off hi lo).dlOnce = s.dlOnce := rfl
@[simp] theorem State.bumpSat_lockstep (s : State) (off hi lo : Nat) : (s.bumpSat off hi lo).lockstep = s.lockstep := rfl
@[simp] theorem State.bumpSat_frameMs (s : State) (off hi lo : Nat) : (s.bumpSat off hi lo).frameMs = s.frameMs := rfl
@[simp] theorem State.bumpSat_frameStart (s : State) (off hi lo : Nat) : (s.bumpSat off hi lo).frameStart = s.frameStart := rfl
@[simp] theorem State.bumpSat_frameNo (s : State) (off hi lo : Nat) : (s.bumpSat off hi lo).frameNo = s.frameNo := rfl
@[simp] theorem State.bumpSat_bcnDone (s : State) (off hi lo : Nat) : (s.bumpSat off hi lo).bcnDone = s.bcnDone := rfl
@[simp] theorem State.bumpSat_bcnSeen (s : State) (off hi lo : Nat) : (s.bumpSat off hi lo).bcnSeen = s.bcnSeen := rfl
@[simp] theorem State.bumpSat_mmHist (s : State) (off hi lo : Nat) : (s.bumpSat off hi lo).mmHist = s.mmHist := rfl
@[simp] theorem State.bumpSat_tbS (s : State) (off hi lo : Nat) : (s.bumpSat off hi lo).tbS = s.tbS := rfl
@[simp] theorem State.bumpSat_tbNs (s : State) (off hi lo : Nat) : (s.bumpSat off hi lo).tbNs = s.tbNs := rfl
@[simp] theorem State.bumpSat_tbFrac (s : State) (off hi lo : Nat) : (s.bumpSat off hi lo).tbFrac = s.tbFrac := rfl
@[simp] theorem State.bumpSat_tbJump (s : State) (off hi lo : Nat) : (s.bumpSat off hi lo).tbJump = s.tbJump := rfl
@[simp] theorem State.bumpSat_hbAt (s : State) (off hi lo : Nat) : (s.bumpSat off hi lo).hbAt = s.hbAt := rfl
@[simp] theorem State.bumpSat_hbOld (s : State) (off hi lo : Nat) : (s.bumpSat off hi lo).hbOld = s.hbOld := rfl
@[simp] theorem State.bumpSat_lossDue (s : State) (off hi lo : Nat) : (s.bumpSat off hi lo).lossDue = s.lossDue := rfl
@[simp] theorem State.bumpSat_vfDue (s : State) (off hi lo : Nat) : (s.bumpSat off hi lo).vfDue = s.vfDue := rfl
@[simp] theorem State.bumpSat_cyc (s : State) (off hi lo : Nat) : (s.bumpSat off hi lo).cyc = s.cyc := rfl
@[simp] theorem State.bumpSat_tbOps (s : State) (off hi lo : Nat) : (s.bumpSat off hi lo).tbOps = s.tbOps := rfl
@[simp] theorem State.bumpSat_tbPast (s : State) (off hi lo : Nat) : (s.bumpSat off hi lo).tbPast = s.tbPast := rfl
@[simp] theorem State.bumpSat_timArm (s : State) (off hi lo : Nat) : (s.bumpSat off hi lo).timArm = s.timArm := rfl
@[simp] theorem State.bumpSat_timLatch (s : State) (off hi lo : Nat) : (s.bumpSat off hi lo).timLatch = s.timLatch := rfl
@[simp] theorem State.bumpSat_capUnread (s : State) (off hi lo : Nat) : (s.bumpSat off hi lo).capUnread = s.capUnread := rfl
@[simp] theorem State.bumpSat_trigEnd (s : State) (off hi lo : Nat) : (s.bumpSat off hi lo).trigEnd = s.trigEnd := rfl
@[simp] theorem State.bumpSat_trigPast (s : State) (off hi lo : Nat) : (s.bumpSat off hi lo).trigPast = s.trigPast := rfl
@[simp] theorem State.bumpSat_claims (s : State) (off hi lo : Nat) : (s.bumpSat off hi lo).claims = s.claims := rfl
@[simp] theorem State.bumpSat_tdl (s : State) (off hi lo : Nat) : (s.bumpSat off hi lo).tdl = s.tdl := rfl
@[simp] theorem State.bumpSat_tdlDirty (s : State) (off hi lo : Nat) : (s.bumpSat off hi lo).tdlDirty = s.tdlDirty := rfl
@[simp] theorem State.bumpSat_tdlStart (s : State) (off hi lo : Nat) : (s.bumpSat off hi lo).tdlStart = s.tdlStart := rfl
@[simp] theorem State.bumpSat_tdlNext (s : State) (off hi lo : Nat) : (s.bumpSat off hi lo).tdlNext = s.tdlNext := rfl
@[simp] theorem State.bumpSat_drops (s : State) (off hi lo : Nat) : (s.bumpSat off hi lo).drops = s.drops := rfl
@[simp] theorem State.bumpSat_dropRing (s : State) (off hi lo : Nat) : (s.bumpSat off hi lo).dropRing = s.dropRing := rfl
@[simp] theorem State.bumpSat_spiRead (s : State) (off hi lo : Nat) : (s.bumpSat off hi lo).spiRead = s.spiRead := rfl
@[simp] theorem State.bumpSat_spiBusy (s : State) (off hi lo : Nat) : (s.bumpSat off hi lo).spiBusy = s.spiBusy := rfl
@[simp] theorem State.bumpSat_tdlDue (s : State) (off hi lo : Nat) : (s.bumpSat off hi lo).tdlDue = s.tdlDue := rfl
@[simp] theorem State.bumpSat_pwm (s : State) (off hi lo : Nat) : (s.bumpSat off hi lo).pwm = s.pwm := rfl
@[simp] theorem State.bumpSat_capDec (s : State) (off hi lo : Nat) : (s.bumpSat off hi lo).capDec = s.capDec := rfl
@[simp] theorem State.bumpSat_canRx (s : State) (off hi lo : Nat) : (s.bumpSat off hi lo).canRx = s.canRx := rfl
@[simp] theorem State.bumpSat_canOld (s : State) (off hi lo : Nat) : (s.bumpSat off hi lo).canOld = s.canOld := rfl
@[simp] theorem State.bumpSat_canNew (s : State) (off hi lo : Nat) : (s.bumpSat off hi lo).canNew = s.canNew := rfl
@[simp] theorem State.bumpSat_canLatch (s : State) (off hi lo : Nat) : (s.bumpSat off hi lo).canLatch = s.canLatch := rfl
@[simp] theorem State.bumpSat_canQ (s : State) (off hi lo : Nat) : (s.bumpSat off hi lo).canQ = s.canQ := rfl
@[simp] theorem State.bumpSat_canTx (s : State) (off hi lo : Nat) : (s.bumpSat off hi lo).canTx = s.canTx := rfl
@[simp] theorem State.bumpSat_ethRx (s : State) (off hi lo : Nat) : (s.bumpSat off hi lo).ethRx = s.ethRx := rfl
@[simp] theorem State.bumpSat_helloAt (s : State) (off hi lo : Nat) : (s.bumpSat off hi lo).helloAt = s.helloAt := rfl
@[simp] theorem State.bumpSat_helloSent (s : State) (off hi lo : Nat) : (s.bumpSat off hi lo).helloSent = s.helloSent := rfl
@[simp] theorem State.bumpSat_cwRx (s : State) (off hi lo : Nat) : (s.bumpSat off hi lo).cwRx = s.cwRx := rfl
@[simp] theorem State.bumpSat_cwTx (s : State) (off hi lo : Nat) : (s.bumpSat off hi lo).cwTx = s.cwTx := rfl
@[simp] theorem State.bumpSat_cwPath (s : State) (off hi lo : Nat) : (s.bumpSat off hi lo).cwPath = s.cwPath := rfl
@[simp] theorem State.bumpSat_cwCorr (s : State) (off hi lo : Nat) : (s.bumpSat off hi lo).cwCorr = s.cwCorr := rfl
@[simp] theorem State.bumpSat_ptpRx (s : State) (off hi lo : Nat) : (s.bumpSat off hi lo).ptpRx = s.ptpRx := rfl
@[simp] theorem State.bumpSat_pxyId (s : State) (off hi lo : Nat) : (s.bumpSat off hi lo).pxyId = s.pxyId := rfl
@[simp] theorem State.bumpSat_pxyAt (s : State) (off hi lo : Nat) : (s.bumpSat off hi lo).pxyAt = s.pxyAt := rfl
@[simp] theorem State.bumpSat_msixEn (s : State) (off hi lo : Nat) : (s.bumpSat off hi lo).msixEn = s.msixEn := rfl
@[simp] theorem State.bumpSat_bme (s : State) (off hi lo : Nat) : (s.bumpSat off hi lo).bme = s.bme := rfl
@[simp] theorem State.bumpSat_seq (s : State) (off hi lo : Nat) : (s.bumpSat off hi lo).seq = s.seq := rfl
@[simp] theorem State.bumpSat_free (s : State) (off hi lo : Nat) : (s.bumpSat off hi lo).free = s.free := rfl
@[simp] theorem State.bumpSat_out (s : State) (off hi lo : Nat) : (s.bumpSat off hi lo).out = s.out := rfl
@[simp] theorem State.bumpSat_astat (s : State) (off hi lo : Nat) : (s.bumpSat off hi lo).astat = s.astat := rfl
@[simp] theorem State.bumpSat_pinPend (s : State) (off hi lo : Nat) : (s.bumpSat off hi lo).pinPend = s.pinPend := rfl
@[simp] theorem State.bumpSat_pinFrom (s : State) (off hi lo : Nat) : (s.bumpSat off hi lo).pinFrom = s.pinFrom := rfl
@[simp] theorem State.bumpSat_pinHigh (s : State) (off hi lo : Nat) : (s.bumpSat off hi lo).pinHigh = s.pinHigh := rfl
@[simp] theorem State.bumpSat_tbLast (s : State) (off hi lo : Nat) : (s.bumpSat off hi lo).tbLast = s.tbLast := rfl
@[simp] theorem State.bumpSat_pinCause (s : State) (off hi lo : Nat) : (s.bumpSat off hi lo).pinCause = s.pinCause := rfl
@[simp] theorem State.bumpSat_memHeld (s : State) (off hi lo : Nat) : (s.bumpSat off hi lo).memHeld = s.memHeld := rfl
@[simp] theorem State.bumpSat_fnow (s : State) (off hi lo : Nat) : (s.bumpSat off hi lo).fnow = s.fnow := rfl
@[simp] theorem State.bumpSat_lnow (s : State) (off hi lo : Nat) : (s.bumpSat off hi lo).lnow = s.lnow := rfl
@[simp] theorem State.bumpSat_synEvt (s : State) (off hi lo : Nat) : (s.bumpSat off hi lo).synEvt = s.synEvt := rfl
@[simp] theorem State.bumpSat_winNow (s : State) (off hi lo : Nat) : (s.bumpSat off hi lo).winNow = s.winNow := rfl
@[simp] theorem State.bumpSat_claimNow (s : State) (off hi lo : Nat) : (s.bumpSat off hi lo).claimNow = s.claimNow := rfl
@[simp] theorem State.bumpSat_canNow (s : State) (off hi lo : Nat) : (s.bumpSat off hi lo).canNow = s.canNow := rfl
@[simp] theorem State.bumpSat_enow (s : State) (off hi lo : Nat) : (s.bumpSat off hi lo).enow = s.enow := rfl
@[simp] theorem State.bumpSat_pinBase (s : State) (off hi lo : Nat) : (s.bumpSat off hi lo).pinBase = s.pinBase := rfl
@[simp] theorem State.bumpSat_pendBase (s : State) (off hi lo : Nat) : (s.bumpSat off hi lo).pendBase = s.pendBase := rfl
@[simp] theorem State.bumpSat_dlNow (s : State) (off hi lo : Nat) : (s.bumpSat off hi lo).dlNow = s.dlNow := rfl
@[simp] theorem State.bumpSat_flash (s : State) (off hi lo : Nat) : (s.bumpSat off hi lo).flash = s.flash := rfl
@[simp] theorem State.bumpSat_seCnt (s : State) (off hi lo : Nat) : (s.bumpSat off hi lo).seCnt = s.seCnt := rfl
@[simp] theorem State.bumpSat_sePaired (s : State) (off hi lo : Nat) : (s.bumpSat off hi lo).sePaired = s.sePaired := rfl
@[simp] theorem State.bumpSat_floors (s : State) (off hi lo : Nat) : (s.bumpSat off hi lo).floors = s.floors := rfl
@[simp] theorem State.bumpSat_seed (s : State) (off hi lo : Nat) : (s.bumpSat off hi lo).seed = s.seed := rfl
@[simp] theorem State.bumpSat_manifest (s : State) (off hi lo : Nat) : (s.bumpSat off hi lo).manifest = s.manifest := rfl
@[simp] theorem State.bumpSat_images (s : State) (off hi lo : Nat) : (s.bumpSat off hi lo).images = s.images := rfl
@[simp] theorem State.bumpSat_seAtBoot (s : State) (off hi lo : Nat) : (s.bumpSat off hi lo).seAtBoot = s.seAtBoot := rfl
@[simp] theorem State.bumpSat_fbEver (s : State) (off hi lo : Nat) : (s.bumpSat off hi lo).fbEver = s.fbEver := rfl
@[simp] theorem State.bumpSat_dbgEver (s : State) (off hi lo : Nat) : (s.bumpSat off hi lo).dbgEver = s.dbgEver := rfl
@[simp] theorem State.bumpSat_chal (s : State) (off hi lo : Nat) : (s.bumpSat off hi lo).chal = s.chal := rfl
@[simp] theorem State.bumpSat_mr (s : State) (off hi lo : Nat) : (s.bumpSat off hi lo).mr = s.mr := rfl
@[simp] theorem State.bumpSat_mrCnt (s : State) (off hi lo : Nat) : (s.bumpSat off hi lo).mrCnt = s.mrCnt := rfl
@[simp] theorem State.bumpSat_mbxAns (s : State) (off hi lo : Nat) : (s.bumpSat off hi lo).mbxAns = s.mbxAns := rfl
@[simp] theorem State.bumpSat_regions (s : State) (off hi lo : Nat) : (s.bumpSat off hi lo).regions = s.regions := rfl
@[simp] theorem State.bumpSat_mpLock (s : State) (off hi lo : Nat) : (s.bumpSat off hi lo).mpLock = s.mpLock := rfl
@[simp] theorem State.bumpSat_mail (s : State) (off hi lo : Nat) : (s.bumpSat off hi lo).mail = s.mail := rfl
@[simp] theorem State.bumpSat_mailWait (s : State) (off hi lo : Nat) : (s.bumpSat off hi lo).mailWait = s.mailWait := rfl
@[simp] theorem State.bumpSat_restarts (s : State) (off hi lo : Nat) : (s.bumpSat off hi lo).restarts = s.restarts := rfl
@[simp] theorem State.bumpSat_restartAt (s : State) (off hi lo : Nat) : (s.bumpSat off hi lo).restartAt = s.restartAt := rfl
@[simp] theorem State.bumpSat_restartHold (s : State) (off hi lo : Nat) : (s.bumpSat off hi lo).restartHold = s.restartHold := rfl
@[simp] theorem State.bumpSat_down (s : State) (off hi lo : Nat) : (s.bumpSat off hi lo).down = s.down := rfl
@[simp] theorem State.bumpSat_cplOwed (s : State) (off hi lo : Nat) : (s.bumpSat off hi lo).cplOwed = s.cplOwed := rfl
@[simp] theorem State.bumpSat_halted (s : State) (off hi lo : Nat) : (s.bumpSat off hi lo).halted = s.halted := rfl
@[simp] theorem State.bumpSat_bundle (s : State) (off hi lo : Nat) : (s.bumpSat off hi lo).bundle = s.bundle := rfl
@[simp] theorem State.bumpSat_active (s : State) (off hi lo : Nat) : (s.bumpSat off hi lo).active = s.active := rfl
@[simp] theorem State.bumpSat_actEnd (s : State) (off hi lo : Nat) : (s.bumpSat off hi lo).actEnd = s.actEnd := rfl
@[simp] theorem State.bumpSat_revert (s : State) (off hi lo : Nat) : (s.bumpSat off hi lo).revert = s.revert := rfl
@[simp] theorem State.bumpSat_deferAt (s : State) (off hi lo : Nat) : (s.bumpSat off hi lo).deferAt = s.deferAt := rfl
@[simp] theorem State.bumpSat_emgEnd (s : State) (off hi lo : Nat) : (s.bumpSat off hi lo).emgEnd = s.emgEnd := rfl
@[simp] theorem State.bumpSat_ranSince (s : State) (off hi lo : Nat) : (s.bumpSat off hi lo).ranSince = s.ranSince := rfl
@[simp] theorem State.bumpSat_injAt (s : State) (off hi lo : Nat) : (s.bumpSat off hi lo).injAt = s.injAt := rfl
@[simp] theorem State.bumpSat_raiseAt (s : State) (off hi lo : Nat) : (s.bumpSat off hi lo).raiseAt = s.raiseAt := rfl
@[simp] theorem State.bumpSat_tapOut (s : State) (off hi lo : Nat) : (s.bumpSat off hi lo).tapOut = s.tapOut := rfl
@[simp] theorem State.bumpSat_tapPend (s : State) (off hi lo : Nat) : (s.bumpSat off hi lo).tapPend = s.tapPend := rfl
@[simp] theorem State.bumpSat_vdd (s : State) (off hi lo : Nat) : (s.bumpSat off hi lo).vdd = s.vdd := rfl
@[simp] theorem State.bumpSat_beatMin (s : State) (off hi lo : Nat) : (s.bumpSat off hi lo).beatMin = s.beatMin := rfl
@[simp] theorem State.bumpSat_beatWin (s : State) (off hi lo : Nat) : (s.bumpSat off hi lo).beatWin = s.beatWin := rfl
@[simp] theorem State.bumpSat_beatGated (s : State) (off hi lo : Nat) : (s.bumpSat off hi lo).beatGated = s.beatGated := rfl
@[simp] theorem State.bumpSat_wake (s : State) (off hi lo : Nat) : (s.bumpSat off hi lo).wake = s.wake := rfl
@[simp] theorem State.bumpSat_wakeKind (s : State) (off hi lo : Nat) : (s.bumpSat off hi lo).wakeKind = s.wakeKind := rfl
@[simp] theorem State.bumpSat_standby (s : State) (off hi lo : Nat) : (s.bumpSat off hi lo).standby = s.standby := rfl
@[simp] theorem State.bumpSat_gateAt (s : State) (off hi lo : Nat) : (s.bumpSat off hi lo).gateAt = s.gateAt := rfl
@[simp] theorem State.bumpSat_heldWake (s : State) (off hi lo : Nat) : (s.bumpSat off hi lo).heldWake = s.heldWake := rfl
@[simp] theorem State.bumpSat_wakeSig (s : State) (off hi lo : Nat) : (s.bumpSat off hi lo).wakeSig = s.wakeSig := rfl
@[simp] theorem State.bumpSat_entryAt (s : State) (off hi lo : Nat) : (s.bumpSat off hi lo).entryAt = s.entryAt := rfl
@[simp] theorem State.bumpSat_thHot (s : State) (off hi lo : Nat) : (s.bumpSat off hi lo).thHot = s.thHot := rfl
@[simp] theorem State.bumpSat_thCool (s : State) (off hi lo : Nat) : (s.bumpSat off hi lo).thCool = s.thCool := rfl
@[simp] theorem State.bumpSat_thTop (s : State) (off hi lo : Nat) : (s.bumpSat off hi lo).thTop = s.thTop := rfl
@[simp] theorem State.bumpSat_thStep (s : State) (off hi lo : Nat) : (s.bumpSat off hi lo).thStep = s.thStep := rfl
@[simp] theorem State.bumpSat_heldPads (s : State) (off hi lo : Nat) : (s.bumpSat off hi lo).heldPads = s.heldPads := rfl

/-! ## bumpMod -/

@[simp] theorem State.bumpMod_pending (s : State) (off hi lo : Nat) : (s.bumpMod off hi lo).pending = s.pending := rfl
@[simp] theorem State.bumpMod_readData (s : State) (off hi lo : Nat) : (s.bumpMod off hi lo).readData = s.readData := rfl
@[simp] theorem State.bumpMod_readOk (s : State) (off hi lo : Nat) : (s.bumpMod off hi lo).readOk = s.readOk := rfl
@[simp] theorem State.bumpMod_cores (s : State) (off hi lo : Nat) : (s.bumpMod off hi lo).cores = s.cores := rfl
@[simp] theorem State.bumpMod_ferries (s : State) (off hi lo : Nat) : (s.bumpMod off hi lo).ferries = s.ferries := rfl
@[simp] theorem State.bumpMod_mem (s : State) (off hi lo : Nat) : (s.bumpMod off hi lo).mem = s.mem := rfl
@[simp] theorem State.bumpMod_bar4q (s : State) (off hi lo : Nat) : (s.bumpMod off hi lo).bar4q = s.bar4q := rfl
@[simp] theorem State.bumpMod_lpUe (s : State) (off hi lo : Nat) : (s.bumpMod off hi lo).lpUe = s.lpUe := rfl
@[simp] theorem State.bumpMod_lpCe (s : State) (off hi lo : Nat) : (s.bumpMod off hi lo).lpCe = s.lpCe := rfl
@[simp] theorem State.bumpMod_hbrUe (s : State) (off hi lo : Nat) : (s.bumpMod off hi lo).hbrUe = s.hbrUe := rfl
@[simp] theorem State.bumpMod_hbrCe (s : State) (off hi lo : Nat) : (s.bumpMod off hi lo).hbrCe = s.hbrCe := rfl
@[simp] theorem State.bumpMod_queues (s : State) (off hi lo : Nat) : (s.bumpMod off hi lo).queues = s.queues := rfl
@[simp] theorem State.bumpMod_flush (s : State) (off hi lo : Nat) : (s.bumpMod off hi lo).flush = s.flush := rfl
@[simp] theorem State.bumpMod_saved (s : State) (off hi lo : Nat) : (s.bumpMod off hi lo).saved = s.saved := rfl
@[simp] theorem State.bumpMod_gangRes (s : State) (off hi lo : Nat) : (s.bumpMod off hi lo).gangRes = s.gangRes := rfl
@[simp] theorem State.bumpMod_islGen (s : State) (off hi lo : Nat) : (s.bumpMod off hi lo).islGen = s.islGen := rfl
@[simp] theorem State.bumpMod_drr (s : State) (off hi lo : Nat) : (s.bumpMod off hi lo).drr = s.drr := rfl
@[simp] theorem State.bumpMod_drrCur (s : State) (off hi lo : Nat) : (s.bumpMod off hi lo).drrCur = s.drrCur := rfl
@[simp] theorem State.bumpMod_thrBudget (s : State) (off hi lo : Nat) : (s.bumpMod off hi lo).thrBudget = s.thrBudget := rfl
@[simp] theorem State.bumpMod_thrRot (s : State) (off hi lo : Nat) : (s.bumpMod off hi lo).thrRot = s.thrRot := rfl
@[simp] theorem State.bumpMod_thrStart (s : State) (off hi lo : Nat) : (s.bumpMod off hi lo).thrStart = s.thrStart := rfl
@[simp] theorem State.bumpMod_thrAt (s : State) (off hi lo : Nat) : (s.bumpMod off hi lo).thrAt = s.thrAt := rfl
@[simp] theorem State.bumpMod_kv (s : State) (off hi lo : Nat) : (s.bumpMod off hi lo).kv = s.kv := rfl
@[simp] theorem State.bumpMod_live (s : State) (off hi lo : Nat) : (s.bumpMod off hi lo).live = s.live := rfl
@[simp] theorem State.bumpMod_jobs (s : State) (off hi lo : Nat) : (s.bumpMod off hi lo).jobs = s.jobs := rfl
@[simp] theorem State.bumpMod_jobLast (s : State) (off hi lo : Nat) : (s.bumpMod off hi lo).jobLast = s.jobLast := rfl
@[simp] theorem State.bumpMod_tlb (s : State) (off hi lo : Nat) : (s.bumpMod off hi lo).tlb = s.tlb := rfl
@[simp] theorem State.bumpMod_invq (s : State) (off hi lo : Nat) : (s.bumpMod off hi lo).invq = s.invq := rfl
@[simp] theorem State.bumpMod_xtsKeys (s : State) (off hi lo : Nat) : (s.bumpMod off hi lo).xtsKeys = s.xtsKeys := rfl
@[simp] theorem State.bumpMod_granOwner (s : State) (off hi lo : Nat) : (s.bumpMod off hi lo).granOwner = s.granOwner := rfl
@[simp] theorem State.bumpMod_faults (s : State) (off hi lo : Nat) : (s.bumpMod off hi lo).faults = s.faults := rfl
@[simp] theorem State.bumpMod_frecs (s : State) (off hi lo : Nat) : (s.bumpMod off hi lo).frecs = s.frecs := rfl
@[simp] theorem State.bumpMod_fid (s : State) (off hi lo : Nat) : (s.bumpMod off hi lo).fid = s.fid := rfl
@[simp] theorem State.bumpMod_patrolAt (s : State) (off hi lo : Nat) : (s.bumpMod off hi lo).patrolAt = s.patrolAt := rfl
@[simp] theorem State.bumpMod_initDone (s : State) (off hi lo : Nat) : (s.bumpMod off hi lo).initDone = s.initDone := rfl
@[simp] theorem State.bumpMod_dl (s : State) (off hi lo : Nat) : (s.bumpMod off hi lo).dl = s.dl := rfl
@[simp] theorem State.bumpMod_dlOnce (s : State) (off hi lo : Nat) : (s.bumpMod off hi lo).dlOnce = s.dlOnce := rfl
@[simp] theorem State.bumpMod_lockstep (s : State) (off hi lo : Nat) : (s.bumpMod off hi lo).lockstep = s.lockstep := rfl
@[simp] theorem State.bumpMod_frameMs (s : State) (off hi lo : Nat) : (s.bumpMod off hi lo).frameMs = s.frameMs := rfl
@[simp] theorem State.bumpMod_frameStart (s : State) (off hi lo : Nat) : (s.bumpMod off hi lo).frameStart = s.frameStart := rfl
@[simp] theorem State.bumpMod_frameNo (s : State) (off hi lo : Nat) : (s.bumpMod off hi lo).frameNo = s.frameNo := rfl
@[simp] theorem State.bumpMod_bcnDone (s : State) (off hi lo : Nat) : (s.bumpMod off hi lo).bcnDone = s.bcnDone := rfl
@[simp] theorem State.bumpMod_bcnSeen (s : State) (off hi lo : Nat) : (s.bumpMod off hi lo).bcnSeen = s.bcnSeen := rfl
@[simp] theorem State.bumpMod_mmHist (s : State) (off hi lo : Nat) : (s.bumpMod off hi lo).mmHist = s.mmHist := rfl
@[simp] theorem State.bumpMod_tbS (s : State) (off hi lo : Nat) : (s.bumpMod off hi lo).tbS = s.tbS := rfl
@[simp] theorem State.bumpMod_tbNs (s : State) (off hi lo : Nat) : (s.bumpMod off hi lo).tbNs = s.tbNs := rfl
@[simp] theorem State.bumpMod_tbFrac (s : State) (off hi lo : Nat) : (s.bumpMod off hi lo).tbFrac = s.tbFrac := rfl
@[simp] theorem State.bumpMod_tbJump (s : State) (off hi lo : Nat) : (s.bumpMod off hi lo).tbJump = s.tbJump := rfl
@[simp] theorem State.bumpMod_hbAt (s : State) (off hi lo : Nat) : (s.bumpMod off hi lo).hbAt = s.hbAt := rfl
@[simp] theorem State.bumpMod_hbOld (s : State) (off hi lo : Nat) : (s.bumpMod off hi lo).hbOld = s.hbOld := rfl
@[simp] theorem State.bumpMod_lossDue (s : State) (off hi lo : Nat) : (s.bumpMod off hi lo).lossDue = s.lossDue := rfl
@[simp] theorem State.bumpMod_vfDue (s : State) (off hi lo : Nat) : (s.bumpMod off hi lo).vfDue = s.vfDue := rfl
@[simp] theorem State.bumpMod_cyc (s : State) (off hi lo : Nat) : (s.bumpMod off hi lo).cyc = s.cyc := rfl
@[simp] theorem State.bumpMod_tbOps (s : State) (off hi lo : Nat) : (s.bumpMod off hi lo).tbOps = s.tbOps := rfl
@[simp] theorem State.bumpMod_tbPast (s : State) (off hi lo : Nat) : (s.bumpMod off hi lo).tbPast = s.tbPast := rfl
@[simp] theorem State.bumpMod_timArm (s : State) (off hi lo : Nat) : (s.bumpMod off hi lo).timArm = s.timArm := rfl
@[simp] theorem State.bumpMod_timLatch (s : State) (off hi lo : Nat) : (s.bumpMod off hi lo).timLatch = s.timLatch := rfl
@[simp] theorem State.bumpMod_capUnread (s : State) (off hi lo : Nat) : (s.bumpMod off hi lo).capUnread = s.capUnread := rfl
@[simp] theorem State.bumpMod_trigEnd (s : State) (off hi lo : Nat) : (s.bumpMod off hi lo).trigEnd = s.trigEnd := rfl
@[simp] theorem State.bumpMod_trigPast (s : State) (off hi lo : Nat) : (s.bumpMod off hi lo).trigPast = s.trigPast := rfl
@[simp] theorem State.bumpMod_claims (s : State) (off hi lo : Nat) : (s.bumpMod off hi lo).claims = s.claims := rfl
@[simp] theorem State.bumpMod_tdl (s : State) (off hi lo : Nat) : (s.bumpMod off hi lo).tdl = s.tdl := rfl
@[simp] theorem State.bumpMod_tdlDirty (s : State) (off hi lo : Nat) : (s.bumpMod off hi lo).tdlDirty = s.tdlDirty := rfl
@[simp] theorem State.bumpMod_tdlStart (s : State) (off hi lo : Nat) : (s.bumpMod off hi lo).tdlStart = s.tdlStart := rfl
@[simp] theorem State.bumpMod_tdlNext (s : State) (off hi lo : Nat) : (s.bumpMod off hi lo).tdlNext = s.tdlNext := rfl
@[simp] theorem State.bumpMod_drops (s : State) (off hi lo : Nat) : (s.bumpMod off hi lo).drops = s.drops := rfl
@[simp] theorem State.bumpMod_dropRing (s : State) (off hi lo : Nat) : (s.bumpMod off hi lo).dropRing = s.dropRing := rfl
@[simp] theorem State.bumpMod_spiRead (s : State) (off hi lo : Nat) : (s.bumpMod off hi lo).spiRead = s.spiRead := rfl
@[simp] theorem State.bumpMod_spiBusy (s : State) (off hi lo : Nat) : (s.bumpMod off hi lo).spiBusy = s.spiBusy := rfl
@[simp] theorem State.bumpMod_tdlDue (s : State) (off hi lo : Nat) : (s.bumpMod off hi lo).tdlDue = s.tdlDue := rfl
@[simp] theorem State.bumpMod_pwm (s : State) (off hi lo : Nat) : (s.bumpMod off hi lo).pwm = s.pwm := rfl
@[simp] theorem State.bumpMod_capDec (s : State) (off hi lo : Nat) : (s.bumpMod off hi lo).capDec = s.capDec := rfl
@[simp] theorem State.bumpMod_canRx (s : State) (off hi lo : Nat) : (s.bumpMod off hi lo).canRx = s.canRx := rfl
@[simp] theorem State.bumpMod_canOld (s : State) (off hi lo : Nat) : (s.bumpMod off hi lo).canOld = s.canOld := rfl
@[simp] theorem State.bumpMod_canNew (s : State) (off hi lo : Nat) : (s.bumpMod off hi lo).canNew = s.canNew := rfl
@[simp] theorem State.bumpMod_canLatch (s : State) (off hi lo : Nat) : (s.bumpMod off hi lo).canLatch = s.canLatch := rfl
@[simp] theorem State.bumpMod_canQ (s : State) (off hi lo : Nat) : (s.bumpMod off hi lo).canQ = s.canQ := rfl
@[simp] theorem State.bumpMod_canTx (s : State) (off hi lo : Nat) : (s.bumpMod off hi lo).canTx = s.canTx := rfl
@[simp] theorem State.bumpMod_ethRx (s : State) (off hi lo : Nat) : (s.bumpMod off hi lo).ethRx = s.ethRx := rfl
@[simp] theorem State.bumpMod_helloAt (s : State) (off hi lo : Nat) : (s.bumpMod off hi lo).helloAt = s.helloAt := rfl
@[simp] theorem State.bumpMod_helloSent (s : State) (off hi lo : Nat) : (s.bumpMod off hi lo).helloSent = s.helloSent := rfl
@[simp] theorem State.bumpMod_cwRx (s : State) (off hi lo : Nat) : (s.bumpMod off hi lo).cwRx = s.cwRx := rfl
@[simp] theorem State.bumpMod_cwTx (s : State) (off hi lo : Nat) : (s.bumpMod off hi lo).cwTx = s.cwTx := rfl
@[simp] theorem State.bumpMod_cwPath (s : State) (off hi lo : Nat) : (s.bumpMod off hi lo).cwPath = s.cwPath := rfl
@[simp] theorem State.bumpMod_cwCorr (s : State) (off hi lo : Nat) : (s.bumpMod off hi lo).cwCorr = s.cwCorr := rfl
@[simp] theorem State.bumpMod_ptpRx (s : State) (off hi lo : Nat) : (s.bumpMod off hi lo).ptpRx = s.ptpRx := rfl
@[simp] theorem State.bumpMod_pxyId (s : State) (off hi lo : Nat) : (s.bumpMod off hi lo).pxyId = s.pxyId := rfl
@[simp] theorem State.bumpMod_pxyAt (s : State) (off hi lo : Nat) : (s.bumpMod off hi lo).pxyAt = s.pxyAt := rfl
@[simp] theorem State.bumpMod_msixEn (s : State) (off hi lo : Nat) : (s.bumpMod off hi lo).msixEn = s.msixEn := rfl
@[simp] theorem State.bumpMod_bme (s : State) (off hi lo : Nat) : (s.bumpMod off hi lo).bme = s.bme := rfl
@[simp] theorem State.bumpMod_seq (s : State) (off hi lo : Nat) : (s.bumpMod off hi lo).seq = s.seq := rfl
@[simp] theorem State.bumpMod_free (s : State) (off hi lo : Nat) : (s.bumpMod off hi lo).free = s.free := rfl
@[simp] theorem State.bumpMod_out (s : State) (off hi lo : Nat) : (s.bumpMod off hi lo).out = s.out := rfl
@[simp] theorem State.bumpMod_astat (s : State) (off hi lo : Nat) : (s.bumpMod off hi lo).astat = s.astat := rfl
@[simp] theorem State.bumpMod_pinPend (s : State) (off hi lo : Nat) : (s.bumpMod off hi lo).pinPend = s.pinPend := rfl
@[simp] theorem State.bumpMod_pinFrom (s : State) (off hi lo : Nat) : (s.bumpMod off hi lo).pinFrom = s.pinFrom := rfl
@[simp] theorem State.bumpMod_pinHigh (s : State) (off hi lo : Nat) : (s.bumpMod off hi lo).pinHigh = s.pinHigh := rfl
@[simp] theorem State.bumpMod_tbLast (s : State) (off hi lo : Nat) : (s.bumpMod off hi lo).tbLast = s.tbLast := rfl
@[simp] theorem State.bumpMod_pinCause (s : State) (off hi lo : Nat) : (s.bumpMod off hi lo).pinCause = s.pinCause := rfl
@[simp] theorem State.bumpMod_memHeld (s : State) (off hi lo : Nat) : (s.bumpMod off hi lo).memHeld = s.memHeld := rfl
@[simp] theorem State.bumpMod_fnow (s : State) (off hi lo : Nat) : (s.bumpMod off hi lo).fnow = s.fnow := rfl
@[simp] theorem State.bumpMod_lnow (s : State) (off hi lo : Nat) : (s.bumpMod off hi lo).lnow = s.lnow := rfl
@[simp] theorem State.bumpMod_synEvt (s : State) (off hi lo : Nat) : (s.bumpMod off hi lo).synEvt = s.synEvt := rfl
@[simp] theorem State.bumpMod_winNow (s : State) (off hi lo : Nat) : (s.bumpMod off hi lo).winNow = s.winNow := rfl
@[simp] theorem State.bumpMod_claimNow (s : State) (off hi lo : Nat) : (s.bumpMod off hi lo).claimNow = s.claimNow := rfl
@[simp] theorem State.bumpMod_canNow (s : State) (off hi lo : Nat) : (s.bumpMod off hi lo).canNow = s.canNow := rfl
@[simp] theorem State.bumpMod_enow (s : State) (off hi lo : Nat) : (s.bumpMod off hi lo).enow = s.enow := rfl
@[simp] theorem State.bumpMod_pinBase (s : State) (off hi lo : Nat) : (s.bumpMod off hi lo).pinBase = s.pinBase := rfl
@[simp] theorem State.bumpMod_pendBase (s : State) (off hi lo : Nat) : (s.bumpMod off hi lo).pendBase = s.pendBase := rfl
@[simp] theorem State.bumpMod_dlNow (s : State) (off hi lo : Nat) : (s.bumpMod off hi lo).dlNow = s.dlNow := rfl
@[simp] theorem State.bumpMod_flash (s : State) (off hi lo : Nat) : (s.bumpMod off hi lo).flash = s.flash := rfl
@[simp] theorem State.bumpMod_seCnt (s : State) (off hi lo : Nat) : (s.bumpMod off hi lo).seCnt = s.seCnt := rfl
@[simp] theorem State.bumpMod_sePaired (s : State) (off hi lo : Nat) : (s.bumpMod off hi lo).sePaired = s.sePaired := rfl
@[simp] theorem State.bumpMod_floors (s : State) (off hi lo : Nat) : (s.bumpMod off hi lo).floors = s.floors := rfl
@[simp] theorem State.bumpMod_seed (s : State) (off hi lo : Nat) : (s.bumpMod off hi lo).seed = s.seed := rfl
@[simp] theorem State.bumpMod_manifest (s : State) (off hi lo : Nat) : (s.bumpMod off hi lo).manifest = s.manifest := rfl
@[simp] theorem State.bumpMod_images (s : State) (off hi lo : Nat) : (s.bumpMod off hi lo).images = s.images := rfl
@[simp] theorem State.bumpMod_seAtBoot (s : State) (off hi lo : Nat) : (s.bumpMod off hi lo).seAtBoot = s.seAtBoot := rfl
@[simp] theorem State.bumpMod_fbEver (s : State) (off hi lo : Nat) : (s.bumpMod off hi lo).fbEver = s.fbEver := rfl
@[simp] theorem State.bumpMod_dbgEver (s : State) (off hi lo : Nat) : (s.bumpMod off hi lo).dbgEver = s.dbgEver := rfl
@[simp] theorem State.bumpMod_chal (s : State) (off hi lo : Nat) : (s.bumpMod off hi lo).chal = s.chal := rfl
@[simp] theorem State.bumpMod_mr (s : State) (off hi lo : Nat) : (s.bumpMod off hi lo).mr = s.mr := rfl
@[simp] theorem State.bumpMod_mrCnt (s : State) (off hi lo : Nat) : (s.bumpMod off hi lo).mrCnt = s.mrCnt := rfl
@[simp] theorem State.bumpMod_mbxAns (s : State) (off hi lo : Nat) : (s.bumpMod off hi lo).mbxAns = s.mbxAns := rfl
@[simp] theorem State.bumpMod_regions (s : State) (off hi lo : Nat) : (s.bumpMod off hi lo).regions = s.regions := rfl
@[simp] theorem State.bumpMod_mpLock (s : State) (off hi lo : Nat) : (s.bumpMod off hi lo).mpLock = s.mpLock := rfl
@[simp] theorem State.bumpMod_mail (s : State) (off hi lo : Nat) : (s.bumpMod off hi lo).mail = s.mail := rfl
@[simp] theorem State.bumpMod_mailWait (s : State) (off hi lo : Nat) : (s.bumpMod off hi lo).mailWait = s.mailWait := rfl
@[simp] theorem State.bumpMod_restarts (s : State) (off hi lo : Nat) : (s.bumpMod off hi lo).restarts = s.restarts := rfl
@[simp] theorem State.bumpMod_restartAt (s : State) (off hi lo : Nat) : (s.bumpMod off hi lo).restartAt = s.restartAt := rfl
@[simp] theorem State.bumpMod_restartHold (s : State) (off hi lo : Nat) : (s.bumpMod off hi lo).restartHold = s.restartHold := rfl
@[simp] theorem State.bumpMod_down (s : State) (off hi lo : Nat) : (s.bumpMod off hi lo).down = s.down := rfl
@[simp] theorem State.bumpMod_cplOwed (s : State) (off hi lo : Nat) : (s.bumpMod off hi lo).cplOwed = s.cplOwed := rfl
@[simp] theorem State.bumpMod_halted (s : State) (off hi lo : Nat) : (s.bumpMod off hi lo).halted = s.halted := rfl
@[simp] theorem State.bumpMod_bundle (s : State) (off hi lo : Nat) : (s.bumpMod off hi lo).bundle = s.bundle := rfl
@[simp] theorem State.bumpMod_active (s : State) (off hi lo : Nat) : (s.bumpMod off hi lo).active = s.active := rfl
@[simp] theorem State.bumpMod_actEnd (s : State) (off hi lo : Nat) : (s.bumpMod off hi lo).actEnd = s.actEnd := rfl
@[simp] theorem State.bumpMod_revert (s : State) (off hi lo : Nat) : (s.bumpMod off hi lo).revert = s.revert := rfl
@[simp] theorem State.bumpMod_deferAt (s : State) (off hi lo : Nat) : (s.bumpMod off hi lo).deferAt = s.deferAt := rfl
@[simp] theorem State.bumpMod_emgEnd (s : State) (off hi lo : Nat) : (s.bumpMod off hi lo).emgEnd = s.emgEnd := rfl
@[simp] theorem State.bumpMod_ranSince (s : State) (off hi lo : Nat) : (s.bumpMod off hi lo).ranSince = s.ranSince := rfl
@[simp] theorem State.bumpMod_injAt (s : State) (off hi lo : Nat) : (s.bumpMod off hi lo).injAt = s.injAt := rfl
@[simp] theorem State.bumpMod_raiseAt (s : State) (off hi lo : Nat) : (s.bumpMod off hi lo).raiseAt = s.raiseAt := rfl
@[simp] theorem State.bumpMod_tapOut (s : State) (off hi lo : Nat) : (s.bumpMod off hi lo).tapOut = s.tapOut := rfl
@[simp] theorem State.bumpMod_tapPend (s : State) (off hi lo : Nat) : (s.bumpMod off hi lo).tapPend = s.tapPend := rfl
@[simp] theorem State.bumpMod_vdd (s : State) (off hi lo : Nat) : (s.bumpMod off hi lo).vdd = s.vdd := rfl
@[simp] theorem State.bumpMod_beatMin (s : State) (off hi lo : Nat) : (s.bumpMod off hi lo).beatMin = s.beatMin := rfl
@[simp] theorem State.bumpMod_beatWin (s : State) (off hi lo : Nat) : (s.bumpMod off hi lo).beatWin = s.beatWin := rfl
@[simp] theorem State.bumpMod_beatGated (s : State) (off hi lo : Nat) : (s.bumpMod off hi lo).beatGated = s.beatGated := rfl
@[simp] theorem State.bumpMod_wake (s : State) (off hi lo : Nat) : (s.bumpMod off hi lo).wake = s.wake := rfl
@[simp] theorem State.bumpMod_wakeKind (s : State) (off hi lo : Nat) : (s.bumpMod off hi lo).wakeKind = s.wakeKind := rfl
@[simp] theorem State.bumpMod_standby (s : State) (off hi lo : Nat) : (s.bumpMod off hi lo).standby = s.standby := rfl
@[simp] theorem State.bumpMod_gateAt (s : State) (off hi lo : Nat) : (s.bumpMod off hi lo).gateAt = s.gateAt := rfl
@[simp] theorem State.bumpMod_heldWake (s : State) (off hi lo : Nat) : (s.bumpMod off hi lo).heldWake = s.heldWake := rfl
@[simp] theorem State.bumpMod_wakeSig (s : State) (off hi lo : Nat) : (s.bumpMod off hi lo).wakeSig = s.wakeSig := rfl
@[simp] theorem State.bumpMod_entryAt (s : State) (off hi lo : Nat) : (s.bumpMod off hi lo).entryAt = s.entryAt := rfl
@[simp] theorem State.bumpMod_thHot (s : State) (off hi lo : Nat) : (s.bumpMod off hi lo).thHot = s.thHot := rfl
@[simp] theorem State.bumpMod_thCool (s : State) (off hi lo : Nat) : (s.bumpMod off hi lo).thCool = s.thCool := rfl
@[simp] theorem State.bumpMod_thTop (s : State) (off hi lo : Nat) : (s.bumpMod off hi lo).thTop = s.thTop := rfl
@[simp] theorem State.bumpMod_thStep (s : State) (off hi lo : Nat) : (s.bumpMod off hi lo).thStep = s.thStep := rfl
@[simp] theorem State.bumpMod_heldPads (s : State) (off hi lo : Nat) : (s.bumpMod off hi lo).heldPads = s.heldPads := rfl

/-! ## tick -/

@[simp] theorem State.tick_pending (s : State) : (s.tick).pending = s.pending := rfl
@[simp] theorem State.tick_readData (s : State) : (s.tick).readData = s.readData := rfl
@[simp] theorem State.tick_readOk (s : State) : (s.tick).readOk = s.readOk := rfl
@[simp] theorem State.tick_regs (s : State) : (s.tick).regs = s.regs := rfl
@[simp] theorem State.tick_cores (s : State) : (s.tick).cores = s.cores := rfl
@[simp] theorem State.tick_ferries (s : State) : (s.tick).ferries = s.ferries := rfl
@[simp] theorem State.tick_mem (s : State) : (s.tick).mem = s.mem := rfl
@[simp] theorem State.tick_bar4q (s : State) : (s.tick).bar4q = s.bar4q := rfl
@[simp] theorem State.tick_lpUe (s : State) : (s.tick).lpUe = s.lpUe := rfl
@[simp] theorem State.tick_lpCe (s : State) : (s.tick).lpCe = s.lpCe := rfl
@[simp] theorem State.tick_hbrUe (s : State) : (s.tick).hbrUe = s.hbrUe := rfl
@[simp] theorem State.tick_hbrCe (s : State) : (s.tick).hbrCe = s.hbrCe := rfl
@[simp] theorem State.tick_queues (s : State) : (s.tick).queues = s.queues := rfl
@[simp] theorem State.tick_flush (s : State) : (s.tick).flush = s.flush := rfl
@[simp] theorem State.tick_saved (s : State) : (s.tick).saved = s.saved := rfl
@[simp] theorem State.tick_gangRes (s : State) : (s.tick).gangRes = s.gangRes := rfl
@[simp] theorem State.tick_islGen (s : State) : (s.tick).islGen = s.islGen := rfl
@[simp] theorem State.tick_drr (s : State) : (s.tick).drr = s.drr := rfl
@[simp] theorem State.tick_drrCur (s : State) : (s.tick).drrCur = s.drrCur := rfl
@[simp] theorem State.tick_thrBudget (s : State) : (s.tick).thrBudget = s.thrBudget := rfl
@[simp] theorem State.tick_thrRot (s : State) : (s.tick).thrRot = s.thrRot := rfl
@[simp] theorem State.tick_thrStart (s : State) : (s.tick).thrStart = s.thrStart := rfl
@[simp] theorem State.tick_thrAt (s : State) : (s.tick).thrAt = s.thrAt := rfl
@[simp] theorem State.tick_kv (s : State) : (s.tick).kv = s.kv := rfl
@[simp] theorem State.tick_live (s : State) : (s.tick).live = s.live := rfl
@[simp] theorem State.tick_jobs (s : State) : (s.tick).jobs = s.jobs := rfl
@[simp] theorem State.tick_jobLast (s : State) : (s.tick).jobLast = s.jobLast := rfl
@[simp] theorem State.tick_tlb (s : State) : (s.tick).tlb = s.tlb := rfl
@[simp] theorem State.tick_invq (s : State) : (s.tick).invq = s.invq := rfl
@[simp] theorem State.tick_xtsKeys (s : State) : (s.tick).xtsKeys = s.xtsKeys := rfl
@[simp] theorem State.tick_granOwner (s : State) : (s.tick).granOwner = s.granOwner := rfl
@[simp] theorem State.tick_faults (s : State) : (s.tick).faults = s.faults := rfl
@[simp] theorem State.tick_frecs (s : State) : (s.tick).frecs = s.frecs := rfl
@[simp] theorem State.tick_fid (s : State) : (s.tick).fid = s.fid := rfl
@[simp] theorem State.tick_patrolAt (s : State) : (s.tick).patrolAt = s.patrolAt := rfl
@[simp] theorem State.tick_initDone (s : State) : (s.tick).initDone = s.initDone := rfl
@[simp] theorem State.tick_dl (s : State) : (s.tick).dl = s.dl := rfl
@[simp] theorem State.tick_dlOnce (s : State) : (s.tick).dlOnce = s.dlOnce := rfl
@[simp] theorem State.tick_lockstep (s : State) : (s.tick).lockstep = s.lockstep := rfl
@[simp] theorem State.tick_frameMs (s : State) : (s.tick).frameMs = s.frameMs := rfl
@[simp] theorem State.tick_frameStart (s : State) : (s.tick).frameStart = s.frameStart := rfl
@[simp] theorem State.tick_frameNo (s : State) : (s.tick).frameNo = s.frameNo := rfl
@[simp] theorem State.tick_bcnDone (s : State) : (s.tick).bcnDone = s.bcnDone := rfl
@[simp] theorem State.tick_bcnSeen (s : State) : (s.tick).bcnSeen = s.bcnSeen := rfl
@[simp] theorem State.tick_mmHist (s : State) : (s.tick).mmHist = s.mmHist := rfl
@[simp] theorem State.tick_tbS (s : State) : (s.tick).tbS = s.tbS := rfl
@[simp] theorem State.tick_tbNs (s : State) : (s.tick).tbNs = s.tbNs := rfl
@[simp] theorem State.tick_tbFrac (s : State) : (s.tick).tbFrac = s.tbFrac := rfl
@[simp] theorem State.tick_tbJump (s : State) : (s.tick).tbJump = s.tbJump := rfl
@[simp] theorem State.tick_hbAt (s : State) : (s.tick).hbAt = s.hbAt := rfl
@[simp] theorem State.tick_hbOld (s : State) : (s.tick).hbOld = s.hbOld := rfl
@[simp] theorem State.tick_lossDue (s : State) : (s.tick).lossDue = s.lossDue := rfl
@[simp] theorem State.tick_vfDue (s : State) : (s.tick).vfDue = s.vfDue := rfl
@[simp] theorem State.tick_cyc (s : State) : (s.tick).cyc = s.cyc := rfl
@[simp] theorem State.tick_tbOps (s : State) : (s.tick).tbOps = s.tbOps := rfl
@[simp] theorem State.tick_tbPast (s : State) : (s.tick).tbPast = s.tbPast := rfl
@[simp] theorem State.tick_timArm (s : State) : (s.tick).timArm = s.timArm := rfl
@[simp] theorem State.tick_timLatch (s : State) : (s.tick).timLatch = s.timLatch := rfl
@[simp] theorem State.tick_capUnread (s : State) : (s.tick).capUnread = s.capUnread := rfl
@[simp] theorem State.tick_trigEnd (s : State) : (s.tick).trigEnd = s.trigEnd := rfl
@[simp] theorem State.tick_trigPast (s : State) : (s.tick).trigPast = s.trigPast := rfl
@[simp] theorem State.tick_claims (s : State) : (s.tick).claims = s.claims := rfl
@[simp] theorem State.tick_tdl (s : State) : (s.tick).tdl = s.tdl := rfl
@[simp] theorem State.tick_tdlDirty (s : State) : (s.tick).tdlDirty = s.tdlDirty := rfl
@[simp] theorem State.tick_tdlStart (s : State) : (s.tick).tdlStart = s.tdlStart := rfl
@[simp] theorem State.tick_tdlNext (s : State) : (s.tick).tdlNext = s.tdlNext := rfl
@[simp] theorem State.tick_drops (s : State) : (s.tick).drops = s.drops := rfl
@[simp] theorem State.tick_dropRing (s : State) : (s.tick).dropRing = s.dropRing := rfl
@[simp] theorem State.tick_spiRead (s : State) : (s.tick).spiRead = s.spiRead := rfl
@[simp] theorem State.tick_spiBusy (s : State) : (s.tick).spiBusy = s.spiBusy := rfl
@[simp] theorem State.tick_tdlDue (s : State) : (s.tick).tdlDue = s.tdlDue := rfl
@[simp] theorem State.tick_pwm (s : State) : (s.tick).pwm = s.pwm := rfl
@[simp] theorem State.tick_capDec (s : State) : (s.tick).capDec = s.capDec := rfl
@[simp] theorem State.tick_canRx (s : State) : (s.tick).canRx = s.canRx := rfl
@[simp] theorem State.tick_canOld (s : State) : (s.tick).canOld = s.canOld := rfl
@[simp] theorem State.tick_canNew (s : State) : (s.tick).canNew = s.canNew := rfl
@[simp] theorem State.tick_canLatch (s : State) : (s.tick).canLatch = s.canLatch := rfl
@[simp] theorem State.tick_canQ (s : State) : (s.tick).canQ = s.canQ := rfl
@[simp] theorem State.tick_canTx (s : State) : (s.tick).canTx = s.canTx := rfl
@[simp] theorem State.tick_ethRx (s : State) : (s.tick).ethRx = s.ethRx := rfl
@[simp] theorem State.tick_helloAt (s : State) : (s.tick).helloAt = s.helloAt := rfl
@[simp] theorem State.tick_helloSent (s : State) : (s.tick).helloSent = s.helloSent := rfl
@[simp] theorem State.tick_cwRx (s : State) : (s.tick).cwRx = s.cwRx := rfl
@[simp] theorem State.tick_cwTx (s : State) : (s.tick).cwTx = s.cwTx := rfl
@[simp] theorem State.tick_cwPath (s : State) : (s.tick).cwPath = s.cwPath := rfl
@[simp] theorem State.tick_cwCorr (s : State) : (s.tick).cwCorr = s.cwCorr := rfl
@[simp] theorem State.tick_ptpRx (s : State) : (s.tick).ptpRx = s.ptpRx := rfl
@[simp] theorem State.tick_pxyId (s : State) : (s.tick).pxyId = s.pxyId := rfl
@[simp] theorem State.tick_pxyAt (s : State) : (s.tick).pxyAt = s.pxyAt := rfl
@[simp] theorem State.tick_msixEn (s : State) : (s.tick).msixEn = s.msixEn := rfl
@[simp] theorem State.tick_bme (s : State) : (s.tick).bme = s.bme := rfl
@[simp] theorem State.tick_seq (s : State) : (s.tick).seq = s.seq + 1 := rfl
@[simp] theorem State.tick_free (s : State) : (s.tick).free = s.free := rfl
@[simp] theorem State.tick_out (s : State) : (s.tick).out = s.out := rfl
@[simp] theorem State.tick_astat (s : State) : (s.tick).astat = s.astat := rfl
@[simp] theorem State.tick_pinPend (s : State) : (s.tick).pinPend = s.pinPend := rfl
@[simp] theorem State.tick_pinFrom (s : State) : (s.tick).pinFrom = s.pinFrom := rfl
@[simp] theorem State.tick_pinHigh (s : State) : (s.tick).pinHigh = s.pinHigh := rfl
@[simp] theorem State.tick_tbLast (s : State) : (s.tick).tbLast = s.tbLast := rfl
@[simp] theorem State.tick_pinCause (s : State) : (s.tick).pinCause = s.pinCause := rfl
@[simp] theorem State.tick_memHeld (s : State) : (s.tick).memHeld = s.memHeld := rfl
@[simp] theorem State.tick_fnow (s : State) : (s.tick).fnow = s.fnow := rfl
@[simp] theorem State.tick_lnow (s : State) : (s.tick).lnow = s.lnow := rfl
@[simp] theorem State.tick_evt (s : State) : (s.tick).evt = s.evt := rfl
@[simp] theorem State.tick_synEvt (s : State) : (s.tick).synEvt = s.synEvt := rfl
@[simp] theorem State.tick_winNow (s : State) : (s.tick).winNow = s.winNow := rfl
@[simp] theorem State.tick_claimNow (s : State) : (s.tick).claimNow = s.claimNow := rfl
@[simp] theorem State.tick_canNow (s : State) : (s.tick).canNow = s.canNow := rfl
@[simp] theorem State.tick_enow (s : State) : (s.tick).enow = s.enow := rfl
@[simp] theorem State.tick_pinBase (s : State) : (s.tick).pinBase = s.pinBase := rfl
@[simp] theorem State.tick_pendBase (s : State) : (s.tick).pendBase = s.pendBase := rfl
@[simp] theorem State.tick_dlNow (s : State) : (s.tick).dlNow = s.dlNow := rfl
@[simp] theorem State.tick_flash (s : State) : (s.tick).flash = s.flash := rfl
@[simp] theorem State.tick_seCnt (s : State) : (s.tick).seCnt = s.seCnt := rfl
@[simp] theorem State.tick_sePaired (s : State) : (s.tick).sePaired = s.sePaired := rfl
@[simp] theorem State.tick_floors (s : State) : (s.tick).floors = s.floors := rfl
@[simp] theorem State.tick_seed (s : State) : (s.tick).seed = s.seed := rfl
@[simp] theorem State.tick_manifest (s : State) : (s.tick).manifest = s.manifest := rfl
@[simp] theorem State.tick_images (s : State) : (s.tick).images = s.images := rfl
@[simp] theorem State.tick_seAtBoot (s : State) : (s.tick).seAtBoot = s.seAtBoot := rfl
@[simp] theorem State.tick_fbEver (s : State) : (s.tick).fbEver = s.fbEver := rfl
@[simp] theorem State.tick_dbgEver (s : State) : (s.tick).dbgEver = s.dbgEver := rfl
@[simp] theorem State.tick_chal (s : State) : (s.tick).chal = s.chal := rfl
@[simp] theorem State.tick_mr (s : State) : (s.tick).mr = s.mr := rfl
@[simp] theorem State.tick_mrCnt (s : State) : (s.tick).mrCnt = s.mrCnt := rfl
@[simp] theorem State.tick_mbxAns (s : State) : (s.tick).mbxAns = s.mbxAns := rfl
@[simp] theorem State.tick_regions (s : State) : (s.tick).regions = s.regions := rfl
@[simp] theorem State.tick_mpLock (s : State) : (s.tick).mpLock = s.mpLock := rfl
@[simp] theorem State.tick_mail (s : State) : (s.tick).mail = s.mail := rfl
@[simp] theorem State.tick_mailWait (s : State) : (s.tick).mailWait = s.mailWait := rfl
@[simp] theorem State.tick_restarts (s : State) : (s.tick).restarts = s.restarts := rfl
@[simp] theorem State.tick_restartAt (s : State) : (s.tick).restartAt = s.restartAt := rfl
@[simp] theorem State.tick_restartHold (s : State) : (s.tick).restartHold = s.restartHold := rfl
@[simp] theorem State.tick_down (s : State) : (s.tick).down = s.down := rfl
@[simp] theorem State.tick_cplOwed (s : State) : (s.tick).cplOwed = s.cplOwed := rfl
@[simp] theorem State.tick_halted (s : State) : (s.tick).halted = s.halted := rfl
@[simp] theorem State.tick_bundle (s : State) : (s.tick).bundle = s.bundle := rfl
@[simp] theorem State.tick_active (s : State) : (s.tick).active = s.active := rfl
@[simp] theorem State.tick_actEnd (s : State) : (s.tick).actEnd = s.actEnd := rfl
@[simp] theorem State.tick_revert (s : State) : (s.tick).revert = s.revert := rfl
@[simp] theorem State.tick_deferAt (s : State) : (s.tick).deferAt = s.deferAt := rfl
@[simp] theorem State.tick_emgEnd (s : State) : (s.tick).emgEnd = s.emgEnd := rfl
@[simp] theorem State.tick_ranSince (s : State) : (s.tick).ranSince = s.ranSince := rfl
@[simp] theorem State.tick_injAt (s : State) : (s.tick).injAt = s.injAt := rfl
@[simp] theorem State.tick_raiseAt (s : State) : (s.tick).raiseAt = s.raiseAt := rfl
@[simp] theorem State.tick_tapOut (s : State) : (s.tick).tapOut = s.tapOut := rfl
@[simp] theorem State.tick_tapPend (s : State) : (s.tick).tapPend = s.tapPend := rfl
@[simp] theorem State.tick_vdd (s : State) : (s.tick).vdd = s.vdd := rfl
@[simp] theorem State.tick_beatMin (s : State) : (s.tick).beatMin = s.beatMin := rfl
@[simp] theorem State.tick_beatWin (s : State) : (s.tick).beatWin = s.beatWin := rfl
@[simp] theorem State.tick_beatGated (s : State) : (s.tick).beatGated = s.beatGated := rfl
@[simp] theorem State.tick_wake (s : State) : (s.tick).wake = s.wake := rfl
@[simp] theorem State.tick_wakeKind (s : State) : (s.tick).wakeKind = s.wakeKind := rfl
@[simp] theorem State.tick_standby (s : State) : (s.tick).standby = s.standby := rfl
@[simp] theorem State.tick_gateAt (s : State) : (s.tick).gateAt = s.gateAt := rfl
@[simp] theorem State.tick_heldWake (s : State) : (s.tick).heldWake = s.heldWake := rfl
@[simp] theorem State.tick_wakeSig (s : State) : (s.tick).wakeSig = s.wakeSig := rfl
@[simp] theorem State.tick_entryAt (s : State) : (s.tick).entryAt = s.entryAt := rfl
@[simp] theorem State.tick_thHot (s : State) : (s.tick).thHot = s.thHot := rfl
@[simp] theorem State.tick_thCool (s : State) : (s.tick).thCool = s.thCool := rfl
@[simp] theorem State.tick_thTop (s : State) : (s.tick).thTop = s.thTop := rfl
@[simp] theorem State.tick_thStep (s : State) : (s.tick).thStep = s.thStep := rfl
@[simp] theorem State.tick_heldPads (s : State) : (s.tick).heldPads = s.heldPads := rfl

end Sys2Proof.Machine
end

