-- ==== Sys2Proof/Laws/Tab.lean ====
section
/-! SUPPORT. Tables and bit fields: what is found after a change, and that every change keeps the keys rising. -/
namespace Sys2Proof.Machine

/-! ## What is found after a change -/

@[simp] theorem tabFind_tabPut_same {α : Type} (t : Tab α) (k : Nat) (v : α) : tabFind (tabPut t k v) k = some v := by
  induction t with
  | nil => simp [tabPut, tabFind]
  | cons p t ih =>
    obtain ⟨j, u⟩ := p
    simp only [tabPut]
    split
    · simp [tabFind]
    · split
      · simp [tabFind]
      · rename_i h; simp [tabFind, h, ih]

theorem tabFind_tabPut_ne {α : Type} (t : Tab α) {k j : Nat} (v : α) (h : j ≠ k) :
    tabFind (tabPut t k v) j = tabFind t j := by
  induction t with
  | nil => simp [tabPut, tabFind, h]
  | cons p t ih =>
    obtain ⟨i, u⟩ := p
    simp only [tabPut]
    split
    · simp [tabFind, h]
    · split
      · rename_i h2; subst h2; simp [tabFind, h]
      · simp only [tabFind]; rw [ih]

@[simp] theorem tabFind_tabDel_same {α : Type} (t : Tab α) (k : Nat) : tabFind (tabDel t k) k = none := by
  induction t with
  | nil => simp [tabDel, tabFind]
  | cons p t ih =>
    obtain ⟨j, u⟩ := p
    simp only [tabDel]
    split
    · exact ih
    · rename_i h; simp [tabFind, h, ih]

theorem tabFind_tabDel_ne {α : Type} (t : Tab α) {k j : Nat} (h : j ≠ k) : tabFind (tabDel t k) j = tabFind t j := by
  induction t with
  | nil => simp [tabDel, tabFind]
  | cons p t ih =>
    obtain ⟨i, u⟩ := p
    simp only [tabDel]
    split
    · rename_i h2; subst h2; simp [tabFind, h, ih]
    · simp only [tabFind]; rw [ih]

@[simp] theorem tabGet_tabPut_same {α : Type} (d : α) (t : Tab α) (k : Nat) (v : α) : tabGet d (tabPut t k v) k = v := by
  simp [tabGet]

theorem tabGet_tabPut_ne {α : Type} (d : α) (t : Tab α) {k j : Nat} (v : α) (h : j ≠ k) :
    tabGet d (tabPut t k v) j = tabGet d t j := by simp [tabGet, tabFind_tabPut_ne t v h]

@[simp] theorem tabGet_tabDel_same {α : Type} (d : α) (t : Tab α) (k : Nat) : tabGet d (tabDel t k) k = d := by
  simp [tabGet]

theorem tabGet_tabDel_ne {α : Type} (d : α) (t : Tab α) {k j : Nat} (h : j ≠ k) :
    tabGet d (tabDel t k) j = tabGet d t j := by simp [tabGet, tabFind_tabDel_ne t h]

@[simp] theorem tabGet_tabSet_same {α : Type} [DecidableEq α] (d : α) (t : Tab α) (k : Nat) (v : α) :
    tabGet d (tabSet d t k v) k = v := by
  simp only [tabSet]
  split
  · rename_i h; simp [h]
  · simp

theorem tabGet_tabSet_ne {α : Type} [DecidableEq α] (d e : α) (t : Tab α) {k j : Nat} (v : α) (h : j ≠ k) :
    tabGet d (tabSet e t k v) j = tabGet d t j := by
  simp only [tabSet]
  split
  · exact tabGet_tabDel_ne d t h
  · exact tabGet_tabPut_ne d t v h

/-! ## Keys stay rising -/

/-- Every key of a table is above `k`. -/
def tabAbove {α : Type} (k : Nat) (t : Tab α) : Prop := ∀ p ∈ t, k < p.1

theorem tabRising_cons {α : Type} (p : Nat × α) (t : Tab α) :
    tabRising (p :: t) = true ↔ tabAbove p.1 t ∧ tabRising t = true := by
  induction t generalizing p with
  | nil => simp [tabRising, tabAbove]
  | cons q t ih =>
    simp only [tabRising, Bool.and_eq_true, decide_eq_true_eq]
    rw [ih q]
    constructor
    · rintro ⟨h1, h2, h3⟩
      refine ⟨?_, h2, h3⟩
      intro r hr
      rcases List.mem_cons.mp hr with rfl | hr
      · exact h1
      · exact lt_trans h1 (h2 r hr)
    · rintro ⟨h1, h2, h3⟩
      exact ⟨h1 q (List.mem_cons_self ..), h2, h3⟩

theorem mem_tabPut {α : Type} {t : Tab α} {k : Nat} {v : α} {p : Nat × α} (h : p ∈ tabPut t k v) :
    p = (k, v) ∨ p ∈ t := by
  induction t with
  | nil => simp [tabPut] at h; exact .inl h
  | cons q t ih =>
    obtain ⟨j, u⟩ := q
    simp only [tabPut] at h
    split at h
    · rcases List.mem_cons.mp h with h | h
      · exact .inl h
      · exact .inr h
    · split at h
      · rcases List.mem_cons.mp h with h | h
        · exact .inl h
        · exact .inr (List.mem_cons_of_mem _ h)
      · rcases List.mem_cons.mp h with h | h
        · exact .inr (h ▸ List.mem_cons_self ..)
        · rcases ih h with h | h
          · exact .inl h
          · exact .inr (List.mem_cons_of_mem _ h)

theorem mem_tabDel {α : Type} {t : Tab α} {k : Nat} {p : Nat × α} (h : p ∈ tabDel t k) : p ∈ t := by
  induction t with
  | nil => simp [tabDel] at h
  | cons q t ih =>
    obtain ⟨j, u⟩ := q
    simp only [tabDel] at h
    split at h
    · exact List.mem_cons_of_mem _ (ih h)
    · rcases List.mem_cons.mp h with h | h
      · exact h ▸ List.mem_cons_self ..
      · exact List.mem_cons_of_mem _ (ih h)

theorem tabRising_tabPut {α : Type} {t : Tab α} (k : Nat) (v : α) (h : tabRising t = true) :
    tabRising (tabPut t k v) = true := by
  induction t with
  | nil => simp [tabPut, tabRising]
  | cons q t ih =>
    obtain ⟨j, u⟩ := q
    obtain ⟨h1, h2⟩ := (tabRising_cons (j, u) t).mp h
    simp only [tabPut]
    split
    · rename_i hk
      refine (tabRising_cons _ _).mpr ⟨?_, h⟩
      intro p hp
      rcases List.mem_cons.mp hp with rfl | hp
      · exact hk
      · exact lt_trans hk (h1 p hp)
    · split
      · rename_i hk; subst hk; exact (tabRising_cons _ _).mpr ⟨h1, h2⟩
      · rename_i hk hj
        refine (tabRising_cons _ _).mpr ⟨?_, ih h2⟩
        intro p hp
        rcases mem_tabPut hp with rfl | hp
        · show j < k; omega
        · exact h1 p hp

theorem tabRising_tabDel {α : Type} {t : Tab α} (k : Nat) (h : tabRising t = true) : tabRising (tabDel t k) = true := by
  induction t with
  | nil => simp [tabDel, tabRising]
  | cons q t ih =>
    obtain ⟨j, u⟩ := q
    obtain ⟨h1, h2⟩ := (tabRising_cons (j, u) t).mp h
    simp only [tabDel]
    split
    · exact ih h2
    · exact (tabRising_cons _ _).mpr ⟨fun p hp => h1 p (mem_tabDel hp), ih h2⟩

theorem tabRising_filter {α : Type} {t : Tab α} (f : Nat × α → Bool) (h : tabRising t = true) :
    tabRising (t.filter f) = true := by
  induction t with
  | nil => simp [tabRising]
  | cons q t ih =>
    obtain ⟨h1, h2⟩ := (tabRising_cons q t).mp h
    simp only [List.filter]
    split
    · exact (tabRising_cons _ _).mpr ⟨fun p hp => h1 p (List.mem_of_mem_filter hp), ih h2⟩
    · exact ih h2

theorem tabRising_tabSet {α : Type} [DecidableEq α] {t : Tab α} (d : α) (k : Nat) (v : α) (h : tabRising t = true) :
    tabRising (tabSet d t k v) = true := by
  simp only [tabSet]
  split
  · exact tabRising_tabDel k h
  · exact tabRising_tabPut k v h

/-! ## Bit fields -/

theorem bitsOf_lt (v hi lo : Nat) : bitsOf v hi lo < 2 ^ (hi + 1 - lo) := Nat.mod_lt _ (Nat.two_pow_pos _)

theorem low_lt {x y a b : Nat} (hx : x < a) (hy : y < b) : x + y * a < a * b := by
  calc x + y * a < a + y * a := Nat.add_lt_add_right hx _
    _ = a * (y + 1) := by ring
    _ ≤ a * b := Nat.mul_le_mul_left a hy

/-- A replaced field reads as the low bits of what was put. -/
theorem bitsOf_bitsPut_same (v f : Nat) {hi lo : Nat} (h : lo ≤ hi) :
    bitsOf (bitsPut v hi lo f) hi lo = f % 2 ^ (hi + 1 - lo) := by
  have e : 2 ^ (hi + 1) = 2 ^ lo * 2 ^ (hi + 1 - lo) := by rw [← Nat.pow_add]; congr 1; omega
  have p : 0 < 2 ^ lo := Nat.two_pow_pos _
  simp only [bitsOf, bitsPut, e]
  generalize 2 ^ (hi + 1 - lo) = w
  generalize hz : v / (2 ^ lo * w) = z
  have hx : v % 2 ^ lo < 2 ^ lo := Nat.mod_lt _ p
  have : v % 2 ^ lo + f % w * 2 ^ lo + z * (2 ^ lo * w) = v % 2 ^ lo + 2 ^ lo * (f % w + z * w) := by ring
  rw [this, Nat.add_mul_div_left _ _ p, Nat.div_eq_of_lt hx, Nat.zero_add, Nat.add_mul_mod_self_right, Nat.mod_mod]

/-- A field above a replaced one reads as before. -/
theorem bitsOf_bitsPut_above (v f : Nat) {hi lo h2 l2 : Nat} (h : lo ≤ hi) (h' : hi < l2) :
    bitsOf (bitsPut v hi lo f) h2 l2 = bitsOf v h2 l2 := by
  have e : 2 ^ (hi + 1) = 2 ^ lo * 2 ^ (hi + 1 - lo) := by rw [← Nat.pow_add]; congr 1; omega
  have e2 : 2 ^ l2 = 2 ^ (hi + 1) * 2 ^ (l2 - (hi + 1)) := by rw [← Nat.pow_add]; congr 1; omega
  have hx : v % 2 ^ lo < 2 ^ lo := Nat.mod_lt _ (Nat.two_pow_pos _)
  have hy : f % 2 ^ (hi + 1 - lo) < 2 ^ (hi + 1 - lo) := Nat.mod_lt _ (Nat.two_pow_pos _)
  have hlow : v % 2 ^ lo + f % 2 ^ (hi + 1 - lo) * 2 ^ lo < 2 ^ (hi + 1) := by
    rw [e]; exact low_lt hx hy
  simp only [bitsOf, bitsPut, e2]
  rw [← Nat.div_div_eq_div_mul, ← Nat.div_div_eq_div_mul, Nat.add_mul_div_right _ _ (Nat.two_pow_pos _),
    Nat.div_eq_of_lt hlow, Nat.zero_add]

/-- A field below a replaced one reads as before. -/
theorem bitsOf_bitsPut_below (v f : Nat) {hi lo h2 l2 : Nat} (h : lo ≤ hi) (h' : h2 < lo) :
    bitsOf (bitsPut v hi lo f) h2 l2 = bitsOf v h2 l2 := by
  have e : 2 ^ (hi + 1) = 2 ^ lo * 2 ^ (hi + 1 - lo) := by rw [← Nat.pow_add]; congr 1; omega
  have key : bitsPut v hi lo f % 2 ^ lo = v % 2 ^ lo := by
    simp only [bitsPut, e]
    have : v % 2 ^ lo + f % 2 ^ (hi + 1 - lo) * 2 ^ lo + v / (2 ^ lo * 2 ^ (hi + 1 - lo)) * (2 ^ lo * 2 ^ (hi + 1 - lo))
        = v % 2 ^ lo + 2 ^ lo * (f % 2 ^ (hi + 1 - lo) + v / (2 ^ lo * 2 ^ (hi + 1 - lo)) * 2 ^ (hi + 1 - lo)) := by ring
    rw [this, Nat.add_mul_mod_self_left, Nat.mod_mod]
  have red : ∀ x : Nat, bitsOf x h2 l2 = bitsOf (x % 2 ^ lo) h2 l2 := by
    intro x
    by_cases hl : l2 ≤ h2
    · have e1 : 2 ^ lo = 2 ^ l2 * 2 ^ (lo - l2) := by rw [← Nat.pow_add]; congr 1; omega
      have e2 : 2 ^ (lo - l2) = 2 ^ (h2 + 1 - l2) * 2 ^ (lo - (h2 + 1)) := by rw [← Nat.pow_add]; congr 1; omega
      simp only [bitsOf]
      rw [e1, Nat.mod_mul_right_div_self, e2, Nat.mod_mul_right_mod]
    · have : h2 + 1 - l2 = 0 := by omega
      simp [bitsOf, this, Nat.mod_one]
  rw [red, key, ← red]

theorem bitsPut_lt (v f : Nat) {hi lo n : Nat} (h : lo ≤ hi) (hn : hi < n) (hv : v < 2 ^ n) : bitsPut v hi lo f < 2 ^ n := by
  have e : 2 ^ (hi + 1) = 2 ^ lo * 2 ^ (hi + 1 - lo) := by rw [← Nat.pow_add]; congr 1; omega
  have e2 : 2 ^ n = 2 ^ (hi + 1) * 2 ^ (n - (hi + 1)) := by rw [← Nat.pow_add]; congr 1; omega
  have hx : v % 2 ^ lo < 2 ^ lo := Nat.mod_lt _ (Nat.two_pow_pos _)
  have hy : f % 2 ^ (hi + 1 - lo) < 2 ^ (hi + 1 - lo) := Nat.mod_lt _ (Nat.two_pow_pos _)
  have hlow : v % 2 ^ lo + f % 2 ^ (hi + 1 - lo) * 2 ^ lo < 2 ^ (hi + 1) := by rw [e]; exact low_lt hx hy
  have hq : v / 2 ^ (hi + 1) < 2 ^ (n - (hi + 1)) := by
    rw [Nat.div_lt_iff_lt_mul (Nat.two_pow_pos _)]; rw [e2] at hv; linarith [Nat.mul_comm (2 ^ (hi + 1)) (2 ^ (n - (hi + 1)))]
  simp only [bitsPut]
  rw [e2]
  exact low_lt hlow hq

/-- Bit `i` is the field `[i:i]`. -/
theorem bitOf_eq (v i : Nat) : bitOf v i = (bitsOf v i i == 1) := by
  simp [bitOf, bitsOf]

end Sys2Proof.Machine
end

