-- ==== Sys2Proof/Laws/Regs.lean ====
section
/-! SUPPORT. The accessors of the state over its updates: a register, a field, a core, a ferry read after a write. -/
namespace Sys2Proof.Machine

/-! ## Registers -/

@[simp] theorem reg_setReg_same (s : State) (off : Nat) (v : DWord) : (s.setReg off v).reg off = v := by
  have h := tabGet_tabSet_same (regReset off) s.regs off v
  simp only [State.reg, State.setReg, tabGet] at h ⊢
  split <;> simp_all

theorem reg_setReg_ne (s : State) {off o : Nat} (v : DWord) (h : o ≠ off) : (s.setReg off v).reg o = s.reg o := by
  have e : tabFind (tabSet (regReset off) s.regs off v) o = tabFind s.regs o := by
    simp only [tabSet]
    split
    · exact tabFind_tabDel_ne s.regs h
    · exact tabFind_tabPut_ne s.regs v h
  simp only [State.reg, State.setReg, e]

theorem reg_setFld_ne (s : State) {off o : Nat} (hi lo v : Nat) (h : o ≠ off) : (s.setFld off hi lo v).reg o = s.reg o :=
  reg_setReg_ne s _ h

theorem reg_setFlag_ne (s : State) {off o : Nat} (i : Nat) (b : Bool) (h : o ≠ off) : (s.setFlag off i b).reg o = s.reg o :=
  reg_setReg_ne s _ h

theorem reg_setFld_toNat (s : State) (off : Nat) {hi lo : Nat} (v : Nat) (h : lo ≤ hi) (hh : hi < 64) :
    ((s.setFld off hi lo v).reg off).toNat = bitsPut (s.reg off).toNat hi lo v := by
  simp only [State.setFld, reg_setReg_same, BitVec.toNat_ofNat]
  exact Nat.mod_eq_of_lt (bitsPut_lt _ _ h hh (s.reg off).isLt)

/-- A field reads as what was put, cut to its width. -/
theorem fld_setFld_same (s : State) (off : Nat) {hi lo : Nat} (v : Nat) (h : lo ≤ hi) (hh : hi < 64) :
    (s.setFld off hi lo v).fld off hi lo = v % 2 ^ (hi + 1 - lo) := by
  rw [State.fld, reg_setFld_toNat s off v h hh, bitsOf_bitsPut_same _ _ h]

/-- A field of another register, or one that does not overlap, reads as before. -/
theorem fld_setFld_apart (s : State) {off o hi lo h2 l2 : Nat} (v : Nat) (h : lo ≤ hi) (hh : hi < 64)
    (hd : o ≠ off ∨ hi < l2 ∨ h2 < lo) : (s.setFld off hi lo v).fld o h2 l2 = s.fld o h2 l2 := by
  by_cases e : o = off
  · subst e
    rw [State.fld, reg_setFld_toNat s o v h hh]
    rcases hd with hd | hd | hd
    · exact absurd rfl hd
    · exact bitsOf_bitsPut_above _ _ h hd
    · exact bitsOf_bitsPut_below _ _ h hd
  · rw [State.fld, reg_setFld_ne s hi lo v e]; rfl

theorem flag_setFlag_same (s : State) (off : Nat) {i : Nat} (b : Bool) (h : i < 64) : (s.setFlag off i b).flag off i = b := by
  rw [State.flag, bitOf_eq, State.setFlag, reg_setFld_toNat s off _ (le_refl i) h, bitsOf_bitsPut_same _ _ (le_refl i)]
  cases b <;> simp [boolNat]

theorem flag_setFlag_apart (s : State) {off o i j : Nat} (b : Bool) (h : i < 64) (hd : o ≠ off ∨ i ≠ j) :
    (s.setFlag off i b).flag o j = s.flag o j := by
  have := fld_setFld_apart s (off := off) (o := o) (hi := i) (lo := i) (h2 := j) (l2 := j) (boolNat b) (le_refl i) h
    (by rcases hd with h | h <;> omega)
  simp only [State.fld] at this
  simp only [State.flag, bitOf_eq, State.setFlag, this]

theorem flag_setFld_apart (s : State) {off o hi lo j : Nat} (v : Nat) (h : lo ≤ hi) (hh : hi < 64)
    (hd : o ≠ off ∨ hi < j ∨ j < lo) : (s.setFld off hi lo v).flag o j = s.flag o j := by
  have := fld_setFld_apart s (off := off) (o := o) (h2 := j) (l2 := j) v h hh hd
  simp only [State.fld] at this
  simp only [State.flag, bitOf_eq, this]

/-! ## Cores and ferries -/

theorem core_congr {s t : State} (h : t.cores = s.cores) (c : Nat) : t.core c = s.core c := by rw [State.core, h]; rfl
theorem ferry_congr {s t : State} (h : t.ferries = s.ferries) (f : Nat) : t.ferry f = s.ferry f := by rw [State.ferry, h]; rfl
theorem reg_congr {s t : State} (h : t.regs = s.regs) (o : Nat) : t.reg o = s.reg o := by rw [State.reg, h]; rfl

/-- A field that every step of a fold keeps is kept by the fold. -/
theorem foldl_keeps {α β : Type} (g : State → β) (f : State → α → State) (h : ∀ t x, g (f t x) = g t) (l : List α)
    (s : State) : g (l.foldl f s) = g s := by
  induction l generalizing s with
  | nil => rfl
  | cons x l ih => rw [List.foldl_cons, ih, h]


@[simp] theorem core_setCore_same (s : State) (c : Nat) (k : Core) : (s.setCore c k).core c = k := by
  simp [State.core, State.setCore]

theorem core_setCore_ne (s : State) {c d : Nat} (k : Core) (h : d ≠ c) : (s.setCore c k).core d = s.core d := by
  simp only [State.core, State.setCore]; exact tabGet_tabPut_ne _ _ _ h

@[simp] theorem core_setRegs_same (s : State) (c : Nat) (r : CoreRegs) :
    (s.setRegs c r).core c = { s.core c with regs := r } := core_setCore_same s c _

theorem core_setRegs_ne (s : State) {c d : Nat} (r : CoreRegs) (h : d ≠ c) : (s.setRegs c r).core d = s.core d :=
  core_setCore_ne s _ h

@[simp] theorem ferry_setFerry_same (s : State) (f : Nat) (k : Ferry) : (s.setFerry f k).ferry f = k := by
  simp [State.ferry, State.setFerry]

theorem ferry_setFerry_ne (s : State) {f g : Nat} (k : Ferry) (h : g ≠ f) : (s.setFerry f k).ferry g = s.ferry g := by
  simp only [State.ferry, State.setFerry]; exact tabGet_tabPut_ne _ _ _ h

theorem tabPut_tabPut_same {α : Type} (t : Tab α) (k : Nat) (u v : α) : tabPut (tabPut t k u) k v = tabPut t k v := by
  induction t with
  | nil => simp [tabPut]
  | cons p t ih =>
    obtain ⟨j, x⟩ := p
    simp only [tabPut]
    split
    · simp [tabPut]
    · split
      · simp [tabPut]
      · rename_i h1 h2; simp [tabPut, h1, h2, ih]

@[simp] theorem setCore_setCore_same (s : State) (c : Nat) (k l : Core) : (s.setCore c k).setCore c l = s.setCore c l := by
  simp [State.setCore, tabPut_tabPut_same]

/-- A program counter moved after a register update is one register update. -/
theorem setPc_setRegs (s : State) (c pc : Nat) (r : CoreRegs) :
    (s.setRegs c r).setPc c pc = s.setRegs c { r with pc := pc, resume := none, tile := [], stall := none } := by
  simp [State.setPc, State.setRegs]

theorem setPc_eq (s : State) (c pc : Nat) :
    s.setPc c pc = s.setRegs c { (s.core c).regs with pc := pc, resume := none, tile := [], stall := none } := rfl

/-! ## Scalar, predicate, descriptor and vector registers -/

theorem getS_setS (r : CoreRegs) (i j : Nat) (v : DWord) : (r.setS i v).getS j = if j = i then v else r.getS j := by
  simp only [CoreRegs.getS, CoreRegs.setS]
  split
  · rename_i h; subst h; exact tabGet_tabSet_same 0 r.s j v
  · rename_i h; exact tabGet_tabSet_ne 0 0 r.s v h

theorem getV_setV (r : CoreRegs) (i l j m : Nat) (v : Word) :
    (r.setV i l v).getV j m = if 128 * j + m = 128 * i + l then v else r.getV j m := by
  simp only [CoreRegs.getV, CoreRegs.setV]
  split
  · rename_i h; rw [h]; exact tabGet_tabSet_same 0 r.v _ v
  · rename_i h; exact tabGet_tabSet_ne 0 0 r.v v h

theorem getT_setT (r : CoreRegs) (i j : Nat) (d : TileDesc) : (r.setT i d).getT j = if j = i then d else r.getT j := by
  simp only [CoreRegs.getT, CoreRegs.setT]
  by_cases h : j = i
  · subst h
    rw [tabGet_tabSet_ne (0 : DWord) 0 _ d.w1 (by omega : 2 * j ≠ 2 * j + 1)]
    simp
  · rw [tabGet_tabSet_ne (0 : DWord) 0 _ d.w1 (by omega : 2 * j ≠ 2 * i + 1),
      tabGet_tabSet_ne (0 : DWord) 0 _ d.w0 (by omega : 2 * j ≠ 2 * i),
      tabGet_tabSet_ne (0 : DWord) 0 _ d.w1 (by omega : 2 * j + 1 ≠ 2 * i + 1),
      tabGet_tabSet_ne (0 : DWord) 0 _ d.w0 (by omega : 2 * j + 1 ≠ 2 * i)]
    simp [h]

theorem getLsbD_bitOf {n : Nat} (v : BitVec n) (i : Nat) : v.getLsbD i = bitOf v.toNat i := by
  simp [BitVec.getLsbD, Nat.testBit_eq_decide_div_mod_eq, bitOf, Bool.beq_eq_decide_eq]

theorem getP_setP (r : CoreRegs) {i j : Nat} (b : Bool) (hi : i < 8) (hj : j < 8) :
    (r.setP i b).getP j = if j = i then j == 0 || b else r.getP j := by
  simp only [CoreRegs.setP, CoreRegs.getP]
  split
  · rename_i h; subst h; split <;> simp_all
  · have hv := Nat.mod_eq_of_lt (bitsPut_lt r.p.toNat (boolNat b) (le_refl i) hi r.p.isLt)
    simp only [getLsbD_bitOf, BitVec.toNat_ofNat, hv, bitOf_eq]
    rcases Nat.lt_trichotomy j i with h | h | h
    · rw [bitsOf_bitsPut_below _ _ (le_refl i) h, if_neg (by omega)]
    · subst h; rw [bitsOf_bitsPut_same _ _ (le_refl j)]; cases b <;> simp [boolNat]
    · rw [bitsOf_bitsPut_above _ _ (le_refl i) h, if_neg (by omega)]

theorem lanes_length (r : CoreRegs) (i : Nat) : (r.lanes i).length = 128 := by simp [CoreRegs.lanes]

theorem getV_setLanesFrom (r : CoreRegs) (i n : Nat) (l : List Word) (j m : Nat) :
    (r.setLanesFrom i n l).getV j m =
      if 128 * i + n ≤ 128 * j + m ∧ 128 * j + m < 128 * i + n + l.length then l.getD (128 * j + m - (128 * i + n)) 0
      else r.getV j m := by
  induction l generalizing r n with
  | nil => simp [CoreRegs.setLanesFrom]
  | cons v t ih =>
    rw [CoreRegs.setLanesFrom, ih, getV_setV]
    simp only [List.length_cons]
    by_cases h : 128 * j + m = 128 * i + n
    · simp [h]
    · by_cases h2 : 128 * i + (n + 1) ≤ 128 * j + m ∧ 128 * j + m < 128 * i + (n + 1) + t.length
      · have e : 128 * j + m - (128 * i + n) = (128 * j + m - (128 * i + (n + 1))) + 1 := by omega
        rw [if_pos h2, if_pos (by omega), e, List.getD_cons_succ]
      · rw [if_neg h2, if_neg h, if_neg (by omega)]

/-- The 128 lanes of a vector register after they are written. -/
theorem getV_setLanes (r : CoreRegs) (i j m : Nat) (l : List Word) (hl : l.length = 128) (hm : m < 128) :
    (r.setLanes i l).getV j m = if j = i then l.getD m 0 else r.getV j m := by
  rw [CoreRegs.setLanes, getV_setLanesFrom, hl]
  by_cases h : j = i
  · subst h; rw [if_pos (by omega), if_pos rfl]; congr 1; omega
  · rw [if_neg (by omega), if_neg h]

theorem setLanesFrom_eq (r : CoreRegs) (i n : Nat) (l : List Word) :
    r.setLanesFrom i n l = { r with v := (r.setLanesFrom i n l).v } := by
  induction l generalizing r n with
  | nil => rfl
  | cons v t ih => rw [CoreRegs.setLanesFrom, ih]; rfl

/-- Writing lanes changes nothing else of the registers. -/
theorem setLanes_eq (r : CoreRegs) (i : Nat) (l : List Word) : r.setLanes i l = { r with v := (r.setLanes i l).v } :=
  setLanesFrom_eq r i 0 l

end Sys2Proof.Machine
end

