-- ==== Sys2Proof/Laws/Issue.lean ====
section
/-! SUPPORT. Issuing one instruction: everything `issueOn` can answer, case by case, and how an instruction's end settles. -/
namespace Sys2Proof.Machine

variable {touch : Core → IWord → Touch} {row enc : IWord → Bool} {body : IWord → State → IRes} {c : Nat} {s : State} {w : IWord}

/-- A core that may not issue is left as it is. -/
theorem issueOn_idle (h : s.canIssue c = false) : issueOn touch row enc body c s = s := by simp [issueOn, h]

/-- A fetch past the harbour ends the command (R97). -/
theorem issueOn_outside (h : s.canIssue c = true) (hf : s.fetch c = .outside) :
    issueOn touch row enc body c s = s.endSliceCmd c stInvalidProgram := by simp [issueOn, h, hf]

/-- An uncorrectable word under the program counter is reported and ends the command. -/
theorem issueOn_bad {wd : Nat} {ic : Bool} (h : s.canIssue c = true) (hf : s.fetch c = .bad wd ic) :
    issueOn touch row enc body c s = (s.eccFetch c wd ic).endSliceCmd c stEcc := by simp [issueOn, h, hf]

/-- An unassigned opcode ends the command (R118). -/
theorem issueOn_unassigned (h : s.canIssue c = true) (hf : s.fetch c = .word w) (ho : opcAssigned w.opc = false) :
    issueOn touch row enc body c s = (s.fetched c w).endSliceCmd c stInvalidProgram := by simp [issueOn, h, hf, ho]

/-- A word of another row does not issue here. -/
theorem issueOn_other (h : s.canIssue c = true) (hf : s.fetch c = .word w) (ho : opcAssigned w.opc = true)
    (hr : row w = false) : issueOn touch row enc body c s = s := by simp [issueOn, h, hf, ho, hr]

/-- A failed encoding check ends the command (R95). -/
theorem issueOn_illegal (h : s.canIssue c = true) (hf : s.fetch c = .word w) (ho : opcAssigned w.opc = true)
    (hr : row w = true) (he : enc w = false) :
    issueOn touch row enc body c s = (s.fetched c w).endSliceCmd c stInvalidProgram := by
  simp [issueOn, h, hf, ho, hr, he]

/-- A predicate that reads 0 only moves the program counter (R96). -/
theorem issueOn_skip (h : s.canIssue c = true) (hf : s.fetch c = .word w) (ho : opcAssigned w.opc = true)
    (hr : row w = true) (he : enc w = true) (hp : ((s.fetched c w).core c).regs.getP w.pred = false) :
    issueOn touch row enc body c s = (s.fetched c w).setPc c (((s.fetched c w).core c).regs.pc + w.len) := by
  simp [issueOn, h, hf, ho, hr, he, hp]

/-- An instruction that meets what an earlier one still touches does not issue yet (R104). -/
theorem issueOn_clash (h : s.canIssue c = true) (hf : s.fetch c = .word w) (ho : opcAssigned w.opc = true)
    (hr : row w = true) (he : enc w = true) (hp : ((s.fetched c w).core c).regs.getP w.pred = true)
    (hc : ((s.fetched c w).core c).regs.clash (w.foot (touch ((s.fetched c w).core c) w)) = true) :
    issueOn touch row enc body c s = s.fetched c w := by
  simp [issueOn, h, hf, ho, hr, he, hp, hc]

/-- Otherwise the body decides. -/
theorem issueOn_body (h : s.canIssue c = true) (hf : s.fetch c = .word w) (ho : opcAssigned w.opc = true)
    (hr : row w = true) (he : enc w = true) (hp : ((s.fetched c w).core c).regs.getP w.pred = true)
    (hc : ((s.fetched c w).core c).regs.clash (w.foot (touch ((s.fetched c w).core c) w)) = false) :
    issueOn touch row enc body c s
      = (body w (s.fetched c w)).issued c ((s.fetched c w).core c).regs.pc (s.fetched c w).upNs w
          (w.foot (touch ((s.fetched c w).core c) w)) := by
  simp [issueOn, h, hf, ho, hr, he, hp, hc]

/-- A completed instruction moves the program counter past itself. -/
theorem issued_done {pc since : Nat} {f : Foot} (t : State) :
    (IRes.done t).issued c pc since w f = t.setPc c (pc + w.len) := rfl

/-- A taken branch moves it to its target. -/
theorem issued_jump {pc since : Nat} {f : Foot} (t : State) (p : Nat) :
    (IRes.jump t p).issued c pc since w f = t.setPc c p := rfl

theorem issued_fail {pc since : Nat} {f : Foot} (t : State) (st : Nat) :
    (IRes.fail t st).issued c pc since w f = t.endSliceCmd c st := rfl

theorem issued_stop {pc since : Nat} {f : Foot} (t : State) : (IRes.stop t).issued c pc since w f = t := rfl

/-- A body that rewrites the registers alone. -/
theorem issued_regs {pc since : Nat} {f : Foot} (g : CoreRegs → CoreRegs) :
    (IRes.regs s c g).issued c pc since w f
      = s.setRegs c { g (s.core c).regs with pc := pc + w.len, resume := none, tile := [], stall := none } := by
  rw [IRes.regs, issued_done, setPc_setRegs]

end Sys2Proof.Machine
end

