-- ==== Sys2Proof/Laws/Memory.lean ====
section
/-! SUPPORT. Stores (memory, lagoons, accumulators): a read after a write, and the canonical form under every operation. -/
namespace Sys2Proof.Machine

variable {w : Nat}

/-! ## A read after a write -/

theorem write_regions (m : Store w) (a : Nat) (v : BitVec w) : (m.write a v).regions = m.regions := by
  simp only [Store.write]; split <;> rfl

@[simp] theorem read_write_same (m : Store w) (a : Nat) (v : BitVec w) : (m.write a v).read a = v := by
  simp only [Store.write]
  split
  · simp [Store.read]
  · rename_i h
    simp only [Store.read, tabSet]
    by_cases hv : v = 0
    · rw [if_pos hv, tabFind_tabDel_same]
      simp only [Store.dflt]
      exact hv.symm
    · rw [if_neg hv, tabFind_tabPut_same]

theorem read_write_ne (m : Store w) {a b : Nat} (v : BitVec w) (h : b ≠ a) : (m.write a v).read b = m.read b := by
  simp only [Store.write]
  split
  · simp only [Store.read, tabFind_tabPut_ne m.cells v h]; rfl
  · simp only [Store.read, tabSet]
    by_cases hv : v = 0
    · rw [if_pos hv, tabFind_tabDel_ne m.cells h]; rfl
    · rw [if_neg hv, tabFind_tabPut_ne m.cells v h]; rfl

/-- Cells after a run of writes: the written ones hold what was written, the others what they held. -/
theorem read_writeN (m : Store w) (a : Nat) (l : List (BitVec w)) (b : Nat) :
    (m.writeN a l).read b = if a ≤ b ∧ b < a + l.length then l.getD (b - a) 0 else m.read b := by
  induction l generalizing m a with
  | nil => rw [Store.writeN, if_neg (by simp only [List.length_nil]; omega)]
  | cons v t ih =>
    rw [Store.writeN, ih]
    simp only [List.length_cons]
    by_cases h : a + 1 ≤ b ∧ b < a + 1 + t.length
    · rw [if_pos h, if_pos (by omega), show b - a = (b - (a + 1)) + 1 by omega, List.getD_cons_succ]
    · rw [if_neg h]
      by_cases hb : b = a
      · subst hb; rw [if_pos (by omega)]; simp
      · rw [read_write_ne m v hb, if_neg (by omega)]

@[simp] theorem readN_length (m : Store w) (a n : Nat) : (m.readN a n).length = n := by
  induction n generalizing a with
  | zero => rfl
  | succ n ih => simp [Store.readN, ih]

theorem readN_getD (m : Store w) (a n i : Nat) (h : i < n) (d : BitVec w) : (m.readN a n).getD i d = m.read (a + i) := by
  induction n generalizing a i with
  | zero => omega
  | succ n ih =>
    cases i with
    | zero => simp [Store.readN]
    | succ i => rw [Store.readN, List.getD_cons_succ, ih _ _ (by omega)]; congr 1; omega

/-! ## The canonical form -/

theorem mem_tabClear {α : Type} {t : Tab α} {lo n : Nat} {p : Nat × α} (h : p ∈ tabClear t lo n) :
    p ∈ t ∧ ¬ (lo ≤ p.1 ∧ p.1 < lo + n) := by
  unfold tabClear at h
  rw [List.mem_filter] at h
  refine ⟨h.1, ?_⟩
  have := h.2
  simp only [Bool.or_eq_true, decide_eq_true_eq] at this
  omega

/-- The canonical form, clause by clause. -/
theorem wf_iff (m : Store w) : m.wf = true ↔ tabRising m.cells = true ∧
    ∀ p ∈ m.cells, (∀ g, regionOf m.regions p.1 ≠ some (some g)) → p.2 ≠ 0 := by
  simp only [Store.wf, Bool.and_eq_true, List.all_eq_true]
  refine and_congr_right fun _ => forall₂_congr fun p _ => ?_
  cases h : regionOf m.regions p.1 with
  | none => simp
  | some r => cases r <;> simp

theorem wf_write {m : Store w} (a : Nat) (v : BitVec w) (h : m.wf = true) : (m.write a v).wf = true := by
  rw [wf_iff] at h ⊢
  obtain ⟨h1, h2⟩ := h
  simp only [Store.write]
  split
  · rename_i g hg
    refine ⟨tabRising_tabPut a v h1, fun p hp hn => ?_⟩
    rcases mem_tabPut hp with rfl | hp
    · exact absurd hg (hn g)
    · exact h2 p hp hn
  · refine ⟨tabRising_tabSet 0 a v h1, fun p hp hn => ?_⟩
    simp only [tabSet] at hp
    split at hp
    · exact h2 p (mem_tabDel hp) hn
    · rename_i hv
      rcases mem_tabPut hp with rfl | hp
      · exact hv
      · exact h2 p hp hn

theorem wf_writeN {m : Store w} (a : Nat) (l : List (BitVec w)) (h : m.wf = true) : (m.writeN a l).wf = true := by
  induction l generalizing m a with
  | nil => exact h
  | cons v t ih => exact ih _ (wf_write a v h)

theorem wf_undef {m : Store w} (lo n g : Nat) (h : m.wf = true) : (m.undef lo n g).wf = true := by
  rw [wf_iff] at h ⊢
  obtain ⟨h1, h2⟩ := h
  refine ⟨tabRising_filter _ h1, fun p hp hn => ?_⟩
  obtain ⟨hp, ho⟩ := mem_tabClear hp
  refine h2 p hp fun g' hg' => hn g' ?_
  simp only [Store.undef, regionOf, if_neg ho, hg']

theorem wf_zero {m : Store w} (lo n : Nat) (h : m.wf = true) : (m.zero lo n).wf = true := by
  rw [wf_iff] at h ⊢
  obtain ⟨h1, h2⟩ := h
  refine ⟨tabRising_filter _ h1, fun p hp hn => ?_⟩
  obtain ⟨hp, ho⟩ := mem_tabClear hp
  refine h2 p hp fun g' hg' => hn g' ?_
  simp only [Store.zero]
  split
  · rename_i hr; simp [hr, regionOf] at hg'
  · simp only [regionOf, if_neg ho, hg']

/-- A reset or a loss of power leaves memory canonical. -/
theorem wf_restart {m : Store 8} (g : Nat) (h : m.wf = true) : (m.restart g).wf = true := by
  rw [wf_iff] at h ⊢
  refine ⟨tabRising_filter _ h.1, fun p hp hn => ?_⟩
  simp only [Store.restart, List.mem_filter, Bool.and_eq_true, decide_eq_true_eq] at hp
  exfalso
  refine hn 0 ?_
  simp only [Store.restart, regionOf, lpddrRegion, hostRegion, hostKey] at hp ⊢
  rw [if_neg (by omega), if_pos (by omega)]

end Sys2Proof.Machine
end

