-- ==== Sys2Proof/Laws/Ops.lean ====
section
/-! SUPPORT. The shared operations of the state, each with one lemma that says everything it can change: the state after it
is the state before with the named fields replaced. -/
namespace Sys2Proof.Machine

/-- What every step of a fold keeps, the fold keeps. -/
theorem foldl_induct {α : Type} {P : State → Prop} (f : State → α → State) (h : ∀ t x, P t → P (f t x)) (l : List α)
    {s : State} (h0 : P s) : P (l.foldl f s) := by
  induction l generalizing s with
  | nil => exact h0
  | cons x l ih => exact ih (h s x h0)

/-- Of what a state holds, the registers alone differ, with the events of the shore cycle noted in them (R12). -/
def RegsDiffer (s t : State) : Prop := ∃ r e, t = { s with regs := r, evt := e }

theorem RegsDiffer.rfl (s : State) : RegsDiffer s s := ⟨s.regs, s.evt, by cases s; exact Eq.refl _⟩
theorem RegsDiffer.trans {s t u : State} (h : RegsDiffer s t) (k : RegsDiffer t u) : RegsDiffer s u := by
  obtain ⟨r, e, h⟩ := h; obtain ⟨q, f, k⟩ := k; exact ⟨q, f, by rw [k, h]⟩
theorem setReg_only (s : State) (o : Nat) (v : DWord) : RegsDiffer s (s.setReg o v) := ⟨_, s.evt, Eq.refl _⟩
theorem setFld_only (s : State) (o hi lo v : Nat) : RegsDiffer s (s.setFld o hi lo v) := ⟨_, _, Eq.refl _⟩
theorem setFlag_only (s : State) (o i : Nat) (b : Bool) : RegsDiffer s (s.setFlag o i b) := ⟨_, _, Eq.refl _⟩
theorem bumpSat_only (s : State) (o hi lo : Nat) : RegsDiffer s (s.bumpSat o hi lo) := ⟨_, _, Eq.refl _⟩
theorem bumpMod_only (s : State) (o hi lo : Nat) : RegsDiffer s (s.bumpMod o hi lo) := ⟨_, _, Eq.refl _⟩

theorem putWords_only : ∀ (l : List Byte) (s : State) (o : Nat), RegsDiffer s (s.putWords o l)
  | [], s, _ => RegsDiffer.rfl s
  | [_], s, _ => RegsDiffer.rfl s
  | [_, _], s, _ => RegsDiffer.rfl s
  | [_, _, _], s, _ => RegsDiffer.rfl s
  | _ :: _ :: _ :: _ :: l, s, o => (setReg_only s o _).trans (putWords_only l _ (o + 4))

/-- The registers with their events, the messages sent out, the events of the shore cycle and what belongs to the pins: all
that an event record, a log record or an interrupt touches beside memory. -/
structure ReportPart where
  regs : Tab DWord
  evt : Tab (DWord × DWord)
  out : List OutMsg
  enow : List EvtNow
  pins : Nat × Nat × Nat × Nat

/-- That part of a state, and a state with it replaced. -/
def State.reportPart (s : State) : ReportPart := ⟨s.regs, s.evt, s.out, s.enow, s.pinPend, s.pinCause, s.pinBase, s.pendBase⟩
def State.withReport (s : State) (x : ReportPart) : State := { s with
  regs := x.regs, evt := x.evt, out := x.out, enow := x.enow, pinPend := x.pins.1, pinCause := x.pins.2.1,
  pinBase := x.pins.2.2.1, pendBase := x.pins.2.2.2 }

/-- Nothing but that part differs. -/
def Reports (s t : State) : Prop := t = s.withReport t.reportPart

theorem Reports.rfl (s : State) : Reports s s := by cases s; exact Eq.refl _
theorem Reports.trans {s t u : State} (h : Reports s t) (k : Reports t u) : Reports s u := by
  unfold Reports at *
  rw [k, h]; rfl
theorem RegsDiffer.reports {s t : State} (h : RegsDiffer s t) : Reports s t := by
  obtain ⟨r, e, h⟩ := h; subst h; exact Eq.refl _

theorem Reports.setReg {s t : State} (h : Reports s t) (o : Nat) (v : DWord) : Reports s (t.setReg o v) :=
  h.trans (setReg_only t o v).reports
theorem Reports.setFld {s t : State} (h : Reports s t) (o hi lo v : Nat) : Reports s (t.setFld o hi lo v) :=
  h.trans (setFld_only t o hi lo v).reports
theorem Reports.setFlag {s t : State} (h : Reports s t) (o i : Nat) (b : Bool) : Reports s (t.setFlag o i b) :=
  h.trans (setFlag_only t o i b).reports
theorem Reports.bumpSat {s t : State} (h : Reports s t) (o hi lo : Nat) : Reports s (t.bumpSat o hi lo) :=
  h.trans (bumpSat_only t o hi lo).reports
theorem Reports.bumpMod {s t : State} (h : Reports s t) (o hi lo : Nat) : Reports s (t.bumpMod o hi lo) :=
  h.trans (bumpMod_only t o hi lo).reports
theorem Reports.putWords {s t : State} (h : Reports s t) (o : Nat) (l : List Byte) : Reports s (t.putWords o l) :=
  h.trans (putWords_only l t o).reports

/-- An interrupt touches a pending bit or the messages (R482). -/
theorem Reports.raise {s t : State} (h : Reports s t) (fn v : Nat) : Reports s (t.raise fn v) := by
  refine h.trans ?_
  simp only [State.raise]
  split
  · exact Reports.rfl t
  · split
    · exact (Reports.rfl t).setFlag _ _ _
    · exact Eq.refl _

theorem Reports.pinEvents {s t : State} (h : Reports s t) (l : List EvtNow) : Reports s (t.pinEvents l) := by
  refine h.trans ?_
  simp only [State.pinEvents]
  split
  · exact Reports.rfl t
  · split
    · exact Eq.refl _
    · refine Reports.setFld ?_ _ _ _ _
      split
      · exact (Reports.rfl t).setFld _ _ _ _
      · exact Reports.rfl t

/-- An event record touches that part alone (R513, R515). -/
theorem Reports.event {s t : State} (h : Reports s t) (code kind unit : Nat) (args : List Byte) :
    Reports s (t.event code kind unit args) := by
  refine h.trans ?_
  simp only [State.event]
  refine ((foldl_induct (P := fun u => Reports t u) _ (fun u x hu => hu.putWords _ _) _
    (Reports.pinEvents ?_ _)).setFld _ _ _ _).raise _ _
  split <;> exact Eq.refl _

theorem Reports.eccSector {s t : State} (h : Reports s t) (src sec : Nat) : Reports s (t.eccSector src sec) :=
  (((h.setFld _ _ _ _).setFld _ _ _ _).setFlag _ _ _).event _ _ _ _

theorem Reports.eccHarbour {s t : State} (h : Reports s t) (n word : Nat) : Reports s (t.eccHarbour n word) :=
  ((h.setFld _ _ _ _).setFlag _ _ _).event _ _ _ _

theorem Reports.eccReport {s t : State} (h : Reports s t) (src p x : Nat) : Reports s (t.eccReport src p x) := by
  unfold State.eccReport
  generalize t.phys p = b
  cases b with
  | lpddr => exact h.eccSector _ _
  | harbour i o => exact h.eccHarbour _ _
  | host => exact h
  | unmapped => exact h

/-- Nothing but registers with their events, and the lists of sectors and words that stand bad or correctable, differs. -/
def Corrected (s t : State) : Prop := ∃ r e u c h, t = { s with regs := r, evt := e, lpUe := u, lpCe := c, hbrCe := h }

theorem Corrected.rfl (s : State) : Corrected s s := ⟨s.regs, s.evt, s.lpUe, s.lpCe, s.hbrCe, by cases s; exact Eq.refl _⟩
theorem Corrected.trans {s t u : State} (h : Corrected s t) (k : Corrected t u) : Corrected s u := by
  obtain ⟨r, e, u1, c, h1, h⟩ := h; obtain ⟨r', e', u2, c', h2, k⟩ := k; exact ⟨r', e', u2, c', h2, by rw [k, h]⟩
theorem RegsDiffer.corrected {s t : State} (h : RegsDiffer s t) : Corrected s t := by
  obtain ⟨r, e, h⟩ := h; exact ⟨r, e, s.lpUe, s.lpCe, s.hbrCe, by rw [h]⟩

/-- The lists of correctable sectors and words replaced. -/
theorem Corrected.ce (s : State) (c h : List Nat) : Corrected s { s with lpCe := c, hbrCe := h } := by
  refine ⟨s.regs, s.evt, s.lpUe, c, h, ?_⟩
  cases s
  exact Eq.refl _

theorem Corrected.sectors (s : State) (p : Nat → Bool) : Corrected s (s.sectorsGood p) := by
  refine ⟨s.regs, s.evt, (s.sectorsGood p).lpUe, (s.sectorsGood p).lpCe, s.hbrCe, ?_⟩
  cases s
  exact Eq.refl _

theorem eccFix_only (s : State) (p : Nat) (l : List Nat) : Corrected s (s.eccFix p l) := by
  unfold State.eccFix
  generalize s.phys p = b
  cases b with
  | lpddr =>
    exact foldl_induct (P := fun t => Corrected s t) _ (fun t x h =>
      h.trans ((bumpSat_only t _ _ _).corrected.trans (Corrected.sectors _ _))) _ (Corrected.rfl s)
  | harbour i o =>
    exact foldl_induct (P := fun t => Corrected s t) _ (fun t x h =>
      h.trans ((bumpSat_only t _ _ _).corrected.trans (Corrected.ce _ _ _))) _ (Corrected.rfl s)
  | host => exact Corrected.rfl s
  | unmapped => exact Corrected.rfl s

/-- A correction touches that alone (R327, R346). -/
theorem eccCorrect_only (s : State) (p n : Nat) : Corrected s (s.eccCorrect p n) := eccFix_only s p _

end Sys2Proof.Machine
end

