-- ==== Sys2Proof/Laws/PhysMem.lean ====
section
/-! SUPPORT. Accesses of physical memory: what a read can do, that a harbour's address reaches that harbour, and the mark of an
access that waits. -/
namespace Sys2Proof.Machine

/-- A harbour's byte lies in that harbour, whatever MEM_CFG holds (Table 11.1). -/
theorem phys_hbr (s : State) {n off : Nat} (hn : n < 8) (ho : off < 0x800000) : s.phys (hbrAddr n off) = .harbour n off := by
  have hv : s.visible ≤ 0x8000000000 := by
    have := bitsOf_lt (s.reg Reg.MEM_CFG).toNat 25 16
    unfold State.visible State.fld
    omega
  unfold State.phys hbrAddr
  rw [if_neg (by omega), if_pos (by omega)]
  congr 1 <;> omega

/-- An access of a harbour never waits for the LPDDR5X (R329, R584). -/
theorem memBusy_hbr (s : State) {n off : Nat} (hn : n < 8) (ho : off < 0x800000) (k : Nat) : s.memBusy (hbrAddr n off) k = false := by
  unfold State.memBusy
  rw [phys_hbr s hn ho]

/-- What a read of physical memory can do: give free bytes where the memory is off, mark its command where it has to wait,
report an uncorrectable sector or word, or correct what it reads and give the bytes. -/
theorem readPhys_cases {s t : State} {src p n : Nat} {r : Option (List Byte)} (h : s.readPhys src p n = (r, t)) :
    (s.memOn p = false ∧ t = { s with free := s.free + 1 }) ∨
    (s.memOn p = true ∧ s.memBusy p n = true ∧ r = some (s.bytes p n) ∧ t = { s with memHeld := true }) ∨
    (s.memOn p = true ∧ s.memBusy p n = false ∧ (s.firstBad p n).isSome ∧ r = none ∧ Reports s t) ∨
    (s.memOn p = true ∧ s.memBusy p n = false ∧ s.firstBad p n = none ∧ r = some (t.bytes p n) ∧ Corrected s t) := by
  unfold State.readPhys at h
  cases ho : s.memOn p with
  | false =>
    rw [ho] at h
    exact .inl ⟨rfl, (congrArg Prod.snd h).symm⟩
  | true =>
    rw [ho] at h
    cases hb : s.memBusy p n with
    | true =>
      rw [hb] at h
      exact .inr (.inl ⟨rfl, rfl, (congrArg Prod.fst h).symm, (congrArg Prod.snd h).symm⟩)
    | false =>
      rw [hb] at h
      cases hx : s.firstBad p n with
      | some x =>
        rw [hx] at h
        obtain ⟨rfl, rfl⟩ := Prod.mk.inj h
        exact .inr (.inr (.inl ⟨rfl, rfl, rfl, rfl, (Reports.rfl s).eccReport src p x⟩))
      | none =>
        rw [hx] at h
        obtain ⟨rfl, rfl⟩ := Prod.mk.inj h
        exact .inr (.inr (.inr ⟨rfl, rfl, rfl, rfl, eccCorrect_only s p n⟩))

/-- No read changes memory's bytes. -/
theorem readPhys_mem (s : State) (src p n : Nat) : (s.readPhys src p n).2.mem = s.mem := by
  generalize e : s.readPhys src p n = x
  obtain ⟨r, t⟩ := x
  obtain ⟨-, h⟩ | ⟨-, -, -, h⟩ | ⟨-, -, -, -, h⟩ | ⟨-, -, -, -, _, _, _, _, _, h⟩ := readPhys_cases e
  · rw [h]
  · rw [h]
  · rw [h]; rfl
  · rw [h]

/-- A read of a harbour leaves the mark of waiting as it is. -/
theorem readPhys_hbr_memHeld (s : State) (src : Nat) {n off : Nat} (hn : n < 8) (ho : off < 0x800000) (k : Nat) :
    (s.readPhys src (hbrAddr n off) k).2.memHeld = s.memHeld := by
  have hb := memBusy_hbr s hn ho k
  generalize e : s.readPhys src (hbrAddr n off) k = x
  obtain ⟨r, t⟩ := x
  obtain ⟨-, h⟩ | ⟨-, h, -⟩ | ⟨-, -, -, -, h⟩ | ⟨-, -, -, -, _, _, _, _, _, h⟩ := readPhys_cases e
  · rw [h]
  · rw [hb] at h; cases h
  · rw [h]; rfl
  · rw [h]

/-- A command that has to wait leaves the state as it was, and any other leaves it unmarked. -/
theorem orWait_cases (s t : State) : (t.memHeld = true ∧ s.orWait t = s) ∨ (t.memHeld = false ∧ s.orWait t = t) := by
  cases h : t.memHeld
  · exact .inr ⟨rfl, by simp [State.orWait, h]⟩
  · exact .inl ⟨rfl, by simp [State.orWait, h]⟩

/-- A command that waits with its memory leaves no mark. -/
theorem orWait_memHeld {s : State} (t : State) (h : s.memHeld = false) : (s.orWait t).memHeld = false := by
  obtain ⟨-, e⟩ | ⟨k, e⟩ := orWait_cases s t
  · rw [e, h]
  · rw [e, k]

end Sys2Proof.Machine
end

