-- ==== Sys2Proof/WellFormed.lean ====
section
/-! DEFINITION. Which commands are well formed: operands within the ranges that their carriers can hold. Every command,
well formed or not, has a meaning; the statements about an operand's range rest on this check. -/
namespace Sys2Proof

/-- The widths a host access may have on the link; R13 then says which of them a register takes. -/
def widthOk (w : Nat) : Bool := [8, 16, 32, 64].contains w

/-- A CAN frame's fields (R422): 29 identifier bits, the low 18 of them 0 in an 11-bit identifier, at most 64 bytes. -/
def CanFrame.wf (f : CanFrame) : Bool :=
  decide (f.id < 2 ^ 29) && (f.ide || decide (f.id % 2 ^ 18 = 0)) && decide (f.dlc < 16) && decide (f.data.length ≤ 64)

/-- A causeway packet's fields (Table 15.5). -/
def CwPkt.wf (m : CwPkt) : Bool :=
  decide (m.prio < 8) && decide (m.system < 65536) && decide (m.src < 256) && decide (m.dst < 256) && decide (m.sport < 256)
    && decide (m.psn < 2 ^ 32) && decide (m.sch < 65536) && decide (m.dch < 65536) && decide (m.slot < 65536)
    && decide (m.offset < 2 ^ 32) && decide (m.arg < 2 ^ 32) && decide (m.arg2 < 2 ^ 32) && decide (m.data.length < 65536)

/-- A checker of Table 18.4: seven classes of a core, five of an island, the shared ones. -/
def CheckerFail.wf (f : CheckerFail) : Bool :=
  (f.kind == 1 && decide (f.unit < 64) && decide (f.cls < 7)) || (f.kind == 2 && decide (f.unit < 8) && decide (f.cls < 5))
    || (f.kind == 3 && decide (f.unit < 23) && f.cls == 0)

/-- Is a command well formed? -/
def Instr.wf : Instr → Bool
  | .registerWrite _ off width val =>
    widthOk width && decide (off < 0x4000000) && decide (val.toNat < 2 ^ Nat.max 32 width)
  | .rcRead _ off width => widthOk width && decide (off < 0x4000000)
  | .doorbell _ off width _ => widthOk width && decide (off < 0x100000)
  | .bar4Access _ wr addr len data =>
    decide (0 < len) && decide (addr + len ≤ 0x1000_0000_0000) && data.length == (if wr then len else 0)
  | .handshakeWatchdogExpiry _ group => decide (group < 256)
  | .floorSample _ rate mv => decide (rate < 65536) && decide (mv < 65536)
  | .powerLimitControl dw => decide (dw < 65536)
  | .throttleTick dw => decide (dw < 65536)
  | .linePacket _ _ _ _ data => decide (data.length < 65536)
  | .canFrameReceived _ _ f ago => f.wf && decide (ago < 1000000)
  | .canTxComplete _ delay => delay.all (fun d => decide (d < 256))
  | .canBusError _ e => decide (e.more ≤ 2)
  | .ethFrameReceived _ _ data ago => decide (data.length ≤ 16384) && decide (ago < 1000000)
  | .ethTxSlot _ sfd => decide (sfd.length ≤ 64)
  | .helloReceived _ m => m.wf
  | .creditReceived _ m => m.wf
  | .cwDataReceived _ m => m.wf
  | .cwHeaderReceived _ m => m.wf
  | .ackReceived _ m => m.wf
  | .cwAbortReceived _ m => m.wf
  | .proxyRequestReceived _ m => m.wf
  | .proxyResponseReceived _ m => m.wf
  | .injectionComplete fails => fails.all CheckerFail.wf
  | .beaconComplete _ obs => obs.length == 16
  | .tapDbgToken tok => decide (tok.length ≤ 4096)
  | .thermalSample t => t.length == 10 && t.all (fun x => decide (-32768 ≤ x) && decide (x < 32768))
  | .beatWindowEnd .. | .nop .. | .movi .. | .mov .. | .tdset .. | .add .. | .sub .. | .mul .. | .div .. | .rem ..
  | .andS .. | .orS .. | .xorS .. | .shl .. | .shr .. | .sra .. | .min .. | .max .. | .cmp .. | .cmpi .. | .plog ..
  | .tdget .. | .tdadd .. | .tdfld .. | .ld .. | .st .. | .br .. | .jal .. | .jr .. | .dbnz .. | .endSlice ..
  | .mma .. | .mmaz .. | .mmat .. | .zpc .. | .epi .. | .vld .. | .vst .. | .vlda .. | .vsta .. | .vsplat ..
  | .vext .. | .vins .. | .viota .. | .vadd .. | .vsub .. | .vmul .. | .vfma .. | .vmin .. | .vmax .. | .vdiv ..
  | .vsqrt .. | .vcmp .. | .vsel .. | .vlogic .. | .vsgn .. | .vcvti .. | .vcvtf .. | .vfn .. | .vshuf .. | .vperm ..
  | .vred .. | .tagWaitResume .. | .ringdef .. | .ringfree .. | .racq .. | .releaseSlot .. | .rrsv .. | .rcommit ..
  | .ringSlotReady .. | .tagset .. | .fbind .. | .frun .. | .fwait .. | .ffree .. | .haadd .. | .signal .. | .wait ..
  | .syncWaitRelease .. | .barrier .. | .barrierRelease .. | .reduce .. | .reducePartialArrival .. | .atb ..
  | .kvappend .. | .kvAppendService .. | .kvgather .. | .kvevict .. | .kvEvictService .. | .step .. | .rng ..
  | .digestInit .. | .digestAbs .. | .digestFin .. | .waitpwr .. | .launchAt .. | .launchRelease .. | .streamStart ..
  | .streamEnd .. | .streamLoop .. | .streamEndl .. | .streamStride .. | .streamAdd .. | .streamWrap ..
  | .streamClamp .. | .streamPad .. | .streamGather .. | .emit .. | .streamCommit .. | .streamRelease ..
  | .waittag .. | .ferryCancelAck .. | .drainComplete .. | .faultResume .. | .faultAbort .. | .faultTimeout ..
  | .faultRecordDelayed | .invalidateAll .. | .invalidateAsid .. | .invalidateRange .. | .invalidationComplete
  | .memAsWrite .. | .xtsEnable .. | .xtsKeyReady .. | .patrolScrub | .lpddrInitComplete | .frameStart ..
  | .frameEnd .. | .slotDebtPay .. | .jobSubmit .. | .jobStart .. | .decodeOverrun .. | .jobComplete ..
  | .avgReset .. | .cmdNop .. | .cmdSlices .. | .cmdGang .. | .cmdChain .. | .cmdConv .. | .cmdRagged ..
  | .commandWaitsSatisfied .. | .sliceDispatch .. | .gangDispatch .. | .lbSteal .. | .sliceStart .. | .contextSave ..
  | .contextRestore .. | .commandComplete .. | .cancelOldest .. | .cancelAll .. | .queueConfigWrite ..
  | .syncCountWrite .. | .syncErrClear .. | .partitionWrite .. | .contextConfigWrite .. | .contextStepWrite ..
  | .readmitCore .. | .readmitIsland .. | .readmitComplete .. | .tidelineEnable .. | .tidelineFrameStart
  | .channelSample .. | .spiRead .. | .dropCopy .. | .setpointRecord | .channelCommit .. | .channelSelect ..
  | .captureArm .. | .rcEntryWrite .. | .pwmCarrierStart .. | .encoderEdge .. | .canInitSet .. | .canInitClear ..
  | .canBusJoin .. | .canRecover .. | .canRecoveryComplete .. | .rxbHdrLatch .. | .canTxRequest .. | .canTxCancel ..
  | .canTxStart .. | .timebaseIncrWrite .. | .timebaseStep .. | .timebaseSetArm .. | .timebaseSet ..
  | .timesyncWrite .. | .timNowLatch .. | .triggerFire .. | .triggerPulseEnd .. | .captureEdge .. | .captureLatch ..
  | .ethCoalesceTimeout .. | .cwLinkUp .. | .cwLinkDown .. | .helloSend .. | .helloTimeout .. | .creditGrant ..
  | .creditRepeat .. | .cwSlotSend .. | .ackSend .. | .retransmitTimeout .. | .proxyAccess .. | .proxyTimeout
  | .heartbeat .. | .heartbeatTimeout | .unload .. | .rearm .. | .pfFlr | .vfFlr .. | .usb4LinkChange ..
  | .version .. | .stage | .activate | .abandon | .stageManifest | .identity | .measure | .attest | .dbgChallenge
  | .dbgUnlock | .dbgLock | .compFault .. | .restartComplete | .activationRevert | .deferredActivationStart
  | .deferralExpiry | .floorRaise .. | .logEnableWrite .. | .lockstepDiff .. | .pinsClear .. | .beaconStart ..
  | .beaconAbandon .. | .safetyFrameEnd | .deadlinePeriodicOpen .. | .deadlineExpiry .. | .deadlineEntryDisable ..
  | .boot .. | .tapDbgChal | .islandSelect .. | .enterP3 .. | .enterP4 .. | .devClear .. | .islandGate ..
  | .gateTimeout .. | .p3Entry | .p4Entry | .wakePin | .wakeTimer | .wakeSyncSignal | .domainRelease | .wakeError ..
  | .thermalStep | .porst | .sysrst | .pwrReset .. | .tapReset | .padRelease .. | .claim .. | .claimRelease ..
  | .claimQuery .. | .timebaseTick | .sensorLinkChange .. | .busMasterEnableSet .. | .pcieHotReset
  | .mailboxResponse .. => true

end Sys2Proof
end

