-- ==== Sys2Proof/Tests/Slice0.lean ====
section
/-! SUPPORT. Tests of single commands on small states, the smoke of WellFormed, and for each statement with hypotheses a named
state and operands that meet them. Expected results come from the spec's text, worked by hand. -/
namespace Sys2Proof.Tests
set_option Elab.async false
open Sys2Proof Sys2Proof.Machine Sys2Proof.Claims

/-! ## Small states -/

/-- An instruction word's first half from its fields (Table 4.5). -/
def ins (opc md dst src1 src2 imm : Nat) : Nat :=
  2 ^ 56 * opc + 2 ^ 48 * md + 2 ^ 40 * dst + 2 ^ 32 * src1 + 2 ^ 24 * src2 + imm

/-- A word of eight bytes. -/
def one (w1 : Nat) : IWord := ⟨w1, 0⟩

/-- A word of sixteen bytes (LONG is bit 55). -/
def two (w1 w2 : Nat) : IWord := ⟨w1 + 2 ^ 55, w2⟩

/-- A slice of queue 0, alone in its command. -/
def slice0 : Slice where
  q := 0
  idx := 0
  nslice := 1
  argp := 0
  entry := 0
  ctx := 0
  part := 0
  prio := 0
  step := 0
  gang := false
  stage := 0
  sidx := 0
  rt := false
  pwr := false
  digest := false
  place := none
  stripes := []
  seq := 0

/-- Registers at slice start with these scalars. -/
def regs0 (s : List (Nat × DWord)) : CoreRegs := { CoreRegs.init with s := s }

/-- Core 0 as it runs `sl` with registers `r`. -/
def core0 (sl : Slice) (r : CoreRegs) : Core := { Core.init with regs := r, mode := .running, slice := some sl }

/-- The command of queue 0: SLICES of one slice, which runs. -/
def cmd0 : Cmd where
  idx := 0
  kind := 1
  flags := 0
  nslice := 1
  tag := 0
  argp := 0
  entry := 0
  waits := []
  sigs := []
  ctx := 0
  part := 0
  prio := 0
  rt := false
  pwr := false
  cfg := 0
  prov := []
  cores := [0]
  step := 0
  phase := .running
  since := 0
  begun := true
  todo := []
  live := 1
  status := 0
  prop := false
  dl := false
  late := false
  pre := false
  bcn := false
  ndc := 0
  engine := 0
  endS := 0
  endNs := 0
  endCyc := 0
  endKey := 0
  ranOn := [0]
  digests := []
  acks := []
  homes := []
  stages := []
  conv := []

/-- The block awake, with its islands and its memory on, and the memory initialised. -/
def base : State := { State.reset with regs := [(Reg.MEM_CFG, 0xE00005), (Reg.PWR_STAT, 0xFF00)], wake := [], standby := false }

/-- That block, but core 0 is `k` and the first words of island 0's harbour are `w`. -/
def runs (k : Core) (w : IWord) : State :=
  { base with
    cores := [(0, k)]
    queues := [(0, cmd0)]
    mem := base.mem.writeN (hbrAddr 0 0) (leBytes 8 w.w1 ++ if w.long then leBytes 8 w.w2 else []) }

/-- Core 0 runs `slice0` with these scalars and this word at its program counter. -/
def sc (s : List (Nat × DWord)) (w : IWord) : State := runs (core0 slice0 (regs0 s)) w

/-- Scalar register `i` of core 0 in the next state. -/
def nextS (o : Host.Outcome State Fault Refusal) (i : Nat) : Option Nat :=
  match o with
  | .next t => some ((t.core 0).regs.getS i).toNat
  | _ => none

/-- What `f` sees in the next state. -/
def seen {α : Type} (o : Host.Outcome State Fault Refusal) (f : State → α) : Option α :=
  match o with
  | .next t => some (f t)
  | _ => none


/-- The status of queue 0's command in the next state. -/
def statusOf (o : Host.Outcome State Fault Refusal) : Option Nat := (seen o (fun t => (tabFind t.queues 0).map (·.status))).join

/-- Lane `l` of vector register `i` of core 0 in the next state. -/
def nextV (o : Host.Outcome State Fault Refusal) (i l : Nat) : Option Nat := seen o (fun t => ((t.core 0).regs.getV i l).toNat)
/-! ## Scalar instructions -/

/-- Words of ADD to MAX: s2 := s0 op s1. -/
def aluWord (o : Nat) : IWord := one (ins o 0 2 0 1 0)

/-- Every instruction of the first clause of ScalarInstructionsWriteTheirDestination issues. -/
theorem witness_scalar_alu : ∀ o ∈ (List.range 13).map (· + 4), Issues o 0 (aluWord o) (sc [(0, 5), (1, 7)] (aluWord o)) := by
  decide

/-- s2 after `s2 := s0 op s1`. -/
def alu (i : Instr) (o : Nat) (a b : DWord) : Option Nat := nextS (exec i (sc [(0, a), (1, b)] (aluWord o))) 2

theorem test_add_wraps : alu (.add 0) 0x04 (-1) 1 = some 0 := by decide
theorem test_sub_borrows : alu (.sub 0) 0x05 5 7 = some (2 ^ 64 - 2) := by decide
theorem test_mul_signed : alu (.mul 0) 0x06 (-3) 5 = some (2 ^ 64 - 15) := by decide
theorem test_div_truncates : alu (.div 0) 0x07 (-7) 2 = some (2 ^ 64 - 3) := by decide
theorem test_div_by_zero : alu (.div 0) 0x07 9 0 = some 0 := by decide
theorem test_rem_sign : alu (.rem 0) 0x08 (-7) 2 = some (2 ^ 64 - 1) := by decide
theorem test_rem_by_zero : alu (.rem 0) 0x08 9 0 = some 9 := by decide
theorem test_and : alu (.andS 0) 0x09 12 10 = some 8 := by decide
theorem test_or : alu (.orS 0) 0x0A 12 10 = some 14 := by decide
theorem test_xor : alu (.xorS 0) 0x0B 12 10 = some 6 := by decide
theorem test_shl_mod_64 : alu (.shl 0) 0x0C 3 65 = some 6 := by decide
theorem test_shr_zero_fills : alu (.shr 0) 0x0D (-1) 60 = some 15 := by decide
theorem test_sra_sign_fills : alu (.sra 0) 0x0E (-8) 1 = some (2 ^ 64 - 4) := by decide
theorem test_min_signed : alu (.min 0) 0x0F (-1) 1 = some (2 ^ 64 - 1) := by decide
theorem test_max_signed : alu (.max 0) 0x10 (-1) 1 = some 1 := by decide

/-- Words of the other scalar instructions, each at a boundary of its clause: CMP and CMPI with CC 0 and 5, PLOG with 0 and 4. -/
def scalarWords : List (Nat × IWord) :=
  [(0x00, one (ins 0 0 0 0 0 0)), (0x01, one (ins 1 0 2 0 0 0xFFFFFF)), (0x01, two (ins 1 0 2 0 0 0) (2 ^ 63)),
   (0x11, one (ins 0x11 0 0x49 0 1 0)), (0x11, one (ins 0x11 0xA 0x49 0 1 0)), (0x12, one (ins 0x12 0 0x49 0 0 5)),
   (0x12, one (ins 0x12 0xA 0x49 0 0 5)), (0x13, one (ins 0x13 0 0x49 0x48 0x48 0)), (0x13, one (ins 0x13 8 0x49 0x48 0 0)),
   (0x03, one (ins 3 0 0x30 0 1 0)), (0x14, one (ins 0x14 0 2 0x30 0 1)), (0x02, one (ins 2 0 2 0 0 0)),
   (0x02, one (ins 2 0 2 0x70 0 0)), (0x02, one (ins 2 0 2 0x48 0 0)), (0x02, one (ins 2 0 0x49 0 0 0)), (0x02, one (ins 2 0 0x49 0x48 0 0)),
   (0x02, one (ins 2 0 0x31 0x30 0 0)), (0x02, one (ins 2 0 0x21 0x20 0 0)), (0x02, one (ins 2 0 0x79 0 0 0)),
   (0x15, one (ins 0x15 0 0x31 0x30 0 0)), (0x15, one (ins 0x15 2 0x31 0x30 0 5)), (0x16, one (ins 0x16 0 0x30 0 0 0)),
   (0x16, one (ins 0x16 0 0x30 0 0 5))]

theorem witness_scalar_other : ∀ p ∈ scalarWords, Issues p.1 0 p.2 (sc [(0, 5), (1, 7)] p.2) := by decide

theorem test_movi_sign_extends : nextS (exec (.movi 0) (sc [] (one (ins 1 0 2 0 0 0xFFFFFF)))) 2 = some (2 ^ 64 - 1) := by decide
theorem test_movi_long : nextS (exec (.movi 0) (sc [] (two (ins 1 0 2 0 0 0) (2 ^ 63)))) 2 = some (2 ^ 63) := by decide
theorem test_cmp_signed_less : seen (exec (.cmp 0) (sc [(0, -1), (1, 1)] (one (ins 0x11 4 0x49 0 1 0)))) (fun t => (t.core 0).regs.getP 1) = some true := by
  decide
theorem test_cmpi_unsigned_less : seen (exec (.cmpi 0) (sc [(0, -1)] (one (ins 0x12 8 0x49 0 0 1)))) (fun t => (t.core 0).regs.getP 1) = some false := by
  decide
theorem test_plog_not : seen (exec (.plog 0) (sc [] (one (ins 0x13 8 0x49 0x48 0 0)))) (fun t => (t.core 0).regs.getP 1) = some false := by decide
theorem test_tdfld_too_wide : statusOf (exec (.tdfld 0) (sc [(0, 0x8000)] (one (ins 0x16 0 0x30 0 0 0)))) = some 2 := by decide +kernel
theorem test_tdadd_moves_base : seen (exec (.tdadd 0) (sc [] (one (ins 0x15 2 0x31 0x30 0 5)))) (fun t => ((t.core 0).regs.getT 1).w0) = some 5 := by
  decide
theorem test_mov_tile_number : nextS (exec (.mov 0) (sc [] (one (ins 2 0 2 0x70 0 0)))) 2 = some 0 := by decide

/-! ## The issue gate -/

/-- The premises of EveryInstructionPassesTheIssueGate: an idle core, a program counter past the harbour, an unassigned
opcode, another row's word, an illegal encoding, a predicate that reads 0, an instruction in the way. -/
theorem witness_gate :
    State.reset.canIssue 0 = false ∧
    (runs (core0 slice0 { regs0 [] with pc := 0x80_0000 }) (one 0)).fetch 0 = .outside ∧
    (Fetches 0 (one (2 ^ 56 * 0xFF)) (sc [] (one (2 ^ 56 * 0xFF))) ∧ opcAssigned (one (2 ^ 56 * 0xFF)).opc = false) ∧
    (Fetches 0 (aluWord 4) (sc [] (aluWord 4)) ∧ (aluWord 4).opc ≠ 0x05) ∧
    (Fetches 0 (one (ins 4 1 2 0 1 0)) (sc [] (one (ins 4 1 2 0 1 0))) ∧ legal 0x04 (one (ins 4 1 2 0 1 0)) = false) ∧
    (Fetches 0 (one (ins 4 0x10 2 0 1 0)) (sc [] (one (ins 4 0x10 2 0 1 0))) ∧ legal 0x04 (one (ins 4 0x10 2 0 1 0)) = true ∧
      (regsOf (sc [] (one (ins 4 0x10 2 0 1 0))) 0).getP (one (ins 4 0x10 2 0 1 0)).pred = false) := by
  decide

/-- The last premise of the gate: a load that still waits writes s0, which the ADD reads. -/
theorem witness_gate_clash :
    let e : Fly := ⟨0, ins 0x17 8 0 1 0 0, 0, .tags false [0], 0, none, [], ⟨1, [1], [0], [], [], false⟩, 0, ⟨0, [], [], false⟩⟩
    let s := sc [] (aluWord 4)
    let t := s.setCore 0 { s.core 0 with regs := { regs0 [] with fly := [e] } }
    Fetches 0 (aluWord 4) t ∧ legal 0x04 (aluWord 4) = true ∧ (regsOf t 0).getP (aluWord 4).pred = true ∧
      (regsOf t 0).clash ((aluWord 4).foot (touchOf 0x04 (t.core 0) (aluWord 4))) = true := by
  decide
/-! ## Register accesses, doorbells, BAR4 -/

/-- The block when the device is ready (BOOT_STAGE 5, R548), the host armed (R490), queue 0 of 64 records. -/
def ready : State := ((base.setFld Reg.GLB_STATE 3 0 5).setFlag Reg.GLB_HOST 0 false).setFld (Reg.SCH_QRING 0) 4 0 6

/-- Premises of RegisterAccessesFollowTheirCodes: an access of another partition's window is of kind 2, one of a lost host of
kind 3, an unused offset of kind 1; each register of the list takes a write and a read of the PF. -/
theorem witness_register_accesses :
    ready.accessKind (.vf 0) true Reg.PWR_LIMIT 32 0 = some 2 ∧ msixWide (.host (.vf 0)) Reg.PWR_LIMIT 32 = false ∧
    ready.accessKind .pf false 0x3FFFFFC 32 0 = some 1 ∧ msixWide (.host .pf) 0x3FFFFFC 32 = false ∧
    State.reset.accessKind .pf true Reg.PWR_LIMIT 32 5 = some 3 ∧
    (∀ p ∈ [(Reg.PWR_LIMIT, 32), (Reg.MEM_FRING, 64), (Reg.LHS_WIN_S 3, 64), (Reg.SCH_QRING 5, 64), (Reg.ITK_PORT_CFG 2, 32), (Reg.MEM_ECC, 64)],
      ready.accessKind .pf true p.1 p.2 0 = none ∧ ready.accessKind .pf false p.1 p.2 0 = none) := by
  decide

theorem test_register_write_reserved_bits : seen (exec (.registerWrite (.host .pf) Reg.PWR_LIMIT 32 0xFFFFFFFF) ready)
    (fun t => t.reg Reg.PWR_LIMIT) = some 0x1FF := by decide
theorem test_rc_read_clears : seen (exec (.rcRead (.host .pf) Reg.MEM_ECC 64) { ready.setFld Reg.MEM_ECC 63 48 3 with evt := [] })
    (fun t => (bitsOf t.readData 63 48, t.fld Reg.MEM_ECC 63 48)) = some (3, 0) := by decide

/-- Premises of DoorbellsAndBar4ReachMemory: offsets at the edges of BAR2, another partition's queue, a lost host, a byte that is no
doorbell, a device not ready, a full ring's last place; BAR4 up to the last visible byte. -/
theorem witness_doorbells :
    ready.qIn 0 3 = false ∧ (∀ k, Fn.pf = .vf k → ready.qIn k 0 = true) ∧ ready.flag Reg.GLB_HOST 0 = false ∧
    State.reset.flag Reg.GLB_HOST 0 = true ∧ State.reset.fld Reg.GLB_STATE 3 0 ≠ 5 ∧
    ready.fld Reg.GLB_STATE 3 0 = 5 ∧ ((64 : Word).toNat + 2 ^ 32 - ready.qDone 0) % 2 ^ 32 ≤ ready.qDepth 0 ∧
    (∀ x, ready.visible - 1 ≤ x → x < ready.visible - 1 + 1 → x < ready.visible ∧ ∀ k, Fn.pf = .vf k → ready.inCarve k x 1 = true) ∧
    ready.ueSec = [] ∧ ready.ceSec = [] ∧ 0 < ready.visible ∧ ready.inCarve 0 0 1 = false := by
  refine ⟨by decide, by simp, by decide, by decide, by decide, by decide, by decide, ?_, rfl, rfl, by decide, by decide⟩
  intro x h1 h2
  have : 0 < ready.visible := by decide
  exact ⟨by omega, by simp⟩

theorem test_doorbell_sets_tail : seen (exec (.doorbell .pf 0 32 64) ready) (fun t => t.fld (Reg.SCH_QPTR 0) 31 0) = some 64 := by decide
theorem test_bar4_write_then_read :
    seen (exec (.bar4Access .pf true 0x1000 2 [0x34, 0x12]) ready) (fun t => seen (exec (.bar4Access .pf false 0x1000 2 []) t) (·.readData)) =
      some (some 0x1234) := by decide

/-! ## Loads, stores, control flow -/

/-- Words of LD: s2 from [s0 + imm] (modifier 8: the lagoon, plus 1: .U, plus 2 log size) and of ST: s1 to [s0 + imm]. -/
def ldWord (md imm : Nat) : IWord := one (ins 0x17 md 2 0 0 imm)
def stWord (md imm : Nat) : IWord := one (ins 0x18 md 0 0 1 imm)

/-- Premises of LoadsAndStoresMoveTheirBytes: full and empty berths, .U, the last bytes of the lagoon and of the harbour,
a misaligned address and the first address past the end. -/
theorem witness_loads_stores :
    (∀ p ∈ [(ldWord 0xF 0, 0x7FFF8), (ldWord 8 0, 0x7FFFF), (ldWord 6 0, 0x7FFFF8), (ldWord 0 0, 0), (ldWord 0xE 0, 4), (ldWord 8 0, 0x80000),
        (ldWord 0 0, 0x800000)], Issues 0x17 0 p.1 (sc [(0, BitVec.ofNat 64 p.2)] p.1)) ∧
    (∀ p ∈ [(stWord 0xF 0, 0x7FFF8), (stWord 8 0, 0x7FFFF), (stWord 6 0, 0x7FFFF8), (stWord 0 0, 0), (stWord 0xE 0, 4), (stWord 8 0, 0x80000),
        (stWord 0 0, 0x800000)], Issues 0x18 0 p.1 (sc [(0, BitVec.ofNat 64 p.2)] p.1)) ∧
    (core0 slice0 (regs0 [])).parity.contains 127 = false ∧ (core0 slice0 (regs0 [])).tags.getLsbD 127 = false ∧
    ({ core0 slice0 (regs0 []) with tags := BitVec.allOnes 128 }).tags.getLsbD 127 = true ∧
    Issues 0x17 0 (ldWord 8 0) (runs { core0 slice0 (regs0 [(0, 0x7FFFF)]) with tags := BitVec.allOnes 128 } (ldWord 8 0)) ∧
    Issues 0x18 0 (stWord 8 0) (runs { core0 slice0 (regs0 [(0, 0x7FFFF)]) with tags := BitVec.allOnes 128 } (stWord 8 0)) ∧
    (sc [] (ldWord 0 0)).hbrUe.contains (hbrAddr 0 0x7FFFF8 / 8) = false := by
  decide

theorem test_ld_harbour_byte : nextS (exec (.ld 0) (sc [] (ldWord 0 7))) 2 = some 0x17 := by decide
theorem test_ld_empty_berth_waits : seen (exec (.ld 0) (sc [] (ldWord 8 0))) (fun t => ((t.core 0).regs.fly.length, (t.core 0).regs.pc)) = some (1, 8) := by
  decide
theorem test_st_lagoon : seen (exec (.st 0) (sc [(1, 0xABCD)] (stWord 0xA 32))) (fun t => ((t.core 0).lgn.readN 31 4, (t.core 0).blive.getLsbD 0)) =
    some ([0, 0xCD, 0xAB, 0], true) := by decide
theorem test_st_past_harbour : statusOf (exec (.st 0) (sc [(0, 0x800000)] (stWord 0 0))) = some 2 := by decide +kernel

/-- A slice of a power-control command. -/
def slicePwr : Slice := { slice0 with pwr := true }

/-- A ferry with an open stream of `slice0`. -/
def stream0 : Stream where
  load := none
  prog := [0]
  op := 0
  loops := []
  pend := []
  pad := 0
  ringA := none
  ringB := none
  mem := none
  pos := 0
  q := 0
  slice := 0
  core := 0
  wait := .none
  kv := none
  conv := none
  held := []
  acqd := []
  absorbed := []
  seq := 0
  since := 0
  waitRing := none

/-- `s` with stream `st` open on ferry `f` of the slice on core 0. -/
def withStream (f : Nat) (st : Stream) (s : State) : State := s.setFerry f { Ferry.init with bound := some ⟨0, 0⟩, stream := some st }

/-- Words of BR, JAL, JR and DBNZ. -/
def brWord : IWord := one (ins 0x19 0 0 0 0 0xFFFFFF)
def jalWord : IWord := one (ins 0x1A 0 2 0 0 3)
def jrWord : IWord := one (ins 0x1B 0 0 0 0 0)
def dbnzWord : IWord := one (ins 0x1C 0 0 0 0 0xFFFFFF)

/-- Premises of ControlFlowMovesTheProgramCounter. -/
theorem witness_control_flow :
    Issues 0x19 0 brWord (sc [] brWord) ∧ Issues 0x1A 0 jalWord (sc [] jalWord) ∧
    (Issues 0x1B 0 jrWord (sc [(0, 8)] jrWord) ∧ ((regsOf (sc [(0, 8)] jrWord) 0).getS 0).toNat % 8 = 0) ∧
    (Issues 0x1B 0 jrWord (sc [(0, 12)] jrWord) ∧ ((regsOf (sc [(0, 12)] jrWord) 0).getS 0).toNat % 8 ≠ 0) ∧
    (Issues 0x1C 0 dbnzWord (sc [(0, 2)] dbnzWord) ∧ (regsOf (sc [(0, 2)] dbnzWord) 0).getS 0 ≠ 1) ∧
    (Issues 0x1C 0 dbnzWord (sc [(0, 1)] dbnzWord) ∧ (regsOf (sc [(0, 1)] dbnzWord) 0).getS 0 = 1) := by
  decide

theorem witness_end_of_slice :
    let e := one (ins 0x1D 0 0 0 0 0)
    let p := one (ins 0xE0 0 0 0 0 0)
    (∀ s ∈ [sc [] e, withStream 0 stream0 (sc [] e)], Issues 0x1D 0 e s ∧ (s.core 0).slice = some slice0 ∧ tabFind s.queues 0 = some cmd0) ∧
    (∀ s ∈ [runs (core0 slicePwr (regs0 [])) p, withStream 0 stream0 (runs (core0 slicePwr (regs0 [])) p)],
      Issues 0xE0 0 p s ∧ (s.core 0).slice = some slicePwr ∧ tabFind s.queues 0 = some cmd0) ∧
    Issues 0xE0 0 p (sc [] p) ∧ slice0.pwr = false ∧ slicePwr.pwr = true ∧
    (sc [] e).sliceStreams 0 = false ∧ (withStream 0 stream0 (sc [] e)).sliceStreams 0 = true := by
  decide

theorem test_br_back : seen (exec (.br 0) (runs (core0 slice0 { regs0 [] with pc := 0 }) (one (ins 0x19 0 0 0 0 2)))) (fun t => (t.core 0).regs.pc) = some 16 := by
  decide
theorem test_jal_links : nextS (exec (.jal 0) (sc [] jalWord)) 2 = some 8 := by decide
theorem test_dbnz_falls_through : seen (exec (.dbnz 0) (sc [(0, 1)] dbnzWord)) (fun t => (t.core 0).regs.pc) = some 8 := by decide
theorem test_end_completes_command : seen (exec (.endSlice 0) (sc [] (one (ins 0x1D 0 0 0 0 0)))) (fun t =>
    ((t.core 0).slice, (tabFind t.queues 0).map (·.phase))) = some (none, some .ended) := by decide
/-! ## Vector instructions -/

/-- Registers whose v0 and v1 hold `a` and `b` in lane 0 and s1 holds `x`. -/
def vregs (a b : Word) (x : DWord) : CoreRegs := { regs0 [(1, x)] with v := [(0, a), (128, b)] }

/-- Core 0 with those registers and the word `w`. -/
def vc (a b : Word) (x : DWord) (w : IWord) : State := runs (core0 slice0 (vregs a b x)) w

/-- Words of the vector instructions that write every lane, with their opcodes; COND and selector fields at their bounds. -/
def vecWords : List (Nat × IWord) :=
  [(0x44, one (ins 0x44 0 0x22 1 0 0)), (0x47, one (ins 0x47 0 0x22 0 0 0)), (0x47, one (ins 0x47 2 0x22 0 0 0))] ++
  ([0x48, 0x49, 0x4A, 0x4B, 0x4C, 0x4D, 0x4E].map (fun o => (o, one (ins o 0 0x22 0x20 0x21 0)))) ++
  ([0x48, 0x4E].map (fun o => (o, one (ins o 2 0x22 0x20 1 0)))) ++
  [(0x4F, one (ins 0x4F 0 0x22 0x20 0 0)), (0x52, one (ins 0x52 0 0x22 0x20 0x21 0)), (0x52, one (ins 0x52 0 0x22 0x20 0x21 3)),
   (0x53, one (ins 0x53 0 0x22 0x20 0 0)), (0x53, one (ins 0x53 0 0x22 0x20 0x21 2)), (0x54, one (ins 0x54 0 0x22 0x20 0 0)),
   (0x55, one (ins 0x55 0 0x22 0x20 0 0)), (0x50, one (ins 0x50 0 0x22 0x20 0x21 0)), (0x50, one (ins 0x50 0 0x22 0x20 0x21 6)),
   (0x51, one (ins 0x51 0 0x22 0x20 0x21 0)), (0x56, one (ins 0x56 0 0x22 0x20 0 0)),
   (0x56, one (ins 0x56 0 0x22 0x20 0 13)), (0x58, one (ins 0x58 0 0x22 0x20 0x21 0)), (0x59, one (ins 0x59 0 0x22 0x20 0 0x7F00)),
   (0x59, one (ins 0x59 0 0x22 0x20 0 5)), (0x45, one (ins 0x45 0 2 0x20 0 127)), (0x46, one (ins 0x46 0 0x22 1 0 127))] ++
  ([0, 1, 2, 3, 4].map (fun k => (0x5C, one (ins 0x5C 0 2 0x20 0 k))))

theorem witness_vector : ∀ p ∈ vecWords, Issues p.1 0 p.2 (vc 0 0 0 p.2) := by decide +kernel

theorem witness_vector_fields : Sfn.ofCode 0 ≠ none ∧ Sfn.ofCode 15 = none ∧
    (let all := (vregs 0x3F800000 0 0).lanes 0
     (f32Val (foldLanes maxI all)).eqv (f32Val ((vregs 0x3F800000 0 0).getV 0 0)) = true) := by
  decide +kernel

theorem test_vadd : nextV (exec (.vadd 0) (vc 0x3F800000 0x40000000 0 (one (ins 0x48 0 0x22 0x20 0x21 0)))) 2 0 = some 0x40400000 := by decide +kernel
theorem test_vdiv_scalar : nextV (exec (.vdiv 0) (vc 0x3F800000 0 0x40800000 (one (ins 0x4E 2 0x22 0x20 1 0)))) 2 0 = some 0x3E800000 := by decide +kernel
theorem test_vmax_zeros : nextV (exec (.vmax 0) (vc 0x80000000 0 0 (one (ins 0x4D 0 0x22 0x20 0x21 0)))) 2 0 = some 0 := by decide +kernel
theorem test_vsqrt : nextV (exec (.vsqrt 0) (vc 0x40800000 0 0 (one (ins 0x4F 0 0x22 0x20 0 0)))) 2 0 = some 0x40000000 := by decide +kernel
theorem test_vsgn_negate : nextV (exec (.vsgn 0) (vc 0x3F800000 0 0 (one (ins 0x53 0 0x22 0x20 0 1)))) 2 0 = some 0xBF800000 := by decide +kernel
theorem test_vcvtf : nextV (exec (.vcvtf 0) (vc 0xFFFFFFFF 0 0 (one (ins 0x55 0 0x22 0x20 0 0)))) 2 0 = some 0xBF800000 := by decide +kernel
theorem test_vlogic_and_not : nextV (exec (.vlogic 0) (vc 0xF0F0 0xFF00 0 (one (ins 0x52 0 0x22 0x20 0x21 3)))) 2 0 = some 0xF0 := by decide +kernel
theorem test_vcmp_cond_7 : statusOf (exec (.vcmp 0) (vc 0 0 0 (one (ins 0x50 0 0x22 0x20 0x21 7)))) = some 2 := by decide +kernel
theorem test_viota : nextV (exec (.viota 0) (vc 0 0 0 (one (ins 0x47 2 0x22 0 0 0)))) 2 3 = some 0x40400000 := by decide +kernel
theorem test_vext : nextS (exec (.vext 0) (vc 0x12345678 0 0 (one (ins 0x45 0 2 0x20 0 0)))) 2 = some 0x12345678 := by decide +kernel
/-! ## Vector loads and stores -/

/-- VLD v2 and VST of v0, BF16 at cell [s0], in rows or columns (2); VLDA and VSTA of bank 0 from row or column `ix`. -/
def vldWord' (md fmt : Nat) : IWord := one (ins 0x40 md 0x22 0 0 (2 ^ 19 * fmt))
def vstWord' (md fmt : Nat) : IWord := one (ins 0x41 md 0 0 0x20 (2 ^ 19 * fmt))

/-- Core 0 with every berth FULL, or every one EMPTY. -/
def coreTags (full : Bool) (r : CoreRegs) : Core := { core0 slice0 r with tags := if full then BitVec.allOnes 128 else 0 }

theorem witness_vector_loads_stores :
    Sound (coreTags true (regs0 [])) ∧ Sound (coreTags false (regs0 [])) ∧
    (let s := runs (coreTags true (regs0 [(0, 32752)])) (vldWord' 0 9)
     Issues 0x40 0 (vldWord' 0 9) s ∧ vecAccess (s.core 0).regs (vldWord' 0 9) = some (.bf16, (List.range 16).map (· + 32752)) ∧
       Granted (s.core 0) false false ((List.range 16).map (· + 32752))) ∧
    (let s := runs (coreTags false (regs0 [(0, 32752)])) (vstWord' 0 9)
     Issues 0x41 0 (vstWord' 0 9) s ∧ vecAccess (s.core 0).regs (vstWord' 0 9) = some (.bf16, (List.range 16).map (· + 32752)) ∧
       Granted (s.core 0) false true ((List.range 16).map (· + 32752))) ∧
    (Issues 0x40 0 (vldWord' 0 9) (sc [(0, 8)] (vldWord' 0 9)) ∧ vecAccess (regs0 [(0, 8)]) (vldWord' 0 9) = none) ∧
    (Issues 0x41 0 (vstWord' 0 9) (sc [(0, 8)] (vstWord' 0 9)) ∧ vecAccess (regs0 [(0, 8)]) (vstWord' 0 9) = none) ∧
    (∀ p ∈ [(0, 126), (2, 63), (0, 127), (2, 64)],
      Issues 0x42 0 (one (ins 0x42 p.1 0x22 0x40 0 p.2)) (sc [] (one (ins 0x42 p.1 0x22 0x40 0 p.2))) ∧
      Issues 0x43 0 (one (ins 0x43 p.1 0x40 0x20 0 p.2)) (sc [] (one (ins 0x43 p.1 0x40 0x20 0 p.2)))) := by
  refine ⟨by decide +kernel, by decide +kernel, by decide +kernel, by decide +kernel, by decide +kernel, by decide +kernel, by decide +kernel⟩

theorem test_vld_bf16 : nextV (exec (.vld 0) (runs { coreTags true (regs0 []) with lgn := (Store.empty 8).writeN 2 [0x80, 0x3F] } (vldWord' 0 9))) 2 1 =
    some 0x3F800000 := by decide +kernel
theorem test_vst_bf16 : seen (exec (.vst 0) (vc 0x3F800000 0 0 (vstWord' 1 9))) (fun t => (t.core 0).lgn.readN 0 2) = some [0x80, 0x3F] := by decide +kernel
theorem test_vlda_odd_row : statusOf (exec (.vlda 0) (sc [] (one (ins 0x42 0 0x22 0x40 0 127)))) = some 2 := by decide +kernel

/-! ## Matrix, epilogue, attention -/

/-- A tile of `rows` by `cols` elements of a format from cell `base`, its rows `pitch` cells apart; `w1` gives its other fields (Table 4.2). -/
def tile (base rows cols pitch w1 : Nat) : TileDesc :=
  ⟨BitVec.ofNat 64 (base + 2 ^ 16 * rows + 2 ^ 32 * cols + 2 ^ 48 * pitch), BitVec.ofNat 64 w1⟩

/-- Registers with t0 and t1. -/
def tregs (a b : TileDesc) : CoreRegs := { regs0 [] with t := [(0, a.w0), (1, a.w1), (2, b.w0), (3, b.w1)] }

/-- MMA, MMAZ or MMAT (`o`) of one row and one bank: t0 streamed, t1 stationary, one K-block. -/
def mmWord (o : Nat) : IWord := two (ins o 0 0x40 0x30 0x31 0) (2 ^ 16)

/-- ZPC and EPI of one row and one bank: side descriptors t0 and t1; EPI stores to t1. -/
def zpcWord : IWord := two (ins 0x23 0 0 0x30 0x31 0) 0
def epiWord : IWord := two (ins 0x24 4 0x31 0x30 0x30 0) 0

/-- Two INT8 tiles of one row of 16 elements, in cells 0 and 16. -/
def mmCore (lgn : Store 8) (full : Bool) : Core :=
  { coreTags full (tregs (tile 0 1 16 1 2) (tile 256 1 16 1 2)) with lgn := lgn }

theorem witness_matrix :
    (∀ p ∈ [(0x20, false, false), (0x21, false, true), (0x22, true, false)],
      let s := runs (mmCore (Store.empty 8) true) (mmWord p.1)
      let m := MatOp.of (s.core 0).regs (mmWord p.1) p.2.1 p.2.2
      Issues p.1 0 (mmWord p.1) s ∧ Sound (s.core 0) ∧ (s.core 0).regs.resume = none ∧ m.ok = true ∧
        ∀ kb < m.kb, ∀ x < m.m, Granted (s.core 0) m.u false (m.statCells kb ++ m.rowCells kb x)) ∧
    (let s := sc [] (mmWord 0x20)
     Issues 0x20 0 (mmWord 0x20) s ∧ Sound (s.core 0) ∧ (MatOp.of (s.core 0).regs (mmWord 0x20) false false).ok = false) := by
  decide +kernel

/-- Core 0 whose t0 has a zero point of 5, in cell 2; and one whose t0 has no format. -/
def zpCore : Core := { mmCore ((Store.empty 8).writeN 32 [5]) true with
  regs := tregs (tile 0 1 16 1 (2 + 2 ^ 39 + 2 ^ 24 * 2)) (tile 256 1 16 1 2) }
def noFmtCore : Core := { mmCore (Store.empty 8) true with regs := tregs (tile 0 1 16 1 0x1F) (tile 256 1 16 1 2) }

theorem witness_zpc :
    let k := mmCore (Store.empty 8) true
    let m := EpiOp.of k.regs zpcWord true
    let n := EpiOp.of zpCore.regs zpcWord true
    (Issues 0x23 0 zpcWord (runs k zpcWord) ∧ Sound k ∧ k.regs.resume = none) ∧ (m.ok = true ∧ ∀ x < m.m, k.zeroPoint m.xs x = 0) ∧
    (∀ x < m.m, Granted k m.u false (m.readCells x)) ∧
    (Issues 0x23 0 zpcWord (runs zpCore zpcWord) ∧ Sound zpCore ∧ zpCore.regs.resume = none) ∧ n.ok = true ∧
    (∀ x < n.m, Granted zpCore n.u false (n.readCells x)) ∧ (n.csEn = false ∧ zpCore.zeroPoint n.xs 0 ≠ 0) ∧
    (Issues 0x23 0 zpcWord (runs noFmtCore zpcWord) ∧ Sound noFmtCore ∧ (EpiOp.of noFmtCore.regs zpcWord true).ok = false) := by
  intro k m n
  exact ⟨by decide +kernel, by decide +kernel, by decide +kernel, by decide +kernel, by decide +kernel, by decide +kernel,
    by decide +kernel, by decide +kernel⟩

theorem witness_epi :
    let k := mmCore (Store.empty 8) false
    let m := EpiOp.of k.regs epiWord false
    (Issues 0x24 0 epiWord (runs k epiWord) ∧ Sound k ∧ k.regs.resume = none) ∧ (m.ok = true ∧ m.td.fmt = some .int8) ∧
    (∀ x < m.rows, Granted k m.u false (m.readCells x)) ∧ (∀ x < m.rows, Granted k m.u true (m.writeCells x)) ∧
    (∀ x < m.rows, k.zeroPoint m.xs x = 0) ∧
    (Issues 0x24 0 epiWord (runs noFmtCore epiWord) ∧ (EpiOp.of noFmtCore.regs epiWord false).ok = false) := by
  intro k m
  exact ⟨by decide +kernel, by decide +kernel, by decide +kernel, by decide +kernel, by decide +kernel, by decide +kernel⟩

/-- ATB of one row: queries t0 (BF16, 1 by 64), the 64 keys and values t1 (BF16, 128 by 64), output bank 0, probabilities in bank 4. -/
def atbWord (md : Nat) : IWord := two (ins 0xC0 md 0x40 0x30 0x31 8) 0x3F800000

/-- Core 0 for ATB with `lgn` in its lagoon; the side area of t1 lies at cell 2048. -/
def atbCore (lgn : Store 8) : Core :=
  { coreTags true (tregs (tile 0 1 64 8 9) (tile 512 128 64 8 (9 + 2 ^ 39 + 2 ^ 24 * 2048))) with lgn := lgn }

theorem witness_attention :
    (∀ p ∈ [(0, Store.empty 8), (2, (Store.empty 8).writeN 32768 [0xC0, 0xFF]), (2, (Store.empty 8).writeN 32768 [0xC1, 0xFF])],
      let s := runs (atbCore p.2) (atbWord p.1)
      let m := AtbOp.of (s.core 0).regs (atbWord p.1)
      Issues 0xC0 0 (atbWord p.1) s ∧ Sound (s.core 0) ∧ m.ok = true ∧ Granted (s.core 0) m.u false m.cells) ∧
    (let k := atbCore ((Store.empty 8).writeN 32768 [0xC0, 0xFF])
     (AtbOp.of k.regs (atbWord 2)).kpos k = 65472) ∧
    (let k := atbCore ((Store.empty 8).writeN 32768 [0xC1, 0xFF])
     65472 < (AtbOp.of k.regs (atbWord 2)).kpos k) ∧
    (Issues 0xC0 0 (atbWord 0) (sc [] (atbWord 0)) ∧ (AtbOp.of (regs0 []) (atbWord 0)).ok = false) := by
  decide +kernel

/-- 2 times 3, and −1 times 5, in the INT8 dot product of two rows of 16: 1. -/
theorem test_mma_int8 : seen (exec (.mma 0) (runs (mmCore ((((Store.empty 8).writeN 0 [2, 0xFF])).writeN 4096 [3, 5]) true) (mmWord 0x20)))
    (fun t => ((t.core 0).regs.getAcc 0 0 0, (t.core 0).regs.getSum 0 0, (t.core 0).regs.getCnt 0 0, (t.core 0).regs.live)) =
      some (0x3F800000, 1, 16, 1) := by decide +kernel
theorem test_epi_stores_int8 : seen (exec (.epi 0) (runs { mmCore (Store.empty 8) false with
      regs := { tregs (tile 0 1 16 1 2) (tile 256 1 16 1 2) with acc := (Store.empty 32).write 1 0xC0400000, live := 1 } } epiWord))
    (fun t => ((t.core 0).lgn.readN 4096 3, (t.core 0).regs.live)) = some ([0, 0xFD, 0], 0) := by decide +kernel
theorem test_atb_key_position : statusOf (exec (.atb 0) (runs (atbCore ((Store.empty 8).writeN 32768 [0xC1, 0xFF])) (atbWord 2))) = some 2 := by
  decide +kernel
/-! ## Rings, tags, ferry handles -/

/-- A lagoon ring of three one-berth slots from berth 125, with these roles, slot states and next slots. -/
def ring0 (prod cons : Nat) (st : List SlotSt) (ptr : Nat) : Ring where
  base := 125
  slots := 3
  sb := 1
  harbour := false
  prod := prod
  cons := cons
  lateNs := 0
  st := st
  head := ptr
  rsv := ptr
  tail := ptr
  acq := ptr

/-- Core 0 runs `w` with ring handle 7 as `g`. -/
def rc (g : Ring) (s : List (Nat × DWord)) (w : IWord) : State := runs (core0 slice0 { regs0 s with rings := [(7, g)] }) w

/-- Words of RACQ, RELEASE, RRSV, RCOMMIT on handle 7, and of RINGFREE. -/
def racqWord : IWord := one (ins 0x72 0 2 0x57 0 0)
def relWord : IWord := one (ins 0x73 0 0 0x57 0 0)
def rrsvWord : IWord := one (ins 0x74 0 2 0x57 0 0)
def rcommitWord : IWord := one (ins 0x75 0 0 0x57 0 0)
def ringfreeWord : IWord := one (ins 0x71 0 0 0x57 0 0)

/-- RINGDEF of handle 7: base s0, `n` slots of one berth or (2) one harbour unit, roles. -/
def ringdefWord (md n prod cons : Nat) : IWord := two (ins 0x70 md 0x57 0 0 (n - 1 + 2 ^ 9 * prod + 2 ^ 11 * cons)) 0

/-- TAGSET of `n` berths from s0 + `b`, FULL. -/
def tagsetWord (b n : Nat) : IWord := one (ins 0x76 2 0 0 0 (b + 2 ^ 7 * (n - 1)))

theorem witness_ring_slots :
    (Issues 0x72 0 racqWord (rc (ring0 1 0 [.e, .e, .f] 2) [] racqWord) ∧ Issues 0x72 0 racqWord (rc (ring0 1 0 [.e, .e, .e] 2) [] racqWord)) ∧
    (Issues 0x74 0 rrsvWord (rc (ring0 0 1 [.e, .e, .e] 2) [] rrsvWord) ∧ Issues 0x74 0 rrsvWord (rc (ring0 0 1 [.f, .f, .f] 2) [] rrsvWord)) ∧
    (Issues 0x73 0 relWord (rc (ring0 1 0 [.e, .e, .c] 2) [] relWord) ∧ Issues 0x75 0 rcommitWord (rc (ring0 0 1 [.e, .e, .p] 2) [] rcommitWord)) ∧
    (∀ p ∈ [(0x72, racqWord), (0x73, relWord), (0x74, rrsvWord), (0x75, rcommitWord)],
      Issues p.1 0 p.2 (rc (ring0 1 1 [.e, .e, .e] 0) [] p.2) ∧ Issues p.1 0 p.2 (sc [] p.2)) ∧
    (Issues 0x73 0 relWord (rc (ring0 1 0 [.e, .e, .e] 2) [] relWord) ∧ Issues 0x75 0 rcommitWord (rc (ring0 0 1 [.e, .e, .e] 2) [] rcommitWord)) ∧
    (rc (ring0 1 0 [.e, .e, .f] 2) [] racqWord).ring 0 7 = some (ring0 1 0 [.e, .e, .f] 2) := by
  decide

/-- The boundary of the lagoon (berths 125 to 127 and one further) and of the harbour (units 2,045 to 2,047), two slots, a
consumer 3 in the lagoon, equal roles, an overlap with another ring, a ring in use. -/
theorem witness_ringdef :
    (∀ p ∈ [(ringdefWord 0 3 0 1, 125), (ringdefWord 0 3 0 1, 126), (ringdefWord 2 3 0 1, 2045), (ringdefWord 2 3 3 3, 2046),
        (ringdefWord 0 2 0 1, 0), (ringdefWord 0 3 0 3, 0), (ringdefWord 0 3 1 1, 0)], Issues 0x70 0 p.1 (sc [(0, BitVec.ofNat 64 p.2)] p.1)) ∧
    (let w := ringdefWord 0 3 0 1
     let other : CoreRegs := { regs0 [(0, 123)] with rings := [(6, ring0 0 1 [.e, .e, .e] 0)] }
     Issues 0x70 0 w (runs (core0 slice0 other) w) ∧ Issues 0x70 0 w (withStream 0 { stream0 with ringA := some 7 } (sc [(0, 125)] w)) ∧
       (withStream 0 { stream0 with ringA := some 7 } (sc [(0, 125)] w)).ringBusy 0 7 = true ∧ (sc [(0, 125)] w).ringBusy 0 7 = false) := by
  decide

theorem witness_ringfree_tagset :
    (let s := rc (ring0 0 1 [.e, .e, .e] 0) [] ringfreeWord
     Issues 0x71 0 ringfreeWord s ∧ s.ringBusy 0 7 = false ∧ s.ring 0 7 ≠ none ∧
       Issues 0x71 0 ringfreeWord (withStream 0 { stream0 with ringB := some 7 } s) ∧
       (withStream 0 { stream0 with ringB := some 7 } s).ringBusy 0 7 = true) ∧
    (Issues 0x71 0 ringfreeWord (sc [] ringfreeWord) ∧ (sc [] ringfreeWord).ring 0 7 = none) ∧
    (∀ p ∈ [tagsetWord 0 128, tagsetWord 127 1, tagsetWord 127 2], Issues 0x76 0 p (sc [] p)) ∧
    Issues 0x76 0 (tagsetWord 125 1) (rc (ring0 0 1 [.e, .e, .e] 0) [] (tagsetWord 125 1)) := by
  decide

/-- An instruction of core 0 that waits, at address 0 with its first word. -/
def fly0 (w : IWord) (wt : Wait) : Fly := ⟨0, w.w1, w.w2, wt, 0, none, [], ⟨4, [], [2], [], [], false⟩, 0, ⟨0, [], [], false⟩⟩

/-- Core 0 runs on at address 8 while `w` waits for `wt`, its berths FULL or not, ring 7 as `g`. -/
def waits (w : IWord) (wt : Wait) (full : Bool) (g : Ring) : State :=
  runs { coreTags full { regs0 [] with rings := [(7, g)], fly := [fly0 w wt], pc := 8 } with mode := .running } w

theorem witness_waiting :
    (OneWaits (waits racqWord .slot false (ring0 1 0 [.e, .e, .f] 2)) 0 (fun x => x == .slot) (fly0 racqWord .slot) ∧ regKind racqWord.src1 = .g ∧
      (ring0 1 0 [.e, .e, .f] 2).st.getD 2 .e = .f ∧ (ring0 1 0 [.e, .e, .e] 2).st.getD 2 .e ≠ .f) ∧
    (OneWaits (waits rrsvWord .slot false (ring0 0 1 [.e, .e, .e] 2)) 0 (fun x => x == .slot) (fly0 rrsvWord .slot) ∧
      (ring0 0 1 [.e, .e, .e] 2).st.getD 2 .e = .e ∧ (ring0 0 1 [.f, .f, .f] 2).st.getD 2 .e ≠ .e) ∧
    (∀ full, OneWaits (waits (ldWord 8 0) (.tags false [0]) full (ring0 0 1 [.e, .e, .e] 2)) 0
        (fun x => match x with | .tags _ _ => true | _ => false) (fly0 (ldWord 8 0) (.tags false [0])) ∧
      (waits (ldWord 8 0) (.tags false [0]) full (ring0 0 1 [.e, .e, .e] 2)).core 0 = { (waits (ldWord 8 0) (.tags false [0]) full (ring0 0 1 [.e, .e, .e] 2)).core 0 with
        parity := [], lgnUe := [], lgnCe := [] } ∧
      ((waits (ldWord 8 0) (.tags false [0]) full (ring0 0 1 [.e, .e, .e] 2)).core 0).tags.getLsbD 0 = full) := by
  decide

theorem test_racq_takes_slot : seen (exec (.racq 0) (rc (ring0 1 0 [.e, .e, .f] 2) [] racqWord)) (fun t =>
    ((t.core 0).regs.getS 2, (t.ring 0 7).map (fun g => (g.st, g.acq)))) = some (32512, some ([.e, .e, .c], 0)) := by decide
theorem test_release_empties_berth : seen (exec (.releaseSlot 0) (runs { coreTags true { regs0 [] with rings := [(7, ring0 1 0 [.e, .e, .c] 2)] } with
    blive := BitVec.allOnes 128 } relWord)) (fun t => ((t.core 0).tags.getLsbD 127, (t.core 0).tags.getLsbD 126, (t.core 0).blive.getLsbD 127)) =
      some (false, true, false) := by decide
theorem test_ringdef_past_lagoon : statusOf (exec (.ringdef 0) (sc [(0, 126)] (ringdefWord 0 3 0 1))) = some 2 := by decide +kernel
theorem test_tagset_range : seen (exec (.tagset 0) (sc [] (tagsetWord 3 2))) (fun t => (t.core 0).tags) = some 24 := by decide
theorem test_ring_slot_ready : seen (exec (.ringSlotReady 0) (waits racqWord .slot false (ring0 1 0 [.e, .e, .f] 2))) (fun t =>
    ((t.core 0).regs.getS 2, (t.core 0).regs.fly.length, (t.core 0).regs.pc)) = some (32512, 0, 8) := by decide

/-- FBIND of handle 0 to KIND `k`, FRUN of handle 0 from [s0] with rings A and B of handle 7 (or none), FWAIT, FFREE. -/
def fbindWord (k : Nat) : IWord := one (ins 0x90 0 0x60 0 0 k)
def frunWord (imm : Nat) : IWord := one (ins 0x91 0 0x60 0 0x1C imm)
def fwaitWord : IWord := one (ins 0x92 0 2 0x60 0 0)
def ffreeWord : IWord := one (ins 0x93 0 0 0x60 0 0)

/-- Core 0 with `f` on its handle 0 and `w` at its program counter; the ferry as `k`. -/
def fc (h : Tab Nat) (s : List (Nat × DWord)) (f : Nat) (k : Ferry) (w : IWord) : State :=
  (runs (core0 slice0 { regs0 s with fh := h, rings := [(7, ring0 3 3 [.e, .e, .e] 0)] }) w).setFerry f k

/-- A ferry bound to handle `h` of core `c`, idle or with a stream of that slice. -/
def bound (c h : Nat) (st : Option Stream) : Ferry := { Ferry.init with bound := some ⟨c, h⟩, stream := st }

theorem witness_fbind :
    (∀ k ∈ [0, 1, 2, 5], Issues 0x90 0 (fbindWord k) (sc [] (fbindWord k))) ∧
    (Issues 0x90 0 (fbindWord 0) (fc [(0, 0)] [] 0 (bound 0 0 none) (fbindWord 0)) ∧ tabFind (regsOf (fc [(0, 0)] [] 0 (bound 0 0 none) (fbindWord 0)) 0).fh 0 = some 0) ∧
    (Issues 0x90 0 (fbindWord 0) (fc [(0, 1)] [] 1 (bound 0 0 none) (fbindWord 0)) ∧ (fc [(0, 1)] [] 1 (bound 0 0 none) (fbindWord 0)).bindWaiters 1 = [] ∧
      ((fc [(0, 1)] [] 1 (bound 0 0 none) (fbindWord 0)).ferry 0).bound = none) ∧
    (Issues 0x90 0 (fbindWord 0) (fc [(0, 1)] [] 1 (bound 0 0 (some stream0)) (fbindWord 0)) ∧
      ((fc [(0, 1)] [] 1 (bound 0 0 (some stream0)) (fbindWord 0)).ferry 1).stream.isSome = true) ∧
    (Issues 0x90 0 (fbindWord 2) (fc [] [] 128 (bound 1 0 none) (fbindWord 2)) ∧ Issues 0x90 0 (fbindWord 0) (fc [] [] 0 (bound 0 1 none) (fbindWord 0))) := by
  decide

theorem witness_frun_fwait_ffree :
    (∀ p ∈ [(fc [(0, 0)] [] 0 (bound 0 0 none) (frunWord 0x2F7), 0x2F7), (fc [(0, 0)] [] 0 (bound 0 0 (some stream0)) (frunWord 0x10), 0x10),
        (fc [(0, 0)] [] 0 { bound 0 0 none with drain := true } (frunWord 0), 0), (sc [] (frunWord 0), 0), (fc [(0, 0)] [(0, 2)] 0 (bound 0 0 none) (frunWord 0), 0),
        (fc [(0, 0)] [] 0 (bound 0 0 none) (frunWord 0x10), 0x10), (fc [(0, 0)] [] 0 (bound 0 0 none) (frunWord 0x200), 0x200)],
      Issues 0x91 0 (frunWord p.2) p.1) ∧
    ((fc [(0, 0)] [] 0 (bound 0 0 none) (frunWord 0x2F7)).ring 0 7).isSome = true ∧ (fc [(0, 0)] [] 0 (bound 0 0 none) (frunWord 0x10)).ring 0 0 = none ∧
    (∀ s ∈ [fc [(0, 0)] [] 0 (bound 0 0 none) fwaitWord, fc [(0, 0)] [] 0 (bound 0 0 (some stream0)) fwaitWord, sc [] fwaitWord], Issues 0x92 0 fwaitWord s) ∧
    (∀ s ∈ [fc [(0, 0)] [] 0 (bound 0 0 none) ffreeWord, fc [(0, 0)] [] 0 (bound 0 0 (some stream0)) ffreeWord, sc [] ffreeWord], Issues 0x93 0 ffreeWord s) := by
  decide

theorem test_fbind_kind_1 : seen (exec (.fbind 0) (sc [] (fbindWord 1))) (fun t => ((t.ferry 1).bound, tabFind (t.core 0).regs.fh 0)) =
    some (some ⟨0, 0⟩, some 1) := by decide
theorem test_frun_misaligned : statusOf (exec (.frun 0) (fc [(0, 0)] [(0, 2)] 0 (bound 0 0 none) (frunWord 0))) = some 2 := by decide +kernel
theorem test_fwait_bytes : nextS (exec (.fwait 0) (runs (core0 slice0 { regs0 [] with fh := [(0, 0)], fran := 1 }) fwaitWord |>.setFerry 0
    { bound 0 0 none with bytes := 48 })) 2 = some 48 := by decide
/-! ## Synchronisation, key-value cache, determinism -/

/-- HAADD of s1 to [s0 + imm], integer or (2) FP32; SIGNAL (2: MAX) and WAIT of object s0 with s1; LAUNCH_AT s0, s1. -/
def haaddWord (md imm : Nat) : IWord := one (ins 0x98 md 0 0 1 imm)
def signalWord (md : Nat) : IWord := one (ins 0xB0 md 0 0 1 0)
def waitWord : IWord := one (ins 0xB1 0 0 0 1 0)
def launchWord : IWord := one (ins 0xE1 0 0 0 1 0)

/-- `sc`, with partition 0 granted sync object `n` that counts `v`. -/
def syn (n : Nat) (v : DWord) (s : State) : State := (s.setFlag (Reg.SYN_CTL n) 0 true).setReg (Reg.SYN_CNT n) v

theorem witness_haadd :
    ∀ p ∈ [(haaddWord 0 0, 0x7FFFF8), (haaddWord 2 0, 0x7FFFFC), (haaddWord 0 0, 4), (haaddWord 2 0, 0x800000), (haaddWord 0 0xFFFFF8, 8)],
      Issues 0x98 0 p.1 (sc [(0, BitVec.ofNat 64 p.2)] p.1) := by
  decide

theorem witness_sync :
    (∀ p ∈ [(0xB0, signalWord 0), (0xB0, signalWord 2), (0xB1, waitWord)], ∀ n ∈ [0, 16383, 16384],
      Issues p.1 0 p.2 (syn n 5 (sc [(0, BitVec.ofNat 64 n), (1, 5)] p.2))) ∧
    (syn 16383 5 (sc [] waitWord)).granted 16383 0 = true ∧ (sc [] waitWord).granted 16383 0 = false ∧
    (5 : DWord).toNat ≤ ((syn 16383 5 (sc [] waitWord)).reg (Reg.SYN_CNT 16383)).toNat ∧
    ((syn 16383 5 (sc [] waitWord)).reg (Reg.SYN_CNT 16383)).toNat < (6 : DWord).toNat := by
  decide +kernel

theorem witness_sync_release :
    let s := syn 16383 5 (runs (core0 slice0 { regs0 [] with stall := some (.sync 16383 5) }) waitWord)
    let u := syn 16383 5 (runs (core0 slice0 { regs0 [] with stall := some (.sync 16383 6) }) waitWord)
    (s.core 0).mode = .running ∧ (s.core 0).regs.stall = some (.sync 16383 5) ∧ 5 ≤ (s.reg (Reg.SYN_CNT 16383)).toNat ∧
      (u.core 0).mode = .running ∧ (u.core 0).regs.stall = some (.sync 16383 6) ∧ (u.reg (Reg.SYN_CNT 16383)).toNat < 6 := by
  decide

/-- The timebase at one second and 3 ns. -/
def clocked (s : State) : State := { s with tbS := 1, tbNs := 3 }

theorem witness_launch :
    (∀ p ∈ [(1, 1000000000), (1, 999999999), (1, 3), (1, 4), (1, 2), (0, 999999999)],
      Issues 0xE1 0 launchWord (clocked (sc [(0, BitVec.ofNat 64 p.1), (1, BitVec.ofNat 64 p.2)] launchWord))) ∧
    (clocked (sc [] launchWord)).nowNs = 1000000003 ∧
    (let s := clocked (runs (core0 slice0 { regs0 [] with stall := some (.launch 1 3) }) launchWord)
     (s.core 0).mode = .running ∧ (s.core 0).regs.stall = some (.launch 1 3) ∧ 1000000000 * 1 + 3 ≤ s.nowNs ∧ s.nowNs < 1000000000 * 1 + 4 ∧ s.tbJump = none) := by
  decide

theorem test_signal_max_keeps : seen (exec (.signal 0) (syn 9 7 (sc [(0, 9), (1, 5)] (signalWord 2)))) (fun t => t.reg (Reg.SYN_CNT 9)) = some 7 := by decide
theorem test_signal_not_granted : statusOf (exec (.signal 0) (sc [(0, 9), (1, 5)] (signalWord 0))) = some 0x0202 := by decide +kernel
theorem test_wait_holds : seen (exec (.wait 0) (syn 9 4 (sc [(0, 9), (1, 5)] waitWord))) (fun t => (t.core 0).regs.stall) = some (some (.sync 9 5)) := by decide
theorem test_haadd_adds : seen (exec (.haadd 0) (sc [(1, 2)] (haaddWord 0 0xFF0))) (fun t => t.mem.readN (hbrAddr 0 0xFF0) 2) = some [2, 0] := by decide +kernel
theorem test_launch_late : seen (exec (.launchAt 0) (clocked (sc [(0, 1), (1, 2)] launchWord))) (fun t => ((t.core 0).regs.pc, t.fld Reg.FWM_LOG_PTR 63 32)) =
    some (8, 1) := by decide +kernel

/-- Slice `i` of a gang of `n` in queue 0. -/
def gangSlice (i n : Nat) : Slice := { slice0 with idx := i, nslice := n, gang := true }

/-- The command of a gang of two. -/
def gangCmd : Cmd := { cmd0 with kind := 2, nslice := 2, live := 2 }

/-- BARRIER 15. -/
def barrierWord : IWord := one (ins 0xB2 0 0 0 0 15)

/-- Two slices of a gang on cores 0 and 1, held at BARRIER 15 after `a` and `b` executions. -/
def atBarrier (a b : Nat) : State :=
  { base with
    cores := [(0, core0 (gangSlice 0 2) { regs0 [] with barriers := [(15, a)], stall := some (.barrier 15) }),
              (1, core0 (gangSlice 1 2) { regs0 [] with barriers := [(15, b)], stall := some (.barrier 15) })]
    queues := [(0, gangCmd)] }

theorem witness_barrier :
    (Issues 0xB2 0 barrierWord (runs (core0 (gangSlice 0 2) (regs0 [])) barrierWord) ∧ Issues 0xB2 0 barrierWord (sc [] barrierWord)) ∧
    (tabRising (atBarrier 1 1).cores = true ∧ tabFind (atBarrier 1 1).queues 0 = some gangCmd) ∧
    ((∀ r ∈ (atBarrier 1 1).liveRegs 0, tabGet 0 r.barriers 15 = 1) ∧ ((atBarrier 1 1).liveRegs 0).length = gangCmd.nslice) ∧
    (∃ r ∈ (atBarrier 1 2).liveRegs 0, ∃ r' ∈ (atBarrier 1 2).liveRegs 0, tabGet 0 r.barriers 15 < tabGet 0 r'.barriers 15) := by
  decide

/-- REDUCE of one row and one bank, group of slices 0 and 1 of RID 3, held at slice 0. -/
def reduceWord : IWord := two (ins 0xB3 0 0x40 0 0 0) (2 ^ 8 + 2 ^ 24 * 3)

/-- The two slices past their REDUCE, which waits, the holder's sum as `x`; element 0 of their banks holds 1 and 2. -/
def atReduce (x : RedSt) : State :=
  let r := fun (v : Word) (y : RedSt) =>
    { regs0 [] with acc := (Store.empty 32).write 0 v, fly := [{ fly0 reduceWord .reduce with red := y }], pc := 16 }
  { runs (core0 (gangSlice 0 2) (r 0x3F800000 x)) reduceWord with
    cores := [(0, core0 (gangSlice 0 2) (r 0x3F800000 x)), (1, core0 (gangSlice 1 2) (r 0x40000000 ⟨0, [], [], false⟩))]
    queues := [(0, gangCmd)] }

theorem witness_reduce :
    (∀ i ∈ [0, 1], Issues 0xB3 0 reduceWord (runs (core0 (gangSlice i 2) (regs0 [])) reduceWord) ∧
      (RedOp.of reduceWord).ok i 2 = true ∧ (runs (core0 (gangSlice i 2) (regs0 [])) reduceWord).redMismatch 0 (RedOp.of reduceWord) = false) ∧
    (RedOp.of reduceWord).hold = 0 ∧ (RedOp.of reduceWord).ok 2 4 = false := by
  decide

theorem witness_reduce_arrival :
    let x : RedSt := ⟨0, [0], [(0, 0x3F800000)], false⟩
    let s := atReduce x
    let o := RedOp.of reduceWord
    (OneWaits s 0 (fun w => w == .reduce) { fly0 reduceWord .reduce with red := x } ∧ OneWaits s 1 (fun w => w == .reduce) (fly0 reduceWord .reduce)) ∧
    (s.coreOf 0 1 = some 1 ∧ o.hold = 0 ∧ o.first = 0 ∧ o.g = 2 ∧ o.m = 1 ∧ s.redAscending 0 o = true) ∧
    ((s.core 0).accUe = [] ∧ (s.core 1).accUe = [] ∧ (s.core 0).accCe = [] ∧ (s.core 1).accCe = [] ∧ tabRising x.sums = true) := by
  decide +kernel

theorem test_barrier_releases : seen (exec (.barrierRelease 0 15) (atBarrier 1 1)) (fun t => ((t.core 0).regs.stall, (t.core 1).regs.pc)) = some (none, 8) := by
  decide
theorem test_barrier_not_yet : seen (exec (.barrierRelease 0 15) (atBarrier 1 2)) (fun t => (t.core 1).regs.pc) = some 0 := by decide
theorem test_reduce_last_arrival : seen (exec (.reducePartialArrival 0 1) (atReduce ⟨0, [0], [(0, 0x3F800000)], false⟩)) (fun t =>
    ((t.core 0).regs.getAcc 0 0 0, (t.core 0).regs.fly.length, (t.core 1).regs.fly.length)) = some (0x40400000, 0, 0) := by decide +kernel

/-- KVAPPEND of one token of t0 to entry s0; KVEVICT to the bound s1; KVGATHER of page 0 into ring 7 on handle 0. -/
def kvappendWord : IWord := one (ins 0xC1 0 0 0 0x30 0)
def kvevictWord : IWord := one (ins 0xC3 0 2 0 1 0)
def kvgatherWord : IWord := one (ins 0xC2 0 0x60 0 0x57 0)

/-- A BF16 tile of 128 rows of 64 in cells 0 to 1,023. -/
def kvTile : CoreRegs := tregs (tile 0 128 64 8 9) (tile 0 1 1 1 2)

/-- A request of core 0's slice at island 0, an append of one token to the entry at `va` or an eviction. -/
def kvReq (append : Bool) (va : Nat) : KvReq where
  island := 0
  q := 0
  slice := 0
  ctx := 0
  append := append
  entry := va
  dim := 64
  toks := if append then [(leBytes 128 0, leBytes 128 0)] else []
  target := 0
  sink := 0
  window := 0
  dst := 2
  fault := none
  seq := 0

theorem witness_kv_instructions :
    (Issues 0xC1 0 kvappendWord (runs (coreTags true kvTile) kvappendWord) ∧ tileOk (kvTile.getT 0) = true ∧ (kvTile.getT 0).fmt = some .bf16 ∧
      (kvTile.getT 0).rows = 128) ∧ Granted (coreTags true kvTile) false false (kvSrcCells (kvTile.getT 0) 1) ∧ Sound (coreTags true kvTile) ∧
    (Issues 0xC1 0 kvappendWord (sc [] kvappendWord) ∧ tileOk ((regs0 []).getT 0) = false) ∧ Issues 0xC3 0 kvevictWord (sc [] kvevictWord) ∧
    (let s := fun k : Ferry => (runs (core0 slice0 { regs0 [] with fh := [(0, 0)], rings := [(7, ring0 1 0 [.e, .e, .e] 0)] }) kvgatherWord).setFerry 0 k
     Issues 0xC2 0 kvgatherWord (s (bound 0 0 none)) ∧ Issues 0xC2 0 kvgatherWord (s (bound 0 0 (some stream0)))) ∧
    Issues 0xC2 0 kvgatherWord (sc [] kvgatherWord) := by
  decide +kernel

/-- Core 0's slice waits for its request at island control core 0. -/
def kvState (append : Bool) : State :=
  { waits (if append then kvappendWord else kvevictWord) .icc false (ring0 1 0 [.e, .e, .e] 0) with kv := [kvReq append 0] }

theorem witness_kv_service :
    ((sc [] kvevictWord).kvNext 0 true = none ∧ (sc [] kvevictWord).kvNext 0 false = none) ∧
    (∀ a : Bool, (kvState a).kvNext 0 a = some (kvReq a 0) ∧ (kvState a).kvOwned (kvReq a 0) = true ∧ Asks (kvState a) (kvReq a 0) 0) := by
  refine ⟨by decide, ?_⟩
  intro a
  cases a
  · exact ⟨by decide, by decide, by decide, by decide, fly0 kvevictWord .icc, rfl, rfl⟩
  · exact ⟨by decide, by decide, by decide, by decide, fly0 kvappendWord .icc, rfl, rfl⟩

theorem test_kvevict_posts : seen (exec (.kvevict 0) (sc [(0, 64), (1, 3)] kvevictWord)) (fun t => t.kv.map (fun r => (r.append, r.entry, r.target))) =
    some [(false, 64, 3)] := by decide

/-- STEP with an immediate or (2) a register; RNG in form `d` from G or (2) the entropy source; DIGEST `op` of context 3, two cells at s0. -/
def stepWord (md imm : Nat) : IWord := one (ins 0xD0 md 0 0 0 imm)
def rngWord (md d : Nat) : IWord := one (ins 0xD1 md 0x22 0 0 d)
def digestWord (op : Nat) : IWord := one (ins 0xD2 (2 * op) 0 0 0 (3 + 4 * 1))

theorem witness_determinism :
    (Issues 0xD0 0 (stepWord 0 0xFFFFFF) (sc [] (stepWord 0 0xFFFFFF)) ∧ Issues 0xD0 0 (stepWord 2 0) (sc [(0, -1)] (stepWord 2 0))) ∧
    (∀ p ∈ [(0, 0), (0, 1), (2, 1)], Issues 0xD1 0 (rngWord p.1 p.2) (sc [] (rngWord p.1 p.2))) ∧
    (∀ p ∈ [(0, 0), (1, 32766), (1, 32767), (2, 32766), (2, 32767)], Issues 0xD2 0 (digestWord p.1) (sc [(0, BitVec.ofNat 64 p.2)] (digestWord p.1)) ∧
      bitsOf (digestWord p.1).w1 50 49 = p.1) ∧
    (Granted (coreTags true (regs0 [])) false false ((List.range 2).map (· + 32766)) ∧ Granted (coreTags false (regs0 [])) false true [32766, 32767]) ∧
    (Issues 0xD2 0 (digestWord 1) (runs (coreTags true (regs0 [(0, 32766)])) (digestWord 1)) ∧
      Issues 0xD2 0 (digestWord 2) (runs (coreTags false (regs0 [(0, 32766)])) (digestWord 2))) := by
  decide +kernel

theorem test_step_register : seen (exec (.step 0) (sc [(0, -1)] (stepWord 2 0))) (fun t => ((t.core 0).regs.stream, (t.core 0).regs.block)) =
    some (2 ^ 24 - 1, 0) := by decide
theorem test_digest_abs : seen (exec (.digestAbs 0) (runs { coreTags true (regs0 []) with lgn := (Store.empty 8).writeN 31 [9] } (digestWord 1))) (fun t =>
    (tabGet [] (t.core 0).regs.digests 3).getLast?) = some (some 9) := by decide +kernel
/-- SHAKE256 of the empty string, the first bytes (FIPS 202). -/
theorem test_digest_fin : seen (exec (.digestFin 0) (sc [] (digestWord 2))) (fun t => (t.core 0).lgn.readN 0 4) = some [0x46, 0xB9, 0xDD, 0x2B] := by
  decide +kernel
/-! ## Stream programs -/

/-- An op word: code, x register, and the rest. -/
def opw (o x rest : Nat) : Nat := 2 ^ 26 * o + 2 ^ 24 * x + rest

/-- The stream of ferry 0 at op 0 of `prog`. -/
def prog0 (prog : List Nat) : Stream := { stream0 with prog := prog }

/-- Core 0's ferry `f` at op 0 of `prog`, with address registers `xs`; ring 7 of core 0 is `g`, every berth FULL or EMPTY. -/
def sf (f : Nat) (st : Stream) (xs : Tab XReg) (full : Bool) (g : Ring) : State :=
  (runs (coreTags full { regs0 [] with rings := [(7, g)] }) (one 0)).setFerry f { bound 0 0 (some st) with xs := xs }

/-- The words of the ops that change only the ferry, at the bounds of their fields. -/
def opWords : List Nat :=
  [opw 1 3 (2 ^ 23 + 0xFFFFF), opw 1 0 0, opw 3 3 0x3FFFFF, opw 4 0 (2 ^ 22 * 3), opw 5 1 0, opw 5 1 1, opw 6 2 (2 ^ 23 + 5), opw 6 2 5, opw 7 0 0xFFFF]

theorem witness_stream_ops :
    (∀ w ∈ opWords, AtOp 0 (sf 0 (prog0 [w, 0]) [] false (ring0 1 0 [.e, .e, .e] 0)) (prog0 [w, 0]) w (w / 2 ^ 26)) ∧
    (∀ p : Nat × Nat, p ∈ [(3, 0), (3, 2)] →
      let st : Stream := { prog0 [opw 2 0 0, 0] with loops := [(0, ⟨p.1, p.2, 0, [(0, 16)]⟩)] }
      AtOp 0 (sf 0 st [] false (ring0 1 0 [.e, .e, .e] 0)) st (opw 2 0 0) 2 ∧ tabFind st.loops 0 = some ⟨p.1, p.2, 0, [(0, 16)]⟩) := by
  refine ⟨?_, ?_⟩
  · intro w h
    simp only [opWords, List.mem_cons, List.not_mem_nil, or_false] at h
    rcases h with rfl | rfl | rfl | rfl | rfl | rfl | rfl | rfl | rfl <;>
      exact ⟨rfl, rfl, rfl, rfl, rfl, fun x => by simp [prog0, stream0], rfl, by decide⟩
  · intro p h
    simp only [List.mem_cons, List.not_mem_nil, or_false] at h
    rcases h with rfl | rfl <;> exact ⟨⟨rfl, rfl, rfl, rfl, rfl, fun x => by simp [prog0, stream0], rfl, by decide⟩, rfl⟩

/-- A stream that is about to load the words at an offset. -/
def loading (off : Nat) : Stream := { stream0 with load := some off, prog := [] }

theorem witness_stream_start :
    (let s := sf 0 (loading 0) [] false (ring0 1 0 [.e, .e, .e] 0)
     (s.ferry 0).stream = some (loading 0) ∧ (s.ferry 0).cancelling = none ∧ s.loadProg (ferryIsland 0) 64 0 [] = .ok [0] ∧ s.progOk 0 (loading 0) [0] = true) ∧
    (let s := (runs (core0 slice0 (regs0 [])) (one (2 ^ 26 * 0x3F))).setFerry 0 (bound 0 0 (some (loading 0)))
     s.loadProg (ferryIsland 0) 64 0 [] = .ok [2 ^ 26 * 0x3F, 0] ∧ s.progOk 0 (loading 0) [2 ^ 26 * 0x3F, 0] = false) ∧
    (let s := { base with mem := base.mem.writeN (hbrAddr 0 0) ((List.range 64).flatMap (fun _ => leBytes 4 (2 ^ 26))) }
     s.loadProg 0 64 0 [] = .noEnd) ∧
    State.reset.loadProg 0 64 0x800000 [] = .edge := by
  decide +kernel

/-- Premises of the end of a stream, of a cancellation's acknowledgement and of a drain's end. -/
theorem witness_stream_end :
    (let s := sf 0 (prog0 [0]) [] false (ring0 1 0 [.e, .e, .e] 0)
     AtOp 0 s (prog0 [0]) 0 0 ∧ NoneWaits s 0 ∧ tabFind s.queues 0 = some cmd0) ∧
    (let st := { stream0 with held := [⟨0, 7⟩] }
     let s := (sf 0 st [] false (ring0 1 0 [.e, .p, .e] 1)).setFerry 0 { bound 0 0 (some st) with cancelling := some 1 }
     (s.ferry 0).stream = some st ∧ (s.ferry 0).cancelling.isSome = true ∧ s.ring 0 7 = some (ring0 1 0 [.e, .p, .e] 1)) ∧
    (let s := (sc [] (one 0)).setFerry 0 { bound 0 0 none with drain := true }
     (s.ferry 0).drain = true ∧ NoneWaits s 0) := by
  refine ⟨⟨⟨rfl, rfl, rfl, rfl, rfl, fun x => by simp [prog0, stream0], rfl, by decide⟩, by decide, rfl⟩, by decide, by decide⟩

theorem test_stream_wrap : seen (exec (.streamWrap 0) (sf 0 (prog0 [opw 5 1 1, 0]) [] false (ring0 1 0 [.e, .e, .e] 0))) (fun t =>
    ((t.xreg 0 1).mode, (t.ferry 0).op)) = some (.wrap 64, 1) := by decide
theorem test_stream_add_negative : seen (exec (.streamAdd 0) (sf 0 (prog0 [opw 4 1 0x3FFFFF, 0]) [(1, ⟨8, 8, .none⟩)] false (ring0 1 0 [.e, .e, .e] 0)))
    (fun t => (t.xreg 0 1).x) = some 7 := by decide
theorem test_stream_end : seen (exec (.streamEnd 0) (sf 0 (prog0 [0]) [] false (ring0 1 0 [.e, .e, .e] 0))) (fun t => (t.ferry 0).stream) = some none := by decide

/-- The first 512 MiB of device virtual memory in context 0, mapped to themselves: ROOT at 0, one level-2 block that may be
read and written, granule 0 in partition 0 (Tables 11.2, 11.3). -/
def mapped (s : State) : State :=
  { (s.setReg (Reg.MEM_AS 0) (BitVec.ofNat 64 (2 ^ 63))).setFld (Reg.SCH_PART_W0 0) 35 26 1 with
    mem := { cells := (((Store.empty 8).writeN 0 (leBytes 8 0x10003)).writeN 0x10000 (leBytes 8 0xD)).cells ++ s.mem.cells, regions := [] } }

/-- An address register that points at byte `o` of the lagoon (0x2), the harbour (0x1) or virtual memory (0x0). -/
def xAt (space o : Nat) : XReg := ⟨BitVec.ofNat 64 (2 ^ 62 * space + o), BitVec.ofNat 64 (2 ^ 62 * space + o), .none⟩

theorem witness_stream_slots :
    (let st := { prog0 [opw 0x11 0 0, 0] with ringA := some 7 }
     AtOp 0 (sf 0 st [] false (ring0 1 0 [.e, .e, .p] 2)) st (opw 0x11 0 0) 0x11 ∧ (ring0 1 0 [.e, .e, .p] 2).st.getD 2 .e = .p ∧
       AtOp 0 (sf 0 st [] false (ring0 1 0 [.e, .e, .e] 2)) st (opw 0x11 0 0) 0x11) ∧
    (let st := { prog0 [opw 0x12 1 0, 0] with ringB := some 7 }
     AtOp 1 (sf 1 st [] false (ring0 0 2 [.e, .e, .c] 2)) st (opw 0x12 1 0) 0x12 ∧ (ring0 0 2 [.e, .e, .c] 2).st.getD 2 .e = .c ∧
       AtOp 1 (sf 1 st [] false (ring0 0 2 [.e, .e, .e] 2)) st (opw 0x12 1 0) 0x12) := by
  refine ⟨⟨⟨rfl, rfl, rfl, rfl, rfl, fun x => by simp [prog0, stream0], rfl, by decide⟩, rfl, ⟨rfl, rfl, rfl, rfl, rfl, fun x => by simp [prog0, stream0], rfl, by decide⟩⟩,
    ⟨⟨rfl, rfl, rfl, rfl, rfl, fun x => by simp [prog0, stream0], rfl, by decide⟩, rfl, ⟨rfl, rfl, rfl, rfl, rfl, fun x => by simp [prog0, stream0], rfl, by decide⟩⟩⟩

/-- WAITTAG of berths 126 and 127 (FULL), of 127 and one beyond; GATHER of x1 at x0's index in the harbour or in virtual memory. -/
theorem witness_waittag_gather :
    (let w := opw 0x13 0 (2 ^ 23 + 2 ^ 16)
     (∀ full, AtOp 0 (sf 0 (prog0 [w, 0]) [(0, xAt 2 (4096 * 126))] full (ring0 1 0 [.e, .e, .e] 0)) (prog0 [w, 0]) w 0x13) ∧
       effective (xAt 2 (4096 * 126)) = some (BitVec.ofNat 64 (2 ^ 63 + 4096 * 126)) ∧ bitsOf (2 ^ 63 + 4096 * 126) 18 12 + 2 = 128 ∧
       AtOp 0 (sf 0 (prog0 [w, 0]) [(0, xAt 2 (4096 * 127))] true (ring0 1 0 [.e, .e, .e] 0)) (prog0 [w, 0]) w 0x13) ∧
    (let w := opw 8 1 0
     (∀ x ∈ [xAt 1 0x7FFFFC, xAt 1 2, xAt 0 0x100, ⟨0, 8, .fence 0⟩],
       AtOp 0 (sf 0 (prog0 [w, 0]) [(0, x)] true (ring0 1 0 [.e, .e, .e] 0)) (prog0 [w, 0]) w 8) ∧
       effective ⟨0, 8, .fence 0⟩ = none ∧
       (match (mapped (sf 0 (prog0 [w, 0]) [(0, xAt 0 0x100)] true (ring0 1 0 [.e, .e, .e] 0))).vread (.ferry 0) 0 0x100 4 with
         | (.ok l, u) => l == [0, 0, 0, 0] && decide (u.ferries = (sf 0 (prog0 [w, 0]) [(0, xAt 0 0x100)] true (ring0 1 0 [.e, .e, .e] 0)).ferries)
         | _ => false) = true) := by
  refine ⟨⟨fun full => ⟨rfl, rfl, rfl, rfl, rfl, fun x => by simp [prog0, stream0], rfl, by decide⟩, by decide, by decide,
    ⟨rfl, rfl, rfl, rfl, rfl, fun x => by simp [prog0, stream0], rfl, by decide⟩⟩, ⟨?_, by decide, by decide +kernel⟩⟩
  intro x _
  exact ⟨rfl, rfl, rfl, rfl, rfl, fun x => by simp [prog0, stream0], rfl, by decide⟩

/-- EMIT of one cell: destination x0, source x1; inbound on ferry 0 (harbour to lagoon), outbound on ferry 1 (bit 16). -/
def emitWord (out : Bool) : Nat := 2 ^ 26 * 0x10 + (if out then 2 ^ 24 * 0 + 2 ^ 19 * 1 + 2 ^ 17 + 2 ^ 16 else 2 ^ 24 * 1 + 2 ^ 19 * 0 + 2 ^ 17)

theorem witness_emit :
    (∀ p ∈ [(false, [(0, xAt 2 0x7FFF0), (1, xAt 1 0x7FFFF0)]), (true, [(0, xAt 1 0x7FFFF0), (1, xAt 2 0x7FFF0)]), (false, [(0, xAt 2 8), (1, xAt 1 0)]),
        (false, [(0, ⟨0, 8, .fence 0⟩), (1, xAt 1 0)])],
      AtOp (if p.1 then 1 else 0) (sf (if p.1 then 1 else 0) (prog0 [emitWord p.1, 0]) p.2 p.1 (ring0 1 0 [.e, .e, .e] 0))
        (prog0 [emitWord p.1, 0]) (emitWord p.1) 0x10) ∧
    (∀ b, bitOf (emitWord b) 17 = true ∧ bitOf (emitWord b) 15 = false ∧ bitOf (emitWord b) 21 = false ∧ bitOf (emitWord b) 16 = b ∧ bitOf (emitWord b) 14 = false ∧
      bitsOf (emitWord b) 11 0 = 0) ∧
    (Granted (coreTags false (regs0 [])) false true [32767] ∧ Granted (coreTags true (regs0 [])) false false [32767]) ∧
    ((coreTags true (regs0 [])).tags.getLsbD 127 = !false ∧ (coreTags false (regs0 [])).tags.getLsbD 127 = !true) := by
  refine ⟨?_, by decide, by decide, by decide⟩
  intro p h
  simp only [List.mem_cons, List.not_mem_nil, or_false] at h
  rcases h with rfl | rfl | rfl | rfl <;> exact ⟨rfl, rfl, rfl, rfl, rfl, fun x => by simp [prog0, stream0], rfl, by decide⟩

theorem test_emit_inbound : seen (exec (.emit 0) (sf 0 (prog0 [emitWord false, 0]) [(0, xAt 2 0x7FFF0), (1, xAt 1 0)] false (ring0 1 0 [.e, .e, .e] 0)))
    (fun t => ((t.ferry 0).bytes, (t.ferry 0).op, (t.core 0).blive.getLsbD 127)) = some (16, 1, true) := by decide +kernel
theorem test_emit_outside : seen (exec (.emit 0) (sf 0 (prog0 [emitWord false, 0]) [(0, xAt 2 8), (1, xAt 1 0)] false (ring0 1 0 [.e, .e, .e] 0)))
    (fun t => ((t.ferry 0).err, (t.ferry 0).stream)) = some (2, none) := by decide +kernel
/-! ## The camera intake -/

/-- A harbour ring of three one-unit slots that the shore produces, with these slot states and next slots. -/
def shoreRing (st : List SlotSt) (ptr : Nat) : Ring := { ring0 3 0 st ptr with base := 0, harbour := true }

/-- Stream 0 bound to handle 7 of context 0 at island 0 with one slot a frame, frames of 4 by 1 of RAW16 on a port in use;
context 0 resident on core 0 with that ring, or with none. -/
def camera (ring : Option Ring) (x : LiveStream) : State :=
  (({ (sc [] (one 0)) with
      cores := [(0, { core0 slice0 { regs0 [] with rings := (match ring with | some r => [(7, r)] | none => []) } with resident := some 0 })] }
    |>.setReg (Reg.ITK_STR_RING 0) (BitVec.ofNat 64 (2 ^ 49 * 7 + 2 ^ 35 * 16 + 2 ^ 16 + 1))).setReg (Reg.ITK_STR_CFG 0)
      (BitVec.ofNat 64 (2 ^ 48 + 2 ^ 32 * 4 + 2 ^ 8 * 0x2E))).setFld (Reg.ITK_PORT_CFG 0) 2 0 4 |>.setLive 0 x

/-- A stream with no frame, or with this one; the 64 zero bytes are a descriptor of the whole frame. -/
def live0 (f : Option LiveFrame) (d : List SlotDebt) : LiveStream := ⟨leBytes 64 0, 0, f, d⟩

/-- A frame of 4 by 1 with the rows `l`, its output as `o`. -/
def frame0 (l : List (List Nat)) (o : SampleOut) (drop : Bool) : LiveFrame := ⟨leBytes 64 0, 4, 1, 0x2E, 0, 0, l, 0, o, drop, false, 0, 0⟩

theorem witness_live_frame_start :
    State.reset.liveOn 0 = false ∧
    (let s := camera (some (shoreRing [.e, .e, .e] 0)) (live0 none [])
     s.liveOn 0 = true ∧ (s.stream 0).frame = none ∧ s.flag (Reg.ITK_STR_CFG 0) 16 = false ∧ (s.bindRing (s.strBind 0)).isSome = true ∧ (s.stream 0).debts = [] ∧
       (SampDesc.of (s.stream 0).desc).geomOk 4 1 = true ∧ s.slotsFit (s.strBind 0) (SampDesc.of (s.stream 0).desc) 4 1 = true) ∧
    (let s := camera none (live0 none [])
     s.liveOn 0 = true ∧ (s.stream 0).frame = none ∧ (s.bindRing (s.strBind 0)).isSome = false) := by
  decide +kernel

theorem witness_live_lines :
    (let s := camera (some (shoreRing [.e, .e, .e] 0)) (live0 (some (frame0 [] ⟨0, 0, 0, false, false, 0, []⟩ false)) [])
     s.liveOn 0 = true ∧ (s.stream 0).frame = some (frame0 [] ⟨0, 0, 0, false, false, 0, []⟩ false) ∧ packOfDt 0x2E = some .be16 ∧ packOfDt 0x2C = some .p12) ∧
    (let s := camera (some (shoreRing [.e, .e, .e] 0)) (live0 (some (frame0 [[1, 2, 3, 4]] ⟨0, 0, 0, false, false, 0, []⟩ true)) [])
     s.liveOn 0 = true ∧ (s.stream 0).frame = some (frame0 [[1, 2, 3, 4]] ⟨0, 0, 0, false, false, 0, []⟩ true) ∧
       ∀ l ∈ (frame0 [[1, 2, 3, 4]] ⟨0, 0, 0, false, false, 0, []⟩ true).lines, l.length = Packing.be16.kind.n * 4) := by
  decide +kernel

theorem witness_live_frame_end :
    (camera none (live0 none [])).stream 0 = live0 none [] ∧
    (let f := frame0 [[1, 2, 3, 4]] ⟨1, 1, 1, false, false, 0, [7]⟩ false
     let s := camera (some (shoreRing [.e, .e, .e] 0)) (live0 (some f) [])
     (s.stream 0).frame = some f ∧ f.lines.length = f.h ∧ (SampDesc.of f.desc).outRows f.w f.h ≤ f.out.rows ∧ (s.strBind 0).fslots ≤ f.out.total ∧
       s.flag (Reg.ITK_STR_CFG 0) 17 = false) ∧
    (∀ st : SlotSt, st ∈ [.e, .f] →
      let r := shoreRing [.e, .e, st] 2
      let s := camera (some r) (live0 none [⟨2, ⟨0, 0, 0, false, false, 0, []⟩, ⟨0, 0, 0, 0, 0, 0, 0, 0, []⟩⟩])
      (s.stream 0).debts = [⟨2, ⟨0, 0, 0, false, false, 0, []⟩, ⟨0, 0, 0, 0, 0, 0, 0, 0, []⟩⟩] ∧ s.bindRing (s.strBind 0) = some (0, r) ∧ r.st.getD r.rsv .e = st ∧ r.rsv = r.head ∧
        r.rsv < r.st.length) := by
  decide +kernel

theorem test_frame_start_no_ring : seen (exec (.frameStart 0) (camera none (live0 none []))) (fun t => t.fld (Reg.ITK_STR_STAT 0) 47 32) = some 1 := by
  decide +kernel
theorem test_line_raw16 : seen (exec (.linePacket 0 0x2E false false [0x12, 0x34, 0, 1, 0, 2, 0, 3])
    (camera (some (shoreRing [.e, .e, .e] 0)) (live0 (some (frame0 [] ⟨0, 0, 0, false, false, 0, []⟩ true)) [])))
    (fun t => (t.stream 0).frame.map (·.lines)) = some (some [[0x1234, 1, 2, 3]]) := by decide +kernel
theorem test_debt_pays_one : seen (exec (.slotDebtPay 0) (camera (some (shoreRing [.e, .e, .e] 2)) (live0 none [⟨2, ⟨0, 0, 0, false, false, 0, []⟩, ⟨0, 0, 0, 0, 0, 0, 0, 0, []⟩⟩])))
    (fun t => ((t.stream 0).debts.map (·.owed), (t.ring 0 7).map (·.st))) = some ([1], some [.e, .e, .f]) := by decide +kernel

/-- A job: its descriptor, rows output, whether checked and whether ended with a status. -/
def job0 (desc : List Byte) (rows total : Nat) (checked ended : Bool) (status : Nat) : Job :=
  ⟨some desc, 0, 0, [], [], checked, ended, status, 0, none, 0, none, ⟨rows, total, total, false, false, 0, []⟩, 0⟩

/-- A descriptor of source `src` with frames of 4 by 1 (Table 9.3). -/
def jobDesc (src : Nat) : List Byte := leBytes 1 src ++ leBytes 55 0 ++ leBytes 2 4 ++ leBytes 2 1 ++ leBytes 4 0

/-- Queue 0 bound like `camera`, 16 deep, real-time or not, with this job and these pointers. -/
def jobs (rt : Bool) (head tail : Nat) (j : Option Job) : State :=
  ((((camera (some (shoreRing [.e, .e, .e] 0)) (live0 none [])).setReg (Reg.ITK_JQ_RING 0)
    (BitVec.ofNat 64 (2 ^ 49 * 7 + 2 ^ 35 * 16 + 2 ^ 16 + (if rt then 2 else 0) + 1))).setFld (Reg.ITK_JQ_PTR 0) 31 16 head).setFld (Reg.ITK_JQ_PTR 0) 15 0 tail).setJobq 0 ⟨0, j⟩

theorem witness_jobs :
    (Reaches .pf (Reg.ITK_JQ_PTR 0) 32 (BitVec.ofNat 64 (16 : Word).toNat) (ready.setFld (Reg.ITK_JQ_PTR 0) 31 16 0) ∧ ((jobs false 0 0 none).jqBind 0).depth = 16) ∧
    (((jobs false 0 0 none).jobq 0).job = none ∧ (jobs false 0 0 none).fld (Reg.ITK_JQ_PTR 0) 15 0 = 0) ∧
    (((jobs false 0 1 none).jqBind 0).en = true ∧ (jobs false 0 1 none).fld (Reg.ITK_JQ_PTR 0) 15 0 ≠ 0) ∧
    (match (mapped (jobs false 0 1 none)).vread .intake 0 0 64 with | (.ok _, _) => true | _ => false) = true ∧
    (match ({ mapped (jobs false 0 1 none) with lpUe := [8] } : State).setFld (Reg.ITK_JQ_BASE 0) 47 6 1 |>.vread .intake 0 64 64 with
      | (.ecc, _) => true | _ => false) = true := by
  refine ⟨by decide +kernel, by decide +kernel, by decide +kernel, by decide +kernel, by decide +kernel⟩

theorem witness_job_progress :
    (let j := job0 (jobDesc 2) 0 0 true false 0
     ((jobs true 0 1 (some j)).jobq 0).job = some j ∧ ((jobs true 0 1 (some j)).jqBind 0).rt = true ∧ j.descOf.src = 2 ∧
       (job0 (jobDesc 1) 0 1 true false 0).descOf.outRows 4 1 = 1) ∧
    (let j := job0 (jobDesc 1) 0 1 false true 0x0001
     let s := jobs false 0 1 (some j)
     (s.jobq 0).job = some j ∧ s.bindRing (s.jqBind 0) = some (0, shoreRing [.e, .e, .e] 0) ∧ (s.jqBind 0).fslots ≤ j.out.total ∧ j.descOf.syncEn = false) ∧
    (let j := job0 (jobDesc 1) 1 1 true false 0
     let s := jobs false 0 1 (some j)
     (s.jobq 0).job = some j ∧ s.bindRing (s.jqBind 0) = some (0, shoreRing [.e, .e, .e] 0) ∧ (s.jqBind 0).fslots ≤ j.out.total ∧ j.descOf.syncEn = false ∧
       j.descOf.src = 1 ∧ j.descOf.outRows j.source.w j.source.h ≤ j.out.rows) ∧
    Reaches .pf Reg.ITK_DEC_CTRL 32 (BitVec.ofNat 64 (16 : Word).toNat) ready := by
  refine ⟨by decide +kernel, by decide +kernel, by decide +kernel, by decide +kernel⟩

theorem test_job_complete_head : seen (exec (.jobComplete 0) (jobs false 3 4 (some (job0 (jobDesc 1) 0 1 false true 0x0001)))) (fun t =>
    (t.fld (Reg.ITK_JQ_PTR 0) 31 16, (t.jobq 0).job)) = some (4, none) := by decide +kernel
theorem test_avg_reset : seen (exec (.avgReset .pf 16) (ready.setFld Reg.ITK_DEC_CTRL 31 16 0x200)) (fun t => t.fld Reg.ITK_DEC_CTRL 31 16) = some 0x6B := by
  decide +kernel
/-! ## The scheduler -/

/-- A device whose scheduler fetches: partition 0 has islands 0 to 7, granule 0, queues and contexts 0 to 7; context 0 is enabled;
queue 0 is enabled with its ring at 0x400, its completion records at 0x800 and `tail` records submitted; the islands are on. -/
def sched (tail : Nat) (rec : List Byte) : State :=
  let r := [(Reg.SCH_PART_W0 0, 2 ^ 63 + 2 ^ 26 + 0xFF), (Reg.SCH_PART_W1 0, 2 ^ 40 * 8 + 2 ^ 16 * 8), (Reg.SCH_CTX_CFG 0, 2 ^ 63 + 2 ^ 48),
    (Reg.SCH_QRING 0, 2 ^ 10 + 4), (Reg.SCH_QCPL 0, 0x800), (Reg.SCH_QCFG 0, 2 ^ 15), (Reg.SCH_QPTR 0, tail), (Reg.PWR_STAT, 0xFF00),
    (Reg.GLB_STATE, 0x15), (Reg.GLB_HOST, 0)]
  { r.foldl (fun s p => s.setReg p.1 (BitVec.ofNat 64 p.2)) base with
    standby := false, wake := [], mem := (⟨[], []⟩ : Store 8).writeN 0x400 rec }

/-- A command record: kind, flags, slices; a wait word, a signal word (Table 12.4). -/
def record (kind flags n w sg : Nat) : List Byte :=
  leBytes 1 kind ++ leBytes 1 flags ++ leBytes 2 n ++ leBytes 4 9 ++ leBytes 8 0 ++ leBytes 8 w ++ leBytes 24 0 ++ leBytes 4 sg ++ leBytes 12 0

/-- Premises of a fetch: a queue with nothing, a ring outside the partition, an uncorrectable record, and records that are
well formed, of another kind, invalid, without a grant, too large, and covered by a cancellation. -/
theorem witness_fetch :
    ((sched 0 []).canFetch 0 = false ∧ (sched 1 (record 1 0 1 0 0)).canFetch 0 = true ∧ (sched 1 (record 1 0 1 0 0)).partCheck 0 0x400 64 = 0) ∧
    ((sched 1 []).setFld (Reg.SCH_QRING 0) 43 10 (2 ^ 19)).partCheck 0 (1024 * 2 ^ 19) 64 ≠ 0 ∧
    (match ({ sched 1 (record 1 0 1 0 0) with lpUe := [128] } : State).readPhys 0 0x400 64 with | (none, _) => true | _ => false) = true ∧
    (match (sched 1 (record 1 0 1 0 0)).readPhys 0 0x400 64 with
      | (some r, u) => r == record 1 0 1 0 0 && decide (u.qDone 0 = 0) && (u.flushFor 0 0).isNone
      | _ => false) = true ∧
    (({ sched 1 [] with flush := [(0, ⟨1, 0x10, false⟩)] } : State).flushFor 0 0 = some 0x10) ∧
    ((sched 1 []).granted 5 0 = false ∧ ((sched 1 []).coresUsable 0).length = 64) := by
  refine ⟨by decide +kernel, by decide +kernel, by decide +kernel, by decide +kernel, by decide +kernel, by decide +kernel⟩

/-- The status of queue 0's command after its record is fetched. -/
def fetched (i : Instr) (rec : List Byte) : Option (Option (CmdPhase × Nat)) :=
  seen (exec i (sched 1 rec)) (fun t => (t.cmd 0).map (fun m => (m.phase, m.status)))

theorem test_fetch_slices : fetched (.cmdSlices 0) (record 1 0 1 0 0) = some (some (.waiting, 0)) := by decide +kernel
theorem test_fetch_slices_zero : fetched (.cmdSlices 0) (record 1 0 0 0 0) = some (some (.ended, 1)) := by decide +kernel
theorem test_fetch_no_grant : fetched (.cmdSlices 0) (record 1 0 1 (2 ^ 63 + 2 ^ 48 * 5) 0) = some (some (.ended, 0x0202)) := by decide +kernel
theorem test_fetch_gang_too_large : fetched (.cmdGang 0) (record 2 0 65 0 0) = some (some (.ended, 1)) := by decide +kernel
theorem test_fetch_other_row : fetched (.cmdNop 0) (record 1 0 1 0 0) = some none := by decide +kernel

/-- A waiting command of `kind` with these waits, and one ready to run with the slices `todo`. -/
def waitingCmd (kind : Nat) (waits : List (Nat × Nat)) : Cmd := { cmd0 with kind := kind, phase := .waiting, begun := false, live := 0, waits := waits, cores := [3, 4] }
def readyCmd (todo : List Slice) : Cmd := { cmd0 with phase := .ready, begun := false, live := 0, todo := todo }

/-- `sched` with the command `m` fetched in queue 0. -/
def withCmd (m : Cmd) : State := { sched 1 [] with queues := [(0, m)] }

theorem witness_waits_satisfied :
    (∀ k ∈ [0, 1, 2, 3, 5], (withCmd (waitingCmd k [(5, 0)])).cmd 0 = some (waitingCmd k [(5, 0)]) ∧
      ¬ (∃ w ∈ (waitingCmd k [(5, 0)]).waits, ((withCmd (waitingCmd k [(5, 0)])).reg (Reg.SYN_CNT w.1)).toNat < w.2)) ∧
    (∃ w ∈ (waitingCmd 1 [(5, 1)]).waits, ((withCmd (waitingCmd 1 [(5, 1)])).reg (Reg.SYN_CNT w.1)).toNat < w.2) ∧
    (∀ w ∈ (waitingCmd 1 [(5, 0)]).waits, (withCmd (waitingCmd 1 [(5, 0)])).fld (Reg.SYN_CTL w.1) 31 16 = 0) ∧
    ((withCmd (waitingCmd 0 [])).schPaused = false ∧ (waitingCmd 1 []).cores ≠ [] ∧ { waitingCmd 3 [] with argp := 8 }.argp % 16 ≠ 0) ∧
    (let s := (withCmd { waitingCmd 1 [(5, 0)] with flags := 4 }).setFld (Reg.SYN_CTL 5) 31 16 0x0201
     [(5, 0)] = ([] : List (Nat × Nat)) ++ (5, 0) :: [] ∧ s.fld (Reg.SYN_CTL 5) 31 16 = 0x0201) ∧
    (let s := (withCmd (waitingCmd 0 [])).setReg (Reg.SCH_QCFG 0) (BitVec.ofNat 64 (2 ^ 48 + 2 ^ 47 + 2 ^ 15))
     s.flag (Reg.SCH_QCFG 0) 47 = true ∧ s.fld (Reg.SCH_QCFG 0) 63 48 ≠ s.fld (Reg.SCH_PART_W2 0) 15 0) := by
  decide +kernel

theorem test_nop_ends : seen (exec (.commandWaitsSatisfied 0) (withCmd (waitingCmd 0 []))) (fun t => (t.cmd 0).map (fun m => (m.phase, m.status))) =
    some (some (.ended, 0)) := by decide +kernel
theorem test_slices_numbered : seen (exec (.commandWaitsSatisfied 0) (withCmd { waitingCmd 1 [] with nslice := 3 })) (fun t =>
    (t.cmd 0).map (fun m => m.todo.map (fun x => (x.idx, x.place)))) = some (some [(0, some 3), (1, some 4), (2, some 3)]) := by decide +kernel

/-- A saved slice of `slice0`'s context that left core 0. -/
def saved0 (sl : Slice) : Saved where
  ctx := 0
  core := 0
  slice := some sl
  regs := regs0 []
  tags := 0
  blive := 0
  lgn := Store.empty 8
  badWords := []
  badAcc := []
  ferries := []

theorem witness_dispatch :
    (let s := { withCmd (readyCmd []) with saved := [saved0 slice0] }
     s.partOfIsland 0 = some 0 ∧ (s.core 0).queue.length < 4 ∧ s.schPaused = false ∧ leastOf (s.readyLevels 0 0) = some 0 ∧
       (slice0 ∈ s.returned 0 ∧ slice0.prio = 0 ∧ s.fits slice0 0 = true)) ∧
    (let m := readyCmd [slice0]
     let s := withCmd m
     s.returned 0 = [] ∧ s.readyCmds 0 = [(0, m)] ∧ s.slotFor m 0 = some slice0 ∧ s.mayStart 0 0 m.prio = true ∧ s.stale 0 m = false ∧
       (s.setReg (Reg.SCH_QCFG 0) (BitVec.ofNat 64 (2 ^ 48 + 2 ^ 47 + 2 ^ 15))).stale 0 m = true) ∧
    (State.reset.partOfIsland 0 = none ∧ 4 ≤ ({ Core.init with queue := [slice0, slice0, slice0, slice0] }).queue.length) := by
  decide +kernel

theorem witness_gang_steal :
    (let m := { readyCmd [gangSlice 0 2, gangSlice 1 2] with kind := 2, nslice := 2 }
     let s := withCmd m
     s.cmd 0 = some m ∧ s.schPaused = false ∧ s.refHeld 0 m = false ∧ s.gangSlices 0 m = [gangSlice 0 2, gangSlice 1 2] ∧
       2 ≤ (((s.coresUsable m.part).filter (fun c => s.mayStart m.part c m.prio)).filter (fun c => s.gangFree c m.prio)).length) ∧
    (let s := { withCmd { cmd0 with cfg := BitVec.ofNat 64 (2 ^ 57) } with cores := [(1, { Core.init with queue := [slice0] })] }
     s.partOfIsland 0 = some 0 ∧ s.usable 0 = true ∧ (s.core 0).isIdle = true ∧ s.movable 0 0 = [(1, slice0)]) := by
  decide +kernel

/-- An idle core with `slice0` at the head of its queue, its last work and its resident context as given. -/
def idle0 (last res : Option Nat) : Core := { Core.init with queue := [slice0], lastPart := last, resident := res }

theorem witness_slice_start :
    (∀ p ∈ [(some 0, some 0), (some 1, none)], let s := { withCmd (readyCmd []) with cores := [(0, idle0 p.1 p.2)] }
     (s.core 0).queue = [slice0] ∧ (s.core 0).mode = .idle ∧ (s.core 0).slice = none ∧ s.islandOn 0 = true ∧ s.mayStart 0 0 0 = true ∧ s.restarting 3 0 = false ∧
       s.savedSlice slice0 = none ∧ s.savedFrom 0 0 = none ∧ (readyCmd []).kind ≠ 4) ∧
    (let s := { withCmd (readyCmd []) with cores := [(0, idle0 (some 0) none)], saved := [saved0 slice0] }
     s.savedSlice slice0 = some (saved0 slice0) ∧ (s.core 0).resident = none ∧ (s.core 0).lastPart = some 0) ∧
    ((core0 slice0 (regs0 [])).queue = [] ∧ (core0 slice0 (regs0 [])).mode ≠ .idle) := by
  decide +kernel

theorem witness_context_switch :
    (let k := { core0 slice0 (regs0 []) with preempt := true, resident := some 0 }
     let s := { withCmd { cmd0 with cfg := BitVec.ofNat 64 (2 ^ 58) } with cores := [(0, k)] }
     (s.core 0).slice = some slice0 ∧ s.canSave 0 = true ∧ k.parity = [] ∧ k.lgnUe = [] ∧ k.lgnCe = [] ∧ k.accUe = [] ∧ s.coreFerries 0 = [] ∧
       (withCmd cmd0).canSave 0 = false ∧ { k with parity := [3] }.parity = 3 :: []) ∧
    (let s := { withCmd cmd0 with cores := [(0, { core0 slice0 (regs0 []) with mode := .restoring })], saved := [saved0 slice0] }
     (s.core 0).mode = .restoring ∧ s.savedSlice slice0 = some (saved0 slice0) ∧ s.takeFerries 0 (saved0 slice0) = some [] ∧ s.ueSec = [] ∧
       (s.setFerry 0 (bound 1 0 none)).takeFerries 0 { saved0 slice0 with ferries := [(0, Ferry.init)] } = none) := by
  decide +kernel

theorem test_slice_dispatch : seen (exec (.sliceDispatch 0) (withCmd (readyCmd [slice0]))) (fun t =>
    ((t.core 0).queue.map (·.idx), (t.cmd 0).map (fun m => (m.phase, m.live)))) = some ([0], some (.running, 1)) := by decide +kernel
theorem test_gang_dispatch : seen (exec (.gangDispatch 0) (withCmd { readyCmd [gangSlice 0 2, gangSlice 1 2] with kind := 2, nslice := 2 })) (fun t =>
    ((t.core 0).queue.map (·.idx), (t.core 1).queue.map (·.idx))) = some ([0], [1]) := by decide +kernel
theorem test_lb_steal : seen (exec (.lbSteal 0) { withCmd { cmd0 with cfg := BitVec.ofNat 64 (2 ^ 57) } with cores := [(1, { Core.init with queue := [slice0] })] })
    (fun t => ((t.core 0).queue.length, (t.core 1).queue.length)) = some (1, 0) := by decide +kernel
theorem test_slice_start : seen (exec (.sliceStart 0) { withCmd (readyCmd []) with cores := [(0, idle0 (some 0) none)] }) (fun t =>
    ((t.core 0).mode, (t.core 0).regs.pc, (t.core 0).regs.p)) = some (.running, 0, 1) := by decide +kernel
theorem test_context_restore : seen (exec (.contextRestore 0) { withCmd cmd0 with
    cores := [(0, { core0 slice0 (regs0 []) with mode := .restoring })], saved := [{ saved0 slice0 with regs := regs0 [(3, 7)], tags := 5 }] })
    (fun t => ((t.core 0).regs.getS 3, (t.core 0).tags, t.saved)) = some (7, 5, []) := by decide +kernel

theorem witness_complete :
    ((sched 0 []).cmd 0 = none) ∧
    (let m := { cmd0 with phase := .ended, sigs := [(7, false, 1), (16383, true, 0)] }
     let s := withCmd m
     s.cmd 0 = some m ∧ m.acks = [] ∧ s.schPaused = false ∧ (∀ x ∈ m.sigs, x.1 < 16384) ∧ (m.sigs.map (·.1)).Nodup ∧ s.cplBad 0 0x800 = none ∧
       s.cplBad 0 0x2000_0000 = some (0, 0x2000_0000) ∧ m.phase = .ended ∧ cmd0.phase ≠ .ended) := by
  decide +kernel

theorem witness_cancel :
    Reaches .pf Reg.SCH_CANCEL 32 (BitVec.ofNat 64 0) (withCmd cmd0) ∧ Reaches .pf Reg.SCH_CANCEL 32 (BitVec.ofNat 64 (0 + 2 ^ 15)) (withCmd cmd0) ∧
    (withCmd cmd0).qTail 0 ≠ (withCmd cmd0).qDone 0 ∧ (sched 0 []).qTail 0 = (sched 0 []).qDone 0 ∧ (sched 1 []).cmd 0 = none ∧
    (tabRising (withCmd cmd0).cores = true ∧ tabRising (withCmd cmd0).ferries = true ∧ cmd0.phase ≠ .ended) := by
  decide +kernel

theorem test_complete_signals : seen (exec (.commandComplete 0) (withCmd { cmd0 with phase := .ended, sigs := [(7, false, 3)] })) (fun t =>
    (t.reg (Reg.SYN_CNT 7), t.qDone 0, t.reg (Reg.SCH_CTX_STEP 0), t.mem.readN 0x804 4)) = some (3, 1, 1, [0, 0, 0, 0]) := by decide +kernel
theorem test_cancel_oldest : seen (exec (.cancelOldest .pf 0) (withCmd cmd0)) (fun t => (t.cmd 0).map (fun m => (m.phase, m.status))) =
    some (some (.ended, 0x10)) := by decide +kernel
/-! ## Host writes that take effect -/

/-- Every register whose write by the host is a premise of a statement takes one from the PF. -/
theorem witness_reaches :
    ∀ p ∈ [(Reg.ITK_JQ_PTR 3, 32), (Reg.MEM_AS 255, 64), (Reg.SCH_CTX_CFG 255, 64), (Reg.SCH_CTX_STEP 255, 64), (Reg.SCH_CTX_SEED 255 1, 64),
        (Reg.SCH_PART_W0 7, 64), (Reg.SCH_PART_W1 7, 64), (Reg.SCH_QCFG 16383, 64), (Reg.SYN_CNT 16383, 64), (Reg.SYN_CTL 16383, 64), (Reg.GLB_HOSTCTL, 64),
        (Reg.ITK_DEC_CTRL, 32), (Reg.LHS_PINS, 32), (Reg.MEM_FAULT_RESP, 64), (Reg.MEM_INV, 64), (Reg.MEM_XTS, 32), (Reg.PAD_HOLD_REL, 32), (Reg.PWR_MODE, 32),
        (Reg.PWR_RESET, 32), (Reg.SCH_CANCEL, 32), (Reg.SCH_READMIT, 32), (Reg.TIM_INCR, 64), (Reg.TIM_STEP, 64), (Reg.TIM_SET_S, 64), (Reg.TIM_SET_NS, 32),
        (Reg.TIM_SYNC, 64), (Reg.PAD_CLAIM 0, 64)], ready.accessKind .pf true p.1 p.2 0 = none := by
  decide +kernel

/-! ## Memory -/

/-- `ready` with a held fault 5 of an agent, its stream, job or request waiting for it. -/
def faulted (a : FaultAgent) : State :=
  { ((ready.setFerry 2 { bound 1 0 (some { stream0 with wait := .fault 5 }) with op := 0 }).setJobq 0 ⟨0, some { job0 (jobDesc 1) 0 0 true false 0 with fault := some 5 }⟩)
      |>.setFld Reg.MEM_FRING 63 48 100 with
    faults := [⟨5, a, 0, 0, 0⟩], kv := [{ kvReq true 0 with fault := some 5 }], queues := [(0, cmd0)], cores := [(0, core0 slice0 (regs0 []))] }

theorem witness_faults :
    (∀ act ∈ [1, 2], Reaches .pf Reg.MEM_FAULT_RESP 64 (BitVec.ofNat 64 (5 + 2 ^ 32 * act)) (faulted (.ferry 2))) ∧
    (ready.faults.find? (fun x => x.fid == 5) = none ∧ (faulted (.ferry 2)).faults.find? (fun x => x.fid == 5) = some ⟨5, .ferry 2, 0, 0, 0⟩) ∧
    (((faulted (.ferry 2)).ferry 2).stream = some { stream0 with wait := .fault 5 }) ∧
    (((faulted (.job 0)).jobq 0).job = some { job0 (jobDesc 1) 0 0 true false 0 with fault := some 5 }) ∧
    ((faulted (.icc 0)).kv.find? (fun y => y.fault == some 5) = some { kvReq true 0 with fault := some 5 } ∧ (faulted (.icc 0)).kvOwned { kvReq true 0 with fault := some 5 } = true ∧
      (faulted (.icc 0)).fld Reg.MEM_FRING 63 48 ≠ 0) ∧
    (let s := { (ready.setFld Reg.MEM_FRING 47 0 1) with frecs := [leBytes 64 7] }
     s.fringReady = true ∧ (leBytes 64 7).length = 64 ∧ ready.fringReady = false) := by
  decide +kernel

theorem test_fault_resume : seen (exec (.faultResume .pf 5) (faulted (.ferry 2))) (fun t => ((t.ferry 2).stream.map (·.wait), t.faults.length)) =
    some (some .none, 0) := by decide +kernel
theorem test_fault_abort : seen (exec (.faultAbort .pf 5) (faulted (.ferry 2))) (fun t => ((t.ferry 2).err, (t.cmd 0).map (·.status))) = some (6, some 0x0201) := by
  decide +kernel

/-- The host's views of memory control: invalidations to the sixteenth, an address space that clashes, keys, a scrub. -/
theorem witness_memory_control :
    (∀ v ∈ [0, 2 ^ 54 * 255 + 2 ^ 62, 0xFFFF + 2 ^ 54 + 2 ^ 63], Reaches .pf Reg.MEM_INV 64 (BitVec.ofNat 64 v) ready) ∧
    (({ ready with invq := List.replicate 15 ⟨0, 0, 0, 1⟩ } : State).invq.length < 16 ∧ 16 ≤ ({ ready with invq := List.replicate 16 ⟨0, 0, 0, 1⟩ } : State).invq.length) ∧
    (let s := ready.setReg (Reg.MEM_AS 3) (BitVec.ofNat 64 (2 ^ 63 + 2 ^ 48 * 9))
     let x := 2 ^ 63 + 2 ^ 48 * 9 + 2 ^ 9
     bitOf x 63 = true ∧ ∃ m < 256, m ≠ 4 ∧ s.flag (Reg.MEM_AS m) 63 = true ∧ s.fld (Reg.MEM_AS m) 55 48 = bitsOf x 55 48 ∧
       s.fld (Reg.MEM_AS m) 43 9 ≠ bitsOf x 43 9) ∧
    (ready.compHalted 0 = false ∧ ({ ready with halted := [0] } : State).compHalted 0 = true) ∧
    (let s := ready.setReg Reg.MEM_SCRUB (BitVec.ofNat 64 (2 ^ 24))
     (s.setFlag Reg.MEM_CFG 2 true).flag Reg.MEM_CFG 0 = true ∧ (s.setFlag Reg.MEM_CFG 2 true).flag Reg.MEM_CFG 2 = true ∧
       (s.setFlag Reg.MEM_CFG 2 true).fld Reg.MEM_SCRUB 31 24 ≠ 0 ∧ s.ueSec = [] ∧ State.reset.flag Reg.MEM_CFG 2 = false) ∧
    ((State.reset.setFld Reg.GLB_STATE 3 0 3).fld Reg.GLB_STATE 3 0 = 3 ∧ State.reset.fld Reg.GLB_STATE 3 0 < 3) := by
  refine ⟨by decide +kernel, by decide +kernel, ⟨by decide, 3, by decide, by decide, by decide +kernel, by decide +kernel, by decide +kernel⟩, by decide +kernel, by decide +kernel, by decide +kernel⟩

theorem test_invalidation_done : seen (exec .invalidationComplete { ready with invq := [⟨1, 9, 0, 1⟩], tlb := [⟨.intake, 9, 3, 0, 5, 0⟩, ⟨.intake, 8, 3, 0, 5, 0⟩] }) (fun t =>
    (t.tlb.map (·.asid), t.fld Reg.MEM_INV_STAT 11 0)) = some ([8], 1) := by decide +kernel
theorem test_mem_as_clash : seen (exec (.memAsWrite .pf 4 (BitVec.ofNat 64 (2 ^ 63 + 2 ^ 48 * 9 + 2 ^ 9)))
    (ready.setReg (Reg.MEM_AS 3) (BitVec.ofNat 64 (2 ^ 63 + 2 ^ 48 * 9)))) (fun t => t.flag (Reg.MEM_AS 4) 63) = some false := by decide +kernel

/-- AES-256 (FIPS 197, C.3) and the first bytes of AES-256-XTS (IEEE 1619, vector 10) of a sector (R328). -/
theorem test_aes_256 : aes256 ((List.range 32).map (BitVec.ofNat 8)) ((List.range 16).map (fun i => BitVec.ofNat 8 (17 * i))) =
    beBytes 16 0x8ea2b7ca516745bfeafc49904b496089 := by decide +kernel
theorem test_xts_sector : (xtsSector (beBytes 32 0x2718281828459045235360287471352662497757247093699959574966967627 ++
      beBytes 32 0x3141592653589793238462643383279502884197169399375105820974944592) 0xFF ((List.range 64).map (BitVec.ofNat 8))).take 16 =
    beBytes 16 0x1c3b3a102f770386e4836c99e370cf9b := by decide +kernel

/-! ## The scheduler's registers, marks and readmission -/

/-- `ready` with partition 1 enabled on island 7, granule 0, queue 0 and context 0. -/
def parted : State :=
  (ready.setReg (Reg.SCH_PART_W0 1) (BitVec.ofNat 64 (2 ^ 63 + 2 ^ 26 + 0x80))).setReg (Reg.SCH_PART_W1 1) (BitVec.ofNat 64 (2 ^ 40 + 2 ^ 16))

/-- Enabling partition 0 there: each check of R363 fails in turn, and none does. -/
theorem witness_partition :
    (parted.partEn 0 = false ∧ parted.partEn 1 = true) ∧
    (∃ p, (parted.partEn p = true ∧ p ≠ (0 : PartId).val ∧ p < 8) ∧ ∃ i < 8, (0x80 : Nat).testBit i = true ∧ (parted.fld (Reg.SCH_PART_W0 p) 7 0).testBit i = true) ∧
    parted.fld Reg.MEM_CFG 25 16 = 224 ∧ parted.enabledQueues = [] ∧
    (∀ q ∈ parted.enabledQueues, parted.qIn 1 q = false) := by
  refine ⟨by decide +kernel, ⟨1, by decide +kernel, 7, by decide, by decide, by decide +kernel⟩, by decide +kernel, by decide +kernel, by decide +kernel⟩

/-- ERR after partition 0 is written with `w0` where it already has `w1`. -/
def partErr (w0 w1 : Nat) : Option Nat :=
  seen (exec (.partitionWrite .pf 0 0 (BitVec.ofNat 64 w0)) (parted.setReg (Reg.SCH_PART_W1 0) (BitVec.ofNat 64 w1))) (fun t => t.fld (Reg.SCH_PART_W2 0) 23 16)

/-- The seven outcomes of R363: shared island, granule, queue, context, an empty range, and none. -/
theorem test_partition_errors :
    [partErr (2 ^ 63 + 2 ^ 26 + 2 ^ 16 + 0x80) (2 ^ 40 + 2 ^ 32 + 2 ^ 16 + 1), partErr (2 ^ 63 + 2 ^ 26 + 1) (2 ^ 40 + 2 ^ 32 + 2 ^ 16 + 1),
      partErr (2 ^ 63 + 2 ^ 26 + 2 ^ 16 + 1) (2 ^ 40 + 2 ^ 32 + 2 ^ 16), partErr (2 ^ 63 + 2 ^ 26 + 2 ^ 16 + 1) (2 ^ 40 + 2 ^ 16 + 1),
      partErr (2 ^ 63 + 2 ^ 16 + 1) (2 ^ 40 + 2 ^ 32 + 2 ^ 16 + 1), partErr (2 ^ 63 + 2 ^ 26 + 2 ^ 16 + 1) (2 ^ 40 + 2 ^ 32 + 2 ^ 16 + 1)] =
      [some 1, some 2, some 3, some 4, some 5, some 0] := by decide +kernel

theorem witness_queue_context :
    ((sched 0 []).flag (Reg.SCH_QCFG 0) 15 = true ∧ (sched 0 []).flag (Reg.SCH_QCFG 1) 15 = false) ∧
    ((sched 0 []).flag (Reg.SCH_CTX_CFG 0) 63 = true ∧ (sched 0 []).flag (Reg.SCH_CTX_CFG 1) 63 = false) ∧
    (∃ q ∈ (sched 0 []).enabledQueues, (sched 0 []).qCtx q = 0) ∧
    (let s := (sched 0 []).setReg (Reg.SCH_QCFG 0) 0
     s.flag (Reg.SCH_CTX_CFG 0) 63 = true ∧ s.ctxBusy 0 = false ∧ s.enabledQueues = []) ∧
    ((sched 0 []).partEn 0 = true ∧ (sched 0 []).ctxIn 0 1 = true ∧ (sched 0 []).fld (Reg.MEM_AS 1) 58 56 = 0 ∧
      (sched 0 []).inCarve 0 0 (2 ^ 23 * (List.range 8).countP (fun i => (sched 0 []).partHas 0 i)) = true) := by
  refine ⟨by decide +kernel, by decide +kernel, ⟨0, by decide +kernel, by decide +kernel⟩, by decide +kernel, by decide +kernel⟩

theorem test_queue_enable_refused : seen (exec (.queueConfigWrite .pf 9 (BitVec.ofNat 64 (2 ^ 15))) (sched 0 [])) (fun t => t.flag (Reg.SCH_QCFG 9) 15) =
    some false := by decide +kernel
theorem test_context_enable : seen (exec (.contextConfigWrite .pf 1 (BitVec.ofNat 64 (2 ^ 63))) ((sched 0 []).setReg (Reg.SCH_CTX_NDCOUNT 1) 5)) (fun t =>
    (t.flag (Reg.SCH_CTX_CFG 1) 63, t.reg (Reg.SCH_CTX_NDCOUNT 1))) = some (true, 0) := by decide +kernel

/-- Core 9 and island 2 are marked, or a readmission of that unit is under way. -/
def marked (kind unit : Nat) (busy : Bool) : State :=
  ((((sched 0 []).setFlag Reg.GLB_TC_MARKED 9 true).setFlag Reg.GLB_STATE 10 true).setFld Reg.SCH_READMIT_STAT 7 0 (64 * kind + unit)).setFlag Reg.SCH_READMIT_STAT 15 busy

theorem witness_readmission :
    (Reaches .pf Reg.SCH_READMIT 32 (BitVec.ofNat 64 9) (marked 0 0 false) ∧ (marked 0 0 false).flag Reg.SCH_READMIT_STAT 15 = false ∧
      (marked 0 0 false).flag Reg.GLB_TC_MARKED 9 = true ∧ (marked 0 0 false).flag Reg.GLB_STATE (8 + 2) = true ∧
      Reaches .pf Reg.SCH_READMIT 32 (BitVec.ofNat 64 66) (marked 0 0 false)) ∧
    ((marked 0 9 true).flag Reg.SCH_READMIT_STAT 15 = true ∧ (marked 0 9 true).fld Reg.SCH_READMIT_STAT 7 6 = 0 ∧
      (marked 1 2 true).fld Reg.SCH_READMIT_STAT 7 6 = 1 ∧ (marked 1 2 true).fld Reg.SCH_READMIT_STAT 5 0 < 8 ∧ tabRising (marked 1 2 true).cores = true) ∧
    ((sched 0 []).flag Reg.GLB_TC_MARKED 0 = false ∧ (sched 0 []).islandOn (0 / 8) = true ∧ State.reset.islandOn 0 = false ∧ (sched 0 []).flag Reg.GLB_STATE (8 + 0) = false) ∧
    (let s := { withCmd cmd0 with cores := [(0, core0 slice0 (regs0 []))] }
     (s.core 0).slice = some slice0 ∧ s.cmd 0 = some cmd0 ∧ cmd0.phase ≠ .ended ∧ tabRising s.cores = true) := by
  decide +kernel

theorem test_readmit_core : seen (exec (.readmitComplete 0) (marked 0 9 true)) (fun t =>
    (t.flag Reg.GLB_TC_MARKED 9, t.flag Reg.SCH_READMIT_STAT 13, (t.core 9).gen)) = some (false, true, 1) := by decide +kernel
theorem test_readmit_fails : seen (exec (.readmitComplete 1) (marked 0 9 true)) (fun t => (t.flag Reg.GLB_TC_MARKED 9, t.flag Reg.SCH_READMIT_STAT 14)) =
    some (true, true) := by decide +kernel
theorem test_watchdog_marks : seen (exec (.handshakeWatchdogExpiry (.core 0) 1) { sched 0 [] with cyc := 60000, cores := [(0, { Core.init with mode := .scrubbing })] })
    (fun t => (t.flag Reg.GLB_TC_MARKED 0, t.fld Reg.LHS_EVT_PTR 31 0)) = some (true, 1) := by decide +kernel

/-! ## Voltage, power, temperature -/

/-- `sched` with VDD_ISL, throttling with a budget, an emergency and a core temperature history. -/
def hot (vdd : Nat) (thr : Bool) (emerg : Bool) (cyc : Nat) : State :=
  { ((sched 0 []).setFlag Reg.PWR_FLOOR_STAT 16 thr).setFlag Reg.PWR_THERM 20 emerg with
    vdd := vdd, thrBudget := 8, thrStart := 64, thHot := 1, thCool := some 0, cyc := cyc }

theorem witness_power :
    (State.reset.islandOn 3 = false ∧ (sched 0 []).islandOn 3 = true ∧ (sched 0 []).flag Reg.PWR_FLOOR_STAT (8 + 3) = false) ∧
    ((hot 600 false false 0).restarting 1 0 = false ∧ (hot 600 false false 0).standby = false ∧ State.reset.standby = true) ∧
    (10 * max 120 (min 400 ((hot 600 false false 0).fld Reg.PWR_LIMIT 8 0)) = 4000 ∧ (hot 600 false false 0).vdd ≤ 600 ∧ 600 < (hot 601 false false 0).vdd) ∧
    ((hot 600 true false 0).throttled = true ∧ (hot 600 false false 0).throttled = false) := by
  decide +kernel

theorem witness_heat :
    ((List.replicate 10 (0 : Int)).length = 10 ∧ ∀ x ∈ (List.replicate 10 (0 : Int)), -32768 ≤ x ∧ x < 32768) ∧
    ((hot 600 false true 5000000).flag Reg.PWR_THERM 20 = true ∧ (hot 600 false true 5000000).thStep + 5000000 ≤ (hot 600 false true 5000000).cyc ∧
      (hot 600 false true 5000000).restarting 1 0 = false) ∧
    ((0 : Nat) < 10 ∧ [(960 : Int), 0, 0, 0, 0, 0, 0, 0, 0, 0][0]? = some 960 ∧ (hot 600 false false 0).islandOn 0 = true ∧ bitOf (hot 600 false false 0).thHot 0 = true) ∧
    (∃ c, (hot 600 false true 5000000).thCool = some c ∧ c + 5000000 ≤ (hot 600 false true 5000000).cyc) := by
  refine ⟨by decide, by decide +kernel, by decide +kernel, ⟨0, rfl, by decide⟩⟩

theorem test_floor_below : seen (exec (.floorSample 3 0x5DB 800) (sched 0 [])) (fun t => (t.flag Reg.PWR_FLOOR_STAT 11, t.flag Reg.PWR_FLOOR_STAT 3)) = some (true, true) := by
  decide +kernel
theorem test_power_over_limit : seen (exec (.powerLimitControl 4001) (hot 700 false false 0)) (fun t => (t.vdd, t.fld Reg.PWR_LIMIT 31 16)) = some (695, 4001) := by
  decide +kernel
theorem test_throttle_tick : seen (exec (.throttleTick 4001) (hot 600 true false 500000)) (fun t => t.thrBudget) = some 4 := by decide +kernel
theorem test_thermal_second_sample : seen (exec (.thermalSample [960, 0, 0, 0, 0, 0, 0, 0, 0, 0]) (hot 700 false false 0)) (fun t =>
    (t.flag Reg.PWR_THERM 20, t.fld Reg.PWR_THERM 31 24)) = some (true, 1) := by decide +kernel
theorem test_thermal_step : seen (exec .thermalStep (hot 700 false true 5000000)) (fun t => t.vdd) = some 675 := by decide +kernel
/-! ## Power states and resets -/

/-- `sched` in PWR_STAT.STATE `st` with DEV `d` and the islands `on`. -/
def power (st d on : Nat) : State := ((sched 0 []).setReg Reg.PWR_STAT (BitVec.ofNat 64 (2 ^ 8 * on + st))).setFld Reg.PWR_MODE 2 0 d

theorem witness_power_states :
    (∀ st ∈ [0, 2, 6, 5], (power st 0 0xFF).fld Reg.PWR_STAT 2 0 ≠ 3 ∧ (power st 0 0xFF).standby = false) ∧ (power 3 3 0).fld Reg.PWR_STAT 2 0 = 3 ∧
    (∀ d ∈ [0, 3, 4], Reaches .pf Reg.PWR_MODE 32 (BitVec.ofNat 64 (bitsPut ((power 0 0 0xFF).reg Reg.PWR_MODE).toNat 2 0 d)) (power 0 0 0xFF)) ∧
    ((power 5 3 0xFF).fld Reg.PWR_STAT 2 0 = 5 ∧ (power 5 3 0xFF).fld Reg.PWR_MODE 15 8 = 0 ∧ (power 5 3 0xFF).fld Reg.PWR_STAT 15 8 = 255) := by
  decide +kernel

theorem witness_all_awake : ∀ c, ((power 0 0 0xFF).core c).mode ≠ .asleep := by
  intro c
  have h : (power 0 0 0xFF).core c = Core.init := rfl
  rw [h]
  decide

/-- Island 1 selected for gating with every core asleep; one that has waited since cycle 0; P3 entered, then with DEV 4. -/
def gating (cyc : Nat) : State :=
  { (power 0 0 0xFF).setFld Reg.PWR_MODE 15 8 2 with
    cores := (List.range 8).map (fun j => (8 + j, { Core.init with mode := .asleep })), gateAt := [(1, 0)], cyc := cyc }

theorem witness_gating :
    ((gating 0).mayGate 1 = true ∧ (gating 0).mayGate 2 = false ∧ tabRising (gating 0).cores = true ∧ tabFind (gating 0).gateAt 1 = some 0 ∧ tabFind (gating 0).gateAt 2 = none) ∧
    ((gating 5000000).fld Reg.PWR_MODE 23 16 = 10 ∧ 0 + 500000 * 10 ≤ (gating 5000000).cyc ∧ (gating 0).cyc < 500000 * 10 ∧ (gating 0).schPaused = false) ∧
    ((power 5 3 0).fld Reg.PWR_STAT 2 0 = 5 ∧ (power 5 3 0).dev ≠ 0 ∧ (power 5 3 0).fld Reg.PWR_STAT 15 8 = 0 ∧ (power 5 3 0).wake = [] ∧ (power 5 3 0).heldWake = 0 ∧
      (power 5 3 0).restarting 1 0 = false) ∧
    ((power 3 4 0).fld Reg.PWR_STAT 2 0 = 3 ∧ (power 3 4 0).standby = false ∧ (power 3 4 0).fld Reg.PWR_MODE 2 0 = 4) ∧
    (let s := (List.range 8).foldl (fun t k => (t.setFlag (canCtrl k) 0 true).setFld (canStat k) 47 46 3) (power 3 4 0)
     ∀ k < 8, s.flag (canCtrl k) 0 = true ∧ s.canState k = 3) := by
  decide +kernel

theorem test_enter_p3 : seen (exec (.enterP3 .pf) (power 0 0 0xFF)) (fun t => (t.fld Reg.PWR_STAT 2 0, t.fld Reg.PWR_MODE 2 0)) = some (5, 3) := by decide +kernel
theorem test_island_gate : seen (exec (.islandGate 1) (gating 0)) (fun t => (t.islandOn 1, t.islandOn 2, t.fld Reg.PWR_STAT 2 0)) = some (false, true, 2) := by
  decide +kernel
theorem test_p3_entry : seen (exec .p3Entry (power 5 3 0)) (fun t => (t.fld Reg.PWR_STAT 2 0, t.flag Reg.GLB_STATE 4)) = some (3, false) := by decide +kernel

/-- P3 with the wake sources `src` and a timer of 1 ms, `cyc` cycles after its entry; a wake in progress at domain `d`. -/
def asleep (src cyc : Nat) : State := { (power 3 3 0).setReg Reg.PWR_WAKE (BitVec.ofNat 64 (2 ^ 32 + src)) with cyc := cyc, wakeSig := true }
def waking (d : Nat) (cyc : Nat) : State := { power 6 0 0 with wake := [(d, 0, 1000), (9, 0, 2000)], cyc := cyc }

theorem witness_wakes :
    ((asleep 1 0).flag Reg.PWR_WAKE 0 = true ∧ (asleep 2 0).flag Reg.PWR_WAKE 0 = false ∧ (asleep 1 0).fld Reg.PWR_STAT 2 0 = 3 ∧ (asleep 1 0).fld Reg.PWR_MODE 2 0 ≠ 4) ∧
    ((asleep 2 500000).flag Reg.PWR_WAKE 1 = true ∧ (asleep 2 500000).fld Reg.PWR_WAKE 63 32 = 1 ∧ (asleep 2 500000).entryAt + 500000 ≤ (asleep 2 500000).cyc) ∧
    ((asleep 4 0).wakeSig = true ∧ (asleep 4 0).flag Reg.PWR_WAKE 2 = true ∧ (asleep 1 0).flag Reg.PWR_WAKE 2 = false ∧ (power 3 3 0).wakeSig = false) ∧
    (∀ d ∈ [0, 1, 2, 9], (waking d 1000).wake = (d, 0, 1000) :: [(9, 0, 2000)] ∧ 1000 ≤ (waking d 1000).cyc ∧ (waking d 999).cyc < 1000 ∧
      (waking d 1000).fld Reg.PWR_STAT 19 16 = 0) ∧
    ((waking 0 500000).cyc = 0 + 500000 ∧ (power 0 0 0xFF).wake = []) := by
  decide +kernel

theorem witness_no_mail : NoMail (power 6 0 0) := by decide +kernel

theorem test_wake_pin : seen (exec .wakePin (asleep 1 0)) (fun t => (t.fld Reg.PWR_STAT 7 4, t.fld Reg.PWR_STAT 2 0, t.wake.length)) = some (1, 6, 9) := by
  decide +kernel
theorem test_island_released : seen (exec .domainRelease (waking 3 1000)) (fun t => (t.islandOn 1, (t.core 8).gen, t.wake.length)) = some (true, 1, 1) := by decide +kernel

theorem witness_resets :
    (∀ key ∈ [0xA5, 0], Reaches .pf Reg.PWR_RESET 32 (BitVec.ofNat 64 (2 ^ 24 * key)) ready) ∧ (∀ rel < 16, Reaches .pf Reg.PAD_HOLD_REL 32 (BitVec.ofNat 64 rel) ready) := by
  decide +kernel

theorem test_porst : seen (exec .porst (power 0 0 0xFF)) (fun t => (t.reg Reg.PWR_STAT, t.fld Reg.GLB_STATE 3 0)) = some (0, 0) := by decide +kernel
theorem test_sysrst : seen (exec .sysrst (power 0 0 0xFF)) (fun t => (t.fld Reg.GLB_STATE 3 0, t.fld Reg.GLB_HOST 63 32, t.fld Reg.PAD_HOLD_STAT 5 4)) = some (1, 1, 2) := by
  decide +kernel
theorem test_pad_release : seen (exec (.padRelease .pf 3) (ready.setFld Reg.PAD_HOLD_STAT 5 0 0x1F)) (fun t => t.reg Reg.PAD_HOLD_STAT) = some 0x1C := by decide +kernel

/-! ## Claims, boot -/

/-- `ready` with resource 0x0A held by the host. -/
def claimed : State := { ready with claims := [(0x0A, (1, 0))] }

theorem witness_claims :
    (∀ a ∈ [1, 2, 3], ∀ r ∈ [0x0B, 0x0C, 0x28, 0x7FF, 0xFFF], WhoReaches (.host .pf) (Reg.PAD_CLAIM 0) 64 (BitVec.ofNat 64 (2 ^ 30 * a + r)) ready) ∧
    WhoReaches .lhs (Reg.PAD_CLAIM 3) 64 0 ready ∧
    ((tabGet (0, 0) claimed.claims 0x0A) = (winOf (.host .pf) + 1, 0) ∧ (tabGet (0, 0) claimed.claims 0x0B).1 = 0 ∧
      tabGet (0, 0) claimed.claims 0x0A ≠ (winOf .sch + 1, 0)) := by
  refine ⟨fun a ha r hr => ⟨fun fn h => ?_, fun h => Who.noConfusion h, fun h => Who.noConfusion h⟩,
    ⟨fun fn h => Who.noConfusion h, fun h => Who.noConfusion h, fun _ => by decide +kernel⟩, by decide⟩
  cases h
  have : ∀ a ∈ [1, 2, 3], ∀ r ∈ [0x0B, 0x0C, 0x28, 0x7FF, 0xFFF], ready.accessKind .pf true (Reg.PAD_CLAIM 0) 64 (BitVec.ofNat 64 (2 ^ 30 * a + r)) = none := by
    decide +kernel
  exact this a ha r hr

theorem test_claim_conflicts : seen (exec (.claim .sch 0x20) claimed) (fun t => (t.fld (Reg.PAD_CLAIM 1) 63 48, t.claims)) = some (0x0401, [(0x0A, (1, 0))]) := by
  decide +kernel
theorem test_claim_release : seen (exec (.claimRelease (.host .pf) 0x0A) claimed) (fun t => (t.fld (Reg.PAD_CLAIM 0) 63 48, t.claims)) = some (0, []) := by decide +kernel
theorem test_claim_query_bad : seen (exec (.claimQuery .lhs 0x0C) claimed) (fun t => t.fld (Reg.PAD_CLAIM 3) 63 48) = some 1 := by decide +kernel

/-- The shore released and nothing started; and a device whose security core serves. -/
theorem witness_boot :
    (let s := { State.reset with wake := [], standby := false }
     s.wake = [] ∧ s.standby = false ∧ s.fld Reg.GLB_STATE 3 0 ≤ 1 ∧ s.compHalted 0 = false ∧ s.fld Reg.GLB_STATE 3 0 = 0) ∧
    (State.reset.mbxServes 0 = false ∧ (ready.setFlag (Reg.FWM_COMP 0) 0 true).mbxServes 0 = true) ∧ State.reset.standby = true := by
  decide +kernel

theorem test_boot_once : seen (exec (.boot true 0) ready) (fun t => t.fld Reg.GLB_STATE 3 0) = some 5 := by decide +kernel

/-! ## Time -/

/-- `ready` at one second less 4 ns, owned by the host; no firmware runs. -/
def clock : State := { ready.setFlag Reg.TIM_SYNC 1 true with halted := [3], tbS := 0, tbNs := 999999996, standby := false }

theorem witness_timebase :
    (clock.standby = false ∧ State.reset.standby = true ∧ clock.flag Reg.TIM_SYNC 1 = true ∧ ready.flag Reg.TIM_SYNC 1 = false) ∧
    (∀ v ∈ [0x3C0000000, 0x440000000, 0x3BFFFFFFF, 0x440000001], clock.accessKind .pf true Reg.TIM_INCR 64 (BitVec.ofNat 64 v) = none) ∧
    (0 ≤ ((clock.tbOps.foldl stepped (tbOf clock + (clock.reg Reg.TIM_INCR).toNat) : Nat) : Int) + 2 ^ 32 * (-1000000000 : DWord).toInt ∧
      ((clock.tbOps.foldl stepped (tbOf clock + (clock.reg Reg.TIM_INCR).toNat) : Nat) : Int) + 2 ^ 32 * (-1000000001 : DWord).toInt < 0) ∧
    (clock.timArm = none ∧ ({ clock with timArm := some 7 } : State).timArm = some 7 ∧ (999999999 : Word).toNat % 2 ^ 30 < 1000000000) ∧
    (∀ p ∈ [(Reg.TIM_STEP, 64), (Reg.TIM_SET_S, 64), (Reg.TIM_SYNC, 64), (Reg.TIM_SET_NS, 32)], clock.accessKind .pf true p.1 p.2 5 = none) ∧
    clock.accessKind .pf false Reg.TIM_NOW_S 64 0 = none := by
  decide +kernel

theorem test_tick_carries : seen (exec .timebaseTick clock) (fun t => (t.tbS, t.tbNs, t.tbFrac)) = some (1, 0, 0) := by decide +kernel
theorem test_step_applies_at_tick : seen (exec .timebaseTick { clock with tbOps := [.step (-10)] }) (fun t => (t.tbNs, t.fld Reg.TIM_SYNC 31 16)) =
    some (999999990, 1) := by decide +kernel
theorem test_incr_out_of_range : seen (exec (.timebaseIncrWrite (.host .pf) 0x440000001) clock) (fun t => (t.flag Reg.TIM_SYNC 3, t.reg Reg.TIM_INCR)) =
    some (true, 0x400000000) := by decide +kernel

/-! ## Triggers and captures -/

/-- `ready` at 1 s and 5 ns with trigger 1 armed for 1 s and 4 ns: period `p`, a pulse of `w` cycles, sync object 7; resource
0x21 held by the host. -/
def trig (p w : Nat) : State :=
  { ((ready.setReg (Reg.TIM_TRIG_CTL 1) (BitVec.ofNat 64 (2 ^ 31 + 2 ^ 30 + 2 ^ 29 + 2 ^ 14 * 7 + w))).setReg (Reg.TIM_TRIG_S 1) 1).setReg
      (Reg.TIM_TRIG_NS 1) (BitVec.ofNat 64 (2 ^ 32 * p + 4)) with
    tbS := 1, tbNs := 5, cyc := 100, claims := [(0x21, (1, 0))], trigEnd := [(1, 100)] }

theorem witness_triggers :
    ((trig 0 9).flag (Reg.TIM_TRIG_CTL 1) 31 = true ∧ 1000000000 * ((trig 0 9).reg (Reg.TIM_TRIG_S 1)).toNat + (trig 0 9).fld (Reg.TIM_TRIG_NS 1) 29 0 ≤ 1000000005 ∧
      1000000005 + (trig 6 9).fld (Reg.TIM_TRIG_NS 1) 63 32 < 2 ^ 64 * 1000000000 ∧ (tabGet (0, 0) (trig 0 9).claims (0x20 + 1)).1 ≠ 0 ∧
      (trig 0 9).flag Reg.PAD_HOLD_STAT 3 = false ∧ (trig 0 9).flag (Reg.TIM_TRIG_CTL 1) 29 = true ∧ (trig 0 9).fld (Reg.TIM_TRIG_CTL 1) 13 0 = 9 ∧
      (trig 0 0).fld (Reg.TIM_TRIG_CTL 1) 13 0 = 0) ∧
    ((trig 0 9).flag (Reg.TIM_TRIG_CTL 2) 31 = false ∧ tabFind (trig 0 9).trigEnd 2 = none ∧ tabFind (trig 0 9).trigEnd 1 = some 100 ∧ 100 ≤ (trig 0 9).cyc ∧
      ({ trig 0 9 with cyc := 99 } : State).cyc < 100) := by
  decide +kernel

theorem test_trigger_fires : seen (exec (.triggerFire 1) (trig 6 9)) (fun t => (t.fld (Reg.TIM_TRIG_NS 1) 29 0, (t.reg (Reg.SYN_CNT 7)).toNat, t.out, tabFind t.trigEnd 1)) =
    some (10, 1, [.pad 3 1 true], some 118) := by decide +kernel
theorem test_trigger_once : seen (exec (.triggerFire 1) (trig 0 0)) (fun t => (t.flag (Reg.TIM_TRIG_CTL 1) 31, t.out)) = some (false, []) := by decide +kernel
theorem test_trigger_pulse_end : seen (exec (.triggerPulseEnd 1) (trig 0 9)) (fun t => (t.out, t.trigEnd)) = some ([.pad 3 1 false], []) := by decide +kernel

/-- Capture 1 enabled for edges `e` with sync object 9; `un` says whether the latest capture stands unread. -/
def capt (e : Nat) (un : Bool) : State :=
  { ready.setReg (Reg.TIM_CAP_CTL 1) (BitVec.ofNat 64 (2 ^ 31 + 2 ^ 30 + 2 ^ 28 * e + 9)) with tbS := 1, tbNs := 5, capUnread := if un then [1] else [] }

theorem witness_captures :
    (∀ e ∈ [0, 1, 2], (capt e true).flag (Reg.TIM_CAP_CTL 1) 31 = true ∧ (capt e true).fld (Reg.TIM_CAP_CTL 1) 29 28 = e) ∧
    ready.flag (Reg.TIM_CAP_CTL 0) 31 = false ∧ 1000000005 - 8 < 2 ^ 64 * 1000000000 ∧ (capt 0 true).accessKind .pf false (Reg.TIM_CAP_S 1) 64 0 = none := by
  decide +kernel

theorem test_capture_latency : seen (exec (.captureEdge 1 true) (capt 0 true)) (fun t => ((t.reg (Reg.TIM_CAP_S 1)).toNat, t.fld (Reg.TIM_CAP_NS 1) 29 0,
    t.flag (Reg.TIM_CAP_NS 1) 47, (t.reg (Reg.SYN_CNT 9)).toNat)) = some (0, 999999997, true, 1) := by decide +kernel
theorem test_capture_wrong_edge : seen (exec (.captureEdge 1 false) (capt 0 false)) id = some (capt 0 false) := by decide +kernel
theorem test_capture_latch : seen (exec (.captureLatch .pf 1) ((capt 0 true).setReg (Reg.TIM_CAP_S 1) 77)) (fun t => (t.readData, t.capUnread)) = some (77, []) := by
  decide +kernel

/-! ## Tideline -/

/-- `ready` at time `ns`, at cycle 1000, Tideline enabled, the frame in progress number 7, the next start due at cycle `n`. -/
def tide (ns n : Nat) : State :=
  { (ready.setFlag Reg.TDL_CTRL 0 true).setReg Reg.TDL_FRAME 7 with tbS := 0, tbNs := ns, cyc := 1000, tdlNext := n, tdlStart := 900 }

theorem witness_tideline_frames :
    WhoReaches .sch Reg.TDL_CTRL 32 1 ready ∧ ready.accessKind .pf true Reg.TDL_CTRL 32 1 = none ∧ ready.flag Reg.TDL_CTRL 0 = false ∧ (tide 0 0).flag Reg.TDL_CTRL 0 = true ∧
    (∀ p ∈ [(80000, 0), (80003, 1000), (79990, 1001), (90000, 1001)], ((tide p.1 p.2).tdlNext = 0 → 10000 * 8 ≤ p.1) ∧
      ((tide p.1 p.2).tdlNext ≠ 0 → (tide p.1 p.2).tdlNext ≤ (tide p.1 p.2).cyc + 1)) ∧ ¬ (tide 0 1002).tdlNext ≤ (tide 0 1002).cyc + 1 := by
  refine ⟨⟨fun fn h => Who.noConfusion h, fun _ => by decide +kernel, fun h => Who.noConfusion h⟩, ?_⟩
  decide +kernel

theorem test_frame_in_step : seen (exec .tidelineFrameStart (tide 80003 1000)) (fun t => ((t.reg Reg.TDL_FRAME).toNat, t.fld Reg.TDL_CTRL 31 16, t.tdlNext,
    t.flag Reg.TDL_CTRL 2)) = some (8, 3, 5999, true) := by decide +kernel
theorem test_frame_anchor : seen (exec .tidelineFrameStart (tide 90000 1001)) (fun t => ((t.reg Reg.TDL_FRAME).toNat, t.fld Reg.TDL_CTRL 31 16, t.fld Reg.TDL_CTRL 15 8)) =
    some (9, 0, 1) := by decide +kernel

/-- The learning window of channel 2: entries 16 to 31, learning as `l`. -/
def learning (l : Bool) : State :=
  (ready.setFlag (chSched 2) 63 true).setReg (chRc 2) (BitVec.ofNat 64 (2 ^ 63 + (if l then 2 ^ 62 else 0) + 2 ^ 34 * 16 + 2 ^ 20 * 15))

/-- PWM 3 enabled, period 100, centre-aligned as `c`, its carrier's next start at cycle 500, a CMP of 40 waiting. -/
def carrier (c : Bool) (cyc : Nat) : State :=
  { ready.setReg (Reg.TDL_PWM 3) (BitVec.ofNat 64 (2 ^ 48 * 100 + (if c then 2 ^ 39 else 0) + 1)) with pwm := [(3, ⟨400, 100, false, 500, some 40, 0, none, none⟩)], cyc := cyc }

theorem witness_tideline_peripherals :
    (∀ v ∈ [0, 1], ready.accessKind .pf true Reg.TDL_CAP 64 (BitVec.ofNat 64 (2 ^ 63 + 2 ^ 56 * v)) = none) ∧ ready.flag Reg.TDL_CAP 61 = false ∧ ready.flag Reg.TDL_CAP 63 = false ∧
    (ready.setFlag Reg.TDL_CAP 61 true).flag Reg.TDL_CAP 61 = true ∧
    ready.accessKind .pf true (Reg.TDL_RC 20) 32 5 = none ∧
    ((learning true).chEn 2 = true ∧ (learning true).flag (chRc 2) 63 = true ∧ (learning true).flag (chRc 2) 62 = true ∧ (learning true).fld (chRc 2) 47 34 = 16 ∧
      (learning true).fld (chRc 2) 33 20 + 1 = 16 ∧ (learning false).flag (chRc 2) 62 = false) ∧
    (∀ c ∈ [false, true], (carrier c 499).flag (Reg.TDL_PWM 3) 0 = true ∧ (tabGet ⟨0, 0, false, 0, none, 0, none, none⟩ (carrier c 499).pwm 3).next ≤ (carrier c 499).cyc + 1 ∧
      ¬ (tabGet ⟨0, 0, false, 0, none, 0, none, none⟩ (carrier c 498).pwm 3).next ≤ (carrier c 498).cyc + 1) ∧
    (ready.flag (Reg.TDL_ENC 4) 7 = false ∧ (ready.setFlag (Reg.TDL_ENC 4) 7 true).flag (Reg.TDL_ENC 4) 7 = true) := by
  decide +kernel

theorem test_capture_arm : seen (exec (.captureArm (.host .pf) 0x200000000000) (ready.setFld Reg.TDL_CAP 13 0 9)) (fun t => (t.fld Reg.TDL_CAP 63 56, t.fld Reg.TDL_CAP 13 0)) =
    some (0xA0, 0) := by decide +kernel
theorem test_rc_entry_learning : seen (exec (.rcEntryWrite .icc 31 5) (learning true)) id = some (learning true) := by decide +kernel
theorem test_rc_entry : seen (exec (.rcEntryWrite .icc 32 5) (learning true)) (fun t => (t.reg (Reg.TDL_RC 32)).toNat) = some 5 := by decide +kernel
theorem test_pwm_centre_takes_two_periods : seen (exec (.pwmCarrierStart 3) (carrier true 499)) (fun t => (tabFind t.pwm 3, t.fld (Reg.TDL_PWM 3) 31 16)) =
    some (some ⟨500, 100, true, 700, none, 500, some 500, none⟩, 40) := by decide +kernel
theorem test_encoder_wraps : seen (exec (.encoderEdge 4 1) ready) (fun t => t.fld (Reg.TDL_ENC 4) 63 32) = some 0xFFFFFFFF := by decide +kernel
theorem test_encoder_inverted : seen (exec (.encoderEdge 4 1) (ready.setFlag (Reg.TDL_ENC 4) 6 true)) (fun t => t.fld (Reg.TDL_ENC 4) 63 32) = some 1 := by decide +kernel

/-- Channel 5 enabled and live in the frame in progress: DIV `div`, PH 1, slot 2 (due at cycle 980), a set point of 10, KP 2, limits
-100 to `max`; input and output are none. -/
def chan5 (div mx : Nat) : State :=
  let s := ((((tide 0 0).setReg (chSched 5) (BitVec.ofNat 64 (2 ^ 63 + 2 ^ 56 * 2 + 2 ^ 32 * div + 2 ^ 16))).setReg (chSpff 5) (BitVec.ofNat 64 (2 ^ 32 * 10))).setReg (chGain 5)
    (BitVec.ofNat 64 (2 ^ 32 * 0x20000))).setReg (chLim 5) (BitVec.ofNat 64 (2 ^ 32 * mx + (2 ^ 32 - 100)))
  s.setChan 5 { TdlChan.init with live := true, uPrev := 1 }

theorem witness_channel_sample :
    (let s := chan5 3 15
     s.flag Reg.TDL_CTRL 0 = true ∧ (s.chan 5).live = true ∧ s.tdlStart + 40 * s.fld (chSched 5) 62 56 ≤ s.cyc + 1 ∧ (s.chan 5).last ≠ some 7 ∧
       (s.reg Reg.TDL_FRAME).toNat % s.fld (chSched 5) 47 32 = s.fld (chSched 5) 31 16 ∧ (s.chan 5).commits = [] ∧ (s.chan 5).pend = [] ∧ s.flag (chTest 5) 63 = false ∧
       s.flag (chRc 5) 63 = false) ∧
    ((chan5 4 15).reg Reg.TDL_FRAME).toNat % (chan5 4 15).fld (chSched 5) 47 32 ≠ (chan5 4 15).fld (chSched 5) 31 16 := by
  decide +kernel

theorem test_channel_law : seen (exec (.channelSample 5) (chan5 3 50)) (fun t => (t.fld (chObs 5) 31 0, t.flag (chStat 5) 6)) = some (20, false) := by decide +kernel
theorem test_channel_limit : seen (exec (.channelSample 5) (chan5 3 15)) (fun t => (t.fld (chObs 5) 31 0, t.flag (chStat 5) 6)) = some (15, true) := by decide +kernel

/-- The host's window on channel 5 with these registers written; channel 5 enabled as `en`, its output none. -/
def window (en : Bool) (d : Tab DWord) : State :=
  let s := (if en then chan5 3 15 else tide 0 0).setFld (Reg.TDL_CHSEL (winOf (.host .pf))) 5 0 5
  { s with tdlDirty := d.map (fun p => (16 * winOf (.host .pf) + p.1, p.2)) }

/-- CH_SCHED of an enabled channel (DIV `div`, PH 1, slot `n`). -/
def schedWord (div n : Nat) : DWord := BitVec.ofNat 64 (2 ^ 63 + 2 ^ 56 * n + 2 ^ 32 * div + 2 ^ 16)

/-- Channel 5's claim of the output it asks for, from the host's window. -/
def chClaim (s : State) : ClaimNow :=
  let n := winOf (.host .pf)
  ⟨4, 5, 5, false, n, s.dirtyOf n, (s.dirtyOf n).map (fun p => (p.1, s.reg (chReg 5 p.1)))⟩

theorem witness_channel_windows :
    (∀ p ∈ [(Reg.TDL_CHSEL (winOf (.host .pf)), 5), (Reg.TDL_CHSEL (winOf (.host .pf)), 69), (Reg.CH_COMMIT (winOf (.host .pf)), 1)],
      (window true []).accessKind .pf true p.1 32 (BitVec.ofNat 64 p.2) = none) ∧
    (let new := fun (s : State) => s.allPending.putVals 5 (s.dirtyOf (winOf (.host .pf)))
     let err := fun (s : State) => commitErr s.allPending (new s) 5
     let bad := window true [(0, schedWord 0 2)]
     let more := window true [(5, 77)]
     let on := window false [(0, schedWord 3 2)]
     let pwm := window false [(0, schedWord 3 2), (1, BitVec.ofNat 64 (2 ^ 28 + 2 ^ 17 * 4))]
     let held := ({ pwm with claims := [(4, (2, 0))] } : State)
     ((new bad).chEn 5 = true ∧ err bad = 2) ∧ ((new more).chEn 5 = true ∧ err more = 0 ∧ more.chEn 5 = true) ∧
     ((new on).chEn 5 = true ∧ err on = 0 ∧ on.chEn 5 = false ∧ (new on).outRes 5 = none) ∧
     ((new pwm).chEn 5 = true ∧ err pwm = 0 ∧ (new pwm).outRes 5 = some 4 ∧ (pwm.claim (chClaim pwm)).1 = 0) ∧
     (err held = 0 ∧ held.chEn 5 = false ∧ (new held).outRes 5 = some 4 ∧ (held.claim (chClaim held)).1 ≠ 0) ∧
     (let off := window true [(0, 0)]
      (new off).chEn 5 = false ∧ (off.chan 5).commits = [] ∧ off.chEn 5 = true)) := by
  decide +kernel

theorem test_channel_select_loses : seen (exec (.channelSelect (.host .pf) 6) (window true [(5, 77)])) (fun t => (t.fld (Reg.TDL_CHSEL 0) 5 0, t.flag (Reg.TDL_CHSEL 0) 30, t.tdlDirty)) =
    some (6, true, []) := by decide +kernel
theorem test_commit_waits : seen (exec (.channelCommit (.host .pf)) (window true [(5, 77)])) (fun t => ((t.chan 5).commits.length, (t.reg (chSpff 5)).toNat, t.tdlDirty)) =
    some (1, 2 ^ 32 * 10, []) := by decide +kernel
theorem test_commit_div_zero : seen (exec (.channelCommit (.host .pf)) (window true [(0, schedWord 0 2)])) (fun t => (t.flag (Reg.TDL_CHSEL 0) 29, t.fld (chStat 5) 47 40)) =
    some (true, 2) := by decide +kernel

/-- Channel 5 reads SPI device 6 (LEN 16, DIV 5, LEAD 2); the frame in progress is `f`. -/
def spi (last : Option Nat) : State :=
  let s := (chan5 3 15).setReg (chIo 5) (BitVec.ofNat 64 (2 ^ 60 * 3 + 2 ^ 49 * 6))
  let s1 := s.setReg (Reg.TDL_SPIDEV 6) (BitVec.ofNat 64 (2 ^ 27 * 15 + 2 ^ 19 * 5 + 2 ^ 12 * 2))
  { s1.setChan 5 { s1.chan 5 with last := last } with cyc := 950 }

theorem witness_spi_read :
    ((spi none).chan 5).live = true ∧ (spi none).fld (chIo 5) 63 60 = 3 ∧ ((spi none).chan 5).rd = none ∧
    (∃ t, (spi none).nextSlot 5 = some t ∧ t ≤ (spi none).cyc + 1 + 40 * (spi none).fld (Reg.TDL_SPIDEV 6) 15 12) ∧ (chan5 3 15).fld (chIo 5) 63 60 ≠ 3 := by
  refine ⟨by decide +kernel, by decide +kernel, by decide +kernel, ⟨980, by decide +kernel, by decide +kernel⟩, by decide +kernel⟩

theorem test_spi_read : seen (exec (.spiRead 5 0x1ABCD) (spi none)) (fun t => (((t.chan 5).rd), tabGet [] t.spiRead 6)) = some (some 1114, [(1114, 0xABCD)]) := by
  decide +kernel

/-- Drop binding 2 on ring 3 of island 1, context 9: one slot FULL, the harbour ring of core 8; its first record has kind `kind`. -/
def drop (kind n : Nat) : State :=
  let g : Ring := { ring0 3 3 [.f, .e, .e] 0 with base := 0, harbour := true }
  let s := ready.setReg (Reg.TDL_DROP 2) (BitVec.ofNat 64 (2 ^ 63 + 2 ^ 60 * 1 + 2 ^ 52 * 9 + 2 ^ 48 * 3))
  { s.setCore 8 { Core.init with regs := { regs0 [] with rings := [(3, g)] }, resident := some 9 } with
    mem := s.mem.writeN (hbrAddr 1 0) ((List.replicate n (leBytes 32 kind)).flatten), tbNs := 50 }

theorem witness_drop_copy :
    (let s := drop 1 1
     s.flag (Reg.TDL_DROP 2) 63 = true ∧ (∃ c x, s.dropRingOf 2 = some (c, x) ∧ x.st.getD x.acq .e = .f ∧ x.base + x.sb * x.acq + x.sb ≤ 2048 ∧ x.tail = x.acq ∧
       x.acq < x.st.length) ∧ tabFind s.drops 2 = none ∧ s.hbrUe = [] ∧ s.hbrCe = []) ∧ ready.flag (Reg.TDL_DROP 2) 63 = false := by
  refine ⟨⟨by decide +kernel, ⟨8, { ring0 3 3 [.f, .e, .e] 0 with base := 0, harbour := true }, by decide +kernel, by decide +kernel, by decide +kernel, by decide +kernel,
    by decide +kernel⟩, by decide +kernel, by decide +kernel, by decide +kernel⟩, by decide +kernel⟩

theorem test_drop_stops_at_kind_zero : seen (exec (.dropCopy 2) (drop 2 3)) (fun t => (t.dropRing.length, t.fld (Reg.TDL_DROP_STAT 2) 63 32, t.drops)) = some (3, 3, []) := by
  decide +kernel

/-- A landed record of kind `kind` for channel 5 at time 40 ns, mask bit 5 as `m`. -/
def landed (kind : Nat) (m : Bool) : State :=
  { (chan5 3 15).setFlag (Reg.TDL_DROP_MASK 2) 5 m with dropRing := [⟨2, leBytes 1 kind ++ leBytes 1 5 ++ leBytes 2 7 ++ leBytes 4 40 ++ leBytes 8 0 ++ leBytes 4 123 ++ leBytes 12 0, 50⟩] }

theorem witness_setpoint_record :
    (∃ l rest, (landed 1 true).dropRing = l :: rest ∧ recNat l.bytes 0 1 = 1 ∧ recNat l.bytes 1 1 = 5 ∧ recZero l.bytes 24 8 = true ∧ recNat l.bytes 4 4 < 1000000000 ∧
      (landed 1 true).chEn 5 = true ∧ (landed 1 true).flag (Reg.TDL_DROP_MASK l.b) 5 = true ∧ (landed 1 false).flag (Reg.TDL_DROP_MASK l.b) 5 = false) ∧
    (∃ l rest, (landed 4 true).dropRing = l :: rest ∧ 4 ≤ recNat l.bytes 0 1) ∧ ready.dropRing = [] := by
  refine ⟨⟨_, _, rfl, by decide +kernel, by decide +kernel, by decide +kernel, by decide +kernel, by decide +kernel, by decide +kernel, by decide +kernel⟩,
    ⟨_, _, rfl, by decide +kernel⟩, rfl⟩

theorem test_setpoint_joins_late : seen (exec .setpointRecord (landed 1 true)) (fun t => ((t.chan 5).pend, t.flag (chStat 5) 2, t.dropRing)) =
    some ([⟨40, 1, 123, 0, 7⟩], true, []) := by decide +kernel
theorem test_setpoint_masked : seen (exec .setpointRecord (landed 1 false)) (fun t => ((t.chan 5).pend, t.fld (Reg.TDL_DROP_STAT 2) 31 16)) = some ([], 1) := by
  decide +kernel

/-! ## CAN -/

/-- Controller 0 in STATE `st` with CAN_CTRL `c` and these error counters. -/
def can (st c tec rc : Nat) : State :=
  (ready.setReg (canCtrl 0) (BitVec.ofNat 64 c)).setReg (canStat 0) (BitVec.ofNat 64 (2 ^ 56 * tec + 2 ^ 48 * rc + 2 ^ 46 * st))

/-- `can` with a bit timing of 80 and 20 quanta of 2 ns and 1 ns (nominal BRP 1, data BRP 0). -/
def timed (st c : Nat) (nbrp : Nat) : State :=
  ((can st c 0 0).setReg (canBank 0 (Reg.CAN_NBT 0)) (BitVec.ofNat 64 (2 ^ 25 * 10 + 2 ^ 17 * 57 + 2 ^ 10 * 20 + nbrp))).setReg (canBank 0 (Reg.CAN_DBT 0))
    (BitVec.ofNat 64 (2 ^ 28 * 3 + 2 ^ 23 * 12 + 2 ^ 19 * 5))

theorem witness_can_init :
    (∀ v ∈ [0, 1, 0x40], ready.accessKind .pf true (Reg.CAN_CTRL (winOf (.host .pf))) 32 (BitVec.ofNat 64 v) = none) ∧
    ((can 0 0 0 0).flag (canCtrl 0) 0 = false ∧ (can 3 1 0 0).flag (canCtrl 0) 0 = true ∧ (can 0 0 0 0).canTx = [] ∧ (can 0 0 0 0).fld (canStat 0) 47 46 < 2) ∧
    (let s := timed 3 1 1
     8 ≤ bitsOf (s.reg (canBank 0 (Reg.CAN_NBT 0))).toNat 24 17 + bitsOf (s.reg (canBank 0 (Reg.CAN_NBT 0))).toNat 16 10 + 3 ∧
       bitsOf (s.reg (canBank 0 (Reg.CAN_NBT 0))).toNat 31 25 ≤ bitsOf (s.reg (canBank 0 (Reg.CAN_NBT 0))).toNat 16 10 ∧ s.flag (canCtrl 0) 0 = true) ∧
    ((can 2 0 0 0).fld (canStat 0) 47 46 = 2 ∧ (can 2 0 0 0).flag (canStat 0) 45 = false ∧ (can 2 0 0 0).flag (canCtrl 0) 0 = false ∧
      ((can 2 0 0 0).setFlag (canStat 0) 45 true).flag (canStat 0) 45 = true ∧ (can 3 0 0 0).fld (canStat 0) 47 46 = 3 ∧
      (can 3 (2 ^ 31) 0 0).flag (canCtrl 0) 31 = true) := by
  decide +kernel

theorem test_init_waits_for_frame : seen (exec (.canInitSet .icc 1 true) (can 0 0 0 0)) (fun t => (t.flag (canCtrl 0) 0, t.canState 0)) = some (true, 0) := by decide +kernel
theorem test_init_at_once : seen (exec (.canInitSet .icc 1 false) (can 0 0 0 0)) (fun t => (t.flag (canCtrl 0) 0, t.canState 0)) = some (true, 3) := by decide +kernel
theorem test_init_clear : seen (exec (.canInitClear .icc 0) (timed 3 1 1)) (fun t => (t.flag (canCtrl 0) 0, t.canState 0, t.flag (Reg.CAN_WSTAT 2) 4)) =
    some (false, 3, false) := by decide +kernel
theorem test_init_clear_short_bit : seen (exec (.canInitClear .icc 0) (timed 3 1 0)) (fun t => (t.flag (canCtrl 0) 0, t.flag (Reg.CAN_WSTAT 2) 4)) =
    some (true, true) := by decide +kernel
theorem test_join : seen (exec (.canBusJoin 0) (can 3 0 0 0)) (fun t => t.canState 0) = some 0 := by decide +kernel
theorem test_recover : seen (exec (.canRecover .icc 0x40) (can 2 0 0 0)) (fun t => (t.flag (canStat 0) 45, t.flag (canCtrl 0) 6, t.canState 0)) = some (true, false, 2) := by
  decide +kernel
theorem test_recovered : seen (exec (.canRecoveryComplete 0) ((can 2 0 200 0).setFlag (canStat 0) 45 true)) (fun t => t.fld (canStat 0) 63 45) = some 0 := by
  decide +kernel

/-- Standard frame 0x123 with one byte, and receive buffers 2 and 5 that take it. -/
def frame123 : CanFrame := ⟨2 ^ 18 * 0x123, false, false, false, false, 1, [0xAB]⟩
def taking (s : State) : State :=
  [2, 5].foldl (fun t i => t.setReg (canBank 0 (Reg.RXB_FLT 0 i)) (BitVec.ofNat 64 (2 ^ 63 + 2 ^ 50 * 0x123 + 2 ^ 18 * 0x7FF))) s

theorem witness_can_receive :
    ((can 2 0 0 0).fld (canStat 0) 47 46 = 2 ∧ (can 1 0 0 130).fld (canStat 0) 47 46 < 2 ∧ frame123.wf = true) ∧
    (let flt := fun (i : Nat) => ((taking (can 1 0 0 130)).reg (canBank 0 (Reg.RXB_FLT 0 i))).toNat
     (bitOf (flt 2) 63 = true ∧ bitOf (flt 2) 62 = frame123.ide ∧ (∀ j < 29, bitOf (flt 2) j = true → frame123.id.testBit j = bitOf (flt 2) (32 + j))) ∧
       ∀ j < 2, bitOf (flt j) 63 = false) ∧ (∀ i < 128, bitOf ((can 1 0 0 130).reg (canBank 0 (Reg.RXB_FLT 0 i))).toNat 63 = false) ∧
    (∀ i ∈ [0, 127], ready.accessKind .pf false (Reg.RXB_HDR 0 i) 64 0 = none) ∧ winOf .icc = 2 ∧ winOf .icc ≠ 3 := by
  decide +kernel

theorem test_can_receives_first_buffer : seen (exec (.canFrameReceived 0 false frame123 0) (taking (can 0 0 0 5))) (fun t => (t.canRx.map (fun p => (p.1, p.2.frame, p.2.seq)), t.fld (canStat 0) 55 48)) =
    some ([(2, frame123, 1)], 4) := by decide +kernel
theorem test_can_nomatch : seen (exec (.canFrameReceived 0 true frame123 0) (taking (can 0 0 0 0))) (fun t => (t.canRx, t.fld (canStat 0) 31 16)) = some ([], 1) := by
  decide +kernel
theorem test_rxb_latch : seen (exec (.rxbHdrLatch .icc 2 5) { ready with canRx := [(5, ⟨frame123, 1, 2, 3, 0, 0⟩)], canNew := [1024 * 2 + 5, 5] }) (fun t =>
    (t.readData, t.canNew)) = some (2 ^ 35 * (2 ^ 18 * 0x123) + 2 ^ 27 + 2 ^ 26 + 2 ^ 18 * 3, [5]) := by decide +kernel

/-- Controller 0 with queue `q`, sending template `tx`; template 3 held by holder `h`. -/
def sending (q : List Nat) (tx : Option Nat) (h : Nat) (tec : Nat) : State :=
  { (can 0 0 tec 0).setReg (canBank 0 (Reg.TPL_HDR 0 3)) (BitVec.ofNat 64 (2 ^ 53 * 0x123 + 2 ^ 27)) with
    canQ := [(0, q)], canTx := (tx.map (fun m => (0, (⟨m, frame123, 0, some (7, 8)⟩ : CanTx)))).toList, claims := if h = 0 then [] else [(0x403, (h, 0))] }

theorem witness_can_send :
    (∀ v ∈ [3, 3 + 2 ^ 31], (sending [] none 0 0).accessKind .pf true (Reg.CAN_TXREQ (winOf (.host .pf))) 32 (BitVec.ofNat 64 v) = none) ∧
    ((tabGet (0, 0) (sending [] none 2 0).claims (0x400 + 128 * 0 + 3)).1 = 2 ∧ (tabGet (0, 0) (sending [] none 5 0).claims 0x403).1 = 5) ∧
    (tabGet [] (sending [3, 4] none 0 0).canQ 0 = [3, 4] ∧ (sending [3, 4] none 0 0).canTx = [] ∧ (sending [3, 4] none 0 0).fld (canStat 0) 47 46 < 2 ∧
      (∀ b ∈ [0, 2, 4], (sending [3, 4] none 0 0).flag (canCtrl 0) b = false)) ∧
    (tabFind (sending [4] (some 3) 0 9).canTx 0 = some ⟨3, frame123, 0, some (7, 8)⟩ ∧ (sending [4] (some 3) 0 9).flag (canCtrl 0) 3 = false) ∧
    ((can 2 0 0 0).fld (canStat 0) 47 46 = 2 ∧ (can 0 16 0 0).flag (canCtrl 0) 4 = true) := by
  decide +kernel

theorem test_tx_request_once : seen (exec (.canTxRequest .sch 3) (sending [4] none 0 0)) (fun t => tabGet [] t.canQ 0) = some [4, 3] := by decide +kernel
theorem test_tx_request_denied : seen (exec (.canTxRequest .sch 3) (sending [4] none 1 0)) (fun t => (tabGet [] t.canQ 0, t.flag (Reg.CAN_WSTAT 1) 3)) = some ([4], true) := by
  decide +kernel
theorem test_tx_cancel : seen (exec (.canTxCancel .sch 3) (sending [4, 3] none 0 0)) (fun t => (tabGet [] t.canQ 0, t.reg (Reg.CAN_WSTAT 1))) = some ([4], 2) := by decide +kernel
theorem test_tx_cancel_held_by_channel : seen (exec (.canTxCancel .sch 3) (sending [4, 3] none 5 0)) (fun t => (tabGet [] t.canQ 0, t.reg (Reg.CAN_WSTAT 1))) =
    some ([4, 3], 4) := by decide +kernel
theorem test_tx_start : seen (exec (.canTxStart 0) (sending [3, 4] none 0 0)) (fun t => (tabGet [] t.canQ 0, t.out, (tabFind t.canTx 0).map (·.tpl))) =
    some ([4], [.can 0 { frame123 with data := [0] }], some 3) := by decide +kernel
theorem test_tx_complete : seen (exec (.canTxComplete 0 none) (sending [4] (some 3) 0 9)) (fun t => (t.canTx, t.fld (canStat 0) 63 56, t.reg (canBank 0 (Reg.TPL_TS_S 0 3)))) =
    some ([], 8, 7) := by decide +kernel
theorem test_bus_error_passive : seen (exec (.canBusError 0 ⟨false, 3, false, false, 0, none⟩) (sending [4] (some 3) 0 120)) (fun t => (tabGet [] t.canQ 0, t.fld (canStat 0) 63 56, t.canState 0,
    t.fld (canStat 0) 41 39)) = some ([3, 4], 128, 1, 3) := by decide +kernel
theorem test_bus_error_off : seen (exec (.canBusError 0 ⟨false, 3, true, false, 0, none⟩) (sending [] (some 3) 0 250)) (fun t => (t.fld (canStat 0) 63 56, t.canState 0, t.fld (canStat 0) 44 42)) =
    some (255, 2, 3) := by decide +kernel

/-! ## The sensor ports -/

/-- Core 0, resident for context 0, has harbour ring 7 with these roles. -/
def shored (prod cons : Nat) (st : List SlotSt) (ptr : Nat) (s : State) : State :=
  s.setCore 0 { core0 slice0 { regs0 [] with rings := [(7, { ring0 prod cons st ptr with base := 0, harbour := true })] } with resident := some 0 }

/-- Port 1 enabled with link, its address 0x112233445566, binding 2 for UDP port 77, the ring 7 of island 0, SIG of object 3 after 10 us;
or a binding of everything. -/
def ether (udp : Nat) (st : List SlotSt) (rx : Tab EthRx) : State :=
  { shored 3 0 st 0 ((((ready.setReg (Reg.NET_SP_CFG 1) (BitVec.ofNat 64 (2 ^ 63 + 0x112233445566))).setFlag (Reg.NET_SP_STAT 1) 63 true).setReg (Reg.NET_SP_RX_MATCH 1 2)
      (BitVec.ofNat 64 (2 ^ 63 + 2 ^ 16 * udp))).setReg (Reg.NET_SP_RX_RING 1 2) (BitVec.ofNat 64 (2 ^ 49 * 7 + 2 ^ 48 + 2 ^ 34 * 3 + 10))) with
    ethRx := rx, tbNs := 1000, cyc := 6000 }

/-- A minimal frame to the port: ETHERTYPE 0x0800, and a UDP datagram to port 77 in it. -/
def ethFrame : List Byte :=
  [0x11, 0x22, 0x33, 0x44, 0x55, 0x66, 1, 2, 3, 4, 5, 6, 8, 0] ++ ([0x45, 0, 0, 28, 0, 0, 0, 0, 64, 17, 0, 0, 10, 0, 0, 1, 10, 0, 0, 2, 0, 99, 0, 77, 0, 8, 0, 0] : List Byte)

theorem witness_ethernet_receive :
    (∀ u ∈ [77, 0], let s := ether u [.e, .e, .e] []
      s.flag (Reg.NET_SP_CFG 1) 63 = true ∧ s.flag (Reg.NET_SP_STAT 1) 63 = true ∧ s.flag (Reg.NET_SP_RX_MATCH 1 2) 63 = true ∧ s.flag (Reg.NET_SP_RX_MATCH 1 2) 62 = false ∧
        s.fld (Reg.NET_SP_RX_MATCH 1 2) 47 32 = 0 ∧ s.fld (Reg.NET_SP_RX_MATCH 1 2) 31 16 = u ∧ (s.ethRing 1 2).isSome = true ∧ s.hbrUe = [] ∧ s.hbrCe = []) ∧
    (beAt ethFrame 0 6 = 0x112233445566 ∧ beAt ethFrame 12 2 = 0x800 ∧ udpPort ethFrame 0x800 14 = some 77 ∧ ethFrame.length + 4 ≤ 9216 ∧ 14 ≤ ethFrame.length) ∧
    ((ready.flag (Reg.NET_SP_CFG 1) 63) = false ∧ (ether 78 [] []).fld (Reg.NET_SP_RX_MATCH 1 2) 31 16 = 78) ∧
    (∃ c ring, (ether 77 [.e, .e, .e] []).ethRing 1 2 = some (c, ring) ∧ 32 + ethFrame.length ≤ ring.slotBytes ∧ ring.rsv < ring.st.length ∧ ring.st.getD ring.rsv .e = .e ∧
      hbrAddr 0 0 ≤ ring.hbrSlot 0 ring.head ∧ ring.hbrSlot 0 ring.head + ring.slotBytes ≤ hbrAddr 8 0) := by
  refine ⟨by decide +kernel, by decide +kernel, by decide +kernel, ⟨0, { ring0 3 0 [.e, .e, .e] 0 with base := 0, harbour := true }, by decide +kernel, by decide +kernel,
    by decide +kernel, by decide +kernel, by decide +kernel, by decide +kernel⟩⟩

theorem test_frame_opens_slot : seen (exec (.ethFrameReceived 1 false ethFrame 0) (ether 77 [.e, .e, .e] [])) (fun t => (t.ethRx, t.mem.readN (hbrAddr 0 0) 4, t.mem.readN (hbrAddr 0 32) 2)) =
    some ([(10, ⟨128, 6000⟩)], [42, 0, 1, 8], [0x11, 0x22]) := by decide +kernel
theorem test_frame_bad_fcs : seen (exec (.ethFrameReceived 1 true ethFrame 0) (ether 77 [.e, .e, .e] [])) (fun t => (t.fld (Reg.NET_SP_STAT 1) 15 0, t.ethRx)) = some (1, []) := by
  decide +kernel
theorem test_coalesce : seen (exec (.ethCoalesceTimeout 1 2) (ether 77 [.p, .e, .e] [(10, ⟨128, 1000⟩)])) (fun t => (t.ethRx, t.reg (Reg.SYN_CNT 3), (t.ring 0 7).map (·.st))) =
    some ([], 1, some [.f, .e, .e]) := by decide +kernel
theorem test_coalesce_early : seen (exec (.ethCoalesceTimeout 1 2) (ether 77 [.p, .e, .e] [(10, ⟨128, 1001⟩)])) (fun t => t.ethRx) = some [(10, ⟨128, 1001⟩)] := by
  decide +kernel
theorem test_link_rate : seen (exec (.sensorLinkChange 1 true 2) ready) (fun t => t.fld (Reg.NET_SP_STAT 1) 63 61) = some 6 := by decide +kernel

/-- Port 1's send ring 7 of island 0 with a FULL slot of one frame of 20 bytes with these flags (2 and up ask for a stamp). -/
def ethSend (len flags : Nat) : State :=
  let s := shored 0 3 [.f, .e, .e] 0 (((ready.setReg (Reg.NET_SP_CFG 1) (BitVec.ofNat 64 (2 ^ 63))).setFlag (Reg.NET_SP_STAT 1) 63 true).setReg (Reg.NET_SP_TX 1)
    (BitVec.ofNat 64 (2 ^ 63 + 2 ^ 48 * 7)))
  { s with mem := s.mem.writeN (hbrAddr 0 0) (leBytes 2 len ++ leBytes 1 0 ++ leBytes 1 flags ++ leBytes 28 0 ++ (List.range len).map (BitVec.ofNat 8)), tbS := 5, tbNs := 6 }

theorem witness_ethernet_send :
    (∀ p ∈ [(0, 0), (20, 0), (20, 2), (20, 4), (20, 16)], let s := ethSend p.1 p.2
      s.flag (Reg.NET_SP_TX 1) 63 = true ∧ s.flag (Reg.NET_SP_CFG 1) 63 = true ∧ s.flag (Reg.NET_SP_STAT 1) 63 = true ∧ (s.shoreRing 0 0 7 false).isSome = true ∧ s.hbrUe = [] ∧
        s.hbrCe = [] ∧ recNat (s.mem.readN (hbrAddr 0 0) 32) 0 2 = p.1 ∧ recNat (s.mem.readN (hbrAddr 0 0) 32) 3 1 = p.2 ∧
        recNat (s.mem.readN (hbrAddr 0 (up64 (32 + p.1))) 32) 0 2 = 0) ∧ ready.flag (Reg.NET_SP_TX 1) 63 = false := by
  decide +kernel

theorem test_tx_slot_sends : seen (exec (.ethTxSlot 1 []) (ethSend 3 0)) (fun t => (t.out, (t.ring 0 7).map (·.st))) = some ([.frame 1 [0, 1, 2, 0x7F, 0x89, 0x54, 0x08]], some [.e, .e, .e]) := by
  decide +kernel
theorem test_tx_slot_stamps : seen (exec (.ethTxSlot 1 [65536 * 4]) (ethSend 3 2)) (fun t => (t.mem.readN (hbrAddr 0 3) 1, t.mem.readN (hbrAddr 0 8) 12)) =
    some ([10], leBytes 8 5 ++ leBytes 4 10) := by decide +kernel

/-! ## The causeway -/

/-- Device 3 of system 9 in mode 1 (4 ports), ports `ports` with link; device 5 reached by the ports `learned` and allowed on all. -/
def causeway (ports learned : List Nat) : State :=
  let s := ready.setReg Reg.NET_CW_CFG (BitVec.ofNat 64 (2 ^ 63 + 2 ^ 61 + 2 ^ 16 * 9 + 3))
  let s1 := ports.foldl (fun t q => t.setFlag (Reg.NET_CW_PORT_STAT q) 63 true) s
  let s2 := learned.foldl (fun t q => t.setFlag (Reg.NET_ROUTE 5) (8 + q) true) (s1.setFld (Reg.NET_ROUTE 5) 7 0 255)
  { s2 with cyc := 2000000 }

/-- The causeway packet in a frame without a tag: header and check sequence apart (Table 15.4). -/
def payload (o : OutMsg) : List Byte :=
  match o with
  | .packet _ b => (b.drop 14).take (b.length - 18)
  | _ => []

/-- The frame check sequence of IEEE 802.3: its check value, that of the digits 1 to 9. -/
theorem test_fcs : frameFcs ((List.range 9).map (fun i => BitVec.ofNat 8 (0x31 + i))) = [0x26, 0x39, 0xF4, 0xCB] := by decide +kernel

/-- A packet of device 5 to device 3. -/
def fromFive (sport psn sch dch slot arg arg2 : Nat) (data : List Byte) : CwPkt := ⟨true, 0, 9, 5, 3, sport, psn, sch, dch, slot, 0, arg, arg2, data⟩

/-- Channel 2: it sends ring 7 of context 0, island 0, to device 5's channel 6, and receives from that channel into ring 8 with a signal
to object 4; its sides stand at `tx` and `rx`. -/
def channel (l : List Nat) (send recv : List SlotSt) (tx : CwTx) (rx : CwRx) : State :=
  let s := ((causeway [0, 1] l).setReg (Reg.NET_CH_SEND 2) (BitVec.ofNat 64 (2 ^ 63 + 2 ^ 48 * 7 + 2 ^ 32 * 5 + 6))).setReg (Reg.NET_CH_RECV 2)
    (BitVec.ofNat 64 (2 ^ 63 + 2 ^ 48 * 8 + 2 ^ 47 + 2 ^ 32 * 5 + 2 ^ 16 * 4 + 6))
  let ring := fun (prod cons base : Nat) (st : List SlotSt) => { ring0 prod cons st 0 with base := base, harbour := true }
  { s.setCore 0 { core0 slice0 { regs0 [] with rings := [(7, ring 0 3 0 send), (8, ring 3 0 8 recv)] } with resident := some 0 } with cwTx := [(2, tx)], cwRx := [(2, rx)] }

def tx0 : CwTx := ⟨3, 4096, 2, 7, none⟩
def rx0 : CwRx := ⟨2, 1, [], 0⟩

theorem witness_causeway_links :
    ((causeway [0] []).portUp 0 = true ∧ (causeway [0] []).portUp 1 = false ∧ (causeway [4] []).portUp 4 = false ∧ (causeway [] []).flag Reg.NET_CW_CFG 63 = true ∧
      (causeway [] []).fld Reg.NET_CW_CFG 62 61 = 1 ∧ ready.flag Reg.NET_CW_CFG 63 = false ∧ (causeway [] []).helloSent = []) ∧
    (∀ m ∈ [fromFive 1 0 0 0 0 0 0 [], fromFive 0 0 0 0 0 0 0 [], { fromFive 0 0 0 0 0 0 0 [] with src := 3 }],
      m.system = (causeway [0] []).fld Reg.NET_CW_CFG 31 16 ∧ m.src < 64 ∧ m.wf = true) ∧
    ((causeway [0] []).fld Reg.NET_CW_CFG 5 0 = 3 ∧ (causeway [0] []).flag (Reg.NET_ROUTE 5) 16 = false ∧
      ((causeway [0] [0]).setFlag (Reg.NET_ROUTE 5) 16 true).flag (Reg.NET_ROUTE 5) 16 = true) ∧
    (tabGet 0 (causeway [0] []).helloAt (64 * 0 + 5) + 3 * (500000 * max 1 ((causeway [0] []).fld Reg.NET_CW_XPORT 31 24)) ≤ (causeway [0] []).cyc ∧
      (causeway [0] []).cyc < tabGet 0 [(5, 1999999)] 5 + 1500000) ∧
    ((ready.recvRing 2).isNone = true ∧ (channel [0] [] [.e, .e, .e] tx0 rx0).cwRxOf 2 = rx0 ∧ rx0.done < rx0.granted ∧ rx0.sent + 5000 ≤ (channel [0] [] [.e, .e, .e] tx0 rx0).cyc) ∧
    (∀ st ∈ [SlotSt.e, SlotSt.f], ∃ k ring, (channel [0] [] [st, .e, .e] tx0 rx0).recvRing 2 = some (k, ring) ∧ ring.st.getD ring.rsv .e = st) ∧
    (let s := channel [0] [] [] tx0 rx0
     let m := fromFive 0 0 6 2 0 5 8192 []
     m.dch < 256 ∧ s.flag (Reg.NET_CH_SEND m.dch) 63 = true ∧ s.fld (Reg.NET_CH_SEND m.dch) 37 32 = m.src ∧ s.fld (Reg.NET_CH_SEND m.dch) 7 0 = m.sch ∧ Addressed s m ∧ s.portUp 0 = true ∧
       m.arg = ((s.cwTxOf m.dch).credits + 2) % 2 ^ 32) ∧
    ¬ Addressed (channel [0] [] [] tx0 rx0) { fromFive 0 0 6 2 0 5 8192 [] with dst := 4 } := by
  refine ⟨by decide +kernel, by decide +kernel, by decide +kernel, by decide +kernel, by decide +kernel, ?_, by decide +kernel, by decide +kernel⟩
  intro st h
  refine ⟨0, { ring0 3 0 [st, .e, .e] 0 with base := 8, harbour := true }, ?_, rfl⟩
  revert st
  decide +kernel

theorem test_link_up_mode_corr : seen (exec (.cwLinkUp 1) (causeway [] [])) (fun t => (t.fld (Reg.NET_CW_PORT_STAT 1) 63 62, tabFind t.cwCorr 1)) = some (3, some (3014656, 7110656)) := by
  decide +kernel
theorem test_link_up_no_such_port : seen (exec (.cwLinkUp 4) (causeway [] [])) id = some (causeway [] []) := by decide +kernel
theorem test_link_down_unlearns : seen (exec (.cwLinkDown 1) (causeway [0, 1] [0, 1])) (fun t => (t.reg (Reg.NET_ROUTE 5), t.portUp 1)) = some (0x1FF, false) := by decide +kernel
theorem test_hello_learns : seen (exec (.helloReceived 1 (fromFive 1 0 0 0 0 0 0 [])) (causeway [1] [])) (fun t => t.fld (Reg.NET_ROUTE 5) 15 8) = some 2 := by decide +kernel
theorem test_hello_miswired : seen (exec (.helloReceived 1 (fromFive 0 0 0 0 0 0 0 [])) (causeway [1] [])) (fun t => (t.fld (Reg.NET_ROUTE 5) 15 8, t.fld Reg.NET_CW_STAT 47 32)) = some (0, 1) := by
  decide +kernel
theorem test_hello_timeout : seen (exec (.helloTimeout 0 5) (causeway [0] [0])) (fun t => t.fld (Reg.NET_ROUTE 5) 15 8) = some 0 := by decide +kernel
theorem test_hello_sent : seen (exec (.helloSend 1) (causeway [1] [])) (fun t => t.out.map payload) =
    some [[0x10, 0, 0, 9, 3, 0, 1, 0] ++ List.replicate 24 0] := by decide +kernel
theorem test_credit_granted : seen (exec (.creditGrant 2) (channel [0] [] [.e, .e, .e] tx0 rx0)) (fun t => ((t.cwRxOf 2).granted, (t.ring 0 8).map (·.st), t.out.length)) =
    some (3, some [.p, .e, .e], 1) := by decide +kernel
theorem test_credit_repeated : seen (exec (.creditRepeat 2) (channel [] [] [.e, .e, .e] tx0 rx0)) (fun t => (t.cwRxOf 2, t.out)) = some (⟨2, 1, [], 2000000⟩, []) := by decide +kernel
theorem test_credit_raises : seen (exec (.creditReceived 0 (fromFive 0 0 6 2 0 5 8192 [])) (channel [0] [] [] tx0 rx0)) (fun t => t.cwTxOf 2) = some ⟨5, 8192, 2, 7, none⟩ := by
  decide +kernel
theorem test_credit_old : seen (exec (.creditReceived 0 (fromFive 0 0 6 2 0 1 8192 [])) (channel [0] [] [] tx0 rx0)) (fun t => t.cwTxOf 2) = some ⟨3, 8192, 2, 7, none⟩ := by
  decide +kernel

/-- `channel` with a FULL send slot of kind 1 and LEN `len`, byte 13 as `r`. -/
def slotOut (l : List Nat) (len r : Nat) (tx : CwTx) : State :=
  let s := channel l [.f, .e, .e] [] tx rx0
  { s with mem := s.mem.writeN (hbrAddr 0 0) (leBytes 4 len ++ leBytes 1 1 ++ leBytes 8 0 ++ leBytes 1 r ++ leBytes 50 0 ++ (List.range (min len 4)).map (BitVec.ofNat 8)) }

theorem witness_causeway_send :
    (∀ p ∈ [(4, 0), (4, 1), (4033, 0)], let s := slotOut [0] p.1 p.2 tx0
      (s.sendRing 2).isSome = true ∧ (s.cwTxOf 2).cur = none ∧ s.hbrUe = [] ∧ s.hbrCe = [] ∧ (s.cwTxOf 2).n < (s.cwTxOf 2).credits ∧ recNat (s.mem.readN (hbrAddr 0 0) 64) 0 4 = p.1 ∧
        recZero (s.mem.readN (hbrAddr 0 0) 64) 13 1 = (p.2 == 0) ∧ recZero (s.mem.readN (hbrAddr 0 0) 64) 40 24 = true ∧ s.portsTo 5 7 ≠ []) ∧
    ((slotOut [] 4 0 tx0).portsTo 5 7 = [] ∧ (slotOut [] 4 0 { tx0 with cur := some (false, 0) }).cwTxOf 2 = { tx0 with cur := some (false, 0) } ∧
      (slotOut [0] 4 0 { tx0 with n := 3 }).cwTxOf 2 = { tx0 with n := 3 } ∧ (ready.sendRing 2).isNone = true) ∧
    cwHeaderOk ((slotOut [] 4 0 tx0).mem.readN (hbrAddr 0 0) 64) 4096 4096 = true := by
  decide +kernel

theorem test_slot_sent : seen (exec (.cwSlotSend 2) (slotOut [0] 4 0 tx0)) (fun t => ((t.cwTxOf 2).cur, (t.ring 0 7).map (·.st), t.out.length, (t.path 0 5).unacked.map (fun u => (u.typ, u.pkt.data.length)))) =
    some (some (true, 4), some [.c, .e, .e], 2, [(1, 4), (2, 64)]) := by decide +kernel
theorem test_slot_bad : seen (exec (.cwSlotSend 2) (slotOut [0] 4 1 tx0)) (fun t => ((t.cwTxOf 2).cur, (t.ring 0 7).map (·.st), t.fld Reg.NET_CW_STAT 31 16)) =
    some (none, some [.e, .e, .e], 1) := by decide +kernel

/-- `channel` with slot 2 in transit, sent as packets of PSN 8 and 9 on port 0, `tries` times again; a path that owes `owed`. -/
def transit (l : List Nat) (tries owed : Nat) : State :=
  let pk := fun (n : Nat) => ({ packet (causeway [] []) 0 5 2 6 0 0 with psn := n, slot := 2, data := [1] } : CwPkt)
  { channel l [.c, .e, .e] [] { tx0 with cur := some (true, 1) } rx0 with
    cwPath := [(5, ⟨10, [⟨1, pk 8, 0, tries, false⟩, ⟨2, pk 9, 0, tries, false⟩], 20, [22], owed, 1999000⟩)] }

theorem witness_causeway_acks :
    (8 ≤ ((transit [0] 0 8).path 0 5).owed ∧ (transit [0] 0 8).portUp 0 = true ∧ ((transit [0] 0 0).path 0 5).owed = 0 ∧
      ((transit [0] 0 1).path 0 5).since + 500 ≤ (transit [0] 0 1).cyc) ∧
    (∀ p ∈ [(9, 0), (8, 0), (7, 2)], Addressed (transit [0] 0 0) (fromFive 0 0 0 0 0 p.1 p.2 []) ∧ (fromFive 0 0 0 0 0 p.1 p.2 []).arg2 = p.2) ∧
    (bitOf 2 1 = true ∧ (∀ j, 1 < j → j < 32 → bitOf 2 j = false) ∧ (transit [0] 0 0).flag (Reg.NET_ROUTE 5) 16 = false ∧ 0 < max 1 ((transit [0] 0 0).fld Reg.NET_CW_XPORT 23 20)) ∧
    ((transit [0] 0 0).cwTx = [(2, { tx0 with cur := some (true, 1) })] ∧ (∃ k ring, (transit [0] 0 0).sendRing 2 = some (k, ring) ∧ ring.st.getD ring.tail .e = .c)) ∧
    ((((transit [0] 0 0).path 0 5).unacked.filter (fun u => !(ackedBy 9 0 u.pkt.psn))).any (fun u => u.of 2 2) = false ∧
      (((transit [0] 0 0).path 0 5).unacked.filter (fun u => !(ackedBy 8 0 u.pkt.psn))).any (fun u => u.of 2 2) = true) ∧
    (((transit [0] 0 0).path 0 5).unacked.filter (fun u => decide (u.sent + 500 * max 1 ((transit [0] 0 0).fld Reg.NET_CW_XPORT 15 0) ≤ (transit [0] 0 0).cyc)) ≠ [] ∧
      (((transit [0] 0 0).path 0 5).unacked.map (·.pkt.psn)).Nodup ∧ (∃ u ∈ ((transit [0] 15 0).path 0 5).unacked, max 1 ((transit [0] 15 0).fld Reg.NET_CW_XPORT 23 20) ≤ u.tries)) ∧
    (let s := (transit [0, 1] 0 0).setFlag (Reg.NET_ROUTE 5) 16 true
     s.portsTo 5 0 = [1] ∧ (s.path 1 5).psn < 2 ^ 32 ∧ ((transit [0] 0 0).setFlag (Reg.NET_ROUTE 5) 16 true).portsTo 5 0 = []) := by
  refine ⟨by decide +kernel, by decide +kernel, ⟨by decide +kernel, ?_, by decide +kernel, by decide +kernel⟩, ⟨by decide +kernel, 0, { ring0 0 3 [.c, .e, .e] 0 with base := 0, harbour := true }, by decide +kernel, rfl⟩,
    by decide +kernel, by decide +kernel, by decide +kernel⟩
  intro j h1 h2
  revert h1
  exact (show ∀ j < 32, 1 < j → bitOf 2 j = false by decide) j h2

theorem test_ack_sent : seen (exec (.ackSend 0 5) (transit [0] 0 8)) (fun t => (t.out.map payload, (t.path 0 5).owed)) =
    some ([[0x13, 0, 0, 9, 3, 5, 0, 0] ++ List.replicate 16 0 ++ [0, 0, 0, 19, 0, 0, 0, 4]], 0) := by decide +kernel
theorem test_ack_retires_slot : seen (exec (.ackReceived 0 (fromFive 0 0 0 0 0 9 0 [])) (transit [0] 0 0)) (fun t => (t.cwTxOf 2, t.fld (Reg.NET_CH_STAT 2) 63 48, (t.ring 0 7).map (·.st))) =
    some (⟨3, 4096, 3, 7, none⟩, 1, some [.e, .e, .e]) := by decide +kernel
theorem test_ack_half : seen (exec (.ackReceived 0 (fromFive 0 0 0 0 0 8 0 [])) (transit [0] 0 0)) (fun t => ((t.cwTxOf 2).n, (t.path 0 5).unacked.map (·.pkt.psn))) = some (2, [9]) := by
  decide +kernel
theorem test_retransmit : seen (exec (.retransmitTimeout 0 5) (transit [0] 0 0)) (fun t => (t.out.length, (t.path 0 5).unacked.map (·.tries), t.fld Reg.NET_CW_STAT 15 0)) =
    some (2, [1, 1], 2) := by decide +kernel
theorem test_path_down : seen (exec (.retransmitTimeout 0 5) (transit [0] 15 0)) (fun t => (t.flag (Reg.NET_ROUTE 5) 16, t.out)) = some (true, []) := by decide +kernel

theorem witness_causeway_receive :
    (let s := channel [0] [] [.p, .p, .e] tx0 ⟨3, 1, [], 0⟩
     (∀ m ∈ [fromFive 0 0 6 2 1 0 0 [7], fromFive 0 0 6 2 2 0 0 [7], fromFive 0 0 6 2 1 0 0 (leBytes 4 1 ++ leBytes 60 0), fromFive 0 0 6 2 1 0 0 (leBytes 64 0)],
       Addressed s m ∧ Channel s m ∧ NextPsn (s.path 0 m.src) m ∧ ∃ n, (s.cwRxOf m.dch).slotOf m.slot = some n ∧ n < 3) ∧
     (∃ n, (s.cwRxOf 2).slotOf 3 = some n ∧ 3 ≤ n) ∧ ¬ Channel s (fromFive 0 0 7 2 1 0 0 []) ∧
     (∃ k ring, s.recvRing 2 = some (k, ring) ∧ ring.st.getD ring.head .e = .p) ∧ s.hbrUe = [] ∧ s.hbrCe = [] ∧
     (1 : Nat) = ((s.cwRxOf 2).done + 0) % 65536 ∧ seqDiff (2 ^ 32 - 1) (s.path 0 5).rx < 0) ∧
    (channel [0] [] [.p, .p, .e] tx0 ⟨3, 1, [⟨1, [(0, 1)], none⟩], 0⟩).cwRxOf 2 = ⟨3, 1, [⟨1, [(0, 1)], none⟩], 0⟩ := by
  refine ⟨⟨?_, ⟨3, by decide +kernel, by decide⟩, by decide +kernel, ⟨0, { ring0 3 0 [.p, .p, .e] 0 with base := 8, harbour := true }, by decide +kernel, rfl⟩, by decide +kernel, by decide +kernel,
    by decide +kernel, by decide +kernel⟩, by decide +kernel⟩
  intro m hm
  simp only [List.mem_cons, List.not_mem_nil, or_false] at hm
  rcases hm with rfl | rfl | rfl | rfl
  · exact ⟨by decide +kernel, by decide +kernel, by decide +kernel, 1, by decide +kernel, by decide⟩
  · exact ⟨by decide +kernel, by decide +kernel, by decide +kernel, 2, by decide +kernel, by decide⟩
  · exact ⟨by decide +kernel, by decide +kernel, by decide +kernel, 1, by decide +kernel, by decide⟩
  · exact ⟨by decide +kernel, by decide +kernel, by decide +kernel, 1, by decide +kernel, by decide⟩

theorem test_data_placed : seen (exec (.cwDataReceived 0 { fromFive 0 0 6 2 2 0 0 [7, 8] with offset := 5 }) (channel [0] [] [.p, .p, .e] tx0 ⟨3, 1, [], 0⟩)) (fun t =>
    (t.mem.readN (hbrAddr 0 (4096 * 9 + 69)) 2, (t.cwRxOf 2).slots, (t.path 0 5).rx)) = some ([7, 8], [⟨2, [(5, 2)], none⟩], 1) := by decide +kernel
theorem test_header_commits : seen (exec (.cwHeaderReceived 0 (fromFive 0 0 6 2 1 0 0 (leBytes 4 1 ++ leBytes 60 0))) (channel [0] [] [.p, .p, .e] tx0 ⟨3, 1, [⟨1, [(0, 1)], none⟩], 0⟩)) (fun t =>
    ((t.cwRxOf 2).done, (t.ring 0 8).map (·.st), t.fld (Reg.NET_CH_STAT 2) 47 32, t.reg (Reg.SYN_CNT 4), t.mem.readN (hbrAddr 0 (4096 * 8 + 12)) 4)) =
    some (2, some [.f, .p, .e], 1, 1, [5, 0, 1, 0]) := by decide +kernel
theorem test_foreign_source : seen (exec (.cwDataReceived 0 (fromFive 0 0 7 2 1 0 0 [7])) (channel [0] [] [.p, .p, .e] tx0 ⟨3, 1, [], 0⟩)) (fun t => (t.fld Reg.NET_CW_STAT 63 48, (t.path 0 5).rx)) =
    some (1, 1) := by decide +kernel
theorem test_abort_discards : seen (exec (.cwAbortReceived 0 (fromFive 0 0 6 2 1 0 0 [])) (channel [0] [] [.p, .p, .e] tx0 ⟨3, 1, [⟨1, [(0, 1)], none⟩], 0⟩)) (fun t => t.cwRxOf 2) =
    some ⟨3, 1, [], 0⟩ := by decide +kernel

/-! ## The proxy -/

/-- An access in progress to device 5 with number 7, begun at cycle `at'`; device 5 may be served as `allow`. -/
def proxied (at' : Nat) (allow : Bool) : State :=
  { ((((causeway [0] [0]).setFlag Reg.NET_PXY_STAT 31 true).setFld Reg.NET_PXY_CMD 53 48 5).setFlag Reg.NET_PXY_ALLOW 5 allow) with pxyId := 7, pxyAt := at' }

/-- A request word: an address of BAR 0 or (61) BAR 2, a read or (62) write, of 4 or (60) 8 bytes; its packet. -/
def request (c x : Nat) : CwPkt := fromFive 0 0 0 0 0 7 0 ((leBytes 8 c).reverse ++ (leBytes 8 x).reverse)

theorem witness_proxy :
    (∀ v ∈ [2 ^ 63 + 2 ^ 48 * 5, 2 ^ 63 + 2 ^ 48 * 5 + 2, 2 ^ 63 + 2 ^ 48 * 6], (causeway [0] [0]).accessKind .pf true Reg.NET_PXY_CMD 64 (BitVec.ofNat 64 v) = none) ∧
    ((causeway [0] [0]).flag Reg.NET_PXY_STAT 31 = false ∧ (causeway [0] [0]).portsTo 5 7 = [0] ∧ (causeway [0] [0]).portsTo 6 7 = [] ∧ (proxied 0 true).flag Reg.NET_PXY_STAT 31 = true) ∧
    (∀ m ∈ [request 0 5, { request 0 5 with arg := 8 }], Addressed (proxied 0 true) m ∧ NextPsn ((proxied 0 true).path 0 5) m) ∧
    ((request 0 5).arg = (proxied 0 true).pxyId ∧ (request 0 5).src = (proxied 0 true).fld Reg.NET_PXY_CMD 53 48) ∧
    ((proxied 1500000 true).pxyAt + 500000 ≤ (proxied 1500000 true).cyc ∧ (proxied 1500001 true).cyc < (proxied 1500001 true).pxyAt + 500000) ∧
    ((proxied 0 true).flag Reg.NET_PXY_ALLOW 5 = true ∧ (proxied 0 false).flag Reg.NET_PXY_ALLOW 5 = false) ∧
    (∀ c ∈ [0, 2 ^ 62, 2 ^ 61, 2 ^ 61 + 2 ^ 62], Addressed (proxied 0 true) (request c 5) ∧ leNat ((request c 5).data.take 8).reverse = c) := by
  decide +kernel

theorem test_proxy_no_port : seen (exec (.proxyAccess .pf (BitVec.ofNat 64 (2 ^ 63 + 2 ^ 48 * 6))) (causeway [0] [0])) (fun t => t.fld Reg.NET_PXY_STAT 31 0) = some (2 ^ 30 + 1) := by
  decide +kernel
theorem test_proxy_goes_out : seen (exec (.proxyAccess .pf (BitVec.ofNat 64 (2 ^ 63 + 2 ^ 48 * 5))) (causeway [0] [0])) (fun t => (t.flag Reg.NET_PXY_STAT 31, t.pxyId, t.out.length)) =
    some (true, 1, 1) := by decide +kernel
theorem test_proxy_response : seen (exec (.proxyResponseReceived 0 (request 0 55)) (proxied 0 true)) (fun t => (t.fld Reg.NET_PXY_STAT 31 0, (t.reg Reg.NET_PXY_DATA).toNat)) =
    some (2 ^ 30, 55) := by decide +kernel
theorem test_proxy_timeout : seen (exec .proxyTimeout (proxied 1500000 true)) (fun t => t.fld Reg.NET_PXY_STAT 31 0) = some (2 ^ 30 + 3) := by decide +kernel
theorem test_proxy_refused : seen (exec (.proxyRequestReceived 0 (request (2 ^ 62) 5)) (proxied 0 false)) (fun t => (t.out.map (fun o => (payload o).drop 32))) =
    some [(leBytes 8 2).reverse ++ leBytes 8 0] := by decide +kernel

/-! ## The host link -/

/-- `sched 0 []` with this cause bit of TUNNEL, LOST as `lost`, EPOCH 4, the latest heartbeat at 0, and VF 1 on. -/
def hosted (lost : Bool) (cyc : Nat) : State :=
  { ((((sched 0 []).setFlag Reg.GLB_HOST 0 lost).setFld Reg.GLB_HOST 63 32 4).setFld Reg.GLB_HOST 31 16 100).setFld Reg.GLB_LINK 7 4 1 with hbAt := 0, cyc := cyc }

theorem witness_host_link :
    (∀ v ∈ [1, 2, 4 + 2 ^ 32 * 4, 4 + 2 ^ 32 * 5], (hosted false 0).accessKind .pf true Reg.GLB_HOSTCTL 64 (BitVec.ofNat 64 v) = none) ∧
    ((hosted true 0).flag Reg.GLB_HOST 0 = true ∧ (hosted false 0).flag Reg.GLB_HOST 0 = false ∧ (hosted true 0).fld Reg.GLB_HOST 63 32 = 4) ∧
    (0 + 500000 * max 20 (min 1000 ((hosted false 50000000).fld Reg.GLB_HOST 31 16)) ≤ (hosted false 50000000).cyc ∧
      (hosted false 49999999).cyc < 0 + 500000 * max 20 (min 1000 ((hosted false 49999999).fld Reg.GLB_HOST 31 16))) ∧
    ((hosted false 0).fld Reg.GLB_LINK 7 4 = 1 ∧ fnNumber .proxy = 15 ∧ fnNumber .pf = 0) ∧
    ((hosted false 0).schPaused = false ∧ (hosted false 0).queues = [] ∧ (hosted false 0).flag (Reg.SCH_QCFG 0) 15 = true ∧ (hosted false 0).flag (Reg.SCH_QCFG 0) 10 = false) ∧
    ((hosted false 0).fld Reg.GLB_LINK 1 0 = 0 ∧ (let s : State := { hosted false 0 with bme := 1, msixEn := 1 }
      s.msixEn.getLsbD 0 = true ∧ s.bme.getLsbD 0 = true)) := by
  decide +kernel

theorem test_heartbeat : seen (exec (.heartbeat .pf) (hosted false 9)) (fun t => t.hbAt) = some 9 := by decide +kernel
theorem test_unload : seen (exec (.unload .pf) (hosted false 9)) (fun t => (t.fld Reg.GLB_HOST 2 0, t.fld Reg.GLB_HOST 63 32)) = some (5, 5) := by decide +kernel
theorem test_rearm : seen (exec (.rearm .pf 4) (hosted true 9)) (fun t => (t.flag Reg.GLB_HOST 0, t.fld Reg.GLB_HOST 63 32, t.hbAt)) = some (false, 4, 9) := by decide +kernel
theorem test_rearm_stale : seen (exec (.rearm .pf 3) (hosted true 9)) (fun t => (t.flag Reg.GLB_HOST 0, t.fld Reg.GLB_HOST 63 32)) = some (true, 4) := by decide +kernel
theorem test_silence : seen (exec .heartbeatTimeout (hosted false 50000000)) (fun t => (t.fld Reg.GLB_HOST 2 0, t.flag (Reg.SCH_QCFG 0) 15)) = some (7, false) := by decide +kernel
theorem test_hot_reset : seen (exec .pcieHotReset { hosted false 0 with bme := 3, msixEn := 3 }) (fun t => (t.bme, t.msixEn, t.fld Reg.GLB_LINK 7 4, t.flag Reg.GLB_HOST 0)) = some (0, 0, 0, false) := by
  decide +kernel
theorem test_vf_off : seen (exec (.vfFlr 0 false) { hosted false 0 with bme := 3, msixEn := 3 }) (fun t => (t.bme, t.msixEn)) = some (1, 3) := by decide +kernel
theorem test_bus_master : seen (exec (.busMasterEnableSet (.vf 0) true) (hosted false 0)) (fun t => (t.bme, t.msixEn)) = some (2, 2) := by decide +kernel
theorem test_link_lost : seen (exec (.usb4LinkChange 0 false 1) ((hosted false 0).setFld Reg.GLB_LINK 3 0 0xB)) (fun t => (t.fld Reg.GLB_LINK 3 0, t.fld Reg.GLB_LINK 15 8)) = some (0, 1) := by
  decide +kernel

/-! ## Firmware and the security core -/

/-- `ready` with mailbox `k` holding the request whose words begin with `ws`, its component serving; PHASE `ph`. -/
def asked (k ph : Nat) (ws : List Nat) : State :=
  let s := ws.zipIdx.foldl (fun (t : State) p => t.setFld (mbxReq k p.2) 31 0 p.1) ready
  ((s.setFlag (mbxCtl k) 30 true).setFlag (Reg.FWM_COMP (min k 3)) 0 true).setFld Reg.FWM_UPD_STAT 47 44 ph

theorem witness_mailboxes :
    (∀ k ∈ [0, 2, 10], Asked k 1 (asked k 0 [1]) ∧ RestZero k [] (asked k 0 [1]) ∧ ¬ RestZero k [] (asked k 0 [1, 0, 0, 0, 0, 0, 0, 0, 0, 0, 0, 0, 0, 0, 0, 4]) ∧ ¬ Asked k 1 ready) ∧
    ((asked 2 0 [0x0101]).fld (mbxReq 2 0) 31 0 ∉ [0x0001] ∧ ready.flag (mbxCtl 2) 30 = false ∧
      tabFind ({ asked 2 0 [1] with mbxAns := [(2, (0, [5, 1]))] } : State).mbxAns 2 = some (0, [5, 1])) := by
  refine ⟨?_, by decide +kernel⟩
  have h : ∀ k ∈ [0, 2, 10], Asked k 1 (asked k 0 [1]) ∧ (∀ i < 16, 0 < i → (asked k 0 [1]).fld (mbxReq k i) 31 0 = 0) ∧
      (asked k 0 [1, 0, 0, 0, 0, 0, 0, 0, 0, 0, 0, 0, 0, 0, 0, 4]).fld (mbxReq k 15) 31 0 ≠ 0 ∧ ¬ Asked k 1 ready := by decide +kernel
  intro k hk
  obtain ⟨a, b, c, d⟩ := h k hk
  exact ⟨a, fun i h0 h1 _ => b i h1 h0, fun r => c (r 15 (by decide) (by decide) (by decide)), d⟩

theorem test_version : seen (exec (.version 2) ((asked 2 0 [1]).setFld (Reg.FWM_COMP 2) 63 48 0x123)) (fun t => t.mbxAns) = some [(2, (0, [0x123, 0]))] := by decide +kernel
theorem test_response : seen (exec (.mailboxResponse 2) { asked 2 0 [1] with mbxAns := [(2, (0, [5, 1]))] }) (fun t => (t.fld (mbxCtl 2) 31 0, t.reg (mbxResp 2 1), t.mbxAns)) =
    some (2 ^ 29, 5, []) := by decide +kernel
theorem test_unknown_op : seen (exec (.mailboxResponse 2) (asked 2 0 [0x0101])) (fun t => (t.reg (mbxResp 2 0), t.fld (mbxCtl 2) 15 0)) = some (1, 1) := by decide +kernel

/-- A bundle of components `b` staged (PHASE 3) or deferred (4) to cycle 900, and ACTIVATE or ABANDON asked. -/
def staged (op ph : Nat) (b : List Nat) (cyc : Nat) : State := { asked 0 ph [op] with bundle := b, deferAt := 900, cyc := cyc, mbxAns := [] }

theorem witness_update :
    (Asked 0 0x0101 (asked 0 0 [0x0101, 64, 0, 128]) ∧ wordPair (asked 0 0 [0x0101, 64, 0, 128]) 1 + 128 ≤ (asked 0 0 [0x0101, 64, 0, 128]).visible ∧
      (asked 0 0 [0x0101, 64, 0, 128]).flag Reg.FWM_LOG_BASE 0 = false ∧ (asked 0 0 [0x0101, 64, 0, 128]).ueSec = [] ∧ (asked 0 0 [0x0101, 64, 0, 128]).ceSec = [] ∧
      (∀ i, 3 < i → i < 16 → (asked 0 0 [0x0101, 64, 0, 128]).fld (mbxReq 0 i) 31 0 = 0) ∧
      (asked 0 0 [0x0101, 0, 2 ^ 31, 128]).visible < wordPair (asked 0 0 [0x0101, 0, 2 ^ 31, 128]) 1) ∧
    (∀ ph ∈ [3, 4, 0], Asked 0 0x0102 (staged 0x0102 ph [1, 4] 0) ∧ phaseOf (staged 0x0102 ph [1, 4] 0) = ph ∧ (∀ c ∈ (staged 0x0102 ph [1, 4] 0).bundle, c < 5) ∧
      (staged 0x0102 ph [1, 4] 0).restarts = []) ∧
    ((staged 0x0102 3 [1] 0).flag Reg.PWR_THERM 20 = false ∧ (staged 0x0102 3 [1] 0).flag Reg.PWR_FLOOR_STAT 16 = false ∧
      ((staged 0x0102 3 [1] 0).setFlag Reg.PWR_THERM 20 true).flag Reg.PWR_THERM 20 = true) ∧
    (Asked 0 0x0103 (staged 0x0103 4 [1] 0) ∧ phaseOf (staged 0x0103 4 [1] 0) = 4) ∧
    (let s : State := { staged 0 4 [1] 50000000 with deferAt := 50000000, emgEnd := 0 }
     phaseOf s = 4 ∧ s.emgEnd + 50000000 ≤ s.cyc ∧ s.cyc ≤ s.deferAt ∧ s.compHalted 0 = false) ∧
    (phaseOf (staged 0 4 [1] 900) = 4 ∧ (staged 0 4 [1] 900).deferAt ≤ (staged 0 4 [1] 900).cyc ∧ (staged 0 4 [1] 899).cyc < (staged 0 4 [1] 899).deferAt) := by
  refine ⟨⟨by decide +kernel, by decide +kernel, by decide +kernel, by decide +kernel, by decide +kernel, ?_, by decide +kernel⟩, by decide +kernel⟩
  intro i h1 h2
  exact (show ∀ i < 16, 3 < i → (asked 0 0 [0x0101, 64, 0, 128]).fld (mbxReq 0 i) 31 0 = 0 by decide +kernel) i h2 h1

theorem test_stage_bad_range : seen (exec .stage (asked 0 0 [0x0101, 0, 2 ^ 31, 128])) (fun t => t.mbxAns) = some [(0, (0x0202, []))] := by decide +kernel
theorem test_stage_empty : seen (exec .stage (asked 0 0 [0x0101])) (fun t => (t.mbxAns, phaseOf t, t.fld Reg.FWM_UPD_STAT 63 48)) = some ([(0, (1, []))], 0, 1) := by decide +kernel
theorem test_activate_nothing : seen (exec .activate (staged 0x0102 0 [] 0)) (fun t => t.mbxAns) = some [(0, (1, []))] := by decide +kernel
theorem test_activate_deferred : seen (exec .activate ((staged 0x0102 3 [1] 7).setFlag Reg.PWR_THERM 20 true)) (fun t => (t.mbxAns, phaseOf t, t.deferAt)) =
    some ([(0, (0x0501, []))], 4, 5000000007) := by decide +kernel
theorem test_abandon : seen (exec .abandon (staged 0x0103 4 [1] 0)) (fun t => (t.mbxAns, phaseOf t)) = some ([(0, (0, []))], 3) := by decide +kernel
theorem test_deferral_expires : seen (exec .deferralExpiry (staged 0 4 [1] 900)) (fun t => (phaseOf t, t.flag Reg.FWM_UPD_STAT 32)) = some (3, true) := by decide +kernel

/-- A restart of component `c` on island `n` for reason `r` in progress since cycle 0, `l` to follow; PHASE 5; `act` active. -/
def restarting' (c n r : Nat) (l : List Restart) (act : List Nat) (cyc : Nat) : State :=
  { asked 0 5 [] with restarts := ⟨c, n, r⟩ :: l, active := act, restartAt := 0, cyc := cyc }

theorem witness_restarts :
    ((restarting' 3 1 0 [] [3] 9).restarts = [⟨3, 1, 0⟩] ∧ (restarting' 3 1 0 [] [3] 9).lossDue = false ∧ ready.restarts = []) ∧
    ((restarting' 2 0 0 [] [2] 500000000).restartAt + 500000000 ≤ (restarting' 2 0 0 [] [2] 500000000).cyc ∧ (restarting' 2 0 0 [] [2] 0).compHalted 0 = false ∧
      ({ restarting' 2 0 0 [] [2] 0 with revert := true } : State).revert = true ∧ (∀ c ∈ [2], c < 5)) ∧
    (∀ c ∈ [0, 4, 1, 2, 3], ready.compHalted c = false) ∧ ready.lockstep = false ∧ ready.active = [] ∧ (restarting' 2 0 1 [] [] 9).restarting 2 0 = true ∧
    ((2 : Nat) ∈ (restarting' 2 0 0 [] [2] 9).active ∧ (restarting' 2 0 0 [] [2] 9).restarting 2 0 = true) ∧ ({ ready with halted := [1] } : State).compHalted 1 = true ∧
    (∀ v ∈ [0, 1, 2 ^ 20 * 5 + 1], ready.accessKind .pf true Reg.FWM_LOG_BASE 64 (BitVec.ofNat 64 v) = none) ∧ ready.flag Reg.FWM_LOG_BASE 0 = false ∧
    (ready.setFlag Reg.FWM_LOG_BASE 0 true).flag Reg.FWM_LOG_BASE 0 = true ∧ (parted.partEn 1 = true ∧ 2 ^ 20 * 5 + 2 ^ 20 ≤ ready.visible) := by
  decide +kernel

theorem witness_restart_waits :
    (let s := { asked 0 5 [] with restarts := [⟨3, 0, 0⟩], kv := [kvReq false 4], restartHold := [kvReq false 4] }
     s.restartHold ≠ [] ∧ s.restarting 3 0 = false ∧ ({ s with restartHold := [], down := [(3, 0)] } : State).restarting 3 0 = true) ∧
    (let s := { withCmd { cmd0 with phase := .ended } with cplOwed := [0, 5] }
     s.cplWaits 5 = true ∧ s.cplWaits 0 = false ∧ s.cplWaits 6 = false) ∧
    (Asked 0 0x0101 (asked 0 4 [0x0101, 0, 0, 0x800001]) ∧ (asked 0 4 [0x0101, 0, 0, 0x800001]).fld (mbxReq 0 3) 31 0 = 0x800001) := by decide +kernel

theorem test_restart_holds : seen (exec .restartComplete { restarting' 3 1 0 [⟨3, 2, 0⟩] [3] 9 with kv := [{ kvReq false 4 with island := 2 }] })
    (fun t => (t.restarts, t.restartHold.length, t.restarting 3 2)) = some ([⟨3, 2, 0⟩], 1, false) := by decide +kernel
theorem test_stage_ends_deferral : seen (exec .stage (asked 0 4 [0x0101, 0, 0, 0x800001])) (fun t => (t.mbxAns, phaseOf t, t.fld Reg.FWM_UPD_STAT 63 48)) =
    some ([(0, (1, []))], 3, 1) := by decide +kernel

theorem test_restart_ends : seen (exec .restartComplete (restarting' 3 1 0 [] [3] 9)) (fun t => (t.restarts, t.flag (Reg.FWM_COMP 3) 0, t.fld (Reg.FWM_COMP 3) 31 16, phaseOf t)) =
    some ([], true, 1, 0) := by decide +kernel
theorem test_fault_restarts : seen (exec (.compFault 2 0 1 7) ready) (fun t => (t.restarts, t.flag (Reg.FWM_COMP 2) 0, t.fld Reg.LHS_EVT_PTR 31 0)) = some ([⟨2, 0, 1⟩], false, 1) := by
  decide +kernel
theorem test_fault_halts_sec : seen (exec (.compFault 0 0 1 7) ready) (fun t => (t.halted, t.restarts)) = some ([0], []) := by decide +kernel
theorem test_log_in_carve_out : seen (exec (.logEnableWrite .pf (BitVec.ofNat 64 (2 ^ 20 * 5 + 1))) parted) (fun t => t.reg Reg.FWM_LOG_BASE) = some (BitVec.ofNat 64 (2 ^ 20 * 5)) := by
  decide +kernel

theorem witness_security :
    (∀ op ∈ [0x0104, 0x0201, 0x0202, 0x0203, 0x0301, 0x0302, 0x0303], Asked 0 op (asked 0 0 [op]) ∧ (∀ i < 16, 0 < i → (asked 0 0 [op]).fld (mbxReq 0 i) 31 0 = 0) ∧
      (asked 0 0 [op, 0, 0, 0, 0, 0, 0, 0, 1]).fld (mbxReq 0 8) 31 0 = 1 ∧ (asked 0 0 [op]).ueSec = [] ∧ (asked 0 0 [op]).ceSec = []) ∧
    (wordPair (asked 0 0 [0x0201, 64, 1]) 1 = 2 ^ 32 + 64 ∧ 2 ^ 32 + 64 + 8768 ≤ (asked 0 0 [0x0201, 64, 1]).visible ∧
      (asked 0 0 [0x0201, 0, 2 ^ 31]).visible < wordPair (asked 0 0 [0x0201, 0, 2 ^ 31]) 1) ∧
    (∀ n ∈ [5, 2 ^ 40 + 1], wordPair (asked 0 0 [0x0202, 0, 0, 0, 0, n % 2 ^ 32, n / 2 ^ 32]) 5 = n) ∧
    ((asked 0 0 [0x0202]).inCarve 0 0 64 = false ∧ parted.inCarve 1 0 64 = true) ∧
    (let s : State := { ready with ranSince := [(2, 0)], cyc := 500000000 }
     tabFind s.ranSince 2 = some 0 ∧ 0 + 500000000 ≤ s.cyc ∧ tabGet 0 s.raiseAt 2 ≤ s.cyc ∧ s.compHalted 0 = false ∧ tabFind s.ranSince 3 = none) ∧
    (({ ready with sePaired := true } : State).sePaired = true ∧ ready.sePaired = false) := by
  decide +kernel

theorem le_bytes_length (m n : Nat) : (leBytes m n).length = m := by
  induction m generalizing n with
  | zero => rfl
  | succ m ih => simp [leBytes, ih]

/-- With no register asked for, a report is at most 512 bytes, whatever the device's identity and manifest are. -/
theorem report_length (s : State) (nonce mask : List Byte) (h : bitList 256 (leNat mask) = []) (hn : nonce.length = 32)
    (hi : ((List.range 6).flatMap (fun c => (s.image c).digest)).length = 384) : (s.report nonce mask).length ≤ 512 := by
  have hd : s.deviceId.length ≤ 16 := by simp [State.deviceId]
  have hp : (part s.manifest 16 16).length ≤ 16 := by simp [part]
  have hv : ∀ f : Nat → Nat, ((List.range 6).flatMap (fun c => leBytes 2 (f c))).length = 12 := by
    intro f
    simp [List.range, List.range.loop, le_bytes_length]
  have h1 := hv (fun c => (s.image c).svn)
  have h2 := hv (fun c => s.floors.getD c 0)
  simp only [State.report, h, List.flatMap_nil, List.length_append, hn, hi, timeBytes, le_bytes_length, List.length_nil] at h1 h2 ⊢
  omega

theorem witness_attest : ((asked 0 0 [0x0203]).report ((asked 0 0 [0x0203]).reqBytes 3 8) ((asked 0 0 [0x0203]).reqBytes 11 5)).length + 3309 ≤
    512 + 80 * popCount 256 (leNat ((asked 0 0 [0x0203]).reqBytes 11 5)) + 3309 :=
  Nat.add_le_add_right (Nat.le_trans (report_length _ _ _ (by decide +kernel) (by decide +kernel) (by decide +kernel)) (Nat.le_add_right _ _)) _

theorem test_dbg_lock : seen (exec .dbgLock ((asked 0 0 [0x0303]).setFld Reg.FWM_SEC_STAT 23 20 5)) (fun t => (t.mbxAns, t.fld Reg.FWM_SEC_STAT 23 20)) = some ([(0, (0, []))], 0) := by
  decide +kernel
theorem test_identity_reserved_word : seen (exec .identity (asked 0 0 [0x0201, 0, 0, 1])) (fun t => t.mbxAns) = some [(0, (1, []))] := by decide +kernel
theorem test_measure_outside : seen (exec .measure (asked 0 0 [0x0202, 0, 0, 0, 0, 64])) (fun t => (t.mbxAns, t.mr)) = some ([(0, (0x0202, []))], []) := by decide +kernel
theorem test_manifest_reserved_word : seen (exec .stageManifest (asked 0 0 [0x0104, 0, 0, 1])) (fun t => t.mbxAns) = some [(0, (1, []))] := by decide +kernel
theorem test_floor_unanswered : seen (exec (.floorRaise 2 false) { ready with ranSince := [(2, 0)], cyc := 500000000 }) (fun t => t.ranSince) = some [(2, 0)] := by decide +kernel
theorem test_floor_follows : seen (exec (.floorRaise 2 true) { ready with ranSince := [(2, 0)], cyc := 500000000, sePaired := true, images := [(2, ⟨[], 5, 4⟩)] }) (fun t => t.seCnt) =
    some [(2, 4)] := by decide +kernel

/-! ## The Lighthouse -/

/-- An injection pass runs. -/
def injecting (pins : Nat) : State := (ready.setFlag Reg.LHS_INJ 63 true).setFld Reg.LHS_PINS 1 0 pins

theorem witness_checkers :
    (ready.lockstep = false ∧ ({ ready with lockstep := true } : State).lockstep = true) ∧ ready.accessKind .pf true Reg.LHS_PINS 32 0x80000000 = none ∧
    ((injecting 2).fld Reg.LHS_PINS 1 0 = 2 ∧ (injecting 2).flag Reg.LHS_PINS 2 = false ∧ (injecting 3).fld Reg.LHS_PINS 1 0 ≠ 2) ∧
    (ready.flag Reg.LHS_INJ 63 = false ∧ (injecting 0).flag Reg.LHS_INJ 63 = true ∧ (injecting 0).fld Reg.LHS_PINS 1 0 = 0) ∧
    (∀ f ∈ [CheckerFail.mk 1 63 6 false, ⟨2, 7, 4, true⟩, ⟨3, 22, 0, false⟩, ⟨3, 19, 0, false⟩], f.wf = true) := by
  decide +kernel

theorem test_lockstep : seen (exec (.lockstepDiff 0x11 0x22) (injecting 1)) (fun t => (t.lockstep, t.fld Reg.LHS_PINS 1 0, t.fld Reg.LHS_PINS 15 8, t.reg 0x508018)) =
    some (true, 3, 0x0B, 0x11) := by decide +kernel
theorem test_pins_clear : seen (exec (.pinsClear .pf) (injecting 2)) (fun t => t.fld Reg.LHS_PINS 1 0) = some 1 := by decide +kernel
theorem test_pins_locked : seen (exec (.pinsClear .pf) ((injecting 2).setFlag Reg.LHS_PINS 2 true)) (fun t => t.fld Reg.LHS_PINS 1 0) = some 2 := by decide +kernel
theorem test_injection_none : seen (exec (.injectionComplete []) ready) (fun t => t.flag Reg.GLB_STATE 4) = some false := by decide +kernel

/-- The islands on, the boot ready, frame 0 of 20 ms at time `ns`; core 0 is `k`. -/
def beacon (k : Core) (ns : Nat) : State := { (sched 0 []).setCore 0 k with queues := [(0, cmd0)], tbNs := ns }

def low : Slice := { slice0 with prio := 7 }

theorem witness_beacons :
    ((beacon Core.init 0).beaconMay 0 = true ∧ (beacon Core.init 0).beaconMay 1 = false ∧ (beacon Core.init 20000000).beaconMay 0 = false) ∧
    (let s := beacon { core0 low (regs0 []) with resident := some 0 } 0
     s.beaconMay 0 = true ∧ (s.core 0).slice = some low ∧ (s.core 0).parity = [] ∧ (s.setCore 0 { s.core 0 with preempt := true }).canSave 0 = (s.alwaysPoint 0 || decide (0 < bitsOf cmd0.cfg.toNat 59 58))) ∧
    (let s : State := { beacon { core0 low (regs0 []) with resident := some 0 } 0 with queues := [(0, { cmd0 with cfg := BitVec.ofNat 64 (2 ^ 58) })] }
     s.beaconMay 0 = true ∧ (s.setCore 0 { s.core 0 with preempt := true }).canSave 0 = true) ∧
    ((beacon { Core.init with mode := .beacon } 0).core 0).mode = .beacon ∧
    (beacon { Core.init with mode := .beacon, queue := [slice0] } 0).urgentFor 0 = true ∧
    ((beacon Core.init 20000000).nowNs / (1000000 * (beacon Core.init 20000000).frameMs) * (1000000 * (beacon Core.init 20000000).frameMs) ≠ (beacon Core.init 20000000).frameStart) ∧
    ((beacon Core.init 5).nowNs / (1000000 * (beacon Core.init 5).frameMs) * (1000000 * (beacon Core.init 5).frameMs) = (beacon Core.init 5).frameStart) ∧
    ((beacon Core.init 20000000).flag Reg.LHS_CFG 63 = true ∧ (beacon Core.init 20000000).usable 0 = true ∧ (beacon Core.init 20000000).bcnDone.getLsbD 0 = false) := by
  decide +kernel

theorem test_beacon_starts : seen (exec (.beaconStart 0) (beacon Core.init 0)) (fun t => (t.core 0).mode) = some .beacon := by decide +kernel
theorem test_beacon_abandoned : seen (exec (.beaconAbandon 0) (beacon { Core.init with mode := .beacon, queue := [slice0] } 0)) (fun t => ((t.core 0).mode, t.fld (Reg.LHS_BCN 0) 46 45)) =
    some (.idle, 3) := by decide +kernel
theorem test_frame_ends : seen (exec .safetyFrameEnd (beacon Core.init 20000000)) (fun t => (t.frameStart, t.fld (Reg.LHS_BCN 0) 63 56, t.frameNo)) = some (20000000, 1, 1) := by
  decide +kernel

/-- Entry 9 of mode `m` enabled, on object 3 that counts 5: deadline at 1 s, period 100 ns, threshold 7 and END_STEP 2; open are `l`. -/
def deadline (m : Bool) (now : Nat) (l : List DlInst) : State :=
  let s := ((((ready.setReg (Reg.LHS_DL_CFG 9) (BitVec.ofNat 64 (2 ^ 63 + (if m then 2 ^ 62 else 0) + 2 ^ 32 * 3))).setReg (Reg.LHS_DL_THR 9) (BitVec.ofNat 64 (2 ^ 48 * 2 + 7))).setReg
    (Reg.LHS_DL_TS 9) 1).setReg (Reg.LHS_DL_TNS 9) (BitVec.ofNat 64 (2 ^ 32 * 100))).setReg (Reg.SYN_CNT 3) 5
  { s with tbS := now / 1000000000, tbNs := now % 1000000000, tbLast := now, dl := if l = [] then [] else [(9, l)] }

theorem witness_deadlines :
    (let s := deadline true 1000000000 []
     s.flag (Reg.LHS_DL_CFG 9) 63 = true ∧ s.flag (Reg.LHS_DL_CFG 9) 62 = true ∧ 1000000000 ≤ s.nowNs ∧ (9 : Nat) ∉ s.dlOnce ∧ (s.reg (Reg.SYN_CNT (s.fld (Reg.LHS_DL_CFG 9) 45 32))).toNat = 5 ∧
       5 < s.fld (Reg.LHS_DL_THR 9) 47 0) ∧
    ((deadline false 1000000000 []).flag (Reg.LHS_DL_CFG 9) 62 = false ∧ ready.flag (Reg.LHS_DL_CFG 9) 63 = false) ∧
    (let l := [DlInst.mk 0 5 5 false, ⟨0, 5, 6, false⟩, ⟨0, 5, 6, true⟩, ⟨2, 0, 6, false⟩]
     tabGet [] (deadline true 1000000000 l).dl 9 = l ∧ l.filter (fun d => decide (d.thr ≤ 5)) ≠ [] ∧
       ((l.filter (fun d => decide (5 < d.thr))).filter (fun d => !d.missed && decide (1000000000 * d.sec + d.ns ≤ 1000000000))).length = 1 ∧ 4 ≤ l.length) ∧
    ready.accessKind .pf true (Reg.LHS_DL_CFG 9) 64 0 = none := by
  decide +kernel

theorem test_deadline_opens : seen (exec (.deadlinePeriodicOpen 9) (deadline true 1000000000 [])) (fun t => (tabGet [] t.dl 9, t.fld (Reg.LHS_DL_TNS 9) 29 0, t.fld (Reg.LHS_DL_THR 9) 47 0)) =
    some ([⟨1, 0, 7, false⟩], 100, 9) := by decide +kernel
theorem test_deadline_judged : seen (exec (.deadlineExpiry 9) (deadline true 1000000000 [⟨1, 5, 5, false⟩, ⟨0, 5, 6, false⟩, ⟨0, 5, 6, true⟩, ⟨2, 0, 6, false⟩])) (fun t => (tabGet [] t.dl 9,
    t.fld (Reg.LHS_DL_STAT 9) 47 32, t.fld (Reg.LHS_DL_STAT 9) 63 48, t.fld Reg.LHS_EVT_PTR 31 0)) =
    some ([⟨0, 5, 6, true⟩, ⟨0, 5, 6, true⟩, ⟨2, 0, 6, false⟩], 1, 1, 1) := by decide +kernel
theorem test_deadline_disabled : seen (exec (.deadlineEntryDisable .pf 9) (deadline true 0 [⟨2, 0, 6, false⟩])) (fun t => (tabGet [] t.dl 9, t.flag (Reg.LHS_DL_CFG 9) 63, t.flag (Reg.LHS_DL_CFG 9) 62)) =
    some ([], false, true) := by decide +kernel

/-! ## Steps -/

theorem witness_invariants : TimeWf State.reset ∧ TimeWf clock ∧ State.reset.pending = [] := ⟨by unfold TimeWf; decide +kernel, by unfold TimeWf; decide +kernel, rfl⟩

theorem test_step_takes_front : seen (step { ready with pending := [.restartComplete, .heartbeatTimeout] }) (fun t => t.pending) = some [.heartbeatTimeout] := by decide +kernel
theorem test_step_idles : seen (step ready) (fun t => t) = some ready := by decide +kernel
theorem test_no_word_spells_a_command : decodeTableWord 64 0xFF00000000000000 = none := rfl

/-! ## WellFormed refuses an ill-formed term of every check -/

theorem test_wf_register_write : Instr.wf (.registerWrite (.host .pf) 0 32 5) = true ∧ Instr.wf (.registerWrite (.host .pf) 0 24 5) = false ∧ Instr.wf (.registerWrite (.host .pf) 0x4000000 32 5) = false ∧
    Instr.wf (.registerWrite (.host .pf) 0 32 0x100000000) = false := by decide
theorem test_wf_reads_doorbells : Instr.wf (.rcRead (.host .pf) 0 0) = false ∧ Instr.wf (.rcRead (.host .pf) 0x4000000 32) = false ∧ Instr.wf (.doorbell .pf 0 128 1) = false ∧
    Instr.wf (.doorbell .pf 0x100000 32 1) = false := by decide
theorem test_wf_bar4 : Instr.wf (.bar4Access .pf true 0 1 [7]) = true ∧ Instr.wf (.bar4Access .pf true 0 2 [7]) = false ∧ Instr.wf (.bar4Access .pf false 0 1 [7]) = false ∧
    Instr.wf (.bar4Access .pf false 0 0 []) = false ∧ Instr.wf (.bar4Access .pf false 0xFFFFFFFFFFF 2 []) = false := by decide
theorem test_wf_power : Instr.wf (.handshakeWatchdogExpiry (.core 0) 256) = false ∧ Instr.wf (.floorSample 0 65536 0) = false ∧ Instr.wf (.floorSample 0 0 65536) = false ∧
    Instr.wf (.powerLimitControl 65536) = false ∧ Instr.wf (.throttleTick 65536) = false := by decide
theorem test_wf_thermal : Instr.wf (.thermalSample [0]) = false ∧ Instr.wf (.thermalSample (List.replicate 9 0 ++ [32768])) = false ∧
    Instr.wf (.thermalSample (List.replicate 9 0 ++ [-32768])) = true := by decide
theorem test_wf_can_frame : frame123.wf = true ∧ ({ frame123 with id := 2 ^ 29 } : CanFrame).wf = false ∧ ({ frame123 with id := 1 } : CanFrame).wf = false ∧
    ({ frame123 with id := 1, ide := true } : CanFrame).wf = true ∧ ({ frame123 with dlc := 16 } : CanFrame).wf = false ∧ ({ frame123 with data := List.replicate 65 0 } : CanFrame).wf = false := by
  decide
theorem test_wf_can : Instr.wf (.canFrameReceived 0 false frame123 1000000) = false ∧ Instr.wf (.canFrameReceived 0 false { frame123 with dlc := 16 } 0) = false ∧
    Instr.wf (.canTxComplete 0 (some 256)) = false ∧ Instr.wf (.canBusError 0 ⟨false, 0, false, false, 3, none⟩) = false := by decide
theorem test_wf_ethernet : Instr.wf (.ethFrameReceived 0 false (List.replicate 16385 0) 0) = false ∧ Instr.wf (.ethFrameReceived 0 false [] 1000000) = false ∧
    Instr.wf (.ethTxSlot 0 (List.replicate 65 0)) = false := by decide +kernel
theorem test_wf_packet_fields :
    (let m := fromFive 0 0 0 0 0 0 0 []
     m.wf = true ∧ ({ m with prio := 8 } : CwPkt).wf = false ∧ ({ m with system := 65536 } : CwPkt).wf = false ∧ ({ m with src := 256 } : CwPkt).wf = false ∧ ({ m with dst := 256 } : CwPkt).wf = false ∧
       ({ m with sport := 256 } : CwPkt).wf = false ∧ ({ m with psn := 2 ^ 32 } : CwPkt).wf = false ∧ ({ m with sch := 65536 } : CwPkt).wf = false ∧ ({ m with dch := 65536 } : CwPkt).wf = false ∧
       ({ m with slot := 65536 } : CwPkt).wf = false ∧ ({ m with offset := 2 ^ 32 } : CwPkt).wf = false ∧ ({ m with arg := 2 ^ 32 } : CwPkt).wf = false ∧ ({ m with arg2 := 2 ^ 32 } : CwPkt).wf = false) := by
  decide
theorem test_wf_packet_length : (fromFive 0 0 0 0 0 0 0 (List.replicate 65536 0)).wf = false := by
  simp only [CwPkt.wf, fromFive, List.length_replicate]
  decide
theorem test_wf_packets : ∀ i ∈ [Instr.helloReceived 0, Instr.creditReceived 0, Instr.cwDataReceived 0, Instr.cwHeaderReceived 0, Instr.ackReceived 0, Instr.cwAbortReceived 0, Instr.proxyRequestReceived 0,
    Instr.proxyResponseReceived 0], (i { fromFive 0 0 0 0 0 0 0 [] with prio := 8 }).wf = false := by
  intro i h
  simp only [List.mem_cons, List.not_mem_nil, or_false] at h
  rcases h with rfl | rfl | rfl | rfl | rfl | rfl | rfl | rfl <;> decide
theorem test_wf_line : Instr.wf (.linePacket 0 0 0 false (List.replicate 65536 0)) = false := by
  simp only [Instr.wf, List.length_replicate]
  decide
theorem test_wf_safety : Instr.wf (.injectionComplete [⟨1, 64, 0, false⟩]) = false ∧ Instr.wf (.injectionComplete [⟨2, 0, 5, false⟩]) = false ∧ Instr.wf (.injectionComplete [⟨3, 23, 0, false⟩]) = false ∧
    Instr.wf (.injectionComplete [⟨0, 0, 0, false⟩]) = false ∧ Instr.wf (.beaconComplete 0 []) = false ∧ Instr.wf (.tapDbgToken (List.replicate 4097 0)) = false := by decide +kernel

/-! ## Completion -/

/-- A port whose binding 0 takes every frame, a broadcast frame, a record of each kind, and a queue whose NOP waits for nothing;
the other premises of CommandsCompleteWithTheirEffect are those of the statements above. -/
theorem witness_completion :
    (let s := ((ether 0 [.e, .e, .e] []).setReg (Reg.NET_SP_RX_MATCH 1 0) (BitVec.ofNat 64 (2 ^ 63))).setReg (Reg.NET_SP_RX_RING 1 0)
       (BitVec.ofNat 64 (2 ^ 49 * 7))
     let data : List Byte := List.replicate 6 255 ++ List.replicate 8 0
     14 ≤ data.length ∧ beAt data 0 6 = 0xFFFFFFFFFFFF ∧ beAt data 12 2 ≠ 0x8100 ∧ s.flag (Reg.NET_SP_RX_MATCH 1 0) 63 = true ∧
       s.flag (Reg.NET_SP_RX_MATCH 1 0) 62 = false ∧ s.fld (Reg.NET_SP_RX_MATCH 1 0) 47 32 = 0 ∧ s.fld (Reg.NET_SP_RX_MATCH 1 0) 31 16 = 0 ∧
       (match s.ethRing 1 0 with
        | some (_, g) => decide (32 + data.length ≤ g.slotBytes ∧ g.st.getD g.rsv .e = .e ∧ g.rsv < g.st.length)
        | none => false) = true ∧ tabFind s.ethRx 8 = none ∧ s.hbrUe = [] ∧ s.hbrCe = []) ∧
    (∀ p ∈ [(0, 0), (1, 1), (2, 2), (3, 0), (4, 1), (5, 0)], let r := record p.1 0 p.2 0 0
      recNat r 0 1 = p.1 ∧ recNat r 1 1 = 0 ∧ recZero r 16 48 = true ∧ recNat r 2 2 = p.2 ∧ recNat r 14 2 = 0 ∧ recZero r 8 8 = true) ∧
    (let s := sched 1 (record 1 0 1 0 0)
     s.memHeld = false ∧ s.canFetch 0 = true ∧ s.partCheck (s.ctxPart (s.qCtx 0)) 0x400 64 = 0 ∧ (s.flag (Reg.SCH_QCFG 0) 9 = false) ∧
       1024 * s.fld (Reg.SCH_QRING 0) 43 10 + 64 * (s.qDone 0 % s.qDepth 0) = 0x400) ∧
    (let m := waitingCmd 0 []
     m.phase = .waiting ∧ m.waits = [] ∧ m.kind = 0 ∧ bitOf m.flags 2 = false ∧ (withCmd m).flag (Reg.SCH_QCFG 0) 47 = false) := by
  decide +kernel

theorem test_conv_fetched : fetched (.cmdConv 0) (record 4 0 1 0 0) = some (some (.waiting, 0)) := by decide +kernel

end Sys2Proof.Tests
end

section
/-! Issuing one instruction of a core, for the statements on the compute instructions (chapter 5): the row of the table that a
command runs, what its body's answer becomes, and the register writes that the statements name. -/
namespace Sys2Proof.Machine
open Sys2Proof.Claims

/-! ## Rows of the instruction table -/

/-- The command `i` is the issue of core `c`'s next instruction as opcode `o`: with the encoding checks of R95 and R114 to R117, the
footprint of R104, and `body` for what it does. -/
def RunsRow (i : Instr) (o c : Nat) (body : IWord → State → IRes) : Prop :=
  opcAssigned o = true ∧ ∀ s, exec i s = .next (issueOn (touchOf o) (rowOpc o) (legal o) body c s)

section
variable {i : Instr} {o c : Nat} {w : IWord} {s0 : State} {body : IWord → State → IRes}

theorem legal_of_issues (h : Issues o c w s0) : legal o w = true := by
  obtain ⟨-, -, hlegal, -, -⟩ := h
  exact hlegal

/-- An instruction that issues ends as its body answers. -/
theorem RunsRow.exec_eq (hi : RunsRow i o c body) (h : Issues o c w s0) :
    exec i s0 = .next ((body w (s0.fetched c w)).issued c (regsOf (s0.fetched c w) c).pc (s0.fetched c w).upNs w
      (w.foot (touchOf o ((s0.fetched c w).core c) w))) := by
  obtain ⟨hassigned, hexec⟩ := hi
  obtain ⟨⟨hcan, hfetch⟩, hopc, hlegal, hpred, hclash⟩ := h
  rw [hexec, issueOn_body hcan hfetch (hopc ▸ hassigned) (by simp [rowOpc, hopc]) hlegal hpred hclash]

/-- A failed check of the body ends the command (R95). -/
theorem RunsRow.exec_fail (hi : RunsRow i o c body) (h : Issues o c w s0) {s1 : State} {st : Nat}
    (hb : body w (s0.fetched c w) = .fail s1 st) : exec i s0 = .next (s1.endSliceCmd c st) := by
  rw [hi.exec_eq h, hb, issued_fail]

/-- An instruction that has to wait is kept with its words, and the next one follows (R98, R104). -/
theorem RunsRow.exec_park (hi : RunsRow i o c body) (h : Issues o c w s0) {wt : Wait} (hp : wt.parks = true)
    (hb : body w (s0.fetched c w) = .wait (s0.fetched c w) wt) :
    exec i s0 = .next ((s0.fetched c w).park c (flyOf o c w (s0.fetched c w) wt) ((regsOf (s0.fetched c w) c).pc + w.len)) := by
  rw [hi.exec_eq h, hb]
  simp only [IRes.issued, hp, if_true]

/-- A completed instruction moves the program counter past itself. -/
theorem RunsRow.exec_done (hi : RunsRow i o c body) (h : Issues o c w s0) {s1 : State}
    (hb : body w (s0.fetched c w) = .done s1) : exec i s0 = .next (s1.setPc c ((regsOf (s0.fetched c w) c).pc + w.len)) := by
  rw [hi.exec_eq h, hb, issued_done]

/-- An instruction that rewrites registers, on a state `s1` in which its core's program counter is where it was. -/
theorem RunsRow.ends_regs (hi : RunsRow i o c body) (h : Issues o c w s0) {s1 : State} {g : CoreRegs → CoreRegs}
    {P : CoreRegs → Prop} (hb : body w (s0.fetched c w) = IRes.regs s1 c g)
    (hpc : (regsOf s1 c).pc = (regsOf (s0.fetched c w) c).pc)
    (hP : P { g (regsOf s1 c) with pc := (regsOf s1 c).pc + w.len, resume := none, tile := [], stall := none }) :
    Ends i s0 (RegsOnly c s1 P) :=
  ⟨_, by rw [hi.exec_eq h, hb, ← hpc, issued_regs], _, rfl, hP⟩

/-! ## Writes of one register -/

/-- An instruction whose body writes a scalar. -/
theorem RunsRow.writesS (hi : RunsRow i o c body) (h : Issues o c w s0) {s1 : State} {f : CoreRegs → DWord} {v : DWord}
    (hb : body w (s0.fetched c w) = IRes.regs s1 c (fun r => r.setS w.dst (f r)))
    (hpc : (regsOf s1 c).pc = (regsOf (s0.fetched c w) c).pc) (hv : f (regsOf s1 c) = v) :
    Ends i s0 (WritesS c w s1 v) :=
  hi.ends_regs h hb hpc ⟨fun j => hv ▸ getS_setS _ w.dst j _, rfl⟩

/-- An instruction whose body writes a predicate. -/
theorem RunsRow.writesP (hi : RunsRow i o c body) (h : Issues o c w s0) {d : Nat} {f : CoreRegs → Bool} {b : Bool}
    (hd : d < 8) (hb : body w (s0.fetched c w) = IRes.regs (s0.fetched c w) c (fun r => r.setP d (f r)))
    (hv : f (regsOf (s0.fetched c w) c) = b) : Ends i s0 (WritesP c w (s0.fetched c w) d b) := by
  refine hi.ends_regs h hb rfl ⟨fun j hj => hv ▸ getP_setP _ _ hd hj, ?_⟩
  unfold CoreRegs.setP
  split <;> rfl

/-- An instruction whose body writes a tile descriptor. -/
theorem RunsRow.writesT (hi : RunsRow i o c body) (h : Issues o c w s0) {d : Nat} {f : CoreRegs → TileDesc} {e : TileDesc}
    (hb : body w (s0.fetched c w) = IRes.regs (s0.fetched c w) c (fun r => r.setT d (f r)))
    (hv : f (regsOf (s0.fetched c w) c) = e) : Ends i s0 (WritesT c w (s0.fetched c w) d e) :=
  hi.ends_regs h hb rfl ⟨fun j => hv ▸ getT_setT _ d j _, rfl⟩

/-- An instruction whose body writes all lanes of a vector register. -/
theorem RunsRow.writesV (hi : RunsRow i o c body) (h : Issues o c w s0) {d : Nat} {f : CoreRegs → List Word} {v : Nat → Word}
    (hb : body w (s0.fetched c w) = IRes.regs (s0.fetched c w) c (fun r => r.setLanes d (f r)))
    (hlen : (f (regsOf (s0.fetched c w) c)).length = 128)
    (hv : ∀ l < 128, (f (regsOf (s0.fetched c w) c)).getD l 0 = v l) : Ends i s0 (WritesV c w (s0.fetched c w) d v) := by
  refine hi.ends_regs h hb rfl ⟨fun j l hl => ?_, ?_⟩
  · exact (getV_setLanes _ d j l _ hlen hl).trans (by rw [hv l hl])
  · rw [setLanes_eq]

end

/-! ## Legal words -/

/-- A word without a long form is eight bytes long. -/
theorem len_of_not_long {w : IWord} (h : w.long = false) : w.len = 8 := by simp [IWord.len, h]

/-- A legal word meets each field's rule and, of an opcode without a long form, is short (R115 to R117). -/
theorem Enc.ok_fields {e : Enc} {w : IWord} (h : e.ok w = true) :
    e.dst.ok w.dst = true ∧ e.src1.ok w.src1 = true ∧ e.src2.ok w.src2 = true ∧ (e.long = .never → w.long = false) := by
  simp only [Enc.ok, Bool.and_eq_true] at h
  obtain ⟨⟨⟨⟨⟨hdst, hsrc1⟩, hsrc2⟩, -⟩, -⟩, hlong⟩ := h
  refine ⟨hdst, hsrc1, hsrc2, fun hn => ?_⟩
  simpa [hn] using hlong

/-! The index of a register number of a kind (Table 4.1). -/

theorem regIdx_s {n : Nat} (h : regKind n = .s) : regIdx n = n := by simp [regIdx, h]
theorem regIdx_v {n : Nat} (h : regKind n = .v) : regIdx n = n - 0x20 := by simp [regIdx, h]
theorem regIdx_t {n : Nat} (h : regKind n = .t) : regIdx n = n - 0x30 := by simp [regIdx, h]
theorem regIdx_p {n : Nat} (h : regKind n = .p) : regIdx n = n - 0x48 := by simp [regIdx, h]
theorem regIdx_special {n : Nat} (h : regKind n = .special) : regIdx n = n - 0x70 := by simp [regIdx, h]

/-- There are eight predicates. -/
theorem predicate_lt {n : Nat} (h : regKind n = .p) : n - 0x48 < 8 := by
  unfold regKind at h
  split_ifs at h
  omega

theorem FieldUse.ok_reg {k : RegKind} {n : Nat} (h : (FieldUse.reg k).ok n = true) : regKind n = k := by
  simpa [FieldUse.ok] using h

end Sys2Proof.Machine
end

section
/-! Scalar, descriptor and MOV instructions (R123 to R129): the values of Table 5.3 as integers, and the statement. -/
namespace Sys2Proof.Machine
open Sys2Proof.Claims

/-! ## The values of Table 5.3 -/

theorem add_eq_ofInt (a b : DWord) : a + b = BitVec.ofInt 64 (a.toInt + b.toInt) := by
  rw [BitVec.ofInt_add, BitVec.ofInt_toInt, BitVec.ofInt_toInt]

theorem sub_eq_ofInt (a b : DWord) : a - b = BitVec.ofInt 64 (a.toInt - b.toInt) :=
  BitVec.eq_of_toInt_eq (by rw [BitVec.toInt_sub, BitVec.toInt_ofInt])

theorem mul_eq_ofInt (a b : DWord) : a * b = BitVec.ofInt 64 (a.toInt * b.toInt) := by
  rw [BitVec.ofInt_mul, BitVec.ofInt_toInt, BitVec.ofInt_toInt]

theorem divVal_eq (a b : DWord) : divVal a b = if b = 0 then 0 else BitVec.ofInt 64 (a.toInt.tdiv b.toInt) :=
  if_congr Iff.rfl rfl (BitVec.eq_of_toInt_eq (by rw [BitVec.toInt_sdiv, BitVec.toInt_ofInt]))

theorem remVal_eq (a b : DWord) :
    remVal a b = if b = 0 then a else BitVec.ofInt 64 (a.toInt - a.toInt.tdiv b.toInt * b.toInt) := by
  refine if_congr Iff.rfl rfl ?_
  have : a.toInt - a.toInt.tdiv b.toInt * b.toInt = (a.srem b).toInt := by
    rw [BitVec.toInt_srem, Int.tmod_def, Int.mul_comm]
  rw [this, BitVec.ofInt_toInt]

theorem shlVal_eq (a b : DWord) : shlVal a b = BitVec.ofNat 64 (a.toNat * 2 ^ (b.toNat % 64)) :=
  BitVec.eq_of_toNat_eq (by rw [shlVal, BitVec.toNat_shiftLeft, BitVec.toNat_ofNat, Nat.shiftLeft_eq])

theorem shrVal_eq (a b : DWord) : shrVal a b = BitVec.ofNat 64 (a.toNat / 2 ^ (b.toNat % 64)) := by
  rw [← Nat.shiftRight_eq_div_pow, ← BitVec.toNat_ushiftRight, BitVec.ofNat_toNat, BitVec.setWidth_eq, shrVal]

theorem sraVal_eq (a b : DWord) : sraVal a b = BitVec.ofInt 64 (a.toInt / 2 ^ (b.toNat % 64)) := by
  have : a.toInt / 2 ^ (b.toNat % 64) = (sraVal a b).toInt := by
    rw [sraVal, BitVec.toInt_sshiftRight, Int.shiftRight_eq_div_pow]; norm_cast
  rw [this, BitVec.ofInt_toInt]

theorem minVal_eq (u : Bool) (a b : DWord) :
    minVal u a b = if u then BitVec.ofNat 64 (min a.toNat b.toNat) else BitVec.ofInt 64 (min a.toInt b.toInt) := by
  cases u
  case false =>
    by_cases h : b.toInt < a.toInt
    · simp [minVal, BitVec.slt_eq_decide, h, min_eq_right h.le]
    · simp [minVal, BitVec.slt_eq_decide, h, min_eq_left (not_lt.mp h)]
  case true =>
    by_cases h : b.toNat < a.toNat
    · simp [minVal, BitVec.ult_eq_decide, h, min_eq_right h.le]
    · simp [minVal, BitVec.ult_eq_decide, h, min_eq_left (not_lt.mp h)]

theorem maxVal_eq (u : Bool) (a b : DWord) :
    maxVal u a b = if u then BitVec.ofNat 64 (max a.toNat b.toNat) else BitVec.ofInt 64 (max a.toInt b.toInt) := by
  cases u
  case false =>
    by_cases h : a.toInt < b.toInt
    · simp [maxVal, BitVec.slt_eq_decide, h, max_eq_right h.le]
    · simp [maxVal, BitVec.slt_eq_decide, h, max_eq_left (not_lt.mp h)]
  case true =>
    by_cases h : a.toNat < b.toNat
    · simp [maxVal, BitVec.ult_eq_decide, h, max_eq_right h.le]
    · simp [maxVal, BitVec.ult_eq_decide, h, max_eq_left (not_lt.mp h)]

/-! ## ADD to MAX (R123) -/

/-- ADD to MAX write `f` of the two operands to s[DST]. -/
theorem RunsRow.writesS_alu {i : Instr} {o c : Nat} {w : IWord} {s0 : State} {body : IWord → State → IRes}
    {f : DWord → DWord → DWord} {v : DWord} (hi : RunsRow i o c body) (h : Issues o c w s0)
    (hb : body w = aluBody c f w)
    (hv : f ((regsOf (s0.fetched c w) c).getS w.src1) (operandB (regsOf (s0.fetched c w) c) w) = v) :
    Ends i s0 (WritesS c w (s0.fetched c w) v) :=
  hi.writesS h (f := fun r => f (r.getS w.src1) (aluB r w)) (by rw [hb]; rfl) rfl hv

variable {c : CoreId} {w : IWord} {s0 : State}

/-- NOP moves the program counter. -/
theorem nop_ends (h : Issues 0x00 c w s0) :
    let r := regsOf (s0.fetched c w) c
    Ends (.nop c) s0 (RegsOnly c (s0.fetched c w) (ScalarsAt r (r.pc + 8) r.getS)) := by
  have hrow : RunsRow (.nop c) 0x00 c (fun _ s => .done s) := ⟨rfl, fun _ => rfl⟩
  have hok : Enc.ok ⟨.zero, .zero, .zero, 0, 0, .never⟩ w = true := legal_of_issues h
  obtain ⟨-, -, -, hshort⟩ := Enc.ok_fields hok
  refine ⟨_, hrow.exec_done h rfl, _, setPc_eq _ _ _, fun j => rfl, ?_⟩
  rw [len_of_not_long (hshort rfl)]

/-- MOVI writes simm, or the second word (R126). -/
theorem movi_writesS (h : Issues 0x01 c w s0) :
    Ends (.movi c) s0 (WritesS c w (s0.fetched c w) (if w.long then BitVec.ofNat 64 w.w2 else w.simm)) :=
  RunsRow.writesS (body := fun w s => IRes.regs s c (fun r => r.setS w.dst w.immOrLong)) ⟨rfl, fun _ => rfl⟩ h rfl rfl rfl

/-! ## Comparisons and predicates (R124) -/

/-- The relation of a defined COND. -/
theorem cmpRel_eq {cond : Nat} (h : cond ≤ 5) (a b : DWord) : cmpRel cond a b = some (condHolds cond a b) := by
  have hge {α : Type} [LinearOrder α] (x y : α) : (!decide (x < y)) = decide (y ≤ x) := by simp only [← decide_not, not_lt]
  interval_cases cond <;>
    simp [cmpRel, condHolds, BitVec.slt_eq_decide, BitVec.ult_eq_decide, BitVec.toNat_eq, beq_eq_decide, bne, hge]

/-- CMP and CMPI write the relation of their operands to the predicate. -/
theorem RunsRow.writesP_cmp {i : Instr} {o : Nat} {imm : Bool} {e : Enc} (hi : RunsRow i o c (cmpBody c imm))
    (h : Issues o c w s0) (hl : legal o w = cmpEnc e w) (he : e.dst = .reg .p) :
    Ends i s0 (WritesP c w (s0.fetched c w) (w.dst - 0x48) (condHolds (bitsOf w.w1 51 49)
      ((regsOf (s0.fetched c w) c).getS w.src1)
      (if imm then w.immOrLong else (regsOf (s0.fetched c w) c).getS w.src2))) := by
  have hlegal := legal_of_issues h
  rw [hl, cmpEnc, Bool.and_eq_true, decide_eq_true_eq] at hlegal
  obtain ⟨hok, hcond⟩ := hlegal
  have hdst : regKind w.dst = .p := FieldUse.ok_reg (he ▸ (Enc.ok_fields hok).1)
  refine hi.writesP h (predicate_lt hdst) (f := fun _ => _) ?_ rfl
  simp only [cmpBody, cmpRel_eq hcond, regIdx_p hdst]
  rfl

/-- The function of a defined OP on predicates. -/
theorem plogFn_eq {op : Nat} (h : op ≤ 4) (x y : Bool) :
    plogFn op x y = some (if op = 0 then x && y else if op = 1 then x || y else if op = 2 then x != y
      else if op = 3 then x && !y else !x) := by
  interval_cases op <;> simp [plogFn]

/-- PLOG writes the function of its predicates; NOT reads the first alone. -/
theorem plog_writesP (h : Issues 0x13 c w s0) :
    let x := (regsOf (s0.fetched c w) c).getP (w.src1 - 0x48)
    let y := (regsOf (s0.fetched c w) c).getP (w.src2 - 0x48)
    Ends (.plog c) s0 (WritesP c w (s0.fetched c w) (w.dst - 0x48) (if bitsOf w.w1 51 49 = 0 then x && y
      else if bitsOf w.w1 51 49 = 1 then x || y else if bitsOf w.w1 51 49 = 2 then x != y
      else if bitsOf w.w1 51 49 = 3 then x && !y else !x)) := by
  intro x y
  have hlegal : plogEnc w = true := legal_of_issues h
  rw [plogEnc, Bool.and_eq_true, decide_eq_true_eq] at hlegal
  obtain ⟨hok, hop⟩ := hlegal
  obtain ⟨hdst, hsrc1, hsrc2, -⟩ := Enc.ok_fields hok
  have hdst := FieldUse.ok_reg hdst
  have hsrc1 := FieldUse.ok_reg hsrc1
  refine RunsRow.writesP (body := plogBody c) ⟨rfl, fun _ => rfl⟩ h (predicate_lt hdst) (f := fun _ => _) ?_ rfl
  have hy : w.mod3 ≠ 4 → regIdx w.src2 = w.src2 - 0x48 := fun hn => regIdx_p (FieldUse.ok_reg (by simpa [hn] using hsrc2))
  simp only [plogBody, plogFn_eq hop, regIdx_p hdst, regIdx_p hsrc1]
  by_cases hn : w.mod3 = 4
  · simp [hn, show bitsOf w.w1 51 49 = 4 from hn, x]
  · simp only [hy hn]
    rfl

/-! ## MOV (R125, Table 5.4) -/

section
variable {s : State}

theorem movBody_s_s (hd : regKind w.dst = .s) (hs : regKind w.src1 = .s) :
    movBody c w s = IRes.regs s c (fun r => r.setS w.dst (r.getS w.src1)) := by rw [movBody, hd, hs]
theorem movBody_s_special (hd : regKind w.dst = .s) (hs : regKind w.src1 = .special) :
    movBody c w s = IRes.regs s c (fun r => r.setS w.dst (s.special c (w.src1 - 0x70))) := by
  rw [← regIdx_special hs, movBody, hd, hs]
theorem movBody_s_p (hd : regKind w.dst = .s) (hs : regKind w.src1 = .p) :
    movBody c w s = IRes.regs s c (fun r => r.setS w.dst (if r.getP (w.src1 - 0x48) then 1 else 0)) := by
  rw [← regIdx_p hs, movBody, hd, hs]
theorem movBody_p_s (hd : regKind w.dst = .p) (hs : regKind w.src1 = .s) :
    movBody c w s = IRes.regs s c (fun r => r.setP (w.dst - 0x48) (r.getS w.src1 != 0)) := by
  rw [← regIdx_p hd, movBody, hd, hs]
theorem movBody_p_p (hd : regKind w.dst = .p) (hs : regKind w.src1 = .p) :
    movBody c w s = IRes.regs s c (fun r => r.setP (w.dst - 0x48) (r.getP (w.src1 - 0x48))) := by
  rw [← regIdx_p hd, ← regIdx_p hs, movBody, hd, hs]
theorem movBody_t_t (hd : regKind w.dst = .t) (hs : regKind w.src1 = .t) :
    movBody c w s = IRes.regs s c (fun r => r.setT (w.dst - 0x30) (r.getT (w.src1 - 0x30))) := by
  rw [← regIdx_t hd, ← regIdx_t hs, movBody, hd, hs]
theorem movBody_v_v (hd : regKind w.dst = .v) (hs : regKind w.src1 = .v) :
    movBody c w s = IRes.regs s c (fun r => r.setLanes (w.dst - 0x20) (r.lanes (w.src1 - 0x20))) := by
  rw [← regIdx_v hd, ← regIdx_v hs, movBody, hd, hs]
theorem movBody_astat (hd : w.dst = 0x79) (hs : regKind w.src1 = .s) :
    movBody c w s = .done (s.clearAstat (s.core c).sl.ctx ((regsOf s c).getS w.src1)) := by
  rw [movBody, hd, hs]
  rfl

end

theorem lanes_getD (r : CoreRegs) (i l : Nat) (h : l < 128) : (r.lanes i).getD l 0 = r.getV i l := by
  simp [CoreRegs.lanes, List.getD_eq_getElem?_getD, h]

/-- MOV to ASTAT clears the bits of the context that its source has set, and moves the program counter. -/
theorem mov_astat_clears (h : Issues 0x02 c w s0) (hd : w.dst = 0x79) (hs : regKind w.src1 = .s) :
    let s := s0.fetched c w
    let r := regsOf s c
    Ends (.mov c) s0 (fun t =>
      (∀ x, tabGet 0 t.astat x = if x = (s.core c).sl.ctx
        then tabGet 0 s.astat x &&& ~~~(BitVec.ofNat 3 (r.getS w.src1).toNat) else tabGet 0 s.astat x) ∧
      RegsOnly c { s with astat := t.astat } (ScalarsAt r (r.pc + 8) r.getS) t) := by
  intro s r
  have hok : Enc.ok ⟨.any, .any, .zero, 0, 0, .never⟩ w = true := (Bool.and_eq_true_iff.mp (legal_of_issues h)).1
  have hlen := len_of_not_long ((Enc.ok_fields hok).2.2.2 rfl)
  have hrow : RunsRow (.mov c) 0x02 c (movBody c) := ⟨rfl, fun _ => rfl⟩
  refine ⟨_, hrow.exec_done h (movBody_astat hd hs), fun x => ?_, _, rfl, fun j => rfl, ?_⟩
  · split
    case isTrue hx => exact hx ▸ tabGet_tabSet_same 0 s.astat _ _
    case isFalse hx => exact tabGet_tabSet_ne 0 0 s.astat _ hx
  · rw [hlen]
    rfl

/-! ## Descriptors (R127 to R129) -/

/-- TDSET writes both words of a descriptor. -/
theorem tdset_writesT (h : Issues 0x03 c w s0) :
    let r := regsOf (s0.fetched c w) c
    Ends (.tdset c) s0 (WritesT c w (s0.fetched c w) (w.dst - 0x30) ⟨r.getS w.src1, r.getS w.src2⟩) := by
  have hok : Enc.ok ⟨.reg .t, .reg .s, .reg .s, 0, 0, .never⟩ w = true := legal_of_issues h
  obtain ⟨hdst, -⟩ := Enc.ok_fields hok
  rw [← regIdx_t (FieldUse.ok_reg hdst)]
  exact RunsRow.writesT (body := fun w s => IRes.regs s c (fun r => r.setT (regIdx w.dst) ⟨r.getS w.src1, r.getS w.src2⟩))
    ⟨rfl, fun _ => rfl⟩ h rfl rfl

/-- TDGET reads a word of a descriptor. -/
theorem tdget_writesS (h : Issues 0x14 c w s0) :
    let d := (regsOf (s0.fetched c w) c).getT (w.src1 - 0x30)
    Ends (.tdget c) s0 (WritesS c w (s0.fetched c w) (if bitOf w.imm 0 then d.w1 else d.w0)) := by
  have hok : Enc.ok ⟨.reg .s, .reg .t, .zero, 1, 0, .never⟩ w = true := legal_of_issues h
  obtain ⟨-, hsrc1, -⟩ := Enc.ok_fields hok
  rw [← regIdx_t (FieldUse.ok_reg hsrc1)]
  exact RunsRow.writesS (body := fun w s => IRes.regs s c (fun r =>
      let d := r.getT (regIdx w.src1)
      r.setS w.dst (if bitOf w.imm 0 then d.w1 else d.w0))) ⟨rfl, fun _ => rfl⟩ h rfl rfl rfl

theorem bitsPut_mod_below (v f : Nat) {hi lo : Nat} (h : lo ≤ hi) : bitsPut v hi lo f % 2 ^ lo = v % 2 ^ lo := by
  cases lo with
  | zero => simp [Nat.mod_one]
  | succ n => simpa [bitsOf] using bitsOf_bitsPut_below v f (l2 := 0) h (Nat.lt_succ_self n)

/-- A word whose field [hi:lo] is replaced by a value that fits: the field holds it, the bits above and below stay. -/
theorem ofNat_bitsPut_fields (d : DWord) {hi lo v : Nat} (h : lo ≤ hi) (hh : hi < 64) (hv : v < 2 ^ (hi + 1 - lo)) :
    let e := BitVec.ofNat 64 (bitsPut d.toNat hi lo v)
    bitsOf e.toNat hi lo = v ∧ bitsOf e.toNat 63 (hi + 1) = bitsOf d.toNat 63 (hi + 1) ∧ e.toNat % 2 ^ lo = d.toNat % 2 ^ lo := by
  have e : (BitVec.ofNat 64 (bitsPut d.toNat hi lo v)).toNat = bitsPut d.toNat hi lo v := by
    rw [BitVec.toNat_ofNat, Nat.mod_eq_of_lt (bitsPut_lt _ _ h hh d.isLt)]
  simp only [e]
  exact ⟨by rw [bitsOf_bitsPut_same _ _ h, Nat.mod_eq_of_lt hv], bitsOf_bitsPut_above _ _ h (Nat.lt_succ_self hi),
    bitsPut_mod_below _ _ h⟩

/-- TDADD adds to the base cell of a descriptor (R128). -/
theorem tdadd_ends (h : Issues 0x15 c w s0) :
    let s := s0.fetched c w
    let r := regsOf s c
    let d := r.getT (w.src1 - 0x30)
    let b : Int := bitsOf d.w0.toNat 14 0 + if w.mod 49 then w.simm.toInt else (r.getS w.src2).toInt
    (0 ≤ b → b ≤ 32767 → Ends (.tdadd c) s0 (fun t => ∃ e : TileDesc, WritesT c w s (w.dst - 0x30) e t ∧ e.w1 = d.w1 ∧
      (bitsOf e.w0.toNat 14 0 : Int) = b ∧ bitsOf e.w0.toNat 63 15 = bitsOf d.w0.toNat 63 15)) ∧
    (b < 0 ∨ 32767 < b → exec (.tdadd c) s0 = .next (s.endSliceCmd c 0x0002)) := by
  intro s r d b
  have hrow : RunsRow (.tdadd c) 0x15 c (tdaddBody c) := ⟨rfl, fun _ => rfl⟩
  obtain ⟨src2, im, hok⟩ : ∃ u im, Enc.ok ⟨.reg .t, .reg .t, u, im, 2, .never⟩ w = true := by
    have hl : (if w.mod 49 then Enc.ok ⟨.reg .t, .reg .t, .zero, 0xFFFFFF, 2, .never⟩ w
      else Enc.ok ⟨.reg .t, .reg .t, .reg .s, 0, 2, .never⟩ w) = true := legal_of_issues h
    split at hl
    · exact ⟨_, _, hl⟩
    · exact ⟨_, _, hl⟩
  obtain ⟨hdst, hsrc1, -, hshort⟩ := Enc.ok_fields hok
  have hdst := regIdx_t (FieldUse.ok_reg hdst)
  have hsrc1 := regIdx_t (FieldUse.ok_reg hsrc1)
  have himm : w.immOrLong = w.simm := by simp [IWord.immOrLong, hshort rfl]
  have hb : tdaddBody c w s = if b < 0 ∨ 32767 < b then .fail s stInvalidProgram
      else IRes.regs s c (fun r => r.setT (w.dst - 0x30) ⟨BitVec.ofNat 64 (bitsPut d.w0.toNat 14 0 b.toNat), d.w1⟩) := by
    simp only [tdaddBody, hdst, hsrc1, himm]
    rfl
  refine ⟨fun h0 h1 => ?_, fun hout => hrow.exec_fail h (hb.trans (if_pos hout))⟩
  obtain ⟨t, hexec, ht⟩ := hrow.writesT h (hb.trans (if_neg (by omega))) rfl
  obtain ⟨hfield, habove, -⟩ := ofNat_bitsPut_fields d.w0 (hi := 14) (lo := 0) (v := b.toNat) (by omega) (by omega) (by omega)
  exact ⟨t, hexec, _, ht, rfl, by rw [hfield]; omega, habove⟩

/-- The fields that TDFLD names (R129). -/
theorem tdField_mem {f k hi lo : Nat} (h : (f, k, hi, lo) ∈
    [(0, 0, 14, 0), (1, 0, 31, 16), (2, 0, 47, 32), (3, 0, 62, 48), (4, 1, 22, 8), (5, 1, 38, 24)]) :
    tdField f = some (k, hi, lo) ∧ lo ≤ hi ∧ hi < 64 := by
  simp only [List.mem_cons, Prod.mk.injEq, List.not_mem_nil, or_false] at h
  rcases h with ⟨rfl, rfl, rfl, rfl⟩ | ⟨rfl, rfl, rfl, rfl⟩ | ⟨rfl, rfl, rfl, rfl⟩ | ⟨rfl, rfl, rfl, rfl⟩ |
    ⟨rfl, rfl, rfl, rfl⟩ | ⟨rfl, rfl, rfl, rfl⟩ <;> exact ⟨rfl, by omega, by omega⟩

/-- TDFLD replaces the field that FIELD names, by a value that fits (R129). -/
theorem tdfld_ends (h : Issues 0x16 c w s0) {k hi lo : Nat} (hf : tdField (bitsOf w.imm 2 0) = some (k, hi, lo)) (hlo : lo ≤ hi)
    (hhi : hi < 64) :
    let s := s0.fetched c w
    let v := ((regsOf s c).getS w.src1).toNat
    let d := (regsOf s c).getT (w.dst - 0x30)
    (v < 2 ^ (hi + 1 - lo) → Ends (.tdfld c) s0 (fun t => ∃ e : DWord,
      WritesT c w s (w.dst - 0x30) (if k = 0 then ⟨e, d.w1⟩ else ⟨d.w0, e⟩) t ∧ bitsOf e.toNat hi lo = v ∧
      bitsOf e.toNat 63 (hi + 1) = bitsOf (if k = 0 then d.w0 else d.w1).toNat 63 (hi + 1) ∧
      e.toNat % 2 ^ lo = (if k = 0 then d.w0 else d.w1).toNat % 2 ^ lo)) ∧
    (2 ^ (hi + 1 - lo) ≤ v → exec (.tdfld c) s0 = .next (s.endSliceCmd c 0x0002)) := by
  intro s v d
  have hrow : RunsRow (.tdfld c) 0x16 c (tdfldBody c) := ⟨rfl, fun _ => rfl⟩
  have hok : Enc.ok ⟨.reg .t, .reg .s, .zero, 7, 0, .never⟩ w = true := (Bool.and_eq_true_iff.mp (legal_of_issues h)).1
  have hdst := regIdx_t (FieldUse.ok_reg (Enc.ok_fields hok).1)
  have hb : tdfldBody c w s = if 2 ^ (hi + 1 - lo) ≤ v then .fail s stInvalidProgram
      else IRes.regs s c (fun r => r.setT (w.dst - 0x30) (if k = 0 then ⟨BitVec.ofNat 64 (bitsPut d.w0.toNat hi lo v), d.w1⟩
        else ⟨d.w0, BitVec.ofNat 64 (bitsPut d.w1.toNat hi lo v)⟩)) := by
    simp only [tdfldBody, IWord.immBits, hf, hdst]
    by_cases hk : k = 0
    · simp only [hk, if_true]
      rfl
    · simp only [hk, if_false]
      rfl
  refine ⟨fun hfit => ?_, fun hwide => hrow.exec_fail h (hb.trans (if_pos hwide))⟩
  obtain ⟨t, hexec, ht⟩ := hrow.writesT h (hb.trans (if_neg (by omega))) rfl
  refine ⟨t, hexec, BitVec.ofNat 64 (bitsPut (if k = 0 then d.w0 else d.w1).toNat hi lo v), ?_,
    ofNat_bitsPut_fields _ hlo hhi hfit⟩
  by_cases hk : k = 0
  · simpa only [hk, if_true] using ht
  · simpa only [hk, if_false] using ht

/-- Settles O2, by a lemma for each form of instruction: the value of its body is that of Tables 5.3 and 5.4. -/
theorem scalarInstructionsWriteTheirDestination : Obligations.ScalarInstructionsWriteTheirDestination := by
  unfold Obligations.ScalarInstructionsWriteTheirDestination
  refine ⟨fun c w s0 => ?alu, fun c w s0 => ?registers, fun c w s0 => ?descriptors⟩
  case alu =>
    intro s a b
    have row {i o f v} (hi : RunsRow i o c (aluBody c f)) (hv : f a b = v) (h : Issues o c w s0) :
        Ends i s0 (WritesS c w s v) := hi.writesS_alu h rfl hv
    refine ⟨row ⟨rfl, fun _ => rfl⟩ (add_eq_ofInt a b), row ⟨rfl, fun _ => rfl⟩ (sub_eq_ofInt a b),
      row ⟨rfl, fun _ => rfl⟩ (mul_eq_ofInt a b), row ⟨rfl, fun _ => rfl⟩ (divVal_eq a b),
      row ⟨rfl, fun _ => rfl⟩ (remVal_eq a b), row ⟨rfl, fun _ => rfl⟩ rfl, row ⟨rfl, fun _ => rfl⟩ rfl,
      row ⟨rfl, fun _ => rfl⟩ rfl, row ⟨rfl, fun _ => rfl⟩ (shlVal_eq a b), row ⟨rfl, fun _ => rfl⟩ (shrVal_eq a b),
      row ⟨rfl, fun _ => rfl⟩ (sraVal_eq a b), fun h => ?min, fun h => ?max⟩
    case min =>
      exact RunsRow.writesS_alu (body := fun w => aluBody c (minVal (w.mod 50)) w) ⟨rfl, fun _ => rfl⟩ h rfl (minVal_eq _ a b)
    case max =>
      exact RunsRow.writesS_alu (body := fun w => aluBody c (maxVal (w.mod 50)) w) ⟨rfl, fun _ => rfl⟩ h rfl (maxVal_eq _ a b)
  case registers =>
    intro s r
    refine ⟨fun h => nop_ends h, fun h => movi_writesS h, fun h => RunsRow.writesP_cmp (imm := false) ⟨rfl, fun _ => rfl⟩ h rfl rfl,
      fun h => RunsRow.writesP_cmp (imm := true) ⟨rfl, fun _ => rfl⟩ h rfl rfl, fun h => plog_writesP h,
      fun h => tdset_writesT h, fun h => tdget_writesS h, fun h => ?mov⟩
    case mov =>
      have hrow : RunsRow (.mov c) 0x02 c (movBody c) := ⟨rfl, fun _ => rfl⟩
      exact ⟨fun hd hs => hrow.writesS h (movBody_s_s hd hs) rfl rfl, fun hd hs => hrow.writesS h (movBody_s_special hd hs) rfl rfl,
        fun hd hs => hrow.writesS h (movBody_s_p hd hs) rfl rfl,
        fun hd hs => hrow.writesP h (predicate_lt hd) (movBody_p_s hd hs) rfl,
        fun hd hs => hrow.writesP h (predicate_lt hd) (movBody_p_p hd hs) rfl,
        fun hd hs => hrow.writesT h (movBody_t_t hd hs) rfl,
        fun hd hs => hrow.writesV h (movBody_v_v hd hs) (lanes_length _ _) (fun l hl => lanes_getD _ _ l hl),
        fun hd hs => mov_astat_clears h hd hs⟩
  case descriptors =>
    refine ⟨fun h => tdadd_ends h, fun h => ?_⟩
    intro v d f k hi lo hmem hfield
    obtain ⟨hf, hlo, hhi⟩ := tdField_mem hmem
    exact tdfld_ends h (hfield ▸ hf) hlo hhi

end Sys2Proof.Machine
end

section
/-! Lagoon and harbour accesses of one aligned scalar: the berth, the word and the check bits it meets, and what a write of its
bytes leaves (chapters 7 and 11). -/
namespace Sys2Proof.Machine

/-! ## Little-endian bytes -/

@[simp] theorem leBytes_length (n v : Nat) : (leBytes n v).length = n := by
  induction n generalizing v with
  | zero => rfl
  | succ n ih => rw [leBytes, List.length_cons, ih]

theorem leBytes_getD {n i : Nat} (h : i < n) (v : Nat) (d : Byte) : (leBytes n v).getD i d = BitVec.ofNat 8 (v / 256 ^ i) := by
  induction n generalizing v i with
  | zero => omega
  | succ n ih =>
    cases i with
    | zero => simp [leBytes]
    | succ i => rw [leBytes, List.getD_cons_succ, ih (by omega), Nat.div_div_eq_div_mul, Nat.pow_succ']

/-- Cells after the bytes of a value are written. -/
theorem read_writeN_leBytes (m : Store 8) (a n v x : Nat) :
    (m.writeN a (leBytes n v)).read x = if a ≤ x ∧ x < a + n then BitVec.ofNat 8 (v / 256 ^ (x - a)) else m.read x := by
  rw [read_writeN, leBytes_length]
  split
  case isTrue h => exact leBytes_getD (by omega) v 0
  case isFalse => rfl

/-! ## Aligned scalars -/

/-- SIZE names 1, 2, 4 or 8 bytes (R130). -/
theorem size_cases (w : IWord) : w.size = 1 ∨ w.size = 2 ∨ w.size = 4 ∨ w.size = 8 := by
  have h : bitsOf w.w1 50 49 < 4 := bitsOf_lt w.w1 50 49
  unfold IWord.size
  interval_cases bitsOf w.w1 50 49 <;> simp

section
variable {w : IWord} {a : Nat}

/-- An aligned scalar lies in one 64-bit word. -/
theorem wordsOf_aligned (h : a % w.size = 0) : wordsOf a w.size = [a / 8] := by
  have hn := size_cases w
  have h0 : w.size ≠ 0 := by omega
  have h1 : (a + w.size - 1) / 8 - a / 8 + 1 = 1 := by rcases hn with hn | hn | hn | hn <;> rw [hn] at h ⊢ <;> omega
  rw [wordsOf, if_neg h0, h1]
  simp

/-- An aligned scalar lies in one berth. -/
theorem berth_aligned (h : a % w.size = 0) : (a + w.size - 1) / 4096 - a / 4096 + 1 = 1 := by
  rcases size_cases w with hn | hn | hn | hn <;> rw [hn] at h ⊢ <;> omega

theorem hbrAddr_aligned (n : Nat) (h : a % w.size = 0) : hbrAddr n a % w.size = 0 := by
  unfold hbrAddr
  rcases size_cases w with hn | hn | hn | hn <;> rw [hn] at h ⊢ <;> omega

end

/-! ## Lagoon accesses -/

theorem find?_singleton_none {p : Nat → Bool} {x : Nat} (h : p x = false) : [x].find? p = none := by
  rw [List.find?_singleton, h, if_neg Bool.false_ne_true]

/-- One berth of sound state bits, without and with its tag checked (R204, R217). -/
theorem touch_one {k : Core} {b : Nat} (hp : k.parity.contains b = false) : k.touch [b] = .ok := by
  rw [Core.touch, find?_singleton_none hp]

theorem grant_one {k : Core} {b : Nat} {write : Bool} (hp : k.parity.contains b = false) :
    k.grant write [b] = if k.tags.getLsbD b != write then .ok else .wait write [b] := by
  rw [Core.grant, find?_singleton_none hp]
  simp only [List.all_cons, List.all_nil, Bool.and_true, Core.tag]

theorem berthsOf_cell (a : Nat) : berthsOf [a / 16] = [a / 4096] := by
  simp [berthsOf, List.eraseDups_cons, Nat.div_div_eq_div_mul]

section
variable {s : State} {c a : Nat} {u write : Bool}

/-- A lagoon access of a berth of sound state bits is granted with .U, and where the berth stands as it needs: FULL for a read,
EMPTY for a write (R204). -/
theorem lgnGrant_granted (hp : (s.core c).parity.contains (a / 4096) = false)
    (ht : u = true ∨ (s.core c).tags.getLsbD (a / 4096) = !write) : s.lgnGrant c u write [a / 16] = none := by
  cases u with
  | true => simp [State.lgnGrant, berthsOf_cell, touch_one hp]
  | false =>
    have ht := ht.resolve_left Bool.false_ne_true
    simp [State.lgnGrant, berthsOf_cell, grant_one hp, ht]

/-- Without .U an access of a berth that stands otherwise waits (R205). -/
theorem lgnGrant_waits (hp : (s.core c).parity.contains (a / 4096) = false)
    (ht : (s.core c).tags.getLsbD (a / 4096) = write) :
    s.lgnGrant c false write [a / 16] = some (.wait s (.tags write [a / 4096])) := by
  simp [State.lgnGrant, berthsOf_cell, grant_one hp, ht]

theorem lgnBad_good {k : Core} {x : Nat} (h : k.lgnUe.contains x = false) : k.lgnBad [x] = none := find?_singleton_none h

theorem lgnMerge_good {x : Nat} (h : (s.core c).lgnUe.contains x = false) : s.lgnMerge c [x] = .ok (s.lgnCorrect c [x]) := by
  rw [State.lgnMerge, lgnBad_good h]

/-- A correction of lagoon words changes nothing of its core but the list of correctable words. -/
theorem lgnCorrect_core (s : State) (c : Nat) (l : List Nat) :
    ∃ ce, (s.lgnCorrect c l).core c = { s.core c with lgnCe := ce } := by
  unfold State.lgnCorrect
  simp only
  split
  · exact ⟨(s.core c).lgnCe, rfl⟩
  · exact ⟨_, (core_congr (foldl_keeps State.cores (fun t _ => t.bumpSat _ 63 48) (fun _ _ => rfl) _ _) c).trans (core_setCore_same s c _)⟩

end

/-- A bit set in a map of berths. -/
theorem getLsbD_setBit (m : BitVec 128) {i j : Nat} (hi : i < 128) :
    (BitVec.ofNat 128 (bitsPut m.toNat i i 1)).getLsbD j = (m.getLsbD j || decide (j = i)) := by
  have hv := Nat.mod_eq_of_lt (bitsPut_lt m.toNat 1 (le_refl i) hi m.isLt)
  simp only [getLsbD_bitOf, BitVec.toNat_ofNat, hv, bitOf_eq]
  rcases Nat.lt_trichotomy j i with h | h | h
  · simp [bitsOf_bitsPut_below _ _ (le_refl i) h, h.ne]
  · subst h
    simp [bitsOf_bitsPut_same _ _ (le_refl j)]
  · simp [bitsOf_bitsPut_above _ _ (le_refl i) h, h.ne']

/-- A store of an aligned scalar makes its berth live and no other (Table 7.2). -/
theorem lgnPoke_blive (k : Core) {w : IWord} {a : Nat} (v b : Nat) (ha : a % w.size = 0) (hlt : a < 0x80000) :
    (k.lgnPoke a (leBytes w.size v)).blive.getLsbD b = (k.blive.getLsbD b || decide (b = a / 4096)) := by
  have hn : w.size ≠ 0 := by have := size_cases w; omega
  simp only [Core.lgnPoke, leBytes_length, if_neg hn, berth_aligned ha]
  simpa using getLsbD_setBit k.blive (j := b) (show a / 4096 < 128 by omega)

/-! ## Harbour accesses -/

/-- A correction changes no byte of memory and no core. -/
theorem eccFix_mem (s : State) (p : Nat) (l : List Nat) : (s.eccFix p l).mem = s.mem := by
  obtain ⟨_, _, _, _, _, h⟩ := eccFix_only s p l
  rw [h]

theorem eccFix_cores (s : State) (p : Nat) (l : List Nat) : (s.eccFix p l).cores = s.cores := by
  obtain ⟨_, _, _, _, _, h⟩ := eccFix_only s p l
  rw [h]

section
variable {s : State} {i a : Nat} (hi : i < 8) (ha : a < 0x800000)
include hi ha

theorem memKey_hbr : s.memKey (hbrAddr i a) = hbrAddr i a := by
  unfold State.memKey hbrAddr
  rw [if_neg (by omega)]

theorem memOn_hbr : s.memOn (hbrAddr i a) = s.islandOn i := by rw [State.memOn, phys_hbr s hi ha]

/-- A read of a harbour that is on, and whose words hold no uncorrectable one, gives the bytes and corrects what it meets (R346). -/
theorem readPhys_hbr (src n : Nat) (hon : s.islandOn i = true) (hg : s.firstBad (hbrAddr i a) n = none) :
    s.readPhys src (hbrAddr i a) n = (some (s.mem.readN (hbrAddr i a) n), s.eccCorrect (hbrAddr i a) n) := by
  have hmem : (s.eccCorrect (hbrAddr i a) n).mem = s.mem := eccFix_mem s _ _
  simp only [State.readPhys, memOn_hbr hi ha, hon, memBusy_hbr s hi ha, hg, State.bytes, memKey_hbr hi ha, hmem]
  rfl

/-- A store into a harbour that is on, whose merged words hold no uncorrectable one: corrections, then the bytes, then the lines of
the instruction caches (R98, R346). -/
theorem writePhys_hbr (src : Nat) (bs : List Byte) (hon : s.islandOn i = true)
    (hg : s.badUnit (hbrAddr i a) (s.partial (hbrAddr i a) bs.length) = none) :
    ∃ ue ce, s.writePhys src (hbrAddr i a) bs = (true,
      { ((s.eccFix (hbrAddr i a) (s.partial (hbrAddr i a) bs.length)).poke (hbrAddr i a) bs).dropLines i (hbrAddr i a) bs.length with
        hbrUe := ue, hbrCe := ce }) := by
  simp only [State.writePhys, memOn_hbr hi ha, hon, hg, phys_hbr s hi ha]
  exact ⟨_, _, rfl⟩

variable {w : IWord} (hal : a % w.size = 0)
include hal

theorem firstBad_hbr (hg : s.hbrUe.contains (hbrAddr i a / 8) = false) : s.firstBad (hbrAddr i a) w.size = none := by
  simp only [State.firstBad, State.badUnit, State.unitsOf, phys_hbr s hi ha, wordsOf_aligned (hbrAddr_aligned i hal)]
  exact find?_singleton_none hg

/-- An aligned store of eight bytes merges with no word; a shorter one merges with its own. -/
theorem badUnit_partial_hbr (hg : w.size = 8 ∨ s.hbrUe.contains (hbrAddr i a / 8) = false) :
    s.badUnit (hbrAddr i a) (s.partial (hbrAddr i a) w.size) = none := by
  have hp := hbrAddr_aligned i hal
  simp only [State.badUnit, State.partial, phys_hbr s hi ha, wordsOf_aligned hp]
  rcases hg with h8 | hg
  · rw [h8] at hp ⊢
    have : hbrAddr i a / 8 * 8 = hbrAddr i a := by omega
    simp [this]
  · rw [List.find?_eq_none]
    intro x hx
    rw [List.mem_singleton.mp (List.mem_of_mem_filter hx), hg]
    exact Bool.false_ne_true

end

/-- The lines of the instruction caches do not depend on the bytes. -/
theorem dropLines_withMem (s : State) (m : Store 8) (i p n : Nat) :
    ({ s with mem := m } : State).dropLines i p n = { s.dropLines i p n with mem := m } := by
  unfold State.dropLines
  simp only
  split <;> rfl

end Sys2Proof.Machine
end

section
/-! Scalar loads and stores (R130, R131): an equation per outcome of the two bodies, and the statement. -/
namespace Sys2Proof.Machine
open Sys2Proof.Claims

/-! ## The bodies, outcome by outcome -/

section
variable {s : State} {c : Nat} {w : IWord} {a : Nat} (ha : ((s.core c).regs.getS w.src1 + w.simm).toNat = a)
include ha

theorem ldBody_invalid (h : a % w.size ≠ 0 ∨ (w.lagoon = true ∧ 0x80000 ≤ a) ∨ (w.lagoon = false ∧ 0x800000 ≤ a)) :
    ldBody c w s = .fail s stInvalidProgram := by
  simp only [ldBody, ha]
  rcases h with h | ⟨hl, h⟩ | ⟨hl, h⟩
  · rw [if_pos h]
  · simp [hl, h]
  · simp [hl, h]

theorem stBody_invalid (h : a % w.size ≠ 0 ∨ (w.lagoon = true ∧ 0x80000 ≤ a) ∨ (w.lagoon = false ∧ 0x800000 ≤ a)) :
    stBody c w s = .fail s stInvalidProgram := by
  simp only [stBody, ha]
  rcases h with h | ⟨hl, h⟩ | ⟨hl, h⟩
  · rw [if_pos h]
  · simp [hl, h]
  · simp [hl, h]

variable (hal : a % w.size = 0)
include hal

section
variable (hl : w.lagoon = true) (hlt : a < 0x80000) (hp : (s.core c).parity.contains (a / 4096) = false)
include hl hlt hp

theorem ldBody_waits (hu : w.mod 48 = false) (ht : (s.core c).tags.getLsbD (a / 4096) = false) :
    ldBody c w s = .wait s (.tags false [a / 4096]) := by
  simp [ldBody, ha, hal, hl, hlt.not_ge, hu, lgnGrant_waits hp ht]

theorem stBody_waits (hu : w.mod 48 = false) (ht : (s.core c).tags.getLsbD (a / 4096) = true) :
    stBody c w s = .wait s (.tags true [a / 4096]) := by
  simp [stBody, ha, hal, hl, hlt.not_ge, hu, lgnGrant_waits hp ht]

theorem ldBody_lagoon (ht : w.mod 48 = true ∨ (s.core c).tags.getLsbD (a / 4096) = true)
    (hg : (s.core c).lgnUe.contains (a / 8) = false) :
    ldBody c w s = IRes.regs (s.lgnCorrect c [a / 8]) c
      (fun r => r.setS w.dst (BitVec.ofNat 64 (leNat ((s.core c).lgn.readN a w.size)))) := by
  obtain ⟨ce, hcore⟩ := lgnCorrect_core s c [a / 8]
  simp [ldBody, ha, hal, hl, hlt.not_ge, lgnGrant_granted (write := false) hp ht, lgnBad_good hg, hcore, Core.lgnBytes]

theorem stBody_lagoon (ht : w.mod 48 = true ∨ (s.core c).tags.getLsbD (a / 4096) = false)
    (hg : w.size = 8 ∨ (s.core c).lgnUe.contains (a / 8) = false) :
    let s1 := if w.size = 8 then s else s.lgnCorrect c [a / 8]
    stBody c w s = .done (s1.setCore c ((s1.core c).lgnPoke a (leBytes w.size ((s.core c).regs.getS w.src2).toNat))) := by
  have hgrant : s.lgnGrant c (w.mod 48) true [a / 16] = none := lgnGrant_granted hp ht
  by_cases h8 : w.size = 8
  · simp [stBody, ha, hl, hlt.not_ge, hgrant, h8 ▸ hal, h8]
  · simp [stBody, ha, hal, hl, hlt.not_ge, hgrant, h8, lgnMerge_good (hg.resolve_left h8)]

end

section
variable (hl : w.lagoon = false) (hlt : a < 0x800000) (hi : islandOf c < 8) (hon : s.islandOn (islandOf c) = true)
include hl hlt hi hon

theorem ldBody_harbour (hg : s.hbrUe.contains (hbrAddr (islandOf c) a / 8) = false) :
    ldBody c w s = IRes.regs (s.eccCorrect (hbrAddr (islandOf c) a) w.size) c
      (fun r => r.setS w.dst (BitVec.ofNat 64 (leNat (s.mem.readN (hbrAddr (islandOf c) a) w.size)))) := by
  simp [ldBody, ha, hal, hl, hlt.not_ge, readPhys_hbr hi hlt 0 w.size hon (firstBad_hbr hi hlt hal hg)]

theorem stBody_harbour (hg : w.size = 8 ∨ s.hbrUe.contains (hbrAddr (islandOf c) a / 8) = false) :
    let p := hbrAddr (islandOf c) a
    let bs := leBytes w.size ((s.core c).regs.getS w.src2).toNat
    ∃ ue ce, stBody c w s = .done { ((s.eccFix p (s.partial p w.size)).poke p bs).dropLines (islandOf c) p w.size with
      hbrUe := ue, hbrCe := ce } := by
  intro p bs
  have hlen : bs.length = w.size := leBytes_length _ _
  obtain ⟨ue, ce, hw⟩ := writePhys_hbr hi hlt 4 bs hon (by rw [hlen]; exact badUnit_partial_hbr hi hlt hal hg)
  rw [hlen] at hw
  exact ⟨ue, ce, by simp [stBody, ha, hal, hl, hlt.not_ge, hw, bs, p]⟩

end

end

/-! ## The statement -/

section
variable {c : CoreId} {w : IWord} {s0 : State}

theorem island_lt (c : CoreId) : islandOf c < 8 := by
  unfold islandOf
  omega

/-- A legal LD or ST is short. -/
theorem ldst_len {e : Enc} (h : ldstEnc e w = true) (he : e.long = .never) : w.len = 8 := by
  obtain ⟨hok, -⟩ := Bool.and_eq_true_iff.mp h
  obtain ⟨-, -, -, hshort⟩ := Enc.ok_fields hok
  exact len_of_not_long (hshort he)

theorem ld_runs (c : CoreId) : RunsRow (.ld c) 0x17 c (ldBody c) := ⟨rfl, fun _ => rfl⟩
theorem st_runs (c : CoreId) : RunsRow (.st c) 0x18 c (stBody c) := ⟨rfl, fun _ => rfl⟩

/-- ST into the core's lagoon. -/
theorem st_lagoon_ends (h : Issues 0x18 c w s0) :
    let s := s0.fetched c w
    let k := s.core c
    let a := (k.regs.getS w.src1 + w.simm).toNat
    let n := 2 ^ bitsOf w.w1 50 49
    let v := (k.regs.getS w.src2).toNat
    let at8 := { k.regs with pc := k.regs.pc + 8, resume := none, tile := [], stall := none }
    a % n = 0 → w.mod 51 = true → a < 0x80000 → k.parity.contains (a / 4096) = false →
      w.mod 48 = true ∨ k.tags.getLsbD (a / 4096) = false → n = 8 ∨ k.lgnUe.contains (a / 8) = false →
      Ends (.st c) s0 (fun t => ∃ k', t = (if n = 8 then s else s.lgnCorrect c [a / 8]).setCore c k' ∧
        k' = { k with regs := at8, lgn := k'.lgn, blive := k'.blive, lgnUe := k'.lgnUe, lgnCe := k'.lgnCe } ∧
        (∀ x, k'.lgn.read x = if a ≤ x ∧ x < a + n then BitVec.ofNat 8 (v / 256 ^ (x - a)) else k.lgn.read x) ∧
        ∀ b < 128, k'.blive.getLsbD b = (k.blive.getLsbD b || decide (b = a / 4096))) := by
  intro s k a n v at8 hal hl hlt hp ht hg
  have hlen := ldst_len (legal_of_issues h) rfl
  have hexec := (st_runs c).exec_done h (stBody_lagoon rfl hal hl hlt hp ht hg)
  rw [hlen] at hexec
  obtain ⟨ce, hcore⟩ : ∃ ce, (if n = 8 then s else s.lgnCorrect c [a / 8]).core c = { k with lgnCe := ce } := by
    split
    · exact ⟨k.lgnCe, rfl⟩
    · exact lgnCorrect_core s c [a / 8]
  let k1 : Core := { k with lgnCe := ce }
  refine ⟨_, hexec, { k1.lgnPoke a (leBytes n v) with regs := at8 }, ?_, rfl, fun x => read_writeN_leBytes k.lgn a n v x,
    fun b _ => lgnPoke_blive k1 v b hal hlt⟩
  rw [State.setPc]
  simp only [core_setCore_same, setCore_setCore_same]
  rw [show (if w.size = 8 then s else s.lgnCorrect c [a / 8]).core c = k1 from hcore]
  rfl

/-- ST into the island's harbour. -/
theorem st_harbour_ends (h : Issues 0x18 c w s0) :
    let s := s0.fetched c w
    let k := s.core c
    let a := (k.regs.getS w.src1 + w.simm).toNat
    let n := 2 ^ bitsOf w.w1 50 49
    let p := hbrAddr (islandOf c) a
    let v := (k.regs.getS w.src2).toNat
    a % n = 0 → w.mod 51 = false → a < 0x800000 → s.islandOn (islandOf c) = true → n = 8 ∨ s.hbrUe.contains (p / 8) = false →
      Ends (.st c) s0 (fun t => t = { ((s.eccFix p (s.partial p n)).dropLines (islandOf c) p n).setPc c (k.regs.pc + 8) with
          mem := t.mem, hbrUe := t.hbrUe, hbrCe := t.hbrCe } ∧
        ∀ x, t.mem.read x = if p ≤ x ∧ x < p + n then BitVec.ofNat 8 (v / 256 ^ (x - p)) else s.mem.read x) := by
  intro s k a n p v hal hl hlt hon hg
  have hlen := ldst_len (legal_of_issues h) rfl
  obtain ⟨ue, ce, hbody⟩ := stBody_harbour rfl hal hl hlt (island_lt c) hon hg
  have hexec := (st_runs c).exec_done h hbody
  rw [hlen, State.poke, memKey_hbr (island_lt c) hlt, dropLines_withMem] at hexec
  refine ⟨_, hexec, rfl, fun x => ?_⟩
  exact (read_writeN_leBytes (s.eccFix p (s.partial p n)).mem p n v x).trans (by rw [eccFix_mem])

end

/-- Settles O6: each outcome is that of an equation of `ldBody` or `stBody`, on an aligned scalar, which lies in one word and one
berth. -/
theorem loadsAndStoresMoveTheirBytes : Obligations.LoadsAndStoresMoveTheirBytes := by
  unfold Obligations.LoadsAndStoresMoveTheirBytes
  refine ⟨fun c w s0 => ?ld, fun c w s0 => ?st⟩
  case ld =>
    intro s h k a n p
    have hlen := ldst_len (legal_of_issues h) rfl
    refine ⟨fun hal hl hlt hp ht hg => ?lagoon, fun hal hl hlt hon hg => ?harbour, fun hal hl hlt hp hu ht => ?waits,
      fun hinv => (ld_runs c).exec_fail h (ldBody_invalid rfl hinv)⟩
    case lagoon =>
      obtain ⟨ce, hcore⟩ := lgnCorrect_core s c [a / 8]
      exact (ld_runs c).writesS h (ldBody_lagoon rfl hal hl hlt hp ht hg) (by rw [regsOf, hcore]) rfl
    case harbour =>
      have hcore : (s.eccCorrect p n).core c = s.core c := core_congr (eccFix_cores s _ _) c
      exact (ld_runs c).writesS h (ldBody_harbour rfl hal hl hlt (island_lt c) hon hg) (by rw [regsOf, hcore]) rfl
    case waits =>
      rw [(ld_runs c).exec_park h rfl (ldBody_waits rfl hal hl hlt hp hu ht), hlen]
  case st =>
    intro s h k a n p v at8
    have hlen := ldst_len (legal_of_issues h) rfl
    refine ⟨st_lagoon_ends h, st_harbour_ends h, fun hal hl hlt hp hu ht => ?_,
      fun hinv => (st_runs c).exec_fail h (stBody_invalid rfl hinv)⟩
    rw [(st_runs c).exec_park h rfl (stBody_waits rfl hal hl hlt hp hu ht), hlen]

end Sys2Proof.Machine
end

section
/-! What a write of physical memory and a record of the firmware log leave of the cores and of the log's pointer (R98, R504 to
R506). -/
namespace Sys2Proof.Machine
open Sys2Proof.Claims

/-! ## Cores but for their instruction caches -/

theorem butCache_rfl (k : Core) : ButCache k k := by cases k; rfl

theorem butCache_trans {k l m : Core} (h : ButCache k l) (h' : ButCache l m) : ButCache k m := by
  rw [ButCache, h', h]

theorem sameCores_of_eq {s t : State} (h : t.cores = s.cores) : SameCores s t := fun c => by
  rw [core_congr h]

theorem sameCores_trans {s t u : State} (h : SameCores s t) (h' : SameCores t u) : SameCores s u :=
  fun c => butCache_trans (h c) (h' c)

theorem Reports.sameCores {s t : State} (h : Reports s t) : SameCores s t := sameCores_of_eq (by rw [h]; rfl)

/-- An entry of a table whose values are rewritten under their keys: what relates each value to its rewritten one relates the
entries. -/
theorem tabGet_map_rel {α : Type} {R : α → α → Prop} (hrfl : ∀ x, R x x) {g : Nat × α → Nat × α}
    (hg : ∀ x, (g x).1 = x.1 ∧ R x.2 (g x).2) (d : α) (t : Tab α) (k : Nat) : R (tabGet d t k) (tabGet d (t.map g) k) := by
  induction t with
  | nil => exact hrfl d
  | cons x t ih =>
    obtain ⟨hkey, hval⟩ := hg x
    simp only [tabGet, List.map_cons, tabFind, hkey] at ih ⊢
    split
    · exact hval
    · exact ih

/-- A write of a harbour takes lines out of instruction caches and changes nothing else of a core (R98). -/
theorem dropLines_sameCores (s : State) (i p n : Nat) : SameCores s (s.dropLines i p n) := by
  unfold State.dropLines
  simp only
  split
  · exact sameCores_of_eq rfl
  · refine fun c => tabGet_map_rel butCache_rfl (fun x => ?_) Core.init s.cores c
    split
    · exact ⟨rfl, rfl⟩
    · exact ⟨rfl, butCache_rfl _⟩

theorem dropLines_only (s : State) (i p n : Nat) : ∃ cs, s.dropLines i p n = { s with cores := cs } := by
  unfold State.dropLines
  simp only
  split
  · exact ⟨s.cores, rfl⟩
  · exact ⟨_, rfl⟩

/-- Whatever it meets, a write of physical memory changes nothing else of a core. -/
theorem writePhys_sameCores (s : State) (src p : Nat) (bs : List Byte) : SameCores s (s.writePhys src p bs).2 := by
  have hpoke (l : List Nat) : SameCores s ((s.eccFix p l).poke p bs) := sameCores_of_eq (eccFix_cores s p l)
  unfold State.writePhys
  simp only
  split
  · exact sameCores_of_eq rfl
  · split
    · exact ((Reports.rfl s).eccReport src p _).sameCores
    · generalize s.phys p = b
      cases b with
      | lpddr => exact hpoke _
      | harbour i off => exact sameCores_trans (hpoke _) (dropLines_sameCores _ i p bs.length)
      | host => exact hpoke _
      | unmapped => exact hpoke _

/-! ## The firmware log -/

theorem logPut_sameCores (s : State) (n : Nat) (body : List Byte) : SameCores s (s.logPut n body) := by
  have hput : SameCores s (s.putWords (0xC80000 + 32 * (n % 2048)) (leBytes 4 n ++ body)) :=
    (putWords_only _ s _).reports.sameCores
  unfold State.logPut
  simp only
  split
  · exact sameCores_trans hput (writePhys_sameCores _ _ _ _)
  · exact hput

/-- An interrupt writes no register but the pending bits of its function. -/
theorem raise_reg (s : State) (fn v : Nat) {o : Nat} (h : o ≠ Reg.MSIX_PBA (v / 32) + 0x4000000 * fn) :
    (s.raise fn v).reg o = s.reg o := by
  unfold State.raise
  split
  · rfl
  · split
    · exact reg_setFlag_ne s _ _ h
    · rfl

/-- A log record changes nothing of a core but its instruction cache (the main ring may lie in a harbour, R504), and takes the
next sequence number (R505). -/
theorem fwLogRaw_effect (s : State) (source inst sev code : Nat) (body : List Byte) :
    let t := s.fwLogRaw source inst sev code body
    SameCores s t ∧ t.fld Reg.FWM_LOG_PTR 63 32 = (s.fld Reg.FWM_LOG_PTR 63 32 + 1) % 2 ^ 32 := by
  unfold State.fwLogRaw
  simp only
  generalize hput : List.foldl _ _ _ = u
  have hcores : SameCores s u := hput ▸ foldl_induct (P := fun t => SameCores s t) _
    (fun t x h => sameCores_trans h (logPut_sameCores t _ _)) _ (sameCores_of_eq rfl)
  have hptr := fld_setFld_same u Reg.FWM_LOG_PTR (hi := 63) (lo := 32) (s.fld Reg.FWM_LOG_PTR 63 32 + 1) (by omega) (by omega)
  split
  · refine ⟨sameCores_trans hcores ((Reports.rfl _).setFld _ _ _ _ |>.raise _ _).sameCores, ?_⟩
    rw [State.fld, raise_reg _ 0 3 (by decide)]
    exact hptr
  · exact ⟨sameCores_trans hcores ((Reports.rfl _).setFld _ _ _ _).sameCores, hptr⟩

end Sys2Proof.Machine
end

section
/-! The registers of the sync objects under the deadline watch, and what a signal leaves (R176, R525, R526). -/
namespace Sys2Proof.Machine
open Sys2Proof.Claims

/-! ## What the deadline watch touches -/

/-- Nothing differs but what a report touches and what the deadline watch has open, and no register of a sync object does (R360). -/
structure Watched (s t : State) : Prop where
  frame : ∃ x d n, t = { s.withReport x with dl := d, dlNow := n }
  sync : ∀ o, 0x200000 ≤ o → o < 0x240000 → t.reg o = s.reg o

theorem Watched.rfl (s : State) : Watched s s :=
  ⟨⟨s.reportPart, s.dl, s.dlNow, by cases s; exact Eq.refl _⟩, fun _ _ _ => Eq.refl _⟩

section
variable {s t : State} (h : Watched s t)
include h

theorem Watched.trans {u : State} (h' : Watched t u) : Watched s u := by
  obtain ⟨x, d, n, ht⟩ := h.frame
  obtain ⟨y, e, m, hu⟩ := h'.frame
  exact ⟨⟨y, e, m, by rw [hu, ht]; exact Eq.refl _⟩, fun o h0 h1 => (h'.sync o h0 h1).trans (h.sync o h0 h1)⟩

/-- A report that writes no register of a sync object. -/
theorem Watched.report {u : State} (hu : Reports t u) (hr : ∀ o, 0x200000 ≤ o → o < 0x240000 → u.reg o = t.reg o) :
    Watched s u :=
  h.trans ⟨⟨u.reportPart, t.dl, t.dlNow, hu⟩, hr⟩

theorem Watched.setReg {a : Nat} (v : DWord) (ha : a < 0x200000 ∨ 0x240000 ≤ a) : Watched s (t.setReg a v) :=
  h.report (setReg_only t a v).reports (fun o _ _ => reg_setReg_ne t v (by omega))

theorem Watched.setFld {a : Nat} (hi lo v : Nat) (ha : a < 0x200000 ∨ 0x240000 ≤ a) : Watched s (t.setFld a hi lo v) :=
  h.report (setFld_only t a hi lo v).reports (fun o _ _ => reg_setFld_ne t hi lo v (by omega))

theorem Watched.setFlag {a : Nat} (i : Nat) (b : Bool) (ha : a < 0x200000 ∨ 0x240000 ≤ a) : Watched s (t.setFlag a i b) :=
  h.setFld _ _ _ ha

theorem Watched.bumpMod {a : Nat} (hi lo : Nat) (ha : a < 0x200000 ∨ 0x240000 ≤ a) : Watched s (t.bumpMod a hi lo) :=
  h.setFld _ _ _ ha

theorem Watched.bumpSat {a : Nat} (hi lo : Nat) (ha : a < 0x200000 ∨ 0x240000 ≤ a) : Watched s (t.bumpSat a hi lo) :=
  h.report (bumpSat_only t a hi lo).reports (fun o _ _ => reg_setReg_ne (t.note a hi lo _) _ (by omega))

end

theorem putWords_watched : ∀ (l : List Byte) {s t : State} (_ : Watched s t) {a : Nat} (_ : 0x240000 ≤ a),
    Watched s (t.putWords a l)
  | [], _, _, h, _, _ => h
  | [_], _, _, h, _, _ => h
  | [_, _], _, _, h, _, _ => h
  | [_, _, _], _, _, h, _, _ => h
  | _ :: _ :: _ :: _ :: l, _, _, h, _, ha => putWords_watched l (h.setReg _ (.inr ha)) (by omega)

section
variable {s t : State} (h : Watched s t)
include h

theorem Watched.raise {fn v : Nat} (hv : fn = 0 ∧ v < 32) : Watched s (t.raise fn v) := by
  refine h.report ((Reports.rfl t).raise fn v) (fun o h0 _ => raise_reg t fn v ?_)
  unfold Reg.MSIX_PBA
  omega

theorem Watched.pinEvents (l : List EvtNow) : Watched s (t.pinEvents l) := by
  refine h.trans ?_
  have hrfl := Watched.rfl t
  have hpins : Reg.LHS_PINS < 0x200000 ∨ 0x240000 ≤ Reg.LHS_PINS := by decide
  unfold State.pinEvents
  simp only
  split
  · exact hrfl
  · split
    · exact hrfl.report (Eq.refl _) (fun _ _ _ => Eq.refl _)
    · refine Watched.setFld ?_ _ _ _ hpins
      split
      · exact hrfl.setFld _ _ _ hpins
      · exact hrfl

/-- An event record writes the log of events, the pins and a pending bit (R513, R515). -/
theorem Watched.event (code kind unit : Nat) (args : List Byte) : Watched s (t.event code kind unit args) := by
  unfold State.event
  simp only
  refine Watched.raise (Watched.setFld ?_ _ _ _ (by decide)) (by decide)
  refine foldl_induct (P := fun u => Watched s u) _ (fun u x hu => putWords_watched _ hu (by omega)) _ (Watched.pinEvents ?_ _)
  split
  · exact h.report (Eq.refl _) (fun _ _ _ => Eq.refl _)
  · exact h.report (Eq.refl _) (fun _ _ _ => Eq.refl _)

/-! ## The deadline watch (R525, R526) -/

omit h in
theorem dlStat_above (n : Nat) : Reg.LHS_DL_STAT n < 0x200000 ∨ 0x240000 ≤ Reg.LHS_DL_STAT n := by
  unfold Reg.LHS_DL_STAT
  omega

theorem Watched.entries (d : Tab (List DlInst)) (n : List Nat) : Watched s { t with dl := d, dlNow := n } :=
  h.trans ⟨⟨t.reportPart, d, n, Eq.refl _⟩, fun _ _ _ => Eq.refl _⟩

theorem Watched.setDl (n : Nat) (l : List DlInst) : Watched s (t.setDl n l) :=
  (h.entries (tabSet [] t.dl n l) t.dlNow).setFld _ _ _ (dlStat_above n)

theorem Watched.dlOpen (n sec ns : Nat) : Watched s (t.dlOpen n sec ns) := by
  have hthr := h.setFld (a := Reg.LHS_DL_THR n) 47 0 (t.fld (Reg.LHS_DL_THR n) 47 0 + t.fld (Reg.LHS_DL_THR n) 63 48)
    (by unfold Reg.LHS_DL_THR; omega)
  unfold State.dlOpen
  simp only
  split
  · exact hthr.setDl _ _
  · exact hthr.setFlag _ _ (dlStat_above n)

theorem Watched.dlMet (n : Nat) (d : DlInst) : Watched s (t.dlMet n d) := by
  have hmet := h.bumpMod 47 32 (dlStat_above n)
  unfold State.dlMet
  simp only
  split
  · exact hmet.setFld _ _ _ (dlStat_above n)
  · exact hmet

theorem Watched.dlLate (n : Nat) : Watched s (t.dlLate n) := by
  unfold State.dlLate
  simp only
  split
  · refine Watched.setDl (foldl_induct (P := fun u => Watched s u) _ (fun u d hu => ?_) _ h) _ _
    exact ((hu.bumpSat 63 48 (dlStat_above n)).bumpSat 6 3 (dlStat_above n)).event _ _ _ _
  · exact h

theorem Watched.dlJudge (n : Nat) : Watched s (t.dlJudge n) := by
  unfold State.dlJudge
  simp only
  split
  · exact Watched.setDl (foldl_induct (P := fun u => Watched s u) _ (fun u d hu => hu.dlMet n d) _ (h.dlLate n)) _ _
  · exact h

theorem Watched.dlWatch (i old : Nat) : Watched s (t.dlWatch i old) := by
  unfold State.dlWatch
  simp only
  refine foldl_induct (P := fun u => Watched s u) _ (fun u n hu => ?judge) _
    (foldl_induct (P := fun u => Watched s u) _ (fun u n hu => ?opens) _ h)
  case judge =>
    split
    · exact hu.dlJudge n
    · exact hu
  case opens =>
    split
    · exact (hu.entries u.dl (n :: u.dlNow)).dlOpen _ _ _
    · exact hu

end

/-! ## Signals (R176) -/

/-- What has reached an object in a shore cycle with one more signal: a further addition, or a further maximum. -/
def SynCyc.signalled (x : SynCyc) (max : Bool) (v : DWord) : SynCyc :=
  if max then { x with top := if x.top.toNat < v.toNat then v else x.top } else { x with add := x.add + v }

/-- A signal writes the object's counter and what has reached it in the cycle, may wake the device, and the deadline watch
follows. -/
theorem signal_watched (s : State) (i : Nat) (max : Bool) (v : DWord) :
    ∃ wk, Watched (({ s with wakeSig := wk, synEvt := tabPut s.synEvt i ((s.synNow i).signalled max v) } : State).setReg
      (Reg.SYN_CNT i) ((s.synNow i).signalled max v).value) (s.signal i max v) :=
  ⟨_, (Watched.rfl _).dlWatch i _⟩

theorem synCnt_range {i : Nat} (h : i < 16384) : 0x200000 ≤ Reg.SYN_CNT i ∧ Reg.SYN_CNT i < 0x240000 := by
  unfold Reg.SYN_CNT
  omega

/-- The counter of a signalled object is that of its cycle. -/
theorem signal_cnt (s : State) {i : Nat} (hi : i < 16384) (max : Bool) (v : DWord) :
    (s.signal i max v).reg (Reg.SYN_CNT i) = ((s.synNow i).signalled max v).value := by
  obtain ⟨wk, hw⟩ := signal_watched s i max v
  obtain ⟨h0, h1⟩ := synCnt_range hi
  rw [hw.sync _ h0 h1, reg_setReg_same]

/-- Every other counter is as it was. -/
theorem signal_cnt_ne (s : State) {i j : Nat} (hj : j < 16384) (h : j ≠ i) (max : Bool) (v : DWord) :
    (s.signal i max v).reg (Reg.SYN_CNT j) = s.reg (Reg.SYN_CNT j) := by
  obtain ⟨wk, hw⟩ := signal_watched s i max v
  obtain ⟨h0, h1⟩ := synCnt_range hj
  rw [hw.sync _ h0 h1, reg_setReg_ne]
  · rfl
  · unfold Reg.SYN_CNT
    omega

/-- A signal touches no core, byte of memory, ferry or queue. -/
theorem signal_frame (s : State) (i : Nat) (max : Bool) (v : DWord) :
    let t := s.signal i max v
    t.cores = s.cores ∧ t.mem = s.mem ∧ t.ferries = s.ferries ∧ t.queues = s.queues := by
  obtain ⟨wk, hw⟩ := signal_watched s i max v
  obtain ⟨x, d, n, ht⟩ := hw.frame
  simp only [ht]
  exact ⟨rfl, rfl, rfl, rfl⟩

/-- The greater of two counter values (R176), as the statement writes it. -/
abbrev higher (a b : DWord) : DWord := if a.toNat < b.toNat then b else a

/-- The first signal of a cycle adds to the counter or raises it. -/
theorem synNow_signalled_first {s : State} {i : Nat} (h : tabFind s.synEvt i = none) (max : Bool) (v : DWord) :
    ((s.synNow i).signalled max v).value = if max then higher (s.reg (Reg.SYN_CNT i)) v else s.reg (Reg.SYN_CNT i) + v := by
  have hnow : s.synNow i = ⟨s.reg (Reg.SYN_CNT i), s.reg (Reg.SYN_CNT i), 0, 0, none⟩ := by simp [State.synNow, tabGet, h]
  rw [hnow]
  cases max with
  | false => simp [SynCyc.signalled, SynCyc.value]
  | true =>
    have htop : higher 0 v = v := by
      by_cases hv : v = 0
      · simp [hv]
      · exact if_pos (Nat.pos_of_ne_zero fun h0 => hv (BitVec.eq_of_toNat_eq h0))
    simp only [SynCyc.signalled, SynCyc.value, if_true, htop, add_zero]

/-- A later one joins the additions or the maxima of its cycle. -/
theorem synNow_signalled_later {s : State} {i : Nat} {x : SynCyc} (h : tabFind s.synEvt i = some x) (max : Bool) (v : DWord) :
    ((s.synNow i).signalled max v).value =
      if max then higher (x.base + x.add) (higher x.top v) else higher (x.base + (x.add + v)) x.top := by
  have hnow : s.synNow i = x := by simp [State.synNow, tabGet, h]
  rw [hnow]
  cases max <;> rfl

end Sys2Proof.Machine
end

section
/-! HAADD, SIGNAL, WAIT, LAUNCH_AT and what releases their waits (R163, R174 to R177, R195): an equation per outcome of each body,
and the statement. -/
namespace Sys2Proof.Machine
open Sys2Proof.Claims

/-! ## Harbour bytes in one sound word -/

/-- A byte range inside one 64-bit word touches that word alone. -/
theorem wordsOf_one {p n : Nat} (h0 : 0 < n) (h : p % 8 + n ≤ 8) : wordsOf p n = [p / 8] := by
  have h1 : (p + n - 1) / 8 - p / 8 + 1 = 1 := by omega
  rw [wordsOf, if_neg h0.ne', h1]
  simp

/-- Words that are not correctable need no correction. -/
theorem eccFix_harbour_sound {s : State} {p i off : Nat} {l : List Nat} (hp : s.phys p = .harbour i off)
    (hl : ∀ x ∈ l, s.hbrCe.contains x = false) : s.eccFix p l = s := by
  have hnone : l.filter (fun x => s.hbrCe.contains x) = [] :=
    List.filter_eq_nil_iff.mpr (fun x hx => by rw [hl x hx]; exact Bool.false_ne_true)
  simp only [State.eccFix, hp, hnone, List.foldl_nil]

section
variable {s : State} {i a n : Nat} (hi : i < 8) (ha : a < 0x800000) (h0 : 0 < n) (hn : hbrAddr i a % 8 + n ≤ 8)
  (hon : s.islandOn i = true) (hue : s.hbrUe.contains (hbrAddr i a / 8) = false)
  (hce : s.hbrCe.contains (hbrAddr i a / 8) = false)
include hi ha h0 hn hon hue hce

/-- A read inside a sound harbour word gives the bytes and changes nothing. -/
theorem readPhys_sound (src : Nat) : s.readPhys src (hbrAddr i a) n = (some (s.mem.readN (hbrAddr i a) n), s) := by
  have hg : s.firstBad (hbrAddr i a) n = none := by
    simp only [State.firstBad, State.badUnit, State.unitsOf, phys_hbr s hi ha, wordsOf_one h0 hn]
    exact find?_singleton_none hue
  have hfix : s.eccCorrect (hbrAddr i a) n = s := by
    refine eccFix_harbour_sound (phys_hbr s hi ha) (fun x hx => ?_)
    simp only [State.unitsOf, phys_hbr s hi ha, wordsOf_one h0 hn, List.mem_singleton] at hx
    rw [hx, hce]
  rw [readPhys_hbr hi ha src n hon hg, hfix]

/-- A write inside a sound harbour word puts the bytes and takes the lines out of the instruction caches. -/
theorem writePhys_sound (src : Nat) {bs : List Byte} (hbs : bs.length = n) :
    ∃ t, s.writePhys src (hbrAddr i a) bs = (true, t) ∧ t.mem = s.mem.writeN (hbrAddr i a) bs ∧
      t.cores = (s.dropLines i (hbrAddr i a) n).cores ∧ t.ferries = s.ferries ∧ t.regs = s.regs := by
  have hpart : ∀ x ∈ s.partial (hbrAddr i a) n, x = hbrAddr i a / 8 := fun x hx => by
    simp only [State.partial, phys_hbr s hi ha, wordsOf_one h0 hn] at hx
    exact List.mem_singleton.mp (List.mem_of_mem_filter hx)
  have hgood : s.badUnit (hbrAddr i a) (s.partial (hbrAddr i a) n) = none := by
    simp only [State.badUnit, phys_hbr s hi ha, List.find?_eq_none]
    exact fun x hx => by rw [hpart x hx, hue]; exact Bool.false_ne_true
  have hfix := eccFix_harbour_sound (phys_hbr s hi ha) (fun x hx => by rw [hpart x hx, hce])
  subst hbs
  obtain ⟨ue, ce, hw⟩ := writePhys_hbr hi ha src bs hon hgood
  obtain ⟨cs, hdrop⟩ := dropLines_only s i (hbrAddr i a) bs.length
  rw [hfix, State.poke, memKey_hbr hi ha, dropLines_withMem] at hw
  exact ⟨_, hw, rfl, rfl, by rw [hdrop], by rw [hdrop]⟩

end

/-! ## HAADD (R174) -/

/-- A non-deterministic event writes the context's NDCOUNT and its command alone (R163). -/
theorem ndRise_only (s : State) (ctx q : Nat) : ∃ l,
    s.ndRise ctx q = { s.setReg (Reg.SCH_CTX_NDCOUNT ctx) (s.reg (Reg.SCH_CTX_NDCOUNT ctx) + 1) with queues := l } := by
  unfold State.ndRise
  simp only
  split
  · exact ⟨s.queues, rfl⟩
  · exact ⟨_, rfl⟩

/-- With F, a register rises by 1 where it is the context's NDCOUNT; nothing else but the queues differs. -/
theorem ndRise_if_effect (s : State) (f : Bool) (ctx q : Nat) :
    let t := if f then s.ndRise ctx q else s
    t.cores = s.cores ∧ t.mem = s.mem ∧ t.ferries = s.ferries ∧
      ∀ o, t.reg o = if f = true ∧ o = Reg.SCH_CTX_NDCOUNT ctx then s.reg o + 1 else s.reg o := by
  cases f with
  | false => simp
  | true =>
    obtain ⟨l, h⟩ := ndRise_only s ctx q
    simp only [h, if_true, true_and]
    refine ⟨rfl, rfl, rfl, fun o => ?_⟩
    split
    case isTrue ho => exact ho ▸ reg_setReg_same s _ _
    case isFalse ho => exact reg_setReg_ne s _ ho

/-- The bytes that HAADD adds to, and their new value (R174). -/
abbrev haaddSize (w : IWord) : Nat := if w.mod 49 then 4 else 8
abbrev haaddSum (w : IWord) (old : Nat) (b : DWord) : Nat :=
  if w.mod 49 then (addR (BitVec.ofNat 32 old) (BitVec.ofNat 32 b.toNat)).toNat else (old + b.toNat) % 2 ^ 64

theorem haaddSize_cases (w : IWord) : haaddSize w = 4 ∨ haaddSize w = 8 := by
  unfold haaddSize
  split
  · exact .inl rfl
  · exact .inr rfl

theorem add_toNat_ofNat (n : Nat) (b : DWord) : (BitVec.ofNat 64 n + b).toNat = (n + b.toNat) % 2 ^ 64 := by
  rw [BitVec.toNat_add, BitVec.toNat_ofNat, Nat.mod_add_mod]

section
variable {s : State} {c : Nat} {w : IWord} {a : Nat} (haddr : ((s.core c).regs.getS w.src1 + w.simm).toNat = a)
include haddr

theorem haaddBody_invalid (h : a % haaddSize w ≠ 0 ∨ 0x800000 ≤ a) : haaddBody c w s = .fail s stInvalidProgram := by
  simp only [haaddBody, haddr]
  exact if_pos h

/-- HAADD into a sound word of a powered harbour: the sum's bytes, the lines that the write takes out of the instruction caches,
and NDCOUNT. -/
theorem haaddBody_adds (hi : islandOf c < 8) (hal : a % haaddSize w = 0) (ha : a < 0x800000)
    (hon : s.islandOn (islandOf c) = true) (hue : s.hbrUe.contains (hbrAddr (islandOf c) a / 8) = false)
    (hce : s.hbrCe.contains (hbrAddr (islandOf c) a / 8) = false) :
    let p := hbrAddr (islandOf c) a
    let n := haaddSize w
    let v := haaddSum w (leNat (s.mem.readN p n)) ((s.core c).regs.getS w.src2)
    ∃ t, haaddBody c w s = .done t ∧ t.mem = s.mem.writeN p (leBytes n v) ∧ t.cores = (s.dropLines (islandOf c) p n).cores ∧
      t.ferries = s.ferries ∧
      ∀ o, t.reg o = if w.mod 49 = true ∧ o = Reg.SCH_CTX_NDCOUNT (s.core c).sl.ctx then s.reg o + 1 else s.reg o := by
  intro p n v
  obtain ⟨hpos, hfits⟩ : 0 < n ∧ p % 8 + n ≤ 8 := by
    have : p = 0x40000000000 + 0x800000 * islandOf c + a := rfl
    rcases haaddSize_cases w with h | h <;> rw [h] at hal <;> omega
  obtain ⟨t, hw, hmem, hcores, hferries, hregs⟩ := writePhys_sound hi ha hpos hfits hon hue hce 4 (leBytes_length n v)
  obtain ⟨hcores', hmem', hferries', hreg⟩ := ndRise_if_effect t (w.mod 49) (t.core c).sl.ctx (t.core c).sl.q
  refine ⟨if w.mod 49 then t.ndRise (t.core c).sl.ctx (t.core c).sl.q else t, ?_, hmem'.trans hmem, hcores'.trans hcores,
    hferries'.trans hferries, fun o => (hreg o).trans ?_⟩
  · simp only [haaddBody, haddr]
    rw [if_neg (not_or.mpr ⟨not_not.mpr hal, ha.not_ge⟩), readPhys_sound hi ha hpos hfits hon hue hce 0]
    simp only [add_toNat_ofNat]
    rw [hw]
  · have hslice : (t.core c).sl = (s.core c).sl := by
      rw [core_congr hcores, dropLines_sameCores s (islandOf c) p n c]
      rfl
    rw [hslice, reg_congr hregs]

end

/-! ## SIGNAL and WAIT (R175 to R177) -/

section
variable {s : State} {c : Nat} {w : IWord} {n : Nat} (hn : ((s.core c).regs.getS w.src1).toNat = n)
include hn

theorem syncBad_outside (h : 16384 ≤ n) : s.syncBad c ((s.core c).regs.getS w.src1) = some stInvalidProgram := by
  rw [State.syncBad, hn, if_pos h]

theorem syncBad_ungranted (h : n < 16384) (hg : s.granted n (s.core c).sl.part = false) :
    s.syncBad c ((s.core c).regs.getS w.src1) = some stAccess := by
  rw [State.syncBad, hn, if_neg h.not_ge, hg]
  rfl

theorem syncBad_granted (h : n < 16384) (hg : s.granted n (s.core c).sl.part = true) :
    s.syncBad c ((s.core c).regs.getS w.src1) = none := by
  rw [State.syncBad, hn, if_neg h.not_ge, hg]
  rfl

omit hn in
theorem signalBody_bad {st : Nat} (h : s.syncBad c ((s.core c).regs.getS w.src1) = some st) : signalBody c w s = .fail s st := by
  simp only [signalBody, h]

omit hn in
theorem waitBody_bad {st : Nat} (h : s.syncBad c ((s.core c).regs.getS w.src1) = some st) : waitBody c w s = .fail s st := by
  simp only [waitBody, h]

variable (hgood : s.syncBad c ((s.core c).regs.getS w.src1) = none)
include hgood

theorem signalBody_signals : signalBody c w s = .done (s.signal n (w.mod 49) ((s.core c).regs.getS w.src2)) := by
  simp only [signalBody, hgood, hn]

theorem waitBody_passes (h : ((s.core c).regs.getS w.src2).toNat ≤ (s.reg (Reg.SYN_CNT n)).toNat) : waitBody c w s = .done s := by
  simp only [waitBody, hgood, hn, if_pos h]

theorem waitBody_holds (h : (s.reg (Reg.SYN_CNT n)).toNat < ((s.core c).regs.getS w.src2).toNat) :
    waitBody c w s = .wait s (.sync n ((s.core c).regs.getS w.src2).toNat) := by
  simp only [waitBody, hgood, hn, if_neg h.not_ge]

end

/-! ## LAUNCH_AT (R195) -/

theorem launchLate_effect (s : State) (c late : Nat) :
    SameCores s (s.launchLate c late) ∧
      (s.launchLate c late).fld Reg.FWM_LOG_PTR 63 32 = (s.fld Reg.FWM_LOG_PTR 63 32 + 1) % 2 ^ 32 :=
  fwLogRaw_effect s _ _ _ _ _

section
variable {s : State} {c : Nat} {w : IWord} {sec ns : Nat}

theorem launchBody_invalid (h : 1000000000 ≤ ((s.core c).regs.getS w.src2).toNat) :
    launchBody c w s = .fail s stInvalidProgram := by
  simp only [launchBody, if_pos h]

variable (hsec : ((s.core c).regs.getS w.src1).toNat = sec) (hns : ((s.core c).regs.getS w.src2).toNat = ns)
  (hvalid : ns < 1000000000)
include hsec hns hvalid

theorem launchBody_late (h : 1000000000 * sec + ns < s.nowNs) :
    launchBody c w s = .done (s.launchLate c (s.nowNs - (1000000000 * sec + ns))) := by
  simp only [launchBody, hsec, hns, if_neg hvalid.not_ge, if_pos h]

theorem launchBody_now (h : 1000000000 * sec + ns = s.nowNs) : launchBody c w s = .done s := by
  simp only [launchBody, hsec, hns, if_neg hvalid.not_ge, if_neg h.not_lt, if_pos h]

theorem launchBody_holds (h : s.nowNs < 1000000000 * sec + ns) : launchBody c w s = .wait s (.launch sec ns) := by
  simp only [launchBody, hsec, hns, if_neg hvalid.not_ge, if_neg h.not_gt, if_neg h.ne']

end

/-! ## The releases (R177, R195) -/

section
variable {s : State} {c : CoreId}

theorem syncWaitRelease_due {j x : Nat} (hmode : (s.core c).mode = .running) (hstall : (s.core c).regs.stall = some (.sync j x))
    (h : x ≤ (s.reg (Reg.SYN_CNT j)).toNat) : exec (.syncWaitRelease c) s = .next (s.setPc c ((s.core c).regs.pc + 8)) := by
  show execSyncWaitRelease c s = _
  simp only [execSyncWaitRelease, hstall, if_pos (And.intro hmode h)]

theorem syncWaitRelease_early {j x : Nat} (hstall : (s.core c).regs.stall = some (.sync j x))
    (h : (s.reg (Reg.SYN_CNT j)).toNat < x) : exec (.syncWaitRelease c) s = .next s := by
  show execSyncWaitRelease c s = _
  simp only [execSyncWaitRelease, hstall, if_neg (fun hx => h.not_ge (And.right hx))]

theorem release_not_held (h : (s.core c).regs.stall = none) :
    exec (.syncWaitRelease c) s = .next s ∧ exec (.launchRelease c) s = .next s := by
  show execSyncWaitRelease c s = _ ∧ execLaunchRelease c s = _
  simp only [execSyncWaitRelease, execLaunchRelease, h, and_self]

variable {sec ns : Nat} (hstall : (s.core c).regs.stall = some (.launch sec ns))
include hstall

theorem launchRelease_early (h : s.nowNs < 1000000000 * sec + ns) : exec (.launchRelease c) s = .next s := by
  show execLaunchRelease c s = _
  simp only [execLaunchRelease, hstall, if_pos (Or.inr h)]

/-- A held LAUNCH_AT whose time has come goes on, after a record of a late release where a step of the timebase passed it. -/
theorem launchRelease_due (hmode : (s.core c).mode = .running) (hdue : 1000000000 * sec + ns ≤ s.nowNs) :
    ∃ u, SameCores s u ∧ (s.tbJump = none → u = s) ∧
      exec (.launchRelease c) s = .next (u.setPc c ((s.core c).regs.pc + 8)) := by
  have hnot : ¬ ((s.core c).mode ≠ .running ∨ s.nowNs < 1000000000 * sec + ns) := by simp [hmode, hdue]
  show ∃ u, _ ∧ _ ∧ execLaunchRelease c s = _
  simp only [execLaunchRelease, hstall, if_neg hnot]
  cases s.tbJump with
  | none => exact ⟨s, sameCores_of_eq rfl, fun _ => rfl, rfl⟩
  | some before =>
    by_cases hlate : (decide (before < 1000000000 * sec + ns) && decide (1000000000 * sec + ns < s.nowNs)) = true
    · exact ⟨s.launchLate c _, (launchLate_effect s c _).1, nofun, by rw [if_pos hlate]⟩
    · exact ⟨s, sameCores_of_eq rfl, nofun, by rw [if_neg hlate]⟩

end

/-! ## Going on to the next instruction -/

theorem fld_congr {s t : State} (h : t.regs = s.regs) (o hi lo : Nat) : t.fld o hi lo = s.fld o hi lo := by
  rw [State.fld, reg_congr h]
  rfl

theorem setPc_regs (s : State) (c pc : Nat) : (s.setPc c pc).regs = s.regs := rfl

section
variable {s t : State} (c : CoreId)

/-- Where the cores are as they were, going on to the next instruction writes the issuing core's registers alone. -/
theorem setPc_cores (h : ∀ d : Nat, t.core d = s.core d) :
    let u := t.setPc c ((s.core c).regs.pc + 8)
    u.core c = { s.core c with regs := at8 (s.core c).regs } ∧ ∀ d : CoreId, d ≠ c → u.core d = s.core d := by
  refine ⟨?_, fun d hd => (core_setCore_ne t _ (Fin.val_ne_of_ne hd)).trans (h d)⟩
  rw [setPc_eq, core_setRegs_same, h c]

/-- The same where instruction caches have lost lines. -/
theorem setPc_sameCores (h : SameCores s t) :
    let u := t.setPc c ((s.core c).regs.pc + 8)
    ButCache { s.core c with regs := at8 (s.core c).regs } (u.core c) ∧
      ∀ d : CoreId, d ≠ c → ButCache (s.core d) (u.core d) := by
  obtain ⟨hself, hother⟩ := setPc_cores (s := t) c (fun _ => rfl)
  have hregs : (t.core c).regs = (s.core c).regs := by rw [h c]
  rw [hregs] at hself hother
  refine ⟨?_, fun d hd => hother d hd ▸ h d⟩
  rw [hself, h c]

end

/-! ## The statement -/

theorem Enc.ok_len {e : Enc} {w : IWord} (h : e.ok w = true) (he : e.long = .never) : w.len = 8 := by
  obtain ⟨-, -, -, hshort⟩ := Enc.ok_fields h
  exact len_of_not_long (hshort he)

section
variable {i : Instr} {o : Nat} {c : CoreId} {w : IWord} {s0 : State} {body : IWord → State → IRes}

/-- An instruction that holds its slice stands where it is with its wait (R177, R179, R195). -/
theorem RunsRow.exec_hold (hi : RunsRow i o c body) (h : Issues o c w s0) {wt : Wait} (hp : wt.parks = false)
    (hb : body w (s0.fetched c w) = .wait (s0.fetched c w) wt) : Holds c w s0 wt i := by
  rw [Holds, hi.exec_eq h, hb]
  simp only [IRes.issued, hp]
  rfl

theorem haadd_runs (c : CoreId) : RunsRow (.haadd c) 0x98 c (haaddBody c) := ⟨rfl, fun _ => rfl⟩
theorem signal_runs (c : CoreId) : RunsRow (.signal c) 0xB0 c (signalBody c) := ⟨rfl, fun _ => rfl⟩
theorem wait_runs (c : CoreId) : RunsRow (.wait c) 0xB1 c (waitBody c) := ⟨rfl, fun _ => rfl⟩
theorem launchAt_runs (c : CoreId) : RunsRow (.launchAt c) 0xE1 c (launchBody c) := ⟨rfl, fun _ => rfl⟩

/-- HAADD into a sound word of a powered harbour. -/
theorem haadd_ends (h : Issues 0x98 c w s0) :
    let s := s0.fetched c w
    let r := regsOf s c
    let a := (r.getS w.src1 + w.simm).toNat
    let n := haaddSize w
    let p := hbrAddr (islandOf c) a
    let v := haaddSum w (leNat (s.mem.readN p n)) (r.getS w.src2)
    a % n = 0 → a < 0x800000 → s.islandOn (islandOf c) = true → s.hbrUe.contains (p / 8) = false →
      s.hbrCe.contains (p / 8) = false →
      Ends (.haadd c) s0 (fun t =>
        (∀ x, t.mem.read x = if p ≤ x ∧ x < p + n then BitVec.ofNat 8 (v / 256 ^ (x - p)) else s.mem.read x) ∧
        t.core c = { (s.dropLines (islandOf c) p n).core c with regs := at8 r } ∧
        (∀ d, d ≠ c → t.core d = (s.dropLines (islandOf c) p n).core d) ∧ t.ferries = s.ferries ∧
        ∀ o, t.reg o = if w.mod 49 = true ∧ o = Reg.SCH_CTX_NDCOUNT (s.core c).sl.ctx then s.reg o + 1 else s.reg o) := by
  intro s r a n p v hal ha hon hue hce
  have hlen : w.len = 8 := Enc.ok_len (e := ⟨.zero, .reg .s, .reg .s, 0xFFFFFF, 2, .never⟩) (legal_of_issues h) rfl
  obtain ⟨t, hbody, hmem, hcores, hferries, hreg⟩ := haaddBody_adds rfl (island_lt c) hal ha hon hue hce
  have hexec := (haadd_runs c).exec_done h hbody
  obtain ⟨hself, hother⟩ := setPc_cores c (core_congr hcores)
  have hregs : ((s.dropLines (islandOf c) p n).core c).regs = r := by rw [dropLines_sameCores s (islandOf c) p n c]
  rw [hregs] at hself hother
  rw [hlen] at hexec
  exact ⟨_, hexec, fun x => (congrArg (fun m => m.read x) hmem).trans (read_writeN_leBytes s.mem p n v x), hself, hother,
    hferries, hreg⟩

/-- SIGNAL of an object that the partition is granted. -/
theorem signal_ends (h : Issues 0xB0 c w s0) :
    let s := s0.fetched c w
    let k := s.core c
    let n := (k.regs.getS w.src1).toNat
    let v := k.regs.getS w.src2
    n < 16384 → s.granted n k.sl.part = true → Ends (.signal c) s0 (fun t =>
      t.reg (Reg.SYN_CNT n) = ((s.synNow n).signalled (w.mod 49) v).value ∧
      (∀ j < 16384, j ≠ n → t.reg (Reg.SYN_CNT j) = s.reg (Reg.SYN_CNT j)) ∧ t.core c = { k with regs := at8 k.regs } ∧
      (∀ d : CoreId, d ≠ c → t.core d = s.core d) ∧ t.mem = s.mem ∧ t.ferries = s.ferries ∧ t.queues = s.queues) := by
  intro s k n v hn hg
  have hlen : w.len = 8 := Enc.ok_len (e := ⟨.zero, .reg .s, .reg .s, 0, 2, .never⟩) (legal_of_issues h) rfl
  have hexec := (signal_runs c).exec_done h (signalBody_signals rfl (syncBad_granted rfl hn hg))
  rw [hlen] at hexec
  have hcnt := signal_cnt s hn (w.mod 49) v
  have hothers (j : Nat) (hj : j < 16384) (hne : j ≠ n) := signal_cnt_ne s hj hne (w.mod 49) v
  obtain ⟨hcores, hmem, hferries, hqueues⟩ := signal_frame s n (w.mod 49) v
  generalize s.signal n (w.mod 49) v = t at *
  obtain ⟨hself, hother⟩ := setPc_cores c (core_congr hcores)
  exact ⟨_, hexec, hcnt, hothers, hself, hother, hmem, hferries, hqueues⟩

/-- LAUNCH_AT of a time that has passed: a record of the late launch, and the next instruction follows. -/
theorem launchAt_late_ends (h : Issues 0xE1 c w s0) :
    let s := s0.fetched c w
    let k := s.core c
    let ns := (k.regs.getS w.src2).toNat
    ns < 1000000000 → 1000000000 * (k.regs.getS w.src1).toNat + ns < s.nowNs → Ends (.launchAt c) s0 (fun t =>
      ButCache { k with regs := at8 k.regs } (t.core c) ∧ (∀ d : CoreId, d ≠ c → ButCache (s.core d) (t.core d)) ∧
      t.fld Reg.FWM_LOG_PTR 63 32 = (s.fld Reg.FWM_LOG_PTR 63 32 + 1) % 2 ^ 32) := by
  intro s k ns hv hlate
  have hlen : w.len = 8 := Enc.ok_len (e := ⟨.zero, .reg .s, .reg .s, 0, 0, .never⟩) (legal_of_issues h) rfl
  have hexec := (launchAt_runs c).exec_done h (launchBody_late rfl rfl hv hlate)
  rw [hlen] at hexec
  obtain ⟨hcores, hptr⟩ := launchLate_effect s c (s.nowNs - (1000000000 * (k.regs.getS w.src1).toNat + ns))
  generalize s.launchLate c _ = u at *
  obtain ⟨hself, hother⟩ := setPc_sameCores c hcores
  exact ⟨_, hexec, hself, hother, (fld_congr (setPc_regs _ _ _) _ _ _).trans hptr⟩

end

/-- Settles O16: each outcome is that of an equation of the instruction's body; a signal's counter is that of its cycle, which the
deadline watch leaves. -/
theorem sharedObjectsAreSignalled : Obligations.SharedObjectsAreSignalled := by
  unfold Obligations.SharedObjectsAreSignalled
  refine ⟨fun c w s0 => ?haadd, fun c w s0 => ?instructions, fun c s => ?releases⟩
  case haadd =>
    intro s h r a n p old v
    exact ⟨haadd_ends h, fun hinv => (haadd_runs c).exec_fail h (haaddBody_invalid rfl hinv)⟩
  case instructions =>
    intro s k r n v cnt fits higher
    refine ⟨fun o i hoi h => ?refused, fun h ⟨hn, hg⟩ => ?signal, fun h ⟨hn, hg⟩ => ?wait, fun h => ?launch⟩
    case refused =>
      simp only [List.mem_cons, Prod.mk.injEq, List.not_mem_nil, or_false] at hoi
      rcases hoi with ⟨rfl, rfl⟩ | ⟨rfl, rfl⟩
      · exact ⟨fun hn => (signal_runs c).exec_fail h (signalBody_bad (syncBad_outside rfl hn)),
          fun hn hg => (signal_runs c).exec_fail h (signalBody_bad (syncBad_ungranted rfl hn hg))⟩
      · exact ⟨fun hn => (wait_runs c).exec_fail h (waitBody_bad (syncBad_outside rfl hn)),
          fun hn hg => (wait_runs c).exec_fail h (waitBody_bad (syncBad_ungranted rfl hn hg))⟩
    case signal =>
      obtain ⟨t, hexec, hcnt, hframe⟩ := signal_ends h hn hg
      exact ⟨t, hexec, fun hnone => hcnt.trans (synNow_signalled_first hnone _ v),
        fun x hx => hcnt.trans (synNow_signalled_later hx _ v), hframe⟩
    case wait =>
      have hgood := syncBad_granted rfl hn hg
      have hlen : w.len = 8 := Enc.ok_len (e := ⟨.zero, .reg .s, .reg .s, 0, 0, .never⟩) (legal_of_issues h) rfl
      refine ⟨fun hle => ?_, fun hlt => (wait_runs c).exec_hold h rfl (waitBody_holds rfl hgood hlt)⟩
      rw [(wait_runs c).exec_done h (waitBody_passes rfl hgood hle), hlen]
      rfl
    case launch =>
      intro at'
      have hlen : w.len = 8 := Enc.ok_len (e := ⟨.zero, .reg .s, .reg .s, 0, 0, .never⟩) (legal_of_issues h) rfl
      refine ⟨fun hinv => (launchAt_runs c).exec_fail h (launchBody_invalid hinv), fun hv hnow => ?now,
        fun hv hlt => (launchAt_runs c).exec_hold h rfl (launchBody_holds rfl rfl hv hlt),
        fun hv hlate => launchAt_late_ends h hv hlate⟩
      case now =>
        rw [(launchAt_runs c).exec_done h (launchBody_now rfl rfl hv hnow), hlen]
        rfl
  case releases =>
    intro k on
    refine ⟨fun j x hmode hstall => ⟨syncWaitRelease_due hmode hstall, syncWaitRelease_early hstall⟩,
      release_not_held, fun sec ns hmode hstall => ⟨launchRelease_early hstall, fun hdue => ?_⟩⟩
    obtain ⟨u, hcores, hnojump, hexec⟩ := launchRelease_due hstall hmode hdue
    obtain ⟨hself, hother⟩ := setPc_sameCores c hcores
    exact ⟨_, hexec, hself, hother, fun hjump => by rw [hnojump hjump]; rfl⟩

end Sys2Proof.Machine
end
